-- ==== Sys2Proof/Word.lean ====
section
/-! DEFINITION. The widths of spec/: bytes, the 32-bit register word (R11), the 64-bit strike count (R36). -/

namespace Sys2Proof

/-- One byte of device memory. -/
abbrev Byte := BitVec 8

/-- A register word, a packet word or an LQ value (R11, R60, R124). -/
abbrev Word := BitVec 32

/-- A 64-bit quantity: strike counts, digests, scalar registers (R36, R436, R221). -/
abbrev DWord := BitVec 64

end Sys2Proof
end

