-- ==== Sys2Proof/Syntax.lean ====
section
/-! DEFINITION. The commands of the block: one constructor of `Instr` for each row of spec/opcode_table.json, with
what the row carries from outside the module (packet words, register writes, received frames, measured values). -/

namespace Sys2Proof

/-- The requester classes of R4, R60. -/
inductive Cls where
  | host | peer | fw | tk
  deriving DecidableEq, Repr

/-- The encoding of R60: 0b00 HOST, 0b01 PEER, 0b10 FW, 0b11 TK. -/
def Cls.code : Cls → Nat
  | .host => 0
  | .peer => 1
  | .fw => 2
  | .tk => 3

/-- The class an encoding of R60 names. -/
def Cls.ofCode (n : Nat) : Cls :=
  match n % 4 with
  | 0 => .host
  | 1 => .peer
  | 2 => .fw
  | _ => .tk

/-- The fault classes (R405, R407). -/
inductive FCls where
  | info | corr | severe | fatal
  deriving DecidableEq, Repr

/-- The encoding of R407. -/
def FCls.code : FCls → Nat
  | .info => 0
  | .corr => 1
  | .severe => 2
  | .fatal => 3

/-- The class an encoding of R407 names. -/
def FCls.ofCode (n : Nat) : FCls :=
  match n % 4 with
  | 0 => .info
  | 1 => .corr
  | 2 => .severe
  | _ => .fatal

/-- SEVERE and FATAL rank above INFO and CORR (R27, R530). -/
def FCls.grave (c : FCls) : Bool := decide (c = .severe ∨ c = .fatal)

/-- A command packet as read from a ring (R60): the ring it is read from (8 is I0, 9 is I1), its header fields, and
words 2 to 15. -/
structure Packet where
  ring : Nat
  cls : Cls
  tag : Nat
  wait : Bool
  seq : Word
  words : List Word
  deriving DecidableEq, Repr

/-- Word k of a packet, 2 to 15 (R60). -/
def Packet.word (p : Packet) (k : Nat) : Word := p.words.getD (k - 2) 0

/-- A firmware image in a flash slot (R514, R515): version, SVN, variants, and the digest of header and body (R509). -/
structure Image where
  version : Word
  svn : Nat
  variants : Nat
  digest : List Byte
  deriving DecidableEq, Repr

/-- What the module meets at power-good: straps, feeds, lever, the PUF and certificate findings of R506, the variant
record (body and signature, R507), the populated packages, and the images that flash held from manufacture. -/
structure PowerInputs where
  straps : Nat
  leverLatched : Bool
  feedA : Nat
  feedB : Nat
  pufOk : Bool
  certReadable : Bool
  record : List Byte
  signature : List Byte
  certSerial : Nat
  popTiles : Nat
  popStacks : Nat
  popLinks : Nat
  popTrain : Bool
  popLockstep : Bool
  tkImage : Option Image
  appImage : Option Image
  deriving DecidableEq, Repr

/-- What the module measures over one frame: coolant flow in 0.01 L/min, inlet and die temperature in 0.1 °C, feed
voltages in 0.25 V, which steps finished late (R32), the coefficient entries whose code met an error in a read, true
where it cannot be corrected (R123), and whether a capture write was not answered in its time (R182). -/
structure FrameIn where
  flow : Nat
  inlet : Int
  die : Int
  feedA : Nat
  feedB : Nat
  dispLate : Bool
  loopLate : Nat
  outLate : Nat
  coefEcc : List (Nat × Bool)
  capTimeout : Bool
  deriving DecidableEq, Repr

/-- A stable change of a reporting pair (R400, R403): to fault or back to no fault; source, class, kind code and detail
word. -/
structure PairChange where
  toFault : Bool
  source : Nat
  cls : FCls
  kind : Nat
  detail : Word
  deriving DecidableEq, Repr

/-- The partner's pair frame (R435); `good` is false for a frame that fails its CRC, type or seq check. -/
structure PairFrame where
  good : Bool
  seq : Nat
  claimNum : Nat
  holding : Bool
  release : Bool
  ready : Bool
  quench : Bool
  dying : Bool
  suspect : Bool
  side : Bool
  alignReq : Bool
  cause : Nat
  coolantNext : Nat
  fcTag : Nat
  excluded : Nat
  inDigest : DWord
  outDigest : DWord
  cfgSum : DWord
  count : Nat
  deriving DecidableEq, Repr

/-- The partner's time as the pair link finds it (R450): whether it is LOCKED in a domain, whether it is in a domain, and the offset in ns of its
strike phase from this module's. -/
structure PartnerTime where
  locked : Bool
  inDomain : Bool
  phase : Int
  deriving DecidableEq, Repr

/-- An SPDM request (R510): version byte, the two parameter bytes and the bytes after the header. -/
structure SpdmReq where
  version : Nat
  param1 : Nat
  param2 : Nat
  body : List Byte
  deriving DecidableEq, Repr

/-- Dispatch state that an alignment segment carries (R439 order 1) and that bellows dispatch holds (R90–R113): G in
µW, V in mW/s, policy, forecast run, pre-position, brake, coolant step in force, the step from the module's own cold
plate with its dwell counts per step (R113), ages, caps. -/
structure DispSnap where
  g : Int
  v : Int
  effPolicy : Nat
  freshRun : Nat
  soePp : Nat
  brakeReq : Bool
  brakeHold : Nat
  coolantStep : Nat
  coolOwn : Nat
  coolUp : List Nat
  coolDown : List Nat
  spMiss : Nat
  bandAge : Option Nat
  trayCaps : List Nat
  lastRepeat : Int
  deriving DecidableEq, Repr

/-- The histories of one biquad (R131). -/
structure BqHist where
  x1 : Int
  x2 : Int
  y1 : Int
  y2 : Int
  deriving DecidableEq, Repr

/-- The bridge modes of R143, in the encoding of `LE_FF_STAT_k`. -/
inductive FfMode where
  | live | blend | fade | off
  deriving DecidableEq, Repr

/-- Loop state that an alignment segment carries (R439 order 2) and that the loop engine holds: observer, integrators,
previous law outputs, biquad histories, region with candidate and dwell, swap holds, bridge, supervision counts. -/
structure LoopSnap where
  xh : List Int
  integ : List Int
  vPrev : List Int
  bq : List BqHist
  region : Nat
  cand : Option Nat
  dwell : Nat
  hold : List (Option Nat)
  mode : FfMode
  ffM : Nat
  off0 : Int
  last : Int
  feCount : Nat
  missRun : Nat
  stopped : Bool
  startWait : Bool
  deriving DecidableEq, Repr

/-- State of one CS16 unit that an alignment segment carries (R439 order 4) and that the cell ring holds: reference
failure, wire state in the encoding of `CR_UNIT_STAT`, open tap, masks of coarse and channel faults and of substituted
cells, the consecutive-sweep counts of R383 of the sixteen cells and the four sensors, and the port's rest count. -/
structure UnitSnap where
  refFail : Bool
  wireState : Nat
  openTap : Nat
  cgFault : Nat
  chanFault : Nat
  substituted : Nat
  hardRuns : List Nat
  restRun : Nat
  deriving DecidableEq, Repr

/-- A ring frame that arrives at an end of a port's ring with DATA of a CS16 unit (R366, R374, R378): the end, the fields of its header in
their order, payload bytes and CRC; and what the payload, whose layout the spec does not give, spells: sixteen primary readings in 100 µV,
four coarse codes, four temperatures, the second-reference reading in 100 µV, sixteen balancing charges in mC, the sample offset in 10 ns, the
unit status, and, after a wire test, the readings in mV of the conversions that sink the even and the odd taps. -/
structure CellData where
  fromB : Bool
  type : Nat
  hop : Nat
  count : Nat
  flags : Nat
  sweep : Nat
  payload : List Byte
  crc : BitVec 16
  prim : List Nat
  coarse : List Nat
  temps : List Int
  ref : Nat
  charges : List Int
  ofs : Nat
  status : Nat
  even : List Int
  odd : List Int
  deriving DecidableEq, Repr

/-- An alignment segment (R439, R440). -/
inductive AlignSeg where
  | dispatch (d : DispSnap)
  | loop (k : Nat) (l : LoopSnap)
  | charge (first : Nat) (counts : List Int) (socEst : Bool)
  | units (port : Nat) (us : List UnitSnap)
  deriving DecidableEq, Repr

/-- A stage feedback frame as it arrives on SLn (R160): the received bytes' check results stand in `crcOk`; `late`
marks a last word after +2.0 µs. `outW` and `inW` are the stage's output and input power in W that R89 sums, `clampW` the
rating in W that a clamp stage reports (R104). -/
structure FeedbackIn where
  late : Bool
  crcOk : Bool
  type : Nat
  seq : Nat
  link : Nat
  chValid : Nat
  fault : Nat
  claimSeen : Nat
  channels : List Word
  outW : Int
  inW : Int
  clampW : Nat
  deriving DecidableEq, Repr
/-- A peer frame as it arrives (R320): link, the fields of its header in their order, payload and CRC, and the sequence numbers whose skip
markers arrived on the link before it (R324). A row's other operands say what the payload spells. -/
structure PeerHdr where
  link : Nat
  type : Nat
  cls : Nat
  length : Nat
  payload : List Byte
  crc : Word
  skipped : List Nat
  src : Nat
  dst : Nat
  seq : Nat
  ack : Nat
  term : Nat
  planTag : Nat
  deriving DecidableEq, Repr

/-- A superframe report (R338). -/
structure Report where
  pos : Nat
  k : Nat
  holder : Bool
  quench : Bool
  anvilReady : Bool
  bandViolation : Bool
  effPolicy : Nat
  schedAbsent : Bool
  d : Int
  mean : Int
  want : Int
  g : Int
  dis : Int
  chg : Int
  capSafety : Nat
  soe : Nat
  refusals : List (Nat × Nat)
  deriving DecidableEq, Repr

/-- A domain launch entry (R347, R348). -/
structure DomLaunch where
  master : Nat
  term : Nat
  tag : Nat
  count : Nat
  action : Nat
  arg : Word
  deriving DecidableEq, Repr

/-- A slice role change of a superframe message (R337, R353, R354). -/
structure RoleChange where
  slice : Nat
  primary : Option Nat
  mirror : Option Nat
  restart : Bool
  deriving DecidableEq, Repr

/-- A superframe message (R337), whole or one fragment's share of its items: the superframe it opens, term, master, fragment index and
count, the master's strike phase reference, bands per shelf in plan order, role changes, modules declared left, launch entries and disarm
entries (R349). -/
structure SfMsg where
  k : Nat
  term : Nat
  master : Nat
  frag : Nat
  frags : Nat
  phase : Int
  bands : Option (List (Nat × Nat))
  changes : List RoleChange
  left : List Nat
  launches : List DomLaunch
  disarms : List (Nat × Nat × Nat)
  deriving DecidableEq, Repr

/-- What a measurement of R356 finds on a link: receive OMA of both lanes in 0.1 dBm, the pre-FEC error ratios in 10^−15,
and the excess loss of the transmit direction in 0.1 dB. -/
structure OptRead where
  link : Nat
  rx0 : Int
  rx1 : Int
  ber0 : Nat
  ber1 : Nat
  back : Int
  deriving DecidableEq, Repr

/-- What DMA_BURST finds beside data (R463, R467): a parity error of the channel's buffer, and how many beats the engine gets before the next
command. -/
structure BurstIn where
  parity : Bool
  beats : Nat
  deriving DecidableEq, Repr

/-- What a generation package says of its weights (R287): number, adoption count, the package digest of the model it
trained, the digest of the weights, their length in bytes, and the trainer's position. -/
structure GenHdr where
  n : Nat
  adopt : Nat
  package : List Byte
  digest : List Byte
  len : Nat
  trainer : Nat
  deriving DecidableEq, Repr

/-- What arrives from the partner over the lock-step port besides digests (R312, R315): its outcome of the checks with the hash
of parts 1 to 5 of its digest message and its T, nothing by the deadline, how its job ended and at which ordinal, or that it reset. -/
inductive LsOutcome where
  | checked (pass : Bool) (hash : DWord) (tiles : Nat)
  | missing
  | jobEnd (status ord : Nat)
  | reset
  deriving DecidableEq, Repr



/-- The commands: one constructor for each row of spec/opcode_table.json. -/
inductive Instr where
  /-- POWER_GOOD (R524): Power-good starts the bring-up sequence: the strike counter runs from 0, the ROM reconstructs the PUF and keys, and the straps are read. -/
  | powerGood (p : PowerInputs)
  /-- RECORDER_MOUNT (R527): The event recorder mounts its flash, increments the power-cycle count and queues the power-good record. -/
  | recorderMount (ok : Bool)
  /-- BRINGUP_LOAD (R524): Application firmware validates and applies the newest valid saved configuration at one strike, or sets cfg_failed. -/
  | bringupLoad
  /-- BRINGUP_LOAD_TIMEOUT (R524): If the bring-up load has not ended by 10,000 F, the trusted kernel sets cfg_loaded and cfg_failed and records a SEVERE fault. -/
  | bringupLoadTimeout
  /-- CONFIG_SAVE (R524): After an applied commit, application firmware saves every ST register word to alternating flash copies. -/
  | configSave
  /-- TILE_SELF_TEST (R216): The anvil self-tests granted, populated tiles, marks failures, sets bist_done, and sets ready when its conditions hold. -/
  | tileSelfTest (failed : Nat)
  /-- BUILTIN_PACKAGE_LOAD (R276): Once the anvil is ready, firmware loads the built-in forecaster package into bank 0 under tag 0x7EF. -/
  | builtinPackageLoad
  /-- READINESS_LIMIT_FAULT (R522): A present, enabled function whose bit has not set by its limit records a SEVERE fault of source 0x01. -/
  | readinessLimitFault (n : Nat)
  /-- STRIKE (R46): At each strike the counter increments, slots swap, pending commits apply, and due launches fire in order. -/
  | strike (f : FrameIn)
  /-- SETPOINT_MISSING_FAULT (R18): Four consecutive frames without a published set-point raise a SEVERE fault of source 0x05, condition 0x01. -/
  | setpointMissingFault
  /-- CELL_LIMITS_STALE_FAULT (R18): Cell limits of age 2,000 F or more set the storage limit to 0 A and raise a SEVERE fault, condition 0x02. -/
  | cellLimitsStaleFault
  /-- BRAKE_HOLD_FAULT (R111): A brake held for max_hold × 100 F raises a SEVERE fault, condition 0x03. -/
  | brakeHoldFault
  /-- CAP_MESSAGE_SEND (R106): The claim holder sends changed tray caps within 10 F of the dispatch decision. -/
  | capMessageSend
  /-- CAP_MESSAGE_REPEAT (R106): Every cap is sent again every 10,000 F. -/
  | capMessageRepeat
  /-- TRAY_REPORT (R107): A tray report of cap, draw and release_draw is received and stored. -/
  | trayReport (tray : Nat) (cap draw release : Nat)
  /-- TRAY_REPORT_MISSED (R107): A tray that misses 3 consecutive reports raises an INFO fault naming the tray. -/
  | trayReportMissed (tray : Nat)
  /-- COOLANT_STEP_CHANGE (R113): The coolant step changes after its dwell condition, changing the cap_safety factor, and a record is written. -/
  | coolantStepChange
  /-- COOLANT_STEP3_FAULT (R114): Staying in coolant step 3 for 30,000 F raises a SEVERE fault. -/
  | coolantStep3Fault
  /-- GRID_SCHEDULE_STEP (R100): At a grid-schedule step, the hall schedule entry written at least 100 F earlier applies. -/
  | gridScheduleStep
  /-- SWAP_HOLD_TIMEOUT (R138): A swap hold that lasts hold_max frames ends and sets hold_timeout. -/
  | swapHoldTimeout (k j : Nat)
  /-- BRIDGE_FADE (R143): A bridge whose slot age reaches 21 enters FADE. -/
  | bridgeFade (k : Nat)
  /-- LOOP_STOP (R166): When miss_run reaches miss_lim, the loop records a SEVERE fault, sets stopped and invalidates its channels. -/
  | loopStop (k : Nat)
  /-- FOLLOWING_ERROR_FAULT (R170): When fe_count reaches fe_time, a fault of class fe_class is recorded and fe_active sets. -/
  | followingErrorFault (k : Nat)
  /-- STAGE_FEEDBACK_FRAME (R161): A stage feedback frame is received and checked for arrival, CRC, type, sequence and identity. -/
  | stageFeedbackFrame (n : Nat) (f : FeedbackIn)
  /-- STAGE_LINK_LOCK (R163): A stage link gains symbol lock and enters service at the third consecutive arrived frame. -/
  | stageLinkLock (n : Nat)
  /-- STAGE_LINK_LOCK_LOSS (R163): A stage link with a role loses lock, leaves service and records a SEVERE fault. -/
  | stageLinkLockLoss (n : Nat)
  /-- STAGE_LINK_MISS_FAULT (R163): Three consecutive frames not arrived record a CORR fault naming the link, once per run. -/
  | stageLinkMissFault (n : Nat)
  /-- OUTPUT_LATE_FAULT (R32): A stage link missing its output in 3 consecutive frames raises a SEVERE fault. -/
  | outputLateFault (n : Nat)
  /-- COMMIT_VALIDATION (R82): The checker validates staged words in the window from +8.0 to +9.5 µs and posts any failure. -/
  | commitValidation
  /-- COMMIT_APPLY (R83): A validated commit applies all staged words at its strike and posts ST_OK with the applying count. -/
  | commitApply
  /-- LOOP_TEST_PHASE (R176): The test moves to its next phase at its frame count, and to DONE at the end. -/
  | loopTestPhase
  /-- LOOP_TEST_ABORT (R182): A test aborts on its first cause, with the lowest cause code recorded. -/
  | loopTestAbort
  /-- LAUNCH_REVALIDATE (R44): A launched commit is validated again in frame L−1. -/
  | launchRevalidate
  /-- TRANSACTION_TIMEOUT (R86): An OPEN transaction that reaches age 10,000 F is discarded and records a CORR fault. -/
  | transactionTimeout
  /-- SET_POINT (R64): Sets a dispatch target value, published at the next strike. -/
  | setPoint (p : Packet)
  /-- SET_CAP (R99): Sets the rack cap or a served tray cap, published at the next strike. -/
  | setCap (p : Packet)
  /-- LAUNCH_ARM (R43): Arms a launch of action 0x02–0x04, or a domain launch on the master, in a free slot. -/
  | launchArm (p : Packet)
  /-- LAUNCH_DISARM (R45): Disarms an armed launch by tag if N ≤ L − 2. -/
  | launchDisarm (p : Packet)
  /-- CFG_BEGIN (R79): Opens a configuration transaction owned by the issuing class. -/
  | cfgBegin (p : Packet)
  /-- CFG_COMMIT (R81): Moves the owner's transaction to VALIDATING, or arms a launched commit when it carries a count. -/
  | cfgCommit (p : Packet)
  /-- CFG_ROLLBACK (R85): Discards every staged word of an OPEN transaction. -/
  | cfgRollback (p : Packet)
  /-- OP_SUSPEND (R73): Requests suspension of a tagged long operation at its safe point. -/
  | opSuspend (p : Packet)
  /-- OP_RESUME (R73): Resumes a suspended tagged operation. -/
  | opResume (p : Packet)
  /-- OP_CANCEL (R73): Cancels a tagged long operation at its safe point, or at once when it is suspended. -/
  | opCancel (p : Packet)
  /-- OP_QUERY (R77): Returns the state, starting ring and class of a tagged operation. -/
  | opQuery (p : Packet)
  /-- SAFE_POINT_REACHED (R72): A suspending or cancelling operation reaches its safe point and posts ST_SUSPENDED or its terminal status. -/
  | safePointReached (op : Nat)
  /-- AV_JOB_SUBMIT (R228): Checks and queues an anvil job at its priority level. -/
  | avJobSubmit (p : Packet)
  /-- MODEL_LOAD (R275): Checks and starts copying a model package into a bank. -/
  | modelLoad (p : Packet)
  /-- MODEL_LOAD_BLOCK (R275): Each 64 KiB block is copied; after the last, the digest is checked and the load ends with ST_OK or ST_MODEL_DIGEST. -/
  | modelLoadBlock (bank : Nat)
  /-- TRAIN_RUN (R282): Starts online training with the given steps, adoption lag, learning rate and cycle count. -/
  | trainRun (p : Packet)
  /-- AUTO_TRAIN_RUN (R282): With train_auto set, firmware issues TRAIN_RUN under tag 0x700 at forecaster readiness, and again whenever the run has ended. -/
  | autoTrainRun
  /-- CAPACITY_SWEEP (R388): Starts a four-phase capacity measurement of one string. -/
  | capacitySweep (p : Packet)
  /-- BALANCE_CAMPAIGN (R386): Starts active balancing of the named strings toward a target spread. -/
  | balanceCampaign (p : Packet)
  /-- SLICE_REPLACE (R354): The master re-mirrors every slice without a mirror by copying slice snapshots. -/
  | sliceReplace (p : Packet)
  /-- QUENCH (R413): The always-complete quench command puts the quench code on all stage links at the next strike. -/
  | quench (p : Packet)
  /-- FAULT_READ (R407): Returns a fault record by its list index. -/
  | faultRead (p : Packet)
  /-- REC_FREEZE (R529): Freezes the event recorder at the next strike, diverting new records to the holding buffer. -/
  | recFreeze (p : Packet)
  /-- REC_THAW (R531): Thaws the recorder; it stores the queue, then the holding buffer, then a thaw summary. -/
  | recThaw (p : Packet)
  /-- REC_READ (R532): Returns 16 bytes of a stored record by index and offset. -/
  | recRead (p : Packet)
  /-- CLAIM_RELEASE (R442): The holder gives up the stage-link claim at the next strike with release set. -/
  | claimRelease (p : Packet)
  /-- GET_IDENTITY (R66): Returns the serial, SY_CAP0, position and trusted-kernel version. -/
  | getIdentity (p : Packet)
  /-- APPLICATION_RESET (R67): MODULE_RESET with kind 0 releases any claim and schedules an application reset. -/
  | applicationReset (p : Packet)
  /-- FULL_RESET (R67): MODULE_RESET with kind 1 releases any claim and schedules a full reset. -/
  | fullReset (p : Packet)
  /-- RESET_EXECUTE (R556): The scheduled reset happens: registers return per R556, operations, transactions and launches end, and units restart. -/
  | resetExecute
  /-- BAD_OPCODE_PACKET (R62): A packet with an unknown or misplaced opcode completes with ST_BAD_OPCODE. -/
  | badOpcodePacket (op : Nat) (p : Packet)
  /-- RING_DOORBELL (R56): A write of CX_CMD_TAIL_n makes new packets readable. -/
  | ringDoorbell (c : Cls) (n : Nat) (v : Word)
  /-- RING_ENABLE (R55): ring_en from 0 to 1 resets the indices and the sequence and writes phase 0 into the status ring. -/
  | ringEnable (c : Cls) (n : Nat) (v : Word)
  /-- RING_DISABLE (R58): ring_en from 1 to 0 discards unread packets and counts later replies as dropped. -/
  | ringDisable (c : Cls) (n : Nat) (v : Word)
  /-- STATUS_HEAD_WRITE (R57): Advancing CX_STS_HEAD_n releases status entries and unstalls the ring. -/
  | statusHeadWrite (c : Cls) (n : Nat) (v : Word)
  /-- STATUS_POST (R57): A reply or notification is posted to the status ring with its phase bit, or held while the ring is full. `answer`: the seq and the result words. -/
  | statusPost (ring tag op status : Nat) (answer : Word × List Word)
  /-- STAGED_WRITE (R80): A write to an ST field is staged in the open transaction, or discarded with an INFO fault. -/
  | stagedWrite (c : Cls) (addr : Nat) (v : Word)
  /-- REGISTER_WRITE (R12): A write to a register with no behaviour of its own follows its access codes. -/
  | registerWrite (c : Cls) (addr : Nat) (v : Word)
  /-- READ_CLEAR (R12): A read of an RC field returns its value and clears it. -/
  | readClear (c : Cls) (addr : Nat)
  /-- LATCHING_READ (R37): A read of a LO register latches the matching HI bits. -/
  | latchingRead (c : Cls) (addr : Nat)
  /-- FC_ACK (R411): Acknowledges a pending fault record by seq and stops its timer. -/
  | fcAck (c : Cls) (v : Word)
  /-- FC_RAISE (R404): A firmware or kernel write reports a fault with a source, class, kind and detail. -/
  | fcRaise (c : Cls) (v : Word)
  /-- RELEASE_REQUEST (R418): A write of release to FC_RELEASE asks for the end of quench. -/
  | releaseRequest (c : Cls) (v : Word)
  /-- RELEASE_DECISION (R418): At the next strike, the collector decides the release request and writes rel_status. -/
  | releaseDecision
  /-- QUENCH_END (R419): Quench ends: command frames return, brake_n is released and units leave quench. -/
  | quenchEnd
  /-- INJECT_RELEASE_PAIR (R422): An FC_INJ write with mode 0b00 releases a forced pair. -/
  | injectReleasePair (c : Cls) (source : Nat) (cls : FCls)
  /-- INJECT_FORCE_FAULT (R422): In test mode, an FC_INJ write forces a pair into fault. -/
  | injectForceFault (c : Cls) (source : Nat) (cls : FCls) (kind : Nat)
  /-- INJECT_FORCE_NO_FAULT (R422): In test mode, an FC_INJ write forces a pair into no fault. -/
  | injectForceNoFault (c : Cls) (source : Nat) (cls : FCls)
  /-- INJECT_FORCE_NONCOMP (R422): In test mode, an FC_INJ write forces a pair non-complementary. -/
  | injectForceNoncomp (c : Cls) (source : Nat) (cls : FCls)
  /-- FAULT_PAIR_CHANGE (R400): A stable change of a reporting pair to fault is accepted, recorded in class order and timed. -/
  | faultPairChange (changes : List PairChange) (cycle : Nat)
  /-- PAIR_NONCOMPLEMENTARY (R401): A pair non-complementary for 4 samples records a wiring fault. -/
  | pairNoncomplementary (source : Nat) (cls : FCls) (cycle : Nat)
  /-- PAIR_WIRING_CLEAR (R401): A pair complementary again for 4 samples records an INFO clearance. -/
  | pairWiringClear (source : Nat) (cls : FCls) (faulted : Bool) (kind : Nat) (detail : Word) (cycle : Nat)
  /-- FAULT_ESCALATION (R410): A pending record's timer runs out, or the record is pushed out of the list, and it escalates to SEVERE or to quench. -/
  | faultEscalation
  /-- COLLECTOR_PARITY_ERROR (R412): A collector parity error records a FATAL fault and locks quench from the next strike. -/
  | collectorParityError (offset : Nat)
  /-- PAIR_FRAME (R435): The partner's pair frame is received and checked. -/
  | pairFrame (f : PairFrame)
  /-- CLAIM_TAKE (R441): A module that does not hold the claim decides by the claim table and takes the claim at the next strike. -/
  | claimTake
  /-- CLAIM_GIVE_UP (R442): The holder gives up the claim for one of the listed causes. -/
  | claimGiveUp
  /-- ALIGNMENT_SEGMENT (R439): An alignment segment is received and written over local state at the next strike; the last one completes alignment. -/
  | alignmentSegment (good : Bool) (index : Nat) (seg : AlignSeg)
  /-- ALIGNMENT_FAIL (R439): An alignment fails on a missing segment, a claim change or quench. -/
  | alignmentFail
  /-- ROW_FRAME (R440): The holder's history row frame is received and used for the standby's history. -/
  | rowFrame (good : Bool) (n : Nat) (row : List Word)
  /-- PAIR_LINK_DOWN (R449): The pair link goes down, recording a CORR fault unless solo is set. -/
  | pairLinkDown
  /-- FEED_LOSS (R448): A feed below 42.0 V for 10 µs counts as lost and records a CORR fault. -/
  | feedLoss (b : Bool) (quarterVolts : Nat)
  /-- FEED_RETURN (R448): A feed above 46.0 V for 100 F counts as present again and records an INFO fault. -/
  | feedReturn (b : Bool) (quarterVolts : Nat)
  /-- EJECTOR_OPEN (R537): The ejector switch opens and the trusted kernel releases the claim at the next strike. -/
  | ejectorOpen
  /-- PLCA_NODE_TAKE (R545): A module takes or yields PLCA node 0 on the tray link from the beacons it hears. -/
  | plcaNodeTake (heard : Bool) (other : Bool)
  /-- HOLDOVER_ENTRY (R39): No time message for one superframe puts the module in HOLDOVER. -/
  | holdoverEntry
  /-- IDENT (R333): An IDENT frame is checked against the plan, putting the link in service or holding it. -/
  | ident (h : PeerHdr) (serial pos link variant plan : Nat) (verdict : Bool)
  /-- LEAVE (R352): A LEAVE frame is forwarded toward the master, which declares the module left. -/
  | leave (h : PeerHdr) (pos : Nat)
  /-- HEALTH (R356): A HEALTH frame delivers the far end's transmit OMA. -/
  | health (h : PeerHdr) (oma0 oma1 : Int)
  /-- TIME (R39): A TIME exchange measures the link delay and corrects the strike phase and frequency. -/
  | timeExchange (h : PeerHdr) (offset : Int) (count : Nat)
  /-- SUPERFRAME (R337): A superframe message is accepted when complete and its bands, placement and launches apply at the superframe start. -/
  | superframe (h : PeerHdr) (msg : SfMsg)
  /-- SUPERFRAME_SEND (R337): The master sends the banded superframe message for the next superframe by frame 100·k + 90. -/
  | superframeSend
  /-- REPORT (R338): The master receives a module's superframe report. -/
  | report (h : PeerHdr) (r : Report)
  /-- REPORT_SEND (R338): Each module sends its superframe report by frame 100·k + 50. -/
  | reportSend
  /-- TABLE (R340): A TABLE frame of the reports used is received by the holders. -/
  | table (h : PeerHdr) (k : Nat) (rs : List Report)
  /-- TABLE_SEND (R340): The master sends the report table by frame 100·k + 60. -/
  | tableSend
  /-- HALL_STEP (R340): At frame 100·k + 64, holders with the table run the hall model step for their slices. -/
  | hallStep
  /-- PARTIAL (R340): A PARTIAL frame of partial sums is received and added in the slice tree. -/
  | partialSums (h : PeerHdr) (k layer level slice : Nat) (down : Bool) (sum : List Word)
  /-- CLAIM (R344): A mastership CLAIM frame is accepted, forwarded or discarded. -/
  | claim (h : PeerHdr) (term pos takeover : Nat)
  /-- MASTERSHIP_CLAIM (R343): An eligible module whose sf_since_time reaches its threshold floods a claim of the next term. -/
  | mastershipClaim
  /-- BECOME_MASTER (R345): At the takeover count, the claimant becomes master and sends a message without bands. -/
  | becomeMaster
  /-- CLAIM_EXPIRY (R344): An accepted claim expires when no message of its term arrives by T + 100 F. -/
  | claimExpiry
  /-- MASTER_STEP_DOWN (R346): A master that sees a higher term steps down at the next superframe start. -/
  | masterStepDown
  /-- MODULE_DECLARED_LEFT (R352): After 3 missing reports, the master declares the module left and promotes its mirrors. -/
  | moduleDeclaredLeft
  /-- SLICE_COPY (R354): A SLICE_COPY block is received by the new mirror and acknowledged. -/
  | sliceCopy (h : PeerHdr) (slice block blocks : Nat) (data : List Byte)
  /-- GEN (R355): A GEN frame of a generation is received and written into the receiving copy. -/
  | gen (h : PeerHdr) (g : GenHdr) (index : Nat) (data : List Byte)
  /-- XFER_ACK (R355): An XFER_ACK bitmap makes the sender resend missing frames. -/
  | xferAck (h : PeerHdr) (slice : Option Nat) (n : Nat) (held : List Nat)
  /-- GENERATION_COMPLETE (R287): A received generation is checked by digest and kept or discarded. -/
  | generationComplete
  /-- PEER_RETRANSMIT (R323): A peer frame unacknowledged after 2.0 µs, or reported missing, is retransmitted. -/
  | peerRetransmit (n seq : Nat)
  /-- PEER_FRAME_LOST (R324): After a third failed retransmission the frame is declared lost and a skip marker is sent. -/
  | peerFrameLost (n seq : Nat)
  /-- PEER_LINK_DOWN (R324): A peer link goes down, discards its retry buffer and retrains. -/
  | peerLinkDown (n : Nat)
  /-- PEER_LINK_LOCK (R333): A training link reaches symbol lock and sends IDENT. -/
  | peerLinkLock (n : Nat)
  /-- LINK_HEALTH_MEASURE (R356): Every 100,000 F, lane OMA and error ratio are measured and a suspect connector is named. -/
  | linkHealthMeasure (ms : List OptRead)
  /-- PLAN_LOAD (R327): A write of load to PL_PLAN_CTRL starts copying a plan image into the inactive buffer. -/
  | planLoad (c : Cls) (v : Word)
  /-- PLAN_LOAD_DONE (R331): Firmware checks the copied plan and reports buf_state and load_status. -/
  | planLoadDone
  /-- MAINT_TAKE_OUT (R358): PL_MAINT action 1 takes a link out for cleaning, or refuses. -/
  | maintTakeOut (c : Cls) (link : Nat)
  /-- MAINT_VERIFY (R358): PL_MAINT action 2 brings the link up and measures it for 1,000 F. -/
  | maintVerify (c : Cls) (link : Nat)
  /-- MAINT_VERIFY_DONE (R358): After 1,000 F, pass or fail is reported and the link enters service. -/
  | maintVerifyDone (r : OptRead)
  /-- CELL_SWEEP_START (R368): The ring driver sends SAMPLE from both ends at each sweep start. -/
  | cellSweepStart
  /-- RING_SAMPLE_RETURN (R372): SAMPLE frames returning at the ring ends decide the ring state. -/
  | ringSampleReturn (p : Nat) (returned : Option Nat) (a b : Nat)
  /-- RING_READ (R368): After conversion, READ is sent to each unit in turn. -/
  | ringRead (p : Nat) (fromB : Bool)
  /-- RING_READ_TIMEOUT (R368): A READ unanswered in 2 F is resent; a second silence counts as a break and reads switch to end B. -/
  | ringReadTimeout (p : Nat) (fromB : Bool)
  /-- RING_DATA (R366): A DATA frame is received with cell readings and balancing charges. -/
  | ringData (p : Nat) (d : CellData)
  /-- BAL_SEND (R384): BAL frames carrying the balancing selection are sent after the last DATA. -/
  | balSend (p : Nat)
  /-- STOPBAL (R385): A STOPBAL broadcast is sent from both ends when balancing must stop. -/
  | stopbal
  /-- CELL_RING_PUBLISH (R370): At S + 1,000 the limit slot is published, with classification, limits, SoE, faults and balancing selection. -/
  | cellRingPublish
  /-- FORECAST_RUN_START (R254): At each count that is a multiple of 10, the forecaster run becomes ready at level 0. -/
  | forecastRunStart
  /-- FORECAST_PUBLISH (R254): A finished run's record and bridge slots are published at c + 10, or the run is abandoned and counted as missed. -/
  | forecastPublish
  /-- TRAINING_CYCLE_START (R281): A training cycle starts on its window at each multiple of 100,000. -/
  | trainingCycleStart
  /-- TRAINING_CYCLE_DONE (R281): A training cycle ends with a generation, which is sent to receivers. -/
  | trainingCycleDone
  /-- REENCODE_DONE (R284): Re-encoding of the history with new weights ends. -/
  | reencodeDone
  /-- GENERATION_ADOPT (R283): At count A, a complete generation is adopted, or lagging sets. -/
  | generationAdopt
  /-- TRAIN_CAP_PARK (R245): Training is parked for the rest of its window on reaching train_cap. -/
  | trainCapPark
  /-- ANVIL_BUNDLE_ISSUE (R220): A bundle issues on all tiles after region and legality checks, in slot order 1, 2, 3, 0. -/
  | anvilBundleIssue
  /-- ANVIL_PREEMPT (R243): A running job is parked at its boundary when lower-level work is ready. -/
  | anvilPreempt
  /-- ANVIL_RESTORE (R243): A parked job is restored and its save CRC is checked. -/
  | anvilRestore
  /-- ANVIL_JOB_COMPLETE (R250): A job posts its terminal status once all its writes have arrived. -/
  | anvilJobComplete
  /-- DIGEST_HASH_DONE (R304): The result digest hash completes and the job may start. -/
  | digestHashDone
  /-- TILE_FAULT (R214): A residue or parity error takes a tile out of service and affects the jobs using it. -/
  | tileFault (tile : Nat) (parity : Bool)
  /-- THERMAL_STEP_CHANGE (R550): The module derating step changes by coolant or die temperature. -/
  | thermalStepChange
  /-- THERMAL_STOP (R550): At 115 °C the anvil stops; it restarts after 500,000 F below 100 °C. -/
  | thermalStop
  /-- LOCKSTEP_DIGEST (R313): Per-bundle digests are exchanged; the next bundle waits for equality. -/
  | lockstepDigest (good : Bool) (ord : Nat) (slots : List DWord) (scalar : DWord)
  /-- LOCKSTEP_DIVERGENCE (R314): At the first differing ordinal, both jobs suspend and the search starts. -/
  | lockstepDivergence (sc : List DWord)
  /-- LOCKSTEP_SEARCH_DONE (R314): The search finds the lowest differing line and the session ends DIVERGED. -/
  | lockstepSearchDone (hashes : List (Nat × DWord))
  /-- LOCKSTEP_PORT_DOWN (R315): A lock-step port down for 10 F ends the session with ST_LS_PARTNER. -/
  | lockstepPortDown
  /-- ECC_READ_ERROR (R209): A memory read finds a correctable or uncorrectable Reed-Solomon error. -/
  | eccReadError (line : Nat) (errs : List (Nat × Byte))
  /-- SCRUB_LINE (R212): The patrol scrubber reads, corrects or poisons a line. -/
  | scrubLine (line : Nat) (errs : List (Nat × Byte))
  /-- CE_WINDOW_END (R213): At each 60 s window, a CORR fault is recorded for each slice or stack over ce_thresh. -/
  | ceWindowEnd
  /-- STACK_OUT_OF_SERVICE (R213): An LPDDR5 stack leaves service on failed retraining or overtemperature. -/
  | stackOutOfService (stack : Nat) (hot : Bool)
  /-- STACK_RETRAIN (R213): Every 60 s a retraining is attempted, returning the stack with a restarted watermark. -/
  | stackRetrain (stack : Nat) (ok cool : Bool)
  /-- WATERMARK_ADVANCE (R192): The initialisation watermark rises while zeros or poison are written behind it. -/
  | watermarkAdvance (stack top : Nat)
  /-- DMA_CHANNEL_START (R471): A start write loads the head and sets the channel RUNNING. -/
  | dmaChannelStart (c : Cls) (ch : Nat)
  /-- DMA_CHANNEL_DISABLE (R472): Writing en 0 drops everything on the channel. -/
  | dmaChannelDisable (c : Cls) (ch : Nat)
  /-- DMA_CHANNEL_ENABLE (R472): Writing en 1 makes the channel IDLE. -/
  | dmaChannelEnable (c : Cls) (ch : Nat)
  /-- DMA_DESCRIPTOR_FETCH (R457): A descriptor is fetched and checked; a fetch failure or chain limit halts the channel. -/
  | dmaDescriptorFetch (ch : Nat) (data : List Byte)
  /-- DMA_BURST (R463): A burst moves data through the funnel under arbitration and pacing. -/
  | dmaBurst (data : List Byte) (b : BurstIn)
  /-- DMA_DESCRIPTOR_DONE (R465): The last write leaves and the status is written back, with an optional interrupt. -/
  | dmaDescriptorDone (ch : Nat)
  /-- DMA_FENCE_DONE (R466): All writes have arrived and status 0x02 or 0x82 is written. -/
  | dmaFenceDone (ch : Nat)
  /-- DMA_REQUEST_LINE (R461): A request line is raised by its source event. -/
  | dmaRequestLine (line : Nat)
  /-- DMA_REQUEST_WITHDRAW (R461): An unacknowledged request is withdrawn after 1 F and counted. -/
  | dmaRequestWithdraw (line : Nat)
  /-- DMA_CREDIT_TICK (R462): Every 1 µs, a rate-limited channel's credit grows. -/
  | dmaCreditTick
  /-- DMA_TARGET_TIMEOUT (R467): A data access unanswered in 8 µs marks the descriptor bad. -/
  | dmaTargetTimeout (ch : Nat)
  /-- DMA_LATE_WRITE_ERROR (R468): A write failing after write-back increments late_err. -/
  | dmaLateWriteError (ch : Nat)
  /-- CXL_MEM_READ (R489): A CXL.mem read of device memory, checked against HOST windows. -/
  | cxlMemRead (addr : Nat)
  /-- CXL_MEM_WRITE (R488): A CXL.mem write applied in arrival order, or denied. -/
  | cxlMemWrite (addr : Nat) (bytes : List (Option Byte))
  /-- CXL_LINK_UP (R483): The CXL link trains to its rate and width. -/
  | cxlLinkUp (speed width : Nat) (flit256 cacheEn memEn bme : Bool) (msixMask : Nat)
  /-- CXL_LINK_DOWN (R498): Link-down or hot reset clears the decoders, bus mastering and MSI-X and records a fault. -/
  | cxlLinkDown (hotReset : Bool)
  /-- HDM_DECODER_COMMIT (R486): Host software commits an HDM decoder, which is accepted or reported as a commit error. -/
  | hdmDecoderCommit (i : Nat) (hpa size skip ways : Nat)
  /-- RDOWN_NODATA (R487): Before posting a status entry in HDM, a RdOwnNoData request is sent and its response awaited. -/
  | rdownNodata (ring : Nat)
  /-- HOST_WINDOW_ACCESS (R481): An internal access to the host window goes out as a CXL.io request. -/
  | hostWindowAccess (c : Cls) (addr : Nat) (write : Bool) (data : List Byte) (answer : Nat)
  /-- GET_VERSION (R510): SPDM GET_VERSION. -/
  | getVersion (r : SpdmReq)
  /-- GET_CAPABILITIES (R511): SPDM GET_CAPABILITIES. -/
  | getCapabilities (r : SpdmReq)
  /-- NEGOTIATE_ALGORITHMS (R511): SPDM NEGOTIATE_ALGORITHMS, failing without a common algorithm. -/
  | negotiateAlgorithms (r : SpdmReq)
  /-- GET_DIGESTS (R510): SPDM GET_DIGESTS. -/
  | getDigests (r : SpdmReq)
  /-- GET_CERTIFICATE (R512): SPDM GET_CERTIFICATE. -/
  | getCertificate (r : SpdmReq)
  /-- CHALLENGE (R512): SPDM CHALLENGE, signed with ML-DSA-44. -/
  | challenge (r : SpdmReq)
  /-- GET_MEASUREMENTS (R509): SPDM GET_MEASUREMENTS, optionally signed. -/
  | getMeasurements (r : SpdmReq)
  /-- SPDM_UNSUPPORTED_REQUEST (R510): Any other SPDM request is answered with ERROR UnsupportedRequest. -/
  | spdmUnsupportedRequest (code : Nat) (r : SpdmReq)
  /-- STAGE (R516): Update action 1 copies and verifies a firmware image into the inactive slot. -/
  | stage (c : Cls)
  /-- STAGE_DONE (R516): The staging copy and verification end as STAGED or FAILED. -/
  | stageDone
  /-- COMMIT (R516): Update action 2 ends the trial and raises the floors. -/
  | updCommit (c : Cls)
  /-- DISCARD (R516): Update action 3 erases a staged image. -/
  | discard (c : Cls)
  /-- TOKEN (R518): Update action 4 verifies a factory test token. -/
  | token (c : Cls)
  /-- END_TEST (R516): Update action 5 ends factory test mode. -/
  | endTest (c : Cls)
  /-- EVENT_RECORD_STORE (R528): A queued record is stored to flash, discarding the oldest records if needed, and raises request line 5. -/
  | eventRecordStore
  /-- FREEZE_EFFECT (R529): A served freeze takes effect at the next strike. -/
  | freezeEffect
  /-- AUTO_THAW (R531): A recorder frozen for 10 s without freeze or read thaws by itself. -/
  | autoThaw
  /-- OPERATING_TIME_SAVE (R527): Operating time is saved to flash every 60 s. -/
  | operatingTimeSave
  /-- FLASH_WRITE_FAIL (R533): A failed flash program or erase retires the block and repeats the write. -/
  | flashWriteFail
  /-- SUSPECT_CLEAR (R444): Writing 1 to suspect in PR_STAT clears suspect. -/
  | suspectClear (c : Cls) (v : Word)
  /-- PAIR_LINK_UP (R450): The pair link comes up, so the module may take the partner's count and sets pair_up. Whether the partner
  holds the claim, its time, and its count. -/
  | pairLinkUp (partnerHolding : Bool) (time : PartnerTime) (partnerCount : Nat)
  /-- LOCKSTEP_PORT_UP (R316): The lock-step port comes up and link_up and partner_m set. -/
  | lockstepPortUp (partnerM : Bool)
  /-- LOCKSTEP_PARTNER_OUTCOME (R312): The partner's session-check outcome arrives over the lock-step port, or fails to arrive by +9.5 µs of frame L + 10. -/
  | lockstepPartnerOutcome (o : LsOutcome)
  /-- HOLD_UP_END (R534): The hold-up after dying ends and the module loses power, discarding unstored records and reverting any uncommitted trial image at the next start. -/
  | holdUpEnd
  /-- BRAKE_N_NET_CHANGE (R120): The rack's brake_n net changes level because another module or source drives it, updating brake_line and history channel 9. -/
  | brakeNNetChange (low : Bool)
  /-- COOLANT_INLET_LOW (R551): An inlet below 15 °C for 100 consecutive F records an INFO fault of source 0x06. -/
  | coolantInletLow
  /-- STACK_HOT (R51): An LPDDR5 stack crosses 85 °C, setting or clearing hot and doubling or restoring its refresh rate. -/
  | stackHot (stack : Nat) (hot : Bool)
  /-- INITIAL_ENCODING_DONE (R289): The initial encoding of the history with the running weights finishes, meeting the last readiness condition of the forecaster. -/
  | initialEncodingDone
  /-- HOLDING_WITHOUT_STANDBY (R449): Holding for 100,000 F with no partner standby ready records an INFO fault of code 6, once per run. -/
  | holdingWithoutStandby
  /-- SLICE_COPY_RESTART (R354): A slice copy not finished within 1,000 superframes starts again. -/
  | sliceCopyRestart
  /-- IDENT_REPEAT (R333): Every 100,000 F, IDENT is sent again on links in service and in HELD. -/
  | identRepeat
  /-- ABSENT_UNIT_READ (R10): A register read of an absent unit's block returns 0 and records an INFO fault naming the requester class. -/
  | absentUnitRead (c : Cls) (addr : Nat)
  deriving DecidableEq, Repr

end Sys2Proof
end

