-- ==== Sys2Proof/Decode.lean ====
section
/-! DEFINITION. The command a word spells. The rows of spec/opcode_table.json give no bits to any command: a command is an
event, a register access or a packet, with operands from outside, and no word spells one. -/

namespace Sys2Proof

/-- No row of the table gives bits, so no word spells a command. -/
def decodeTableWord (_nbits _w : Nat) : Option Instr := none

end Sys2Proof
end

