-- ==== Sys2Proof/Config.lean ====
section
/-! DEFINITION. What the spec leaves to the implementation or does not state: opaque constants without a body, so that
nothing can evaluate them. Each is named in a row of notes/assumptions. -/

namespace Sys2Proof.Config

/-- A fresh free value, indexed by the counter `free` of the state (notes/assumptions/3). -/
opaque freeWord : Nat → Word

/-- Genrov's tables behind VFN (R206): function code and operand give a result within 2 ulp that the spec does not
print (notes/assumptions/4). -/
opaque vfnTable : Nat → Word → Word

/-- The arithmetic flags a table function raises, in the layout of `AV_ARITH_STAT` (notes/assumptions/4). -/
opaque vfnFlags : Nat → Word → Word

/-- The INT8 an accumulator gives through a NaN or infinite multiplier, for which R200 states no result
(notes/assumptions/5). -/
opaque int8Special : Int → Word → Byte

/-- ML-DSA-44 verification (FIPS 204): key number 0 manufacturing, 1 firmware, 2 test (notes/assumptions/6). -/
opaque mlDsaVerify : Nat → List Byte → List Byte → Bool

/-- The device's ML-DSA-44 signature over a message, from its private key (R504, R512; notes/assumptions/6). -/
opaque mlDsaSign : Nat → List Byte → List Byte

/-- The root secret the PUF yields for a serial (R504; notes/assumptions/6). -/
opaque pufSecret : Nat → List Byte

/-- The ML-DSA-44 public key generated from a seed (R504; notes/assumptions/6). -/
opaque mlDsaPublicKey : List Byte → List Byte

/-- The device's certificate chain for a serial, whose bytes the spec does not give (R505; notes/assumptions/6). -/
opaque certChain : Nat → List Byte

/-- The ROM image's digest (R509 index 1; notes/assumptions/6). -/
opaque romDigest : List Byte

/-- The DataTransferSize and MaxSPDMmsgSize fields of CAPABILITIES, which the spec does not give
(notes/assumptions/6). -/
opaque spdmSizes : List Byte

/-- What measurement 2 or 4 holds while no image of the kind runs, which R509 does not state (notes/assumptions/6). -/
opaque absentDigest : Nat → List Byte

/-- The built-in forecaster package of the application image, whose content is not published (R276). -/
opaque builtinPackage : List Byte

/-- The bytes a DMA copy with a forbidden overlap leaves at a destination address (R459), by counter and address. -/
opaque overlapByte : Nat → Nat → Byte

/-- The order in which SCADD adds its rows and VRED_EXIT its elements is not specified (R230, R235): the keys of one order, by counter and
index (notes/assumptions/3). -/
opaque orderKey : Nat → Nat → Nat

/-- The result of a SALU shift by 64 or more, which R230 does not state: a function of the operation and its operands
(notes/assumptions/3). -/
opaque shiftWord : Nat → DWord → DWord → DWord

/-- The 24 bits the entropy source gives for an element (R234), by counter and element index. -/
opaque entropy24 : Nat → Nat → BitVec 24

/-- The gradients of ATTN_BWD, for which no rule gives an equation (R240): a word by the codes of the inputs, T and the element index, so
that equal inputs give equal bits (notes/assumptions/5). -/
opaque attnWord : List Nat → Nat → Nat → Word

/-- An accumulator element that nothing has set (R299), by what the job and its bundle are and element index
(notes/assumptions/3). -/
opaque planeWord : List Nat → Nat → Word

/-- A byte of a save area (R246), whose parts the spec names without their layout: by all that the job has saved, and offset
(notes/assumptions/72). -/
opaque saveByte : List Nat → Nat → Byte

/-- The word of the first 16 KiB of a save area that holds its CRC-32 (R246; notes/assumptions/72). -/
opaque saveCrcWord : Nat

/-- Where the two forecast buffers of R255 lie; the spec gives them no address (notes/assumptions/5). -/
opaque fcBuffer : Bool → Nat

/-- Where the planned-draw buffer of R278 lies; the spec gives it no address (notes/assumptions/5). -/
opaque planBuffer : Nat

/-- The optimizer state with which a trainer starts (R285): FP32 master weights taken exactly from the weights that it runs, and zero
moments; by those weights (notes/assumptions/5). -/
opaque trainInit : List Byte → List Byte

/-- Bytes of a package's optimizer state, by its digest (R281, notes/assumptions/5). -/
opaque trainLen : List Byte → Nat

/-- Where in the training state area the checkpoint of an origin lies, by the origin's number (R281, notes/assumptions/5). -/
opaque checkpointPlace : Nat → Nat

/-- The bytes of a checkpoint, by the encoder state (R281, notes/assumptions/5). -/
opaque checkpointBytes : DWord → List Byte

/-- The optimizer state after steps of a training cycle (R281), by the state before, the checkpoints with their origins, the steps, the
learning rate, the bank's code area and the window's rows: the program is the package's own (notes/assumptions/5). -/
opaque trainNext : List Byte → List (Nat × DWord) → Nat → Word → List Byte → List Byte → List Byte

/-- The encoder state of a whole history (R284, R289), by weights and history; the encoder is the package's own
(notes/assumptions/5). -/
opaque encInit : List Byte → List Byte → DWord

/-- An encoder state advanced over further rows (R254, R284), by weights and rows (notes/assumptions/5). -/
opaque encNext : DWord → List Byte → List Byte → DWord

/-- The inference weights of an optimizer state (R281): a byte by state and offset (notes/assumptions/5). -/
opaque trainedByte : List Byte → Nat → Byte

/-- The partial sum of a slice in one layer of a hall step, by package digest, slice state, slice, slice_count, layer, and the inputs; the
dispatch model is the package's own (R340, notes/assumptions/5). -/
opaque slicePartial : List Byte → List Byte → Nat → Nat → Nat → List Int → List Word

/-- The state of a slice after a step, by package digest, its state before, slice, slice_count, inputs and reduced sum (R340). -/
opaque sliceNext : List Byte → List Byte → Nat → Nat → List Int → List Word → List Byte

/-- The frames that a snapshot of a slice's state takes, by package digest (R354). -/
opaque sliceBlocks : List Byte → Nat

/-- The package's initial state of a slice (R332, R353), by package digest and slice. -/
opaque sliceInit : List Byte → Nat → List Byte

/-- Whether a link of the plan between two other modules is in service, by strike count and index of its link entry: no frame of the hall
tells a module (R336, notes/assumptions/75). -/
opaque farLink : Nat → Nat → Bool

/-- The layers of a dispatch model, by package digest (R340). -/
opaque hallLayers : List Byte → Nat

/-- The band proposals of a step, lo and hi per shelf, by package digest, from the reduced sum of the last layer (R340). -/
opaque bandProposals : List Byte → List Word → Nat → List (Nat × Nat)

/-- The target spread in mV by which the other module of the pair selects cells on a port while it drives the ring, none without a campaign
on the port, by strike count and port: no frame tells this module (R367, R384, notes/assumptions/46). -/
opaque driverTarget : Nat → Nat → Option Nat

/-- The bytes of the set-point slot and of the bridge slots that enter the input digest, whose layout the spec does not give
(R436; notes/assumptions/5). -/
opaque slotBytes : List Int → List Byte

/-- The number of blocks of the recorder's flash area, which R533 measures its 5 % by and the spec does not give. -/
opaque flashBlocks : Nat

/-- The payload words of an alignment segment, whose layout the spec does not give (R439, R440; notes/assumptions/84). -/
opaque segWords : AlignSeg → List Word

end Sys2Proof.Config
end

