-- ==== Sys2Proof/Machine/Bits.lean ====
section
/-! DEFINITION. Bit-field, byte-order and list helpers that every unit uses: [msb:lsb] fields of R11's conventions,
saturating counters, little-endian byte lists. -/

namespace Sys2Proof.Machine

/-- The field [hi:lo] of a word, as a number. -/
def field (w : Word) (hi lo : Nat) : Nat := (w.toNat >>> lo) % 2 ^ (hi + 1 - lo)

/-- One bit of a word. -/
def bit (w : Word) (i : Nat) : Bool := w.getLsbD i

/-- The mask with ones in [hi:lo]. -/
def maskBits (hi lo : Nat) : Word := BitVec.ofNat 32 ((2 ^ (hi + 1 - lo) - 1) <<< lo)

/-- A word with its field [hi:lo] replaced by the low bits of a number. -/
def setField (w : Word) (hi lo : Nat) (v : Nat) : Word :=
  (w &&& ~~~(maskBits hi lo)) ||| (BitVec.ofNat 32 ((v % 2 ^ (hi + 1 - lo)) <<< lo))

/-- A number placed at bit `lo`, cut to the word. -/
def place (v lo : Nat) : Word := BitVec.ofNat 32 (v <<< lo)

/-- A flag placed at bit `i`. -/
def flag (b : Bool) (i : Nat) : Word := if b then BitVec.ofNat 32 (1 <<< i) else 0

/-- A word with one bit set. -/
def setBit (w : Word) (i : Nat) : Word := w ||| BitVec.ofNat 32 (1 <<< i)

/-- A word with one bit cleared. -/
def clearBit (w : Word) (i : Nat) : Word := w &&& ~~~(BitVec.ofNat 32 (1 <<< i))

/-- A word with one bit given. -/
def putBit (w : Word) (i : Nat) (b : Bool) : Word := if b then setBit w i else clearBit w i

/-- The signed value of the field [hi:lo], two's complement. -/
def sfield (w : Word) (hi lo : Nat) : Int :=
  let v := field w hi lo
  let n := hi + 1 - lo
  if v < 2 ^ (n - 1) then (v : Int) else (v : Int) - 2 ^ n

/-- A saturating counter step: `v + d`, held at `top`. -/
def satAdd (v d top : Nat) : Nat := min (v + d) top

/-- The field [hi:lo] of a word grown by `d`, saturating at the field's largest value. -/
def bumpField (w : Word) (hi lo d : Nat) : Word :=
  setField w hi lo (satAdd (field w hi lo) d (2 ^ (hi + 1 - lo) - 1))

/-- The two's-complement word of an integer. -/
def wordOfInt (i : Int) : Word := BitVec.ofInt 32 i

/-- Bits [31:0] of a count. -/
def lo32 (d : DWord) : Word := d.setWidth 32

/-- Bits [63:32] of a count. -/
def hi32 (d : DWord) : Word := (d >>> 32).setWidth 32

/-- The 64-bit value of a low and a high word. -/
def join64 (lo hi : Word) : DWord := (hi.setWidth 64 <<< 32) ||| lo.setWidth 64

/-- The 48-bit address of a low word and the low half of a high word. -/
def addr48 (lo hi : Word) : Nat := lo.toNat + (hi.toNat % 65536) * 4294967296

/-- The little-endian bytes of a number, `n` of them. -/
def leBytes : Nat → Nat → List Byte
  | 0, _ => []
  | n + 1, v => BitVec.ofNat 8 v :: leBytes n (v / 256)

/-- The number a little-endian byte list spells. -/
def leNat : List Byte → Nat
  | [] => 0
  | b :: bs => b.toNat + 256 * leNat bs

/-- The little-endian bytes of a word. -/
def wordBytes (w : Word) : List Byte := leBytes 4 w.toNat

/-- The little-endian bytes of a list of words. -/
def wordsBytes (ws : List Word) : List Byte := ws.flatMap wordBytes

/-- A list of `n` words read from little-endian bytes. -/
def bytesWords : Nat → List Byte → List Word
  | 0, _ => []
  | n + 1, bs => BitVec.ofNat 32 (leNat (bs.take 4)) :: bytesWords n (bs.drop 4)

/-- A list with the entry at `i` replaced by its image, unchanged where there is none. -/
def modAt {α : Type} (l : List α) (i : Nat) (f : α → α) : List α := l.modify i f

/-- Entry `i` of a list of words, 0 where there is none. -/
def wordAt (ws : List Word) (i : Nat) : Word := ws.getD i 0

/-- The sum of a list of integers. -/
def isum : List Int → Int
  | [] => 0
  | x :: xs => x + isum xs

/-- The sum of a list of naturals. -/
def nsum : List Nat → Nat
  | [] => 0
  | x :: xs => x + nsum xs

/-- A list of numbers kept without repeats: `x` added at the end when absent. -/
def addOnce (l : List Nat) (x : Nat) : List Nat := if l.contains x then l else l ++ [x]

/-- Bits set of a natural number's low `n` bits, as a list of indices. -/
def bitsOf (n v : Nat) : List Nat := (List.range n).filter (fun i => v.testBit i)

/-- The number with exactly the listed bits set. -/
def natOfBits (l : List Nat) : Nat := l.foldl (fun a i => a ||| (1 <<< i)) 0

end Sys2Proof.Machine
end

