-- ==== Sys2Proof/Machine/Arith.lean ====
section
/-! DEFINITION. The integer arithmetic of R128, R177 and R92: rounding to nearest with ties to even, saturation,
truncating division, integer square root; and the CRCs of R159 and R366. -/

namespace Sys2Proof.Machine

/-- `p · 2^−s` rounded to nearest, ties to even (R128, coefficient product). -/
def roundShift (p : Int) (s : Nat) : Int :=
  if s = 0 then p else
    let q := p / 2 ^ s
    let r := p % 2 ^ s
    let half : Int := 2 ^ (s - 1)
    if r > half ∨ (r = half ∧ q % 2 = 1) then q + 1 else q

/-- `n / d` rounded to nearest, ties to even, for `d > 0` (R128, fraction row). -/
def roundDiv (n d : Int) : Int :=
  let q := n / d
  let r := n % d
  if 2 * r > d ∨ (2 * r = d ∧ q % 2 = 1) then q + 1 else q

/-- `n / d` rounded to nearest, halves away from zero (R92). -/
def roundHalfAway (n : Int) (d : Nat) : Int :=
  let a := n.natAbs
  let q := (2 * a + d) / (2 * d)
  if n < 0 then -(q : Int) else (q : Int)

/-- Integer division truncating toward zero (R92, R101, R382). -/
def tdiv (n d : Int) : Int := Int.tdiv n d

/-- A value held inside [lo, hi]. -/
def clampInt (v lo hi : Int) : Int := max lo (min v hi)

/-- Saturation to 32 bits, and whether it acted (narrowing, R128). -/
def sat32 (v : Int) : Int × Bool :=
  if v > 2147483647 then (2147483647, true)
  else if v < -2147483648 then (-2147483648, true) else (v, false)

/-- Saturation to 64 bits, and whether it acted (accumulation, R128). -/
def sat64 (v : Int) : Int × Bool :=
  if v > 9223372036854775807 then (9223372036854775807, true)
  else if v < -9223372036854775808 then (-9223372036854775808, true) else (v, false)

/-- The sign of an integer. -/
def signInt (v : Int) : Int := if v > 0 then 1 else if v < 0 then -1 else 0

/-- One Newton refinement downward from an upper bound of the square root, `fuel` times. -/
def sqrtLoop : Nat → Nat → Nat → Nat
  | 0, _, x => x
  | f + 1, n, x =>
    let y := (x + n / x) / 2
    if y < x then sqrtLoop f n y else x

/-- The floor of the square root (isqrt128 of R92). -/
def isqrt (n : Nat) : Nat :=
  if n = 0 then 0 else sqrtLoop (n.log2 + 2) n (2 ^ (n.log2 / 2 + 1))

/-- One bit step of the reflected CRC-32. -/
def crc32Bit (c : Word) : Word := if c.getLsbD 0 then (c >>> 1) ^^^ 0xEDB88320 else c >>> 1

/-- One byte of CRC-32. -/
def crc32Byte (c : Word) (b : Byte) : Word :=
  let c := c ^^^ b.setWidth 32
  crc32Bit (crc32Bit (crc32Bit (crc32Bit (crc32Bit (crc32Bit (crc32Bit (crc32Bit c)))))))

/-- CRC-32 of IEEE 802.3, initial value 0xFFFF_FFFF and final complement (R159). -/
def crc32 (bs : List Byte) : Word := ~~~(bs.foldl crc32Byte 0xFFFFFFFF)

/-- CRC-32 over the bytes of a list of words in byte order (R159). -/
def crc32Words (ws : List Word) : Word := crc32 (wordsBytes ws)

/-- One bit step of the CRC-16 of R366. -/
def crc16Bit (c : BitVec 16) : BitVec 16 := if c.getLsbD 15 then (c <<< 1) ^^^ 0x1021 else c <<< 1

/-- One byte of CRC-16, most significant bit first. -/
def crc16Byte (c : BitVec 16) (b : Byte) : BitVec 16 :=
  let c := c ^^^ (b.setWidth 16 <<< 8)
  crc16Bit (crc16Bit (crc16Bit (crc16Bit (crc16Bit (crc16Bit (crc16Bit (crc16Bit c)))))))

/-- CRC-16, polynomial 0x1021, initial value 0xFFFF, no reflection, no final XOR (R366). -/
def crc16 (bs : List Byte) : BitVec 16 := bs.foldl crc16Byte 0xFFFF

end Sys2Proof.Machine
end

