-- ==== Sys2Proof/Machine/SoftFloat.lean ====
section
/-! DEFINITION. The anvil's number formats and rounding (R193 to R197): exact dyadic values, rounding once to nearest
with ties to even into any floating format, MX blocks, and the conversions to and from LQ and integers. The flags a
function reports are a word in the layout of `AV_ARITH_STAT` bits [5:0] (R218). -/

namespace Sys2Proof.Machine

/-- `AV_ARITH_STAT` invalid. -/
def fInvalid : Word := 1
/-- `AV_ARITH_STAT` overflow. -/
def fOverflow : Word := 2
/-- `AV_ARITH_STAT` int_sat. -/
def fIntSat : Word := 4
/-- `AV_ARITH_STAT` lq_sat. -/
def fLqSat : Word := 8
/-- `AV_ARITH_STAT` scale_clamp. -/
def fScaleClamp : Word := 16
/-- `AV_ARITH_STAT` poison_read. -/
def fPoison : Word := 32

/-- A floating value before rounding: NaN, a signed infinity, or (−1)^neg · m · 2^e exactly. -/
inductive FVal where
  | nan
  | inf (neg : Bool)
  | fin (neg : Bool) (m : Nat) (e : Int)
  deriving DecidableEq, Repr

/-- A floating format of R193: exponent and mantissa widths, bias, the largest finite code, and whether its codes
hold infinities and NaNs in the IEEE way. -/
structure FloatFmt where
  eb : Nat
  mb : Nat
  bias : Int
  maxCode : Nat
  ieee : Bool
  nanCode : Option Nat
  deriving DecidableEq, Repr

/-- FP32 (R193). -/
def fp32 : FloatFmt := ⟨8, 23, 127, 0x7F7FFFFF, true, some 0x7FC00000⟩
/-- BF16. -/
def bf16 : FloatFmt := ⟨8, 7, 127, 0x7F7F, true, some 0x7FC0⟩
/-- FP8 E5M2. -/
def e5m2 : FloatFmt := ⟨5, 2, 15, 0x7B, true, some 0x7E⟩
/-- FP8 E4M3. -/
def e4m3 : FloatFmt := ⟨4, 3, 7, 0x7E, false, some 0x7F⟩
/-- MX6 element E3M2. -/
def e3m2 : FloatFmt := ⟨3, 2, 3, 0x1F, false, none⟩
/-- MX6 element E2M3. -/
def e2m3 : FloatFmt := ⟨2, 3, 1, 0x1F, false, none⟩
/-- MX4 element E2M1. -/
def e2m1 : FloatFmt := ⟨2, 1, 1, 0x7, false, none⟩

/-- The bits of a format, sign included. -/
def FloatFmt.bits (f : FloatFmt) : Nat := 1 + f.eb + f.mb

/-- The value a code spells in a format (R193). -/
def decodeFloat (f : FloatFmt) (code : Nat) : FVal :=
  let neg := code.testBit (f.eb + f.mb)
  let mag := code % 2 ^ (f.eb + f.mb)
  let ex := mag / 2 ^ f.mb
  let man := mag % 2 ^ f.mb
  if f.ieee ∧ ex = 2 ^ f.eb - 1 then (if man = 0 then .inf neg else .nan)
  else if f.nanCode = some mag then .nan
  else if ex = 0 then .fin neg man (1 - f.bias - f.mb)
  else .fin neg (man + 2 ^ f.mb) ((ex : Int) - f.bias - f.mb)

/-- The magnitude code of `(m + sticky) · 2^e` rounded to nearest, ties to even, without a bound above (R195). The
sticky part lies strictly between 0 and 1 unit of `m`. -/
def roundMag (f : FloatFmt) (m : Nat) (e : Int) (sticky : Bool) : Nat :=
  if m = 0 then 0 else
    let emin : Int := 1 - f.bias
    let top : Int := (m.log2 : Int) + e
    let q : Int := max top emin - f.mb
    let mant :=
      if q ≤ e then m * 2 ^ (e - q).toNat
      else
        let sh := (q - e).toNat
        let k := m / 2 ^ sh
        let r := m % 2 ^ sh
        let half := 2 ^ (sh - 1)
        if r > half ∨ (r = half ∧ (sticky ∨ k % 2 = 1)) then k + 1 else k
    (q - (emin - f.mb)).toNat * 2 ^ f.mb + mant

/-- The sign bit of a format. -/
def FloatFmt.signCode (f : FloatFmt) (neg : Bool) : Nat := if neg then 2 ^ (f.eb + f.mb) else 0

/-- The code for an infinity in a format, under ovf_ieee (R195). -/
def infCode (f : FloatFmt) (ieee : Bool) (neg : Bool) : Nat :=
  if ieee then
    (if f.ieee then f.maxCode + 1 + f.signCode neg else f.nanCode.getD (f.maxCode + f.signCode neg))
  else f.maxCode + f.signCode neg

/-- Round `(−1)^neg · (m + sticky) · 2^e` into a format: the code and the flags (R195). -/
def roundFin (f : FloatFmt) (ieee : Bool) (neg : Bool) (m : Nat) (e : Int) (sticky : Bool) : Nat × Word :=
  let c := roundMag f m e sticky
  if c > f.maxCode then (infCode f ieee neg, fOverflow) else (c + f.signCode neg, 0)

/-- Convert a value into a floating format with one rounding (R195). -/
def encodeFloat (f : FloatFmt) (ieee : Bool) (v : FVal) : Nat × Word :=
  match v with
  | .nan => (f.nanCode.getD f.maxCode, 0)
  | .inf neg => (infCode f ieee neg, 0)
  | .fin neg m e => roundFin f ieee neg m e false

/-- The value of an FP32 word. -/
def f32val (w : Word) : FVal := decodeFloat fp32 w.toNat

/-- A value as an FP32 word with its flags. -/
def toF32 (ieee : Bool) (v : FVal) : Word × Word :=
  let r := encodeFloat fp32 ieee v
  (BitVec.ofNat 32 r.1, r.2)

/-- The FP32 word of an infinity. -/
def f32inf (neg : Bool) : Word := BitVec.ofNat 32 (infCode fp32 true neg)

/-- The result of an operation on FP32 words: an exact infinity stands in both settings of ovf_ieee, anything else is rounded (R195). -/
def resF32 (ieee : Bool) (v : FVal) : Word × Word :=
  match v with
  | .inf neg => (f32inf neg, 0)
  | v => toF32 ieee v

/-- The canonical FP32 NaN. -/
def f32nan : Word := 0x7FC00000

/-- The signed integer of a finite value at a common exponent. -/
def signedAt (neg : Bool) (m : Nat) (e base : Int) : Int :=
  let v : Int := (m * 2 ^ (e - base).toNat : Nat)
  if neg then -v else v

/-- The exact sum of two finite values; a zero result is −0 only when both are −0 (R195, to nearest). -/
def addFin (n1 : Bool) (m1 : Nat) (e1 : Int) (n2 : Bool) (m2 : Nat) (e2 : Int) : FVal :=
  let b := min e1 e2
  let s := signedAt n1 m1 e1 b + signedAt n2 m2 e2 b
  if s = 0 then .fin ((n1 && n2) && (m1 == 0) && (m2 == 0)) 0 b
  else .fin (decide (s < 0)) s.natAbs b

/-- Exact addition with the special values of R199. -/
def addVal (a b : FVal) : FVal × Word :=
  match a, b with
  | .nan, _ => (.nan, 0)
  | _, .nan => (.nan, 0)
  | .inf x, .inf y => if x = y then (.inf x, 0) else (.nan, fInvalid)
  | .inf x, _ => (.inf x, 0)
  | _, .inf y => (.inf y, 0)
  | .fin n1 m1 e1, .fin n2 m2 e2 => (addFin n1 m1 e1 n2 m2 e2, 0)

/-- Negation. -/
def negVal : FVal → FVal
  | .nan => .nan
  | .inf n => .inf (!n)
  | .fin n m e => .fin (!n) m e

/-- Exact multiplication; infinity by zero is NaN and invalid (R199). -/
def mulVal (a b : FVal) : FVal × Word :=
  match a, b with
  | .nan, _ => (.nan, 0)
  | _, .nan => (.nan, 0)
  | .inf x, .inf y => (.inf (x != y), 0)
  | .inf x, .fin n m _ => if m = 0 then (.nan, fInvalid) else (.inf (x != n), 0)
  | .fin n m _, .inf y => if m = 0 then (.nan, fInvalid) else (.inf (n != y), 0)
  | .fin n1 m1 e1, .fin n2 m2 e2 => (.fin (n1 != n2) (m1 * m2) (e1 + e2), 0)

/-- FP32 addition, rounded once. -/
def f32add (ieee : Bool) (a b : Word) : Word × Word :=
  let r := addVal (f32val a) (f32val b)
  let w := resF32 ieee r.1
  (w.1, r.2 ||| w.2)

/-- FP32 subtraction. -/
def f32sub (ieee : Bool) (a b : Word) : Word × Word :=
  let r := addVal (f32val a) (negVal (f32val b))
  let w := resF32 ieee r.1
  (w.1, r.2 ||| w.2)

/-- FP32 multiplication. -/
def f32mul (ieee : Bool) (a b : Word) : Word × Word :=
  let r := mulVal (f32val a) (f32val b)
  let w := resF32 ieee r.1
  (w.1, r.2 ||| w.2)

/-- FP32 fused multiply-add, rounded once (R206). -/
def f32fma (ieee : Bool) (a b c : Word) : Word × Word :=
  let p := mulVal (f32val a) (f32val b)
  let r := addVal p.1 (f32val c)
  let w := resF32 ieee r.1
  (w.1, p.2 ||| r.2 ||| w.2)

/-- FP32 division, correctly rounded (R206): a finite value by zero is an infinity, converted under R195; zero by zero NaN and invalid
(DEDUCED, notes/assumptions/5). -/
def f32div (ieee : Bool) (a b : Word) : Word × Word :=
  match f32val a, f32val b with
  | .nan, _ => (f32nan, 0)
  | _, .nan => (f32nan, 0)
  | .inf _, .inf _ => (f32nan, fInvalid)
  | .inf x, .fin n _ _ => (f32inf (x != n), 0)
  | .fin n _ _, .inf y => (BitVec.ofNat 32 (fp32.signCode (n != y)), 0)
  | .fin n1 m1 e1, .fin n2 m2 e2 =>
    if m2 = 0 then (if m1 = 0 then (f32nan, fInvalid) else toF32 ieee (.inf (n1 != n2)))
    else
      let num := m1 * 2 ^ 60
      let r := roundFin fp32 ieee (n1 != n2) (num / m2) (e1 - e2 - 60) (num % m2 != 0)
      (BitVec.ofNat 32 r.1, r.2)

/-- FP32 square root, correctly rounded (R206): −0 gives −0, a negative operand NaN and invalid. -/
def f32sqrt (ieee : Bool) (a : Word) : Word × Word :=
  match f32val a with
  | .nan => (f32nan, 0)
  | .inf n => if n then (f32nan, fInvalid) else (f32inf false, 0)
  | .fin n m e =>
    if m = 0 then (a, 0) else if n then (f32nan, fInvalid)
    else
      let odd := e % 2 = 1
      let m' : Nat := (if odd then 2 * m else m) * 2 ^ 60
      let e' := (if odd then e - 1 else e) - 60
      let s := isqrt m'
      let r := roundFin fp32 ieee false s (e' / 2) (s * s != m')
      (BitVec.ofNat 32 r.1, r.2)

/-- The order of two values that are not NaN, −0 below +0 (R205). -/
def leVal (a b : FVal) : Bool :=
  match a, b with
  | .nan, _ => true
  | _, .nan => true
  | .inf n, .inf k => n || !k
  | .inf n, .fin _ _ _ => n
  | .fin _ _ _, .inf k => !k
  | .fin n1 m1 e1, .fin n2 m2 e2 =>
    let base := min e1 e2
    let x := signedAt n1 m1 e1 base
    let y := signedAt n2 m2 e2 base
    if x = y then (n1 || !n2) else decide (x < y)

/-- Element-wise maximum: NaN propagates, max(−0, +0) = +0 (R205). -/
def f32max (a b : Word) : Word :=
  match f32val a, f32val b with
  | .nan, _ => f32nan
  | _, .nan => f32nan
  | x, y => if leVal x y then b else a

/-- Element-wise minimum (R205). -/
def f32min (a b : Word) : Word :=
  match f32val a, f32val b with
  | .nan, _ => f32nan
  | _, .nan => f32nan
  | x, y => if leVal x y then a else b

/-- Whether an FP32 word is nonzero; NaN counts as nonzero. -/
def f32nonzero (a : Word) : Bool := a.toNat % 2 ^ 31 != 0

/-- An integer as an exact value. -/
def intVal (i : Int) : FVal := .fin (decide (i < 0)) i.natAbs 0

/-- FP32 nearest to an integer. -/
def f32ofInt (i : Int) : Word := (toF32 false (intVal i)).1

/-- Round a dyadic value times 2^k to an integer, ties to even. -/
def roundToInt (neg : Bool) (m : Nat) (e : Int) : Int :=
  let a : Int := if 0 ≤ e then (m * 2 ^ e.toNat : Nat) else roundShift (m : Int) (-e).toNat
  if neg then -a else a

/-- FP32 to LQ with adjustment k (R197): saturation sets lq_sat, NaN gives 0 and sets invalid. -/
def f32toLq (k : Int) (w : Word) : Word × Word :=
  match f32val w with
  | .nan => (0, fInvalid)
  | .inf neg => (if neg then 0x80000000 else 0x7FFFFFFF, fLqSat)
  | .fin neg m e =>
    let r := sat32 (roundToInt neg m (e + 24 + k))
    (wordOfInt r.1, if r.2 then fLqSat else 0)

/-- LQ to FP32 (R197). -/
def lqToF32 (w : Word) : Word :=
  let i := w.toInt
  (toF32 false (.fin (decide (i < 0)) i.natAbs (-24))).1

/-- Integer accumulator to LQ with a right shift (R197). -/
def intToLq (z : Int) (s : Nat) : Word × Word :=
  let r := sat32 (roundShift z s)
  (wordOfInt r.1, if r.2 then fLqSat else 0)

/-- Saturation of an integer to `n` bits, and whether it acted. -/
def satN (n : Nat) (v : Int) : Int × Bool :=
  let hi : Int := 2 ^ (n - 1) - 1
  let lo : Int := -(2 ^ (n - 1))
  if v > hi then (hi, true) else if v < lo then (lo, true) else (v, false)

/-- Integer accumulator to INT32 (R200). -/
def intToI32 (z : Int) : Word × Word :=
  let r := satN 32 z
  (wordOfInt r.1, if r.2 then fIntSat else 0)

/-- Integer accumulator to INT8 through an FP32 multiplier (R200). No result is stated for a NaN or infinite
multiplier (notes/assumptions/5). -/
def intToI8 (z : Int) (mult : Word) : Int × Word :=
  match f32val mult with
  | .nan => ((Config.int8Special z mult).toInt, fInvalid)
  | .inf _ => ((Config.int8Special z mult).toInt, 0)
  | .fin neg m e =>
    let r := satN 8 (roundToInt (neg != decide (z < 0)) (m * z.natAbs) e)
    (r.1, if r.2 then fIntSat else 0)

/-- The exponent of the largest binade of an MX element format (R193). -/
def emaxOf (f : FloatFmt) : Int :=
  if f = e4m3 then 8 else if f = e5m2 then 15 else if f = e3m2 then 4 else 2

/-- The magnitude order of two finite values. -/
def magLe (m1 : Nat) (e1 : Int) (m2 : Nat) (e2 : Int) : Bool :=
  decide (signedAt false m1 e1 (min e1 e2) ≤ signedAt false m2 e2 (min e1 e2))

/-- An infinity replaced by the largest finite FP32 of its sign (R196). -/
def finiteOf : FVal → FVal
  | .inf neg => .fin neg (2 ^ 24 - 1) 104
  | v => v

/-- The largest magnitude of a list of finite values, as (m, e). -/
def maxMag : List FVal → Nat × Int
  | [] => (0, 0)
  | v :: vs =>
    let r := maxMag vs
    match v with
    | .fin _ m e => if magLe m e r.1 r.2 then r else (m, e)
    | _ => r

/-- MX block quantisation of FP32 words: the element codes, the scale code and the flags (R196). -/
def quantMx (f : FloatFmt) (ieee : Bool) (vs : List Word) : List Nat × Nat × Word :=
  let vals := vs.map f32val
  let anyNan := vals.any (fun v => v == .nan)
  let anyInf := vals.any (fun v => match v with | .inf _ => true | _ => false)
  if anyNan || (ieee && anyInf) then
    (vs.map (fun _ => 0), 0xFF, if anyNan then 0 else fOverflow)
  else
    let fins := vals.map finiteOf
    let a := maxMag fins
    if a.1 = 0 then (vs.map (fun _ => 0), 0x7F, 0)
    else
      let e0 : Int := ((a.1.log2 : Int) + a.2) - emaxOf f
      let clamped := decide (e0 < -127)
      let e : Int := if clamped then -127 else e0
      let enc (v : FVal) : Nat :=
        match v with
        | .fin neg m x => min (roundMag f m (x - e) false) f.maxCode + f.signCode neg
        | _ => 0
      (fins.map enc, (e + 127).toNat, if clamped then fScaleClamp else 0)

/-- The value of an MX element under a scale code (R194). -/
def mxVal (f : FloatFmt) (code scale : Nat) : FVal :=
  if scale = 0xFF then .nan
  else
    match decodeFloat f code with
    | .fin n m e => .fin n m (e + (scale : Int) - 127)
    | v => v

end Sys2Proof.Machine
end

