-- ==== Sys2Proof/Machine/AnvilMath.lean ====
section
/-! DEFINITION. The reductions of the anvil: exact chunk sums (R199), passes of the fast mode (R203), the canonical tree
(R204, R205, R231), the segmented scan (R238) and stochastic rounding (R234). A value in flight is an FP32 word with the
flags behind it. -/

namespace Sys2Proof.Machine

/-- The exact sum of products with the special values of R199, whatever their order; an empty sum and a sum of −0 only
give −0, the identity of R204. -/
def exactSum (ps : List (FVal × Word)) : FVal × Word :=
  let fl := ps.foldl (fun a p => a ||| p.2) 0
  let vs := ps.map Prod.fst
  if vs.contains .nan then (.nan, fl)
  else if vs.contains (.inf true) && vs.contains (.inf false) then (.nan, fl ||| fInvalid)
  else if vs.contains (.inf true) then (.inf true, fl)
  else if vs.contains (.inf false) then (.inf false, fl)
  else
    (vs.foldl (fun a v => match a, v with
      | .fin n1 m1 e1, .fin n2 m2 e2 => addFin n1 m1 e1 n2 m2 e2
      | _, v => v) (.fin true 0 0), fl)

/-- A sum of products rounded once to FP32. -/
def roundSum (ieee : Bool) (ps : List (FVal × Word)) : Word × Word :=
  let s := exactSum ps
  let r := resF32 ieee s.1
  (r.1, s.2 ||| r.2)

/-- The identity of the rounded addition (R204). -/
def laneZero : Word × Word := (0x80000000, 0)

/-- One rounded addition of values in flight. -/
def fAdd (ieee : Bool) (a b : Word × Word) : Word × Word :=
  let r := f32add ieee a.1 b.1
  (r.1, a.2 ||| b.2 ||| r.2)

/-- One level of the tree: neighbours added, a lane without a partner passed up (R204, R231). -/
def pairUp (ieee : Bool) : List (Word × Word) → List (Word × Word)
  | a :: b :: r => fAdd ieee a b :: pairUp ieee r
  | l => l

/-- All levels of the tree. -/
def joinLanes (ieee : Bool) : Nat → List (Word × Word) → Word × Word
  | 0, l => l.headD laneZero
  | k + 1, l => joinLanes ieee k (pairUp ieee l)

/-- Items added in ascending order into their lanes, item i of N into lane ⌊L·i / N⌋ (R204, R205, R231). -/
def laneSums (ieee : Bool) (lanes : Nat) (items : List (Word × Word)) : List (Word × Word) :=
  let n := items.length
  (items.mapIdx (fun i x => (lanes * i / n, x))).foldl (fun ls p => ls.modify p.1 (fun a => fAdd ieee a p.2))
    (List.replicate lanes laneZero)

/-- The reduction of items over a number of lanes. -/
def treeSum (ieee : Bool) (lanes : Nat) (items : List (Word × Word)) : Word × Word :=
  joinLanes ieee (lanes.log2 + 1) (laneSums ieee lanes items)

/-- Consecutive groups of `n` items, `fuel` at most. -/
def groups {α : Type} (n : Nat) : Nat → List α → List (List α)
  | 0, _ => []
  | _, [] => []
  | f + 1, l => l.take n :: groups n f (l.drop n)

/-- How a reduction of class T runs: overflow setting, reproducible or not, T, and whether K is split (R203–R205,
R231). -/
structure RedMode where
  ieee : Bool
  repro : Bool
  tiles : Nat
  splitK : Bool

/-- The products of one output reduced along K (R199, R203, R204, R231). -/
def reduceProducts (r : RedMode) (ps : List (FVal × Word)) : Word × Word :=
  if r.repro then treeSum r.ieee 64 ((groups 32 ps.length ps).map (roundSum r.ieee))
  else if r.splitK then treeSum r.ieee r.tiles ((groups 32 ps.length ps).map (roundSum r.ieee))
  else ((groups 128 ps.length ps).map (roundSum r.ieee)).foldl (fAdd r.ieee) laneZero

/-- The dot product of two value lists. -/
def dotVals (r : RedMode) (a b : List FVal) : Word × Word := reduceProducts r (List.zipWith mulVal a b)

/-- The exact integer dot product (R200). -/
def dotInts (a b : List Int) : Int := isum (List.zipWith (· * ·) a b)

/-- A vector reduction (R205, R231). -/
def sumWords (r : RedMode) (ws : List Word) : Word × Word :=
  treeSum r.ieee (if r.repro then 64 else r.tiles) (ws.map (fun w => (w, 0)))

/-- The state of one segment in phase 1 of SCAN (R238): z, p, and the Z and P of its steps, newest first. -/
def scanSegment (ieee : Bool) : List (Word × Word) → (Word × Word) × Word → List (Word × Word) →
    (Word × Word) × Word × List (Word × Word)
  | [], (zp, fl), acc => (zp, fl, acc.reverse)
  | (a, v) :: r, ((z, p), fl), acc =>
    let z' := f32fma ieee a z v
    let p' := f32mul ieee a p
    scanSegment ieee r ((z'.1, p'.1), fl ||| z'.2 ||| p'.2) ((z'.1, p'.1) :: acc)

/-- The first step of segment `s` of `n` over `l` steps: step t belongs to segment ⌊n·t / l⌋ (R238). -/
def segStart (n l s : Nat) : Nat := (s * l + n - 1) / n

/-- The magnitude code at or below a finite magnitude, and the remainder as a fraction of 2^sh: (code, rest, sh). -/
def floorMag (f : FloatFmt) (m : Nat) (e : Int) : Nat × Nat × Nat :=
  if m = 0 then (0, 0, 0) else
    let emin : Int := 1 - f.bias
    let q : Int := max ((m.log2 : Int) + e) emin - f.mb
    let up := (q - (emin - f.mb)).toNat * 2 ^ f.mb
    if q ≤ e then (up + m * 2 ^ (e - q).toNat, 0, 0)
    else (up + m / 2 ^ (q - e).toNat, m % 2 ^ (q - e).toNat, (q - e).toNat)

/-- Stochastic rounding of an FP32 word into a format under 24 random bits (R234). -/
def stochastic (f : FloatFmt) (ieee : Bool) (w : Word) (u : Nat) : Nat × Word :=
  match f32val w with
  | .fin neg m e =>
    let r := floorMag f m e
    if r.2.1 = 0 then encodeFloat f ieee (.fin neg m e)
    else if f.maxCode ≤ r.1 then encodeFloat f ieee (.fin neg m e)
    else
      -- x − lo as a share of hi − lo, in units of 2^−sh: the remainder for x > 0, its complement for x < 0
      let share := if neg then 2 ^ r.2.2 - r.2.1 else r.2.1
      let low := decide (2 ^ 24 * share ≤ u * 2 ^ r.2.2)
      let code := if low = neg then r.1 + 1 else r.1
      (code + f.signCode neg, 0)
  | v => encodeFloat f ieee v

/-- The sum of coefficient products of R198, with the constant added last, narrowed (R128). -/
def lqSum (cs : List Nat) (vs : List Int) (c : Int) : Int :=
  let acc := (List.zipWith (fun k v => roundShift (signedCode' k * v) (k / 2 ^ 32 % 64)) cs vs).foldl
    (fun a p => (sat64 (a + p)).1) 0
  (sat32 (sat64 (acc + c)).1).1
where
  /-- The coefficient in the low 32 bits of its word. -/
  signedCode' (k : Nat) : Int := (BitVec.ofNat 32 k).toInt

end Sys2Proof.Machine
end

