-- ==== Sys2Proof/Machine/Codes.lean ====
section
/-! DEFINITION. The status codes, opcodes, actions and record types the spec numbers, under the spec's names. -/

namespace Sys2Proof.Machine

/-! Status codes of R88. -/
abbrev stOk : Nat := 0x00
abbrev stAccepted : Nat := 0x01
abbrev stArmed : Nat := 0x02
abbrev stSuspended : Nat := 0x03
abbrev stResumed : Nat := 0x04
abbrev stResumedNonrepro : Nat := 0x05
abbrev stBadOpcode : Nat := 0x10
abbrev stBadSeq : Nat := 0x11
abbrev stClassMismatch : Nat := 0x12
abbrev stBadParam : Nat := 0x13
abbrev stTagRange : Nat := 0x14
abbrev stTagBusy : Nat := 0x15
abbrev stTagUnknown : Nat := 0x16
abbrev stBusy : Nat := 0x17
abbrev stNotPermitted : Nat := 0x18
abbrev stBadState : Nat := 0x19
abbrev stRegion : Nat := 0x1A
abbrev stUnitAbsent : Nat := 0x21
abbrev stUnitOut : Nat := 0x22
abbrev stRoleHeld : Nat := 0x23
abbrev stCancelled : Nat := 0x24
abbrev stQuenched : Nat := 0x25
abbrev stLaunchLate : Nat := 0x30
abbrev stLaunchFull : Nat := 0x31
abbrev stLaunchEpoch : Nat := 0x32
abbrev stLaunchQuench : Nat := 0x33
abbrev stLaunchRange : Nat := 0x34
abbrev stCfgNone : Nat := 0x40
abbrev stCfgOpen : Nat := 0x41
abbrev stCfgInvalid : Nat := 0x42
abbrev stCfgTimeout : Nat := 0x43
abbrev stCfgOverflow : Nat := 0x44
abbrev stCfgStale : Nat := 0x45
/-! Status codes of R427 and R520. -/
abbrev stFaultActive : Nat := 0xA0
abbrev stFaultPending : Nat := 0xA1
abbrev stQuenchLocked : Nat := 0xA2
abbrev stUpdBusy : Nat := 0xB0
abbrev stUpdFormat : Nat := 0xB1
abbrev stUpdSig : Nat := 0xB2
abbrev stUpdVariant : Nat := 0xB3
abbrev stUpdRollback : Nat := 0xB4
abbrev stUpdKey : Nat := 0xB5
/-! Status codes of R211, R214, R253, R296 and R317. -/
abbrev stMemPoison : Nat := 0x50
abbrev stTileLost : Nat := 0x51
abbrev stVariableRefused : Nat := 0x52
abbrev stAnvIllegal : Nat := 0x53
abbrev stSaveCorrupt : Nat := 0x54
abbrev stTilesShort : Nat := 0x55
abbrev stModelBad : Nat := 0x60
abbrev stModelFit : Nat := 0x61
abbrev stModelDigest : Nat := 0x62
abbrev stLsNotReady : Nat := 0x70
abbrev stLsPartner : Nat := 0x71
abbrev stLsMismatch : Nat := 0x72
abbrev stDiverged : Nat := 0x73

/-! Opcodes of R63. -/
abbrev ocSetPoint : Nat := 0x10
abbrev ocSetCap : Nat := 0x11
abbrev ocLaunchArm : Nat := 0x12
abbrev ocLaunchDisarm : Nat := 0x13
abbrev ocCfgBegin : Nat := 0x18
abbrev ocCfgCommit : Nat := 0x19
abbrev ocCfgRollback : Nat := 0x1A
abbrev ocOpSuspend : Nat := 0x20
abbrev ocOpResume : Nat := 0x21
abbrev ocOpCancel : Nat := 0x22
abbrev ocOpQuery : Nat := 0x23
abbrev ocAvJobSubmit : Nat := 0x30
abbrev ocModelLoad : Nat := 0x31
abbrev ocTrainRun : Nat := 0x32
abbrev ocCapacitySweep : Nat := 0x33
abbrev ocBalanceCampaign : Nat := 0x34
abbrev ocSliceReplace : Nat := 0x35
abbrev ocQuench : Nat := 0xF0
abbrev ocFaultRead : Nat := 0xF1
abbrev ocRecFreeze : Nat := 0xF2
abbrev ocRecRead : Nat := 0xF3
abbrev ocClaimRelease : Nat := 0xF4
abbrev ocGetIdentity : Nat := 0xF5
abbrev ocModuleReset : Nat := 0xF6

/-! Bit numbers of `SY_FUNC_EN` (R24) and `SY_READY` (R521). -/
abbrev fnLoop : Nat := 0
abbrev fnBellows : Nat := 1
abbrev fnAnvil : Nat := 2
abbrev fnForecast : Nat := 3
abbrev fnTrain : Nat := 4
abbrev fnCellring : Nat := 5
abbrev fnPeer : Nat := 6
abbrev fnDma : Nat := 7
abbrev fnRecorder : Nat := 8
abbrev rdCxl : Nat := 9
abbrev rdLpddr : Nat := 10
abbrev rdCfgLoaded : Nat := 11
abbrev rdCfgFailed : Nat := 12

/-! Fault sources of R405. -/
abbrev srcCollector : Nat := 0x00
abbrev srcKernel : Nat := 0x01
abbrev srcFirmware : Nat := 0x02
abbrev srcRegister : Nat := 0x03
abbrev srcCxl : Nat := 0x04
abbrev srcBellows : Nat := 0x05
abbrev srcThermal : Nat := 0x06
abbrev srcPair : Nat := 0x07
abbrev srcTime : Nat := 0x08
abbrev srcRecorder : Nat := 0x09
abbrev srcDma : Nat := 0x0A
abbrev srcFeed : Nat := 0x0B
abbrev srcLoop (k : Nat) : Nat := 0x10 + k
abbrev srcStageLink (n : Nat) : Nat := 0x30 + n
abbrev srcPort (p : Nat) : Nat := 0x40 + p
abbrev srcStack (s : Nat) : Nat := 0x48 + s
abbrev srcSram : Nat := 0x50
abbrev srcForecast : Nat := 0x58
abbrev srcPeerLink (n : Nat) : Nat := 0x60 + n
abbrev srcHall : Nat := 0x90
abbrev srcTile (t : Nat) : Nat := 0xC0 + t

/-! Record kinds of R406. -/
abbrev kindGeneral : Nat := 0
abbrev kindCell : Nat := 1
abbrev kindSense : Nat := 2
abbrev kindRing : Nat := 3
abbrev kindWiring : Nat := 4
abbrev kindCollector : Nat := 5

/-! Event record types of R526. -/
abbrev evFault : Nat := 0x01
abbrev evReadiness : Nat := 0x02
abbrev evPowerGood : Nat := 0x03
abbrev evClaim : Nat := 0x04
abbrev evQuench : Nat := 0x05
abbrev evBellows : Nat := 0x06
abbrev evPlacement : Nat := 0x07
abbrev evCampaign : Nat := 0x08
abbrev evLoop : Nat := 0x09
abbrev evLockstep : Nat := 0x0A
abbrev evFirmware : Nat := 0x0B
abbrev evThaw : Nat := 0x0C

/-! Launch actions (the table after R42). -/
abbrev actCommit : Nat := 0x01
abbrev actPolicy : Nat := 0x02
abbrev actHallStep : Nat := 0x03
abbrev actLockstep : Nat := 0x04

end Sys2Proof.Machine
end

