-- ==== Sys2Proof/Machine/Regs.lean ====
section
/-! DEFINITION. The register file's map: one constructor of `Reg` per line of the spec's register maps, with its
indices; the device address of R478 plus the offset of its block's map, the reset value the map prints, and the
bits of each access code of R12 that its field tables give. -/

namespace Sys2Proof.Machine

/-- The registers of every block, by the names of spec/ in lower camel case; the arguments are the map's indices. -/
inductive Reg where
  | syLaunchLo (n : Nat)  -- SY_LAUNCH_LO, R42
  | syLaunchHi (n : Nat)  -- SY_LAUNCH_HI, R42
  | syLaunchAct (n : Nat)  -- SY_LAUNCH_ACT, R42
  | cxCmdBaseLo (n : Nat)  -- CX_CMD_BASE_LO, R54
  | cxCmdBaseHi (n : Nat)  -- CX_CMD_BASE_HI, R54
  | cxCmdCtrl (n : Nat)  -- CX_CMD_CTRL, R54
  | cxCmdTail (n : Nat)  -- CX_CMD_TAIL, R54
  | cxCmdHead (n : Nat)  -- CX_CMD_HEAD, R54
  | cxStsBaseLo (n : Nat)  -- CX_STS_BASE_LO, R54
  | cxStsBaseHi (n : Nat)  -- CX_STS_BASE_HI, R54
  | cxStsHead (n : Nat)  -- CX_STS_HEAD, R54
  | cxStsTail (n : Nat)  -- CX_STS_TAIL, R54
  | cxCmdSeq (n : Nat)  -- CX_CMD_SEQ, R54
  | cxStsDrop (n : Nat)  -- CX_STS_DROP, R54
  | bdString (s : Nat)  -- BD_STRING, R120
  | bdTrayCap (t : Nat)  -- BD_TRAY_CAP, R120
  | leSpsC (i : Nat)  -- LE_SPS_C, R152
  | leSpsSh (i : Nat)  -- LE_SPS_SH, R152
  | leCfg (k : Nat)  -- LE_CFG, R152
  | leSrc (k : Nat)  -- LE_SRC, R152
  | leInSelLo (k : Nat)  -- LE_IN_SEL_LO, R152
  | leInSelHi (k : Nat)  -- LE_IN_SEL_HI, R152
  | leOutMapLo (k : Nat)  -- LE_OUT_MAP_LO, R152
  | leOutMapHi (k : Nat)  -- LE_OUT_MAP_HI, R152
  | leBqPlace (k : Nat)  -- LE_BQ_PLACE, R152
  | leSched (k : Nat)  -- LE_SCHED, R152
  | leHyst0 (k : Nat)  -- LE_HYST0, R152
  | leHyst1 (k : Nat)  -- LE_HYST1, R152
  | leState (k : Nat)  -- LE_STATE, R152
  | leFlag (k : Nat)  -- LE_FLAG, R152
  | leFfStat (k : Nat)  -- LE_FF_STAT, R152
  | leFfVal (k : Nat)  -- LE_FF_VAL, R152
  | leOmin (k : Nat) (j : Nat)  -- LE_OMIN, R152
  | leOmax (k : Nat) (j : Nat)  -- LE_OMAX, R152
  | leOinit (k : Nat) (j : Nat)  -- LE_OINIT, R152
  | leRbLo (k : Nat)  -- LE_RB_LO, R152
  | leRbHi (k : Nat)  -- LE_RB_HI, R152
  | leInteg (k : Nat) (j : Nat)  -- LE_INTEG, R152
  | leOut (k : Nat) (j : Nat)  -- LE_OUT, R152
  | leTtLo0 (k : Nat) (q : Nat)  -- LE_TT_LO0, R152
  | leTtHi0 (k : Nat) (q : Nat)  -- LE_TT_HI0, R152
  | leTtLo1 (k : Nat) (q : Nat)  -- LE_TT_LO1, R152
  | leTtHi1 (k : Nat) (q : Nat)  -- LE_TT_HI1, R152
  | leTtSet (k : Nat) (q : Nat)  -- LE_TT_SET, R152
  | leBrHdr (k : Nat)  -- LE_BR_HDR, R152
  | leBrVal (k : Nat) (a : Nat)  -- LE_BR_VAL, R152
  | leCoefC (e : Nat)  -- LE_COEF_C, R152
  | leCoefSh (e : Nat)  -- LE_COEF_SH, R152
  | leSlStat (n : Nat)  -- LE_SL_STAT, R164
  | leSlErr (n : Nat)  -- LE_SL_ERR, R164
  | leSlTx (n : Nat)  -- LE_SL_TX, R164
  | leSup (k : Nat)  -- LE_SUP, R172
  | leFeLim (k : Nat)  -- LE_FE_LIM, R172
  | leSupStat (k : Nat)  -- LE_SUP_STAT, R172
  | leMissCnt (k : Nat)  -- LE_MISS_CNT, R172
  | avEccCeDram (s : Nat)  -- AV_ECC_CE_DRAM, R217
  | avFcTlmSel (r : Nat)  -- AV_FC_TLM_SEL, R293
  | avMdlBank (b : Nat)  -- AV_MDL_BANK, R293
  | avFcBr (k : Nat)  -- AV_FC_BR, R293
  | avFcBrc (k : Nat)  -- AV_FC_BRC, R293
  | plLinkStat (n : Nat)  -- PL_LINK_STAT, R361
  | plLinkErr (n : Nat)  -- PL_LINK_ERR, R361
  | plLinkOpt (n : Nat)  -- PL_LINK_OPT, R361
  | crOcv (n : Nat)  -- CR_OCV, R396
  | crPcfg (p : Nat)  -- CR_PCFG, R396
  | crPcap (p : Nat)  -- CR_PCAP, R396
  | crPenergy (p : Nat)  -- CR_PENERGY, R396
  | crPstat (p : Nat)  -- CR_PSTAT, R396
  | crPlim (p : Nat)  -- CR_PLIM, R396
  | crPvolt (p : Nat)  -- CR_PVOLT, R396
  | crPsoe (p : Nat)  -- CR_PSOE, R396
  | crPstampA (p : Nat)  -- CR_PSTAMP_A, R396
  | crPstampB (p : Nat)  -- CR_PSTAMP_B, R396
  | crPerr (p : Nat)  -- CR_PERR, R396
  | crUnitStat (p : Nat) (u : Nat)  -- CR_UNIT_STAT, R396
  | crUnitT (p : Nat) (u : Nat)  -- CR_UNIT_T, R396
  | crUnitCg01 (p : Nat) (u : Nat)  -- CR_UNIT_CG01, R396
  | crUnitCg23 (p : Nat) (u : Nat)  -- CR_UNIT_CG23, R396
  | crCell (c : Nat)  -- CR_CELL, R396
  | fcActive (n : Nat)  -- FC_ACTIVE, R425
  | fcWiring (n : Nat)  -- FC_WIRING, R425
  | dmChCtrl (c : Nat)  -- DM_CH_CTRL, R474
  | dmChCfg (c : Nat)  -- DM_CH_CFG, R474
  | dmChLimit (c : Nat)  -- DM_CH_LIMIT, R474
  | dmChHeadLo (c : Nat)  -- DM_CH_HEAD_LO, R474
  | dmChHeadHi (c : Nat)  -- DM_CH_HEAD_HI, R474
  | dmChCurLo (c : Nat)  -- DM_CH_CUR_LO, R474
  | dmChCurHi (c : Nat)  -- DM_CH_CUR_HI, R474
  | dmChStat (c : Nat)  -- DM_CH_STAT, R474
  | dmChDone (c : Nat)  -- DM_CH_DONE, R474
  | dmChBad (c : Nat)  -- DM_CH_BAD, R474
  | dmChChain (c : Nat)  -- DM_CH_CHAIN, R474
  | dmChErr (c : Nat)  -- DM_CH_ERR, R474
  | cxRwBaseLo (q : Nat) (w : Nat)  -- CX_RW_BASE_LO, R500
  | cxRwBaseHi (q : Nat) (w : Nat)  -- CX_RW_BASE_HI, R500
  | cxRwSize (q : Nat) (w : Nat)  -- CX_RW_SIZE, R500
  | syCap0  -- SY_CAP0, R5
  | syCap1  -- SY_CAP1, R5
  | syFuncEn  -- SY_FUNC_EN, R24
  | syStrikeLo  -- SY_STRIKE_LO, R36
  | syStrikeHi  -- SY_STRIKE_HI, R36
  | syFramePos  -- SY_FRAME_POS, R36
  | syTimeStat  -- SY_TIME_STAT, R36
  | syTimeOffset  -- SY_TIME_OFFSET, R36
  | syBudget  -- SY_BUDGET, R36
  | syLaunchArmed  -- SY_LAUNCH_ARMED, R36
  | cxOps  -- CX_OPS, R71
  | cxCfgStat  -- CX_CFG_STAT, R78
  | cxCfgAge  -- CX_CFG_AGE, R78
  | cxCfgLast  -- CX_CFG_LAST, R78
  | bdPolicy  -- BD_POLICY, R120
  | bdRamp  -- BD_RAMP, R120
  | bdRating  -- BD_RATING, R120
  | bdReserve  -- BD_RESERVE, R120
  | bdStringIlim  -- BD_STRING_ILIM, R120
  | bdBellowsPlim  -- BD_BELLOWS_PLIM, R120
  | bdShelfLimit  -- BD_SHELF_LIMIT, R120
  | bdStageRole  -- BD_STAGE_ROLE, R120
  | bdStringMap  -- BD_STRING_MAP, R120
  | bdTrays  -- BD_TRAYS, R120
  | bdSoeGain  -- BD_SOE_GAIN, R120
  | bdBrakeCfg  -- BD_BRAKE_CFG, R120
  | bdSchedHall  -- BD_SCHED_HALL, R120
  | bdSchedApplied  -- BD_SCHED_APPLIED, R120
  | bdStat  -- BD_STAT, R120
  | bdDemand  -- BD_DEMAND, R120
  | bdGrid  -- BD_GRID, R120
  | bdGridVel  -- BD_GRID_VEL, R120
  | bdGridTarget  -- BD_GRID_TARGET, R120
  | bdGridMeas  -- BD_GRID_MEAS, R120
  | bdFollowErr  -- BD_FOLLOW_ERR, R120
  | bdStorage  -- BD_STORAGE, R120
  | bdDisAvail  -- BD_DIS_AVAIL, R120
  | bdChgAvail  -- BD_CHG_AVAIL, R120
  | bdCapShelf  -- BD_CAP_SHELF, R120
  | bdBandLo  -- BD_BAND_LO, R120
  | bdBandHi  -- BD_BAND_HI, R120
  | bdSoe  -- BD_SOE, R120
  | bdSpBusVref  -- BD_SP_BUS_VREF, R120
  | bdSpSoeTarget  -- BD_SP_SOE_TARGET, R120
  | bdCapRack  -- BD_CAP_RACK, R120
  | bdBrakeCnt  -- BD_BRAKE_CNT, R120
  | leLoopEn  -- LE_LOOP_EN, R152
  | leStat  -- LE_STAT, R152
  | leSatAny  -- LE_SAT_ANY, R152
  | leFlagAny  -- LE_FLAG_ANY, R152
  | leBridgeCfg  -- LE_BRIDGE_CFG, R152
  | leTestCtrl  -- LE_TEST_CTRL, R183
  | leTestAmp  -- LE_TEST_AMP, R183
  | leTestInc0  -- LE_TEST_INC0, R183
  | leTestInc1  -- LE_TEST_INC1, R183
  | leTestLen  -- LE_TEST_LEN, R183
  | leTestPrepost  -- LE_TEST_PREPOST, R183
  | leTestSeed  -- LE_TEST_SEED, R183
  | leCapSelLo  -- LE_CAP_SEL_LO, R183
  | leCapSelMid  -- LE_CAP_SEL_MID, R183
  | leCapSelHi  -- LE_CAP_SEL_HI, R183
  | leCapBaseLo  -- LE_CAP_BASE_LO, R183
  | leCapBaseHi  -- LE_CAP_BASE_HI, R183
  | leCapCfg  -- LE_CAP_CFG, R183
  | leCapLen  -- LE_CAP_LEN, R183
  | leTestStat  -- LE_TEST_STAT, R183
  | leTestStartLo  -- LE_TEST_START_LO, R183
  | leTestStartHi  -- LE_TEST_START_HI, R183
  | leTestDd  -- LE_TEST_DD, R183
  | avStat  -- AV_STAT, R217
  | avArithStat  -- AV_ARITH_STAT, R217
  | avTileMapLo  -- AV_TILE_MAP_LO, R217
  | avTileMapHi  -- AV_TILE_MAP_HI, R217
  | avTileFailLo  -- AV_TILE_FAIL_LO, R217
  | avTileFailHi  -- AV_TILE_FAIL_HI, R217
  | avStackStat  -- AV_STACK_STAT, R217
  | avEccCfg  -- AV_ECC_CFG, R217
  | avScrubStat  -- AV_SCRUB_STAT, R217
  | avEccUeCnt  -- AV_ECC_UE_CNT, R217
  | avEccLastLo  -- AV_ECC_LAST_LO, R217
  | avEccLastHi  -- AV_ECC_LAST_HI, R217
  | avEccCeSram  -- AV_ECC_CE_SRAM, R217
  | avBusyLo  -- AV_BUSY_LO, R217
  | avBusyHi  -- AV_BUSY_HI, R217
  | avSchedCfg  -- AV_SCHED_CFG, R252
  | avSchedStat  -- AV_SCHED_STAT, R252
  | avPreemptCnt  -- AV_PREEMPT_CNT, R252
  | avJobDone  -- AV_JOB_DONE, R252
  | avTrainShare  -- AV_TRAIN_SHARE, R252
  | avFcCtrl  -- AV_FC_CTRL, R293
  | avFcSchedBaseLo  -- AV_FC_SCHED_BASE_LO, R293
  | avFcSchedBaseHi  -- AV_FC_SCHED_BASE_HI, R293
  | avFcSchedCfg  -- AV_FC_SCHED_CFG, R293
  | avFcStat  -- AV_FC_STAT, R293
  | avFcGen  -- AV_FC_GEN, R293
  | avFcHistAnchorLo  -- AV_FC_HIST_ANCHOR_LO, R293
  | avFcHistAnchorHi  -- AV_FC_HIST_ANCHOR_HI, R293
  | avFcErr1ms  -- AV_FC_ERR_1MS, R293
  | avFcErr10ms  -- AV_FC_ERR_10MS, R293
  | avFcErr50ms  -- AV_FC_ERR_50MS, R293
  | avFcMiss  -- AV_FC_MISS, R293
  | avFcSchedErr  -- AV_FC_SCHED_ERR, R293
  | avTrStat  -- AV_TR_STAT, R293
  | avTrGenReady  -- AV_TR_GEN_READY, R293
  | avTrSource  -- AV_TR_SOURCE, R293
  | avLsStat  -- AV_LS_STAT, R316
  | avLsOrdLo  -- AV_LS_ORD_LO, R316
  | avLsOrdHi  -- AV_LS_ORD_HI, R316
  | avLsDivLo  -- AV_LS_DIV_LO, R316
  | avLsDivHi  -- AV_LS_DIV_HI, R316
  | avLsPort  -- AV_LS_PORT, R316
  | plStat  -- PL_STAT, R361
  | plMaster  -- PL_MASTER, R361
  | plPlanCtrl  -- PL_PLAN_CTRL, R361
  | plPlanBaseLo  -- PL_PLAN_BASE_LO, R361
  | plPlanBaseHi  -- PL_PLAN_BASE_HI, R361
  | plPlanLen  -- PL_PLAN_LEN, R361
  | plPlanSel  -- PL_PLAN_SEL, R361
  | plPlanIdLo  -- PL_PLAN_ID_LO, R361
  | plPlanIdHi  -- PL_PLAN_ID_HI, R361
  | plMaint  -- PL_MAINT, R361
  | plSuspect  -- PL_SUSPECT, R361
  | plSliceStat  -- PL_SLICE_STAT, R361
  | plStepStat  -- PL_STEP_STAT, R361
  | plMsgStat  -- PL_MSG_STAT, R361
  | crCtrl  -- CR_CTRL, R396
  | crStat  -- CR_STAT, R396
  | crVlim  -- CR_VLIM, R396
  | crVtaper  -- CR_VTAPER, R396
  | crVhard  -- CR_VHARD, R396
  | crTemp  -- CR_TEMP, R396
  | crIcell  -- CR_ICELL, R396
  | crWireCfg  -- CR_WIRE_CFG, R396
  | crBalCfg  -- CR_BAL_CFG, R396
  | crCampStat  -- CR_CAMP_STAT, R396
  | crCapsStat  -- CR_CAPS_STAT, R396
  | crCapsRes  -- CR_CAPS_RES, R396
  | fcStat  -- FC_STAT, R425
  | fcTimer  -- FC_TIMER, R425
  | fcTimerCorr  -- FC_TIMER_CORR, R425
  | fcAck  -- FC_ACK, R425
  | fcRaiseDetail  -- FC_RAISE_DETAIL, R425
  | fcRaise  -- FC_RAISE, R425
  | fcCount  -- FC_COUNT, R425
  | fcQuench  -- FC_QUENCH, R425
  | fcQentryLo  -- FC_QENTRY_LO, R425
  | fcQentryHi  -- FC_QENTRY_HI, R425
  | fcRelease  -- FC_RELEASE, R425
  | fcTest  -- FC_TEST, R425
  | fcInj  -- FC_INJ, R425
  | prCfg  -- PR_CFG, R452
  | prStat  -- PR_STAT, R452
  | prPartner  -- PR_PARTNER, R452
  | prHealth  -- PR_HEALTH, R452
  | prCmp  -- PR_CMP, R452
  | prSwCnt  -- PR_SW_CNT, R452
  | prSwLastLo  -- PR_SW_LAST_LO, R452
  | prSwLastHi  -- PR_SW_LAST_HI, R452
  | prCfgsumLo  -- PR_CFGSUM_LO, R452
  | prCfgsumHi  -- PR_CFGSUM_HI, R452
  | prFeed  -- PR_FEED, R452
  | dmStat  -- DM_STAT, R474
  | dmBusy  -- DM_BUSY, R474
  | dmReq  -- DM_REQ, R474
  | cxLinkStat  -- CX_LINK_STAT, R500
  | cxLinkErr  -- CX_LINK_ERR, R500
  | cxHdmStat  -- CX_HDM_STAT, R500
  | cxHostwin  -- CX_HOSTWIN, R500
  | cxDenyCnt  -- CX_DENY_CNT, R500
  | cxDenyLastLo  -- CX_DENY_LAST_LO, R500
  | cxDenyLastHi  -- CX_DENY_LAST_HI, R500
  | idStat  -- ID_STAT, R519
  | idSerialLo  -- ID_SERIAL_LO, R519
  | idSerialHi  -- ID_SERIAL_HI, R519
  | idTkVer  -- ID_TK_VER, R519
  | idAppVer  -- ID_APP_VER, R519
  | idSvn  -- ID_SVN, R519
  | idUpdAddrLo  -- ID_UPD_ADDR_LO, R519
  | idUpdAddrHi  -- ID_UPD_ADDR_HI, R519
  | idUpdLen  -- ID_UPD_LEN, R519
  | idUpdCtrl  -- ID_UPD_CTRL, R519
  | idUpdStat  -- ID_UPD_STAT, R519
  | syReady  -- SY_READY, R521
  | syReadyChg  -- SY_READY_CHG, R521
  | evStat  -- EV_STAT, R535
  | evSeq  -- EV_SEQ, R535
  | evStored  -- EV_STORED, R535
  | evOpsec  -- EV_OPSEC, R535
  | evPwrcyc  -- EV_PWRCYC, R535
  | evLost  -- EV_LOST, R535
  deriving DecidableEq, Repr

/-- The device address of a register: its block's base (R478) plus its offset. -/
def Reg.addr : Reg → Nat
  | .syCap0 => 0x10
  | .syCap1 => 0x14
  | .syFuncEn => 0x20
  | .syStrikeLo => 0x40
  | .syStrikeHi => 0x44
  | .syFramePos => 0x48
  | .syTimeStat => 0x4C
  | .syTimeOffset => 0x50
  | .syBudget => 0x54
  | .syLaunchArmed => 0x58
  | .syLaunchLo n => 0x100 + 0x10 * n
  | .syLaunchHi n => 0x104 + 0x10 * n
  | .syLaunchAct n => 0x108 + 0x10 * n
  | .cxCmdBaseLo n => 0x10400 + 0x40 * n
  | .cxCmdBaseHi n => 0x10404 + 0x40 * n
  | .cxCmdCtrl n => 0x10408 + 0x40 * n
  | .cxCmdTail n => 0x1040C + 0x40 * n
  | .cxCmdHead n => 0x10410 + 0x40 * n
  | .cxStsBaseLo n => 0x10414 + 0x40 * n
  | .cxStsBaseHi n => 0x10418 + 0x40 * n
  | .cxStsHead n => 0x1041C + 0x40 * n
  | .cxStsTail n => 0x10420 + 0x40 * n
  | .cxCmdSeq n => 0x10424 + 0x40 * n
  | .cxStsDrop n => 0x10428 + 0x40 * n
  | .cxOps => 0x10720
  | .cxCfgStat => 0x10700
  | .cxCfgAge => 0x10704
  | .cxCfgLast => 0x10708
  | .bdPolicy => 0x70000
  | .bdRamp => 0x70004
  | .bdRating => 0x70008
  | .bdReserve => 0x7000C
  | .bdStringIlim => 0x70010
  | .bdBellowsPlim => 0x70014
  | .bdShelfLimit => 0x70018
  | .bdStageRole => 0x7001C
  | .bdStringMap => 0x70020
  | .bdTrays => 0x70024
  | .bdSoeGain => 0x70028
  | .bdBrakeCfg => 0x7002C
  | .bdSchedHall => 0x70040
  | .bdSchedApplied => 0x70044
  | .bdStat => 0x70080
  | .bdDemand => 0x70084
  | .bdGrid => 0x70088
  | .bdGridVel => 0x7008C
  | .bdGridTarget => 0x70090
  | .bdGridMeas => 0x70094
  | .bdFollowErr => 0x70098
  | .bdStorage => 0x7009C
  | .bdDisAvail => 0x700A0
  | .bdChgAvail => 0x700A4
  | .bdCapShelf => 0x700A8
  | .bdBandLo => 0x700AC
  | .bdBandHi => 0x700B0
  | .bdSoe => 0x700B4
  | .bdString s => 0x700C0 + 0x4 * s
  | .bdSpBusVref => 0x700D0
  | .bdSpSoeTarget => 0x700D4
  | .bdCapRack => 0x700D8
  | .bdBrakeCnt => 0x700DC
  | .bdTrayCap t => 0x70100 + 0x4 * t
  | .leLoopEn => 0x200000
  | .leStat => 0x200004
  | .leSatAny => 0x200008
  | .leFlagAny => 0x20000C
  | .leBridgeCfg => 0x200010
  | .leSpsC i => 0x200100 + 0x8 * i
  | .leSpsSh i => 0x200104 + 0x8 * i
  | .leCfg k => 0x201000 + 0x100 * k
  | .leSrc k => 0x201004 + 0x100 * k
  | .leInSelLo k => 0x201008 + 0x100 * k
  | .leInSelHi k => 0x20100C + 0x100 * k
  | .leOutMapLo k => 0x201010 + 0x100 * k
  | .leOutMapHi k => 0x201014 + 0x100 * k
  | .leBqPlace k => 0x201018 + 0x100 * k
  | .leSched k => 0x20101C + 0x100 * k
  | .leHyst0 k => 0x201020 + 0x100 * k
  | .leHyst1 k => 0x201024 + 0x100 * k
  | .leState k => 0x201028 + 0x100 * k
  | .leFlag k => 0x20102C + 0x100 * k
  | .leFfStat k => 0x201030 + 0x100 * k
  | .leFfVal k => 0x201034 + 0x100 * k
  | .leOmin k j => 0x201040 + 0x100 * k + 0x8 * j
  | .leOmax k j => 0x201044 + 0x100 * k + 0x8 * j
  | .leOinit k j => 0x201080 + 0x100 * k + 0x4 * j
  | .leRbLo k => 0x2010A0 + 0x100 * k
  | .leRbHi k => 0x2010A4 + 0x100 * k
  | .leInteg k j => 0x2010C0 + 0x100 * k + 0x4 * j
  | .leOut k j => 0x2010E0 + 0x100 * k + 0x4 * j
  | .leTtLo0 k q => 0x204000 + 0x200 * k + 0x20 * q
  | .leTtHi0 k q => 0x204004 + 0x200 * k + 0x20 * q
  | .leTtLo1 k q => 0x204008 + 0x200 * k + 0x20 * q
  | .leTtHi1 k q => 0x20400C + 0x200 * k + 0x20 * q
  | .leTtSet k q => 0x204010 + 0x200 * k + 0x20 * q
  | .leBrHdr k => 0x208000 + 0x80 * k
  | .leBrVal k a => 0x208004 + 0x80 * k + 0x4 * a
  | .leCoefC e => 0x300000 + 0x8 * e
  | .leCoefSh e => 0x300004 + 0x8 * e
  | .leSlStat n => 0x200200 + 0x10 * n
  | .leSlErr n => 0x200204 + 0x10 * n
  | .leSlTx n => 0x200208 + 0x10 * n
  | .leSup k => 0x201038 + 0x100 * k
  | .leFeLim k => 0x20103C + 0x100 * k
  | .leSupStat k => 0x2010A8 + 0x100 * k
  | .leMissCnt k => 0x2010AC + 0x100 * k
  | .leTestCtrl => 0x200020
  | .leTestAmp => 0x200024
  | .leTestInc0 => 0x200028
  | .leTestInc1 => 0x20002C
  | .leTestLen => 0x200030
  | .leTestPrepost => 0x200034
  | .leTestSeed => 0x200038
  | .leCapSelLo => 0x20003C
  | .leCapSelMid => 0x200040
  | .leCapSelHi => 0x200044
  | .leCapBaseLo => 0x200048
  | .leCapBaseHi => 0x20004C
  | .leCapCfg => 0x200050
  | .leCapLen => 0x200054
  | .leTestStat => 0x200058
  | .leTestStartLo => 0x20005C
  | .leTestStartHi => 0x200060
  | .leTestDd => 0x200064
  | .avStat => 0xA0000
  | .avArithStat => 0xA0004
  | .avTileMapLo => 0xA0008
  | .avTileMapHi => 0xA000C
  | .avTileFailLo => 0xA0010
  | .avTileFailHi => 0xA0014
  | .avStackStat => 0xA0018
  | .avEccCfg => 0xA0020
  | .avScrubStat => 0xA0024
  | .avEccUeCnt => 0xA0028
  | .avEccLastLo => 0xA002C
  | .avEccLastHi => 0xA0030
  | .avEccCeSram => 0xA0034
  | .avEccCeDram s => 0xA0040 + 0x4 * s
  | .avBusyLo => 0xA0060
  | .avBusyHi => 0xA0064
  | .avSchedCfg => 0xA0080
  | .avSchedStat => 0xA0084
  | .avPreemptCnt => 0xA0088
  | .avJobDone => 0xA008C
  | .avTrainShare => 0xA0090
  | .avFcCtrl => 0xA0100
  | .avFcTlmSel r => 0xA0104 + 0x4 * r
  | .avFcSchedBaseLo => 0xA0120
  | .avFcSchedBaseHi => 0xA0124
  | .avFcSchedCfg => 0xA0128
  | .avFcStat => 0xA0130
  | .avFcGen => 0xA0134
  | .avFcHistAnchorLo => 0xA0138
  | .avFcHistAnchorHi => 0xA013C
  | .avFcErr1ms => 0xA0140
  | .avFcErr10ms => 0xA0144
  | .avFcErr50ms => 0xA0148
  | .avFcMiss => 0xA014C
  | .avFcSchedErr => 0xA0150
  | .avTrStat => 0xA0154
  | .avTrGenReady => 0xA0158
  | .avTrSource => 0xA015C
  | .avMdlBank b => 0xA0160 + 0x4 * b
  | .avFcBr k => 0xA0200 + 0x8 * k
  | .avFcBrc k => 0xA0204 + 0x8 * k
  | .avLsStat => 0xA0300
  | .avLsOrdLo => 0xA0304
  | .avLsOrdHi => 0xA0308
  | .avLsDivLo => 0xA030C
  | .avLsDivHi => 0xA0310
  | .avLsPort => 0xA0314
  | .plStat => 0x90000
  | .plMaster => 0x90004
  | .plPlanCtrl => 0x90008
  | .plPlanBaseLo => 0x9000C
  | .plPlanBaseHi => 0x90010
  | .plPlanLen => 0x90014
  | .plPlanSel => 0x90018
  | .plPlanIdLo => 0x9001C
  | .plPlanIdHi => 0x90020
  | .plMaint => 0x90024
  | .plSuspect => 0x90028
  | .plSliceStat => 0x9002C
  | .plStepStat => 0x90030
  | .plMsgStat => 0x90034
  | .plLinkStat n => 0x90100 + 0x10 * n
  | .plLinkErr n => 0x90104 + 0x10 * n
  | .plLinkOpt n => 0x90108 + 0x10 * n
  | .crCtrl => 0x80000
  | .crStat => 0x80004
  | .crVlim => 0x80008
  | .crVtaper => 0x8000C
  | .crVhard => 0x80010
  | .crTemp => 0x80014
  | .crIcell => 0x80018
  | .crWireCfg => 0x8001C
  | .crBalCfg => 0x80020
  | .crCampStat => 0x80030
  | .crCapsStat => 0x80034
  | .crCapsRes => 0x80038
  | .crOcv n => 0x80040 + 0x4 * n
  | .crPcfg p => 0x80100 + 0x40 * p
  | .crPcap p => 0x80104 + 0x40 * p
  | .crPenergy p => 0x80108 + 0x40 * p
  | .crPstat p => 0x8010C + 0x40 * p
  | .crPlim p => 0x80110 + 0x40 * p
  | .crPvolt p => 0x80114 + 0x40 * p
  | .crPsoe p => 0x80118 + 0x40 * p
  | .crPstampA p => 0x8011C + 0x40 * p
  | .crPstampB p => 0x80120 + 0x40 * p
  | .crPerr p => 0x80124 + 0x40 * p
  | .crUnitStat p u => 0x81000 + 0x200 * p + 0x10 * u
  | .crUnitT p u => 0x81004 + 0x200 * p + 0x10 * u
  | .crUnitCg01 p u => 0x81008 + 0x200 * p + 0x10 * u
  | .crUnitCg23 p u => 0x8100C + 0x200 * p + 0x10 * u
  | .crCell c => 0x84000 + 0x4 * c
  | .fcStat => 0x20000
  | .fcTimer => 0x20004
  | .fcTimerCorr => 0x20008
  | .fcAck => 0x2000C
  | .fcRaiseDetail => 0x20010
  | .fcRaise => 0x20014
  | .fcCount => 0x20018
  | .fcQuench => 0x2001C
  | .fcQentryLo => 0x20020
  | .fcQentryHi => 0x20024
  | .fcRelease => 0x20028
  | .fcTest => 0x2002C
  | .fcInj => 0x20030
  | .fcActive n => 0x20040 + 0x4 * n
  | .fcWiring n => 0x20060 + 0x4 * n
  | .prCfg => 0x30000
  | .prStat => 0x30004
  | .prPartner => 0x30008
  | .prHealth => 0x3000C
  | .prCmp => 0x30010
  | .prSwCnt => 0x30014
  | .prSwLastLo => 0x30018
  | .prSwLastHi => 0x3001C
  | .prCfgsumLo => 0x30020
  | .prCfgsumHi => 0x30024
  | .prFeed => 0x30028
  | .dmStat => 0x60000
  | .dmBusy => 0x60004
  | .dmReq => 0x60008
  | .dmChCtrl c => 0x60100 + 0x40 * c
  | .dmChCfg c => 0x60104 + 0x40 * c
  | .dmChLimit c => 0x60108 + 0x40 * c
  | .dmChHeadLo c => 0x6010C + 0x40 * c
  | .dmChHeadHi c => 0x60110 + 0x40 * c
  | .dmChCurLo c => 0x60114 + 0x40 * c
  | .dmChCurHi c => 0x60118 + 0x40 * c
  | .dmChStat c => 0x6011C + 0x40 * c
  | .dmChDone c => 0x60120 + 0x40 * c
  | .dmChBad c => 0x60124 + 0x40 * c
  | .dmChChain c => 0x60128 + 0x40 * c
  | .dmChErr c => 0x6012C + 0x40 * c
  | .cxLinkStat => 0x10000
  | .cxLinkErr => 0x10004
  | .cxHdmStat => 0x10008
  | .cxHostwin => 0x1000C
  | .cxDenyCnt => 0x10010
  | .cxDenyLastLo => 0x10014
  | .cxDenyLastHi => 0x10018
  | .cxRwBaseLo q w => 0x10800 + 0x100 * q + 0x10 * w
  | .cxRwBaseHi q w => 0x10804 + 0x100 * q + 0x10 * w
  | .cxRwSize q w => 0x10808 + 0x100 * q + 0x10 * w
  | .idStat => 0x50000
  | .idSerialLo => 0x50004
  | .idSerialHi => 0x50008
  | .idTkVer => 0x5000C
  | .idAppVer => 0x50010
  | .idSvn => 0x50014
  | .idUpdAddrLo => 0x50020
  | .idUpdAddrHi => 0x50024
  | .idUpdLen => 0x50028
  | .idUpdCtrl => 0x5002C
  | .idUpdStat => 0x50030
  | .syReady => 0x30
  | .syReadyChg => 0x34
  | .evStat => 0x40000
  | .evSeq => 0x40004
  | .evStored => 0x40008
  | .evOpsec => 0x4000C
  | .evPwrcyc => 0x40010
  | .evLost => 0x40014

/-- Each index below the map's bound. -/
def Reg.inRange : Reg → Bool
  | .syLaunchLo n => decide (n < 16)
  | .syLaunchHi n => decide (n < 16)
  | .syLaunchAct n => decide (n < 16)
  | .cxCmdBaseLo n => decide (n < 10)
  | .cxCmdBaseHi n => decide (n < 10)
  | .cxCmdCtrl n => decide (n < 10)
  | .cxCmdTail n => decide (n < 10)
  | .cxCmdHead n => decide (n < 10)
  | .cxStsBaseLo n => decide (n < 10)
  | .cxStsBaseHi n => decide (n < 10)
  | .cxStsHead n => decide (n < 10)
  | .cxStsTail n => decide (n < 10)
  | .cxCmdSeq n => decide (n < 10)
  | .cxStsDrop n => decide (n < 10)
  | .bdString s => decide (s < 4)
  | .bdTrayCap t => decide (t < 16)
  | .leSpsC i => decide (i < 32)
  | .leSpsSh i => decide (i < 32)
  | .leCfg k => decide (k < 32)
  | .leSrc k => decide (k < 32)
  | .leInSelLo k => decide (k < 32)
  | .leInSelHi k => decide (k < 32)
  | .leOutMapLo k => decide (k < 32)
  | .leOutMapHi k => decide (k < 32)
  | .leBqPlace k => decide (k < 32)
  | .leSched k => decide (k < 32)
  | .leHyst0 k => decide (k < 32)
  | .leHyst1 k => decide (k < 32)
  | .leState k => decide (k < 32)
  | .leFlag k => decide (k < 32)
  | .leFfStat k => decide (k < 32)
  | .leFfVal k => decide (k < 32)
  | .leOmin k j => decide (k < 32) && decide (j < 8)
  | .leOmax k j => decide (k < 32) && decide (j < 8)
  | .leOinit k j => decide (k < 32) && decide (j < 8)
  | .leRbLo k => decide (k < 32)
  | .leRbHi k => decide (k < 32)
  | .leInteg k j => decide (k < 32) && decide (j < 8)
  | .leOut k j => decide (k < 32) && decide (j < 8)
  | .leTtLo0 k q => decide (k < 32) && decide (q < 16)
  | .leTtHi0 k q => decide (k < 32) && decide (q < 16)
  | .leTtLo1 k q => decide (k < 32) && decide (q < 16)
  | .leTtHi1 k q => decide (k < 32) && decide (q < 16)
  | .leTtSet k q => decide (k < 32) && decide (q < 16)
  | .leBrHdr k => decide (k < 32)
  | .leBrVal k a => decide (k < 32) && decide (a < 21)
  | .leCoefC e => decide (e < 131072)
  | .leCoefSh e => decide (e < 131072)
  | .leSlStat n => decide (n < 12)
  | .leSlErr n => decide (n < 12)
  | .leSlTx n => decide (n < 12)
  | .leSup k => decide (k < 32)
  | .leFeLim k => decide (k < 32)
  | .leSupStat k => decide (k < 32)
  | .leMissCnt k => decide (k < 32)
  | .avEccCeDram s => decide (s < 8)
  | .avFcTlmSel r => decide (r < 4)
  | .avMdlBank b => decide (b < 4)
  | .avFcBr k => decide (k < 32)
  | .avFcBrc k => decide (k < 32)
  | .plLinkStat n => decide (n < 48)
  | .plLinkErr n => decide (n < 48)
  | .plLinkOpt n => decide (n < 48)
  | .crOcv n => decide (n < 48)
  | .crPcfg p => decide (p < 4)
  | .crPcap p => decide (p < 4)
  | .crPenergy p => decide (p < 4)
  | .crPstat p => decide (p < 4)
  | .crPlim p => decide (p < 4)
  | .crPvolt p => decide (p < 4)
  | .crPsoe p => decide (p < 4)
  | .crPstampA p => decide (p < 4)
  | .crPstampB p => decide (p < 4)
  | .crPerr p => decide (p < 4)
  | .crUnitStat p u => decide (p < 4) && decide (u < 32)
  | .crUnitT p u => decide (p < 4) && decide (u < 32)
  | .crUnitCg01 p u => decide (p < 4) && decide (u < 32)
  | .crUnitCg23 p u => decide (p < 4) && decide (u < 32)
  | .crCell c => decide (c < 2048)
  | .fcActive n => decide (n < 8)
  | .fcWiring n => decide (n < 8)
  | .dmChCtrl c => decide (c < 32)
  | .dmChCfg c => decide (c < 32)
  | .dmChLimit c => decide (c < 32)
  | .dmChHeadLo c => decide (c < 32)
  | .dmChHeadHi c => decide (c < 32)
  | .dmChCurLo c => decide (c < 32)
  | .dmChCurHi c => decide (c < 32)
  | .dmChStat c => decide (c < 32)
  | .dmChDone c => decide (c < 32)
  | .dmChBad c => decide (c < 32)
  | .dmChChain c => decide (c < 32)
  | .dmChErr c => decide (c < 32)
  | .cxRwBaseLo q w => decide (q < 3) && decide (w < 8)
  | .cxRwBaseHi q w => decide (q < 3) && decide (w < 8)
  | .cxRwSize q w => decide (q < 3) && decide (w < 8)
  | _ => true

/-- The staged (ST) bits of a register. -/
def Reg.stMask : Reg → BitVec 32
  | .syFuncEn => 0x1FF
  | .bdPolicy => 0x10003
  | .bdRamp => 0xFFFFFFFF
  | .bdRating => 0xFFFFFFFF
  | .bdReserve => 0x3FF03FF
  | .bdStringIlim => 0xFFFFFFFF
  | .bdBellowsPlim => 0xFFFFFFFF
  | .bdShelfLimit => 0xFFFFFFFF
  | .bdStageRole => 0xFFFFFF
  | .bdStringMap => 0xFFFF
  | .bdTrays => 0x707F7F
  | .bdSoeGain => 0xFFFFFFFF
  | .bdBrakeCfg => 0xFFFFFFFF
  | .leLoopEn => 0xFFFFFFFF
  | .leBridgeCfg => 0xFFFFFFFF
  | .leSpsC _ => 0xFFFFFFFF
  | .leSpsSh _ => 0x3F
  | .leCfg _ => 0x177F0F1F
  | .leSrc _ => 0xFFFFFFFF
  | .leInSelLo _ => 0xFFFFFFFF
  | .leInSelHi _ => 0xFFFFFFFF
  | .leOutMapLo _ => 0xFFFFFFFF
  | .leOutMapHi _ => 0xFFFFFFFF
  | .leBqPlace _ => 0x87878787
  | .leSched _ => 0xFFFFFF1F
  | .leHyst0 _ => 0xFFFFFFFF
  | .leHyst1 _ => 0xFFFFFFFF
  | .leOmin _ _ => 0xFFFFFFFF
  | .leOmax _ _ => 0xFFFFFFFF
  | .leOinit _ _ => 0xFFFFFFFF
  | .leRbLo _ => 0xFFFFFFFF
  | .leRbHi _ => 0xFFFFFFFF
  | .leTtLo0 _ _ => 0xFFFFFFFF
  | .leTtHi0 _ _ => 0xFFFFFFFF
  | .leTtLo1 _ _ => 0xFFFFFFFF
  | .leTtHi1 _ _ => 0xFFFFFFFF
  | .leTtSet _ _ => 0x8001FFFF
  | .leCoefC _ => 0xFFFFFFFF
  | .leCoefSh _ => 0x3F
  | .leSup _ => 0xFFFFFFFF
  | .leFeLim _ => 0xFFFFFFFF
  | .leTestCtrl => 0xF70FFFFF
  | .leTestAmp => 0xFFFFFFFF
  | .leTestInc0 => 0xFFFFFFFF
  | .leTestInc1 => 0xFFFFFFFF
  | .leTestLen => 0x1FFFFF
  | .leTestPrepost => 0xFFFFFFFF
  | .leTestSeed => 0x7FFFFFFF
  | .leCapSelLo => 0xFFFFFFFF
  | .leCapSelMid => 0xFFFFFFFF
  | .leCapSelHi => 0xFFFFFFFF
  | .leCapBaseLo => 0xFFFFFFC0
  | .leCapBaseHi => 0xFFFF
  | .leCapCfg => 0x3FF
  | .leCapLen => 0x1FFFFF
  | .avEccCfg => 0xFFFFFFFF
  | .avSchedCfg => 0x17F
  | .avFcCtrl => 0x3FF0011F
  | .avFcTlmSel _ => 0xFFFFFFFF
  | .avFcSchedBaseLo => 0xFFFFFFC0
  | .avFcSchedBaseHi => 0xFFFF
  | .avFcSchedCfg => 0x7F
  | .avFcBr _ => 0xB000003F
  | .avFcBrc _ => 0xFFFFFFFF
  | .plPlanSel => 0x1
  | .crCtrl => 0xF
  | .crVlim => 0xFFFFFFFF
  | .crVtaper => 0xFFFFFFFF
  | .crVhard => 0xFFFFFFFF
  | .crTemp => 0xFFFFFFFF
  | .crIcell => 0xFFFFFFFF
  | .crWireCfg => 0xFFFFFFFF
  | .crBalCfg => 0xFFFF0003
  | .crOcv _ => 0xFFFFFFFF
  | .crPcfg _ => 0xFFFFFFFF
  | .crPcap _ => 0xFFFF
  | .crPenergy _ => 0xFFFFFFFF
  | .fcTimer => 0xFFFF00FF
  | .fcTimerCorr => 0xFFFF
  | .prCfg => 0x800000FF
  | .cxHostwin => 0x1
  | .cxRwBaseLo _ _ => 0xFFFF0003
  | .cxRwBaseHi _ _ => 0xFFFF
  | .cxRwSize _ _ => 0xFFFFFFFF
  | _ => 0

/-- The RW bits of a register. -/
def Reg.rwMask : Reg → BitVec 32
  | .cxCmdBaseLo _ => 0xFFFFFFC0
  | .cxCmdBaseHi _ => 0xFFFF
  | .cxCmdCtrl _ => 0xC000000F
  | .cxCmdTail _ => 0xFFF
  | .cxStsBaseLo _ => 0xFFFFFFC0
  | .cxStsBaseHi _ => 0xFFFF
  | .cxStsHead _ => 0xFFF
  | .bdSchedHall => 0xFFFFFFFF
  | .plPlanBaseLo => 0xFFFFFFC0
  | .plPlanBaseHi => 0xFFFF
  | .plPlanLen => 0x7FFFFF
  | .plMaint => 0x3F000000
  | .dmChCtrl _ => 0x80000000
  | .dmChCfg _ => 0xF0FF0FFF
  | .dmChLimit _ => 0xFFFFFF
  | .dmChHeadLo _ => 0xFFFFFFE0
  | .dmChHeadHi _ => 0xFFFF
  | .idUpdAddrLo => 0xFFFFFFFF
  | .idUpdAddrHi => 0xFFFF
  | .idUpdLen => 0xFFFFFFFF
  | _ => 0

/-- The W1C bits of a register. -/
def Reg.w1cMask : Reg → BitVec 32
  | .syBudget => 0x1F
  | .leSatAny => 0xFFFFFFFF
  | .leFlag _ => 0xFF
  | .avArithStat => 0x3F
  | .fcStat => 0x30000000
  | .prStat => 0x20000000
  | .syReadyChg => 0xFFFFFFFF
  | _ => 0

/-- The RC bits of a register. -/
def Reg.rcMask : Reg → BitVec 32
  | .syBudget => 0x3FF0000
  | .cxStsDrop _ => 0xFFFF
  | .bdBrakeCnt => 0xFFFFFFFF
  | .leSlErr _ => 0xFFFFFFFF
  | .leMissCnt _ => 0xFFFFFFFF
  | .avEccUeCnt => 0xFFFF
  | .avEccCeSram => 0xFFFFFFFF
  | .avEccCeDram _ => 0xFFFFFFFF
  | .avBusyLo => 0xFFFFFFFF
  | .avPreemptCnt => 0xFFFFFFFF
  | .avJobDone => 0xFFFFFFFF
  | .avFcMiss => 0xFFFFFFFF
  | .avFcSchedErr => 0xFFFFFFFF
  | .avLsPort => 0xFFFF
  | .plStepStat => 0xFFFFFFFF
  | .plMsgStat => 0xFFFFFFFF
  | .plLinkErr _ => 0xFFFFFFFF
  | .crPerr _ => 0xFFFFFFFF
  | .fcCount => 0xFFFFFFFF
  | .prCmp => 0xFFFFFFFF
  | .prSwCnt => 0xFFFFFFFF
  | .dmChDone _ => 0xFFFFFFFF
  | .dmChBad _ => 0xFFFFFFFF
  | .dmChErr _ => 0xFFFF0000
  | .cxLinkErr => 0xFFFFFFFF
  | .cxDenyCnt => 0xFFFFFF00
  | .evLost => 0xFFFFFFFF
  | _ => 0

/-- The WO bits of a register. -/
def Reg.woMask : Reg → BitVec 32
  | .plPlanCtrl => 0x80000000
  | .plMaint => 0xC0000000
  | .fcAck => 0xFFFF
  | .fcRaiseDetail => 0xFFFFFFFF
  | .fcRaise => 0xF3FF
  | .fcRelease => 0x1
  | .fcInj => 0xC000F3FF
  | .dmChCtrl _ => 0x40000000
  | .idUpdCtrl => 0xE0000000
  | _ => 0

/-- The staged fields of a register by their bits; a register without an entry has one field, its staged bits. -/
def Reg.stFields : Reg → List (Nat × Nat)
  | .syFuncEn => [(0, 0), (1, 1), (2, 2), (3, 3), (4, 4), (5, 5), (6, 6), (7, 7), (8, 8)]
  | .bdPolicy => [(16, 16), (1, 0)]
  | .bdRamp => [(31, 16), (15, 0)]
  | .bdReserve => [(25, 16), (9, 0)]
  | .bdStringIlim => [(31, 16), (15, 0)]
  | .bdStageRole => [(1, 0), (3, 2), (5, 4), (7, 6), (9, 8), (11, 10), (13, 12), (15, 14), (17, 16), (19, 18), (21, 20), (23, 22)]
  | .bdStringMap => [(3, 0), (7, 4), (11, 8), (15, 12)]
  | .bdTrays => [(22, 20), (14, 8), (6, 0)]
  | .bdBrakeCfg => [(31, 16), (15, 0)]
  | .leLoopEn => [(0, 0), (1, 1), (2, 2), (3, 3), (4, 4), (5, 5), (6, 6), (7, 7), (8, 8), (9, 9), (10, 10), (11, 11), (12, 12), (13, 13), (14, 14), (15, 15), (16, 16), (17, 17), (18, 18), (19, 19), (20, 20), (21, 21), (22, 22), (23, 23), (24, 24), (25, 25), (26, 26), (27, 27), (28, 28), (29, 29), (30, 30), (31, 31)]
  | .leBridgeCfg => [(31, 16), (15, 0)]
  | .leCfg _ => [(28, 28), (26, 24), (22, 20), (19, 16), (11, 8), (4, 0)]
  | .leSrc _ => [(7, 0), (15, 8), (23, 16), (31, 24)]
  | .leInSelLo _ => [(7, 0), (15, 8), (23, 16), (31, 24)]
  | .leInSelHi _ => [(7, 0), (15, 8), (23, 16), (31, 24)]
  | .leOutMapLo _ => [(7, 0), (15, 8), (23, 16), (31, 24)]
  | .leOutMapHi _ => [(7, 0), (15, 8), (23, 16), (31, 24)]
  | .leBqPlace _ => [(7, 0), (15, 8), (23, 16), (31, 24)]
  | .leSched _ => [(31, 16), (15, 8), (4, 0)]
  | .leRbLo _ => [(7, 0), (15, 8), (23, 16), (31, 24)]
  | .leRbHi _ => [(7, 0), (15, 8), (23, 16), (31, 24)]
  | .leTtSet _ _ => [(31, 31), (16, 0)]
  | .leSup _ => [(31, 30), (29, 24), (23, 16), (15, 0)]
  | .leTestCtrl => [(31, 31), (30, 30), (29, 28), (26, 24), (19, 16), (15, 8), (7, 5), (4, 0)]
  | .leTestPrepost => [(31, 16), (15, 0)]
  | .leCapSelLo => [(7, 0), (15, 8), (23, 16), (31, 24)]
  | .leCapSelMid => [(7, 0), (15, 8), (23, 16), (31, 24)]
  | .leCapSelHi => [(7, 0), (15, 8), (23, 16), (31, 24)]
  | .avEccCfg => [(31, 16), (15, 8), (7, 0)]
  | .avSchedCfg => [(8, 8), (6, 0)]
  | .avFcCtrl => [(29, 29), (28, 28), (27, 20), (8, 8), (4, 0)]
  | .avFcTlmSel _ => [(7, 0), (15, 8), (23, 16), (31, 24)]
  | .avFcBr _ => [(31, 31), (29, 28), (5, 0)]
  | .crVlim => [(31, 16), (15, 0)]
  | .crVtaper => [(31, 16), (15, 0)]
  | .crVhard => [(31, 16), (15, 0)]
  | .crTemp => [(31, 24), (23, 16), (15, 8), (7, 0)]
  | .crIcell => [(31, 16), (15, 0)]
  | .crWireCfg => [(31, 24), (23, 16), (15, 8), (7, 0)]
  | .crBalCfg => [(31, 16), (1, 0)]
  | .crOcv _ => [(31, 16), (15, 0)]
  | .crPcfg _ => [(31, 16), (15, 14), (13, 8), (7, 0)]
  | .fcTimer => [(31, 16), (7, 0)]
  | .prCfg => [(31, 31), (7, 0)]
  | .cxRwBaseLo _ _ => [(31, 16), (1, 1), (0, 0)]
  | _ => []

/-- The reset value the register maps give (R53, R54 and R479 for the ring registers, R396 and R397 for `CR_PCFG_p`). -/
def Reg.reset : Reg → BitVec 32
  | .syFuncEn => 0x1FF
  | .syTimeStat => 0xFF000000
  | .cxCmdBaseLo n => if n = 8 then 0x400000 else if n = 9 then 0x401000 else 0
  | .cxCmdCtrl n => if n = 8 then 0x5 else if n = 9 then 0x20000005 else if n = 6 then 0x20000004 else if n = 7 then 0x30000004 else 0x4
  | .cxStsBaseLo n => if n = 8 then 0x400800 else if n = 9 then 0x401800 else 0
  | .bdPolicy => 0x10000
  | .bdRamp => 0x19000C8
  | .bdRating => 0x50910
  | .bdReserve => 0x38400C8
  | .bdStringIlim => 0xFA00FA0
  | .bdBellowsPlim => 0x30D40
  | .bdShelfLimit => 0x61A80
  | .bdStageRole => 0x3A5555
  | .bdStringMap => 0xFF98
  | .bdTrays => 0x401001
  | .bdSoeGain => 0x14A
  | .bdBrakeCfg => 0x13880064
  | .bdStat => 0x5
  | .bdCapShelf => 0xFFFFFFFF
  | .bdBandHi => 0x50910
  | .bdSoe => 0x2260000
  | .bdSpBusVref => 0xC3500
  | .bdSpSoeTarget => 0x226
  | .bdCapRack => 0xFFFFFFFF
  | .bdTrayCap _ => 0xFFFFFFFF
  | .leBridgeCfg => 0x640064
  | .leCfg _ => 0x10100
  | .leSrc _ => 0xFFFFFFFF
  | .leInSelLo _ => 0xFFFFFFFF
  | .leInSelHi _ => 0xFFFFFFFF
  | .leOutMapLo _ => 0xFFFFFFFF
  | .leOutMapHi _ => 0xFFFFFFFF
  | .leSched _ => 0x3E80001
  | .leFfStat _ => 0x300FF
  | .leOmin _ _ => 0xFF000000
  | .leOmax _ _ => 0x1000000
  | .leRbLo _ => 0xFFFFFFFF
  | .leRbHi _ => 0xFFFFFFFF
  | .leTtLo0 _ _ => 0x80000000
  | .leTtHi0 _ _ => 0x7FFFFFFF
  | .leTtLo1 _ _ => 0x80000000
  | .leTtHi1 _ _ => 0x7FFFFFFF
  | .leSup _ => 0x480A0000
  | .leFeLim _ => 0x7FFFFFFF
  | .leTestCtrl => 0x100
  | .leTestLen => 0x1
  | .leTestSeed => 0x1
  | .leCapSelLo => 0xFFFFFFFF
  | .leCapSelMid => 0xFFFFFFFF
  | .leCapSelHi => 0xFFFFFFFF
  | .leCapCfg => 0x1
  | .avEccCfg => 0x403C18
  | .avSchedCfg => 0x132
  | .avSchedStat => 0x7000000
  | .avFcCtrl => 0x3C800014
  | .avFcTlmSel _ => 0xFFFFFFFF
  | .avFcGen => 0xFFFFFFFF
  | .avTrGenReady => 0xFFFFFFFF
  | .avTrSource => 0xFFFF
  | .plMaster => 0xFFFF
  | .plSuspect => 0xFFFF0000
  | .plLinkStat _ => 0xFFFF
  | .plLinkOpt _ => 0x3
  | .crCtrl => 0x3
  | .crVlim => 0xABE0640
  | .crVtaper => 0xA280708
  | .crVhard => 0xB2205DC
  | .crTemp => 0x41372DF6
  | .crIcell => 0xFA00FA0
  | .crWireCfg => 0x6414321E
  | .crBalCfg => 0x140002
  | .crPcfg p => if p = 0 then 0x01F48F82 else if p = 1 then 0x01F48F92 else 0x01F480FF
  | .crPcap _ => 0xBB8
  | .crPenergy _ => 0x3C6CC
  | .crUnitStat _ _ => 0x7C00000
  | .fcTimer => 0x3E80001
  | .fcTimerCorr => 0x3E8
  | .prCfg => 0x2
  | .dmChCfg _ => 0x30600000
  | .dmChLimit _ => 0x10000
  | _ => 0

/-- One line of a register map: its first address, its strides with their bounds (largest stride first), and the
register its indices name. -/
structure RegRow where
  base : Nat
  strides : List (Nat × Nat)
  reg : List Nat → Reg

/-- The register maps, part 0. -/
def regRows0 : List RegRow := [
  ⟨0x10, [], fun _ => .syCap0⟩,
  ⟨0x14, [], fun _ => .syCap1⟩,
  ⟨0x20, [], fun _ => .syFuncEn⟩,
  ⟨0x40, [], fun _ => .syStrikeLo⟩,
  ⟨0x44, [], fun _ => .syStrikeHi⟩,
  ⟨0x48, [], fun _ => .syFramePos⟩,
  ⟨0x4C, [], fun _ => .syTimeStat⟩,
  ⟨0x50, [], fun _ => .syTimeOffset⟩,
  ⟨0x54, [], fun _ => .syBudget⟩,
  ⟨0x58, [], fun _ => .syLaunchArmed⟩,
  ⟨0x100, [(0x10, 16)], fun l => .syLaunchLo (l.getD 0 0)⟩,
  ⟨0x104, [(0x10, 16)], fun l => .syLaunchHi (l.getD 0 0)⟩,
  ⟨0x108, [(0x10, 16)], fun l => .syLaunchAct (l.getD 0 0)⟩,
  ⟨0x10400, [(0x40, 10)], fun l => .cxCmdBaseLo (l.getD 0 0)⟩,
  ⟨0x10404, [(0x40, 10)], fun l => .cxCmdBaseHi (l.getD 0 0)⟩,
  ⟨0x10408, [(0x40, 10)], fun l => .cxCmdCtrl (l.getD 0 0)⟩,
  ⟨0x1040C, [(0x40, 10)], fun l => .cxCmdTail (l.getD 0 0)⟩,
  ⟨0x10410, [(0x40, 10)], fun l => .cxCmdHead (l.getD 0 0)⟩,
  ⟨0x10414, [(0x40, 10)], fun l => .cxStsBaseLo (l.getD 0 0)⟩,
  ⟨0x10418, [(0x40, 10)], fun l => .cxStsBaseHi (l.getD 0 0)⟩,
  ⟨0x1041C, [(0x40, 10)], fun l => .cxStsHead (l.getD 0 0)⟩,
  ⟨0x10420, [(0x40, 10)], fun l => .cxStsTail (l.getD 0 0)⟩,
  ⟨0x10424, [(0x40, 10)], fun l => .cxCmdSeq (l.getD 0 0)⟩,
  ⟨0x10428, [(0x40, 10)], fun l => .cxStsDrop (l.getD 0 0)⟩,
  ⟨0x10720, [], fun _ => .cxOps⟩,
  ⟨0x10700, [], fun _ => .cxCfgStat⟩,
  ⟨0x10704, [], fun _ => .cxCfgAge⟩,
  ⟨0x10708, [], fun _ => .cxCfgLast⟩,
  ⟨0x70000, [], fun _ => .bdPolicy⟩,
  ⟨0x70004, [], fun _ => .bdRamp⟩,
  ⟨0x70008, [], fun _ => .bdRating⟩,
  ⟨0x7000C, [], fun _ => .bdReserve⟩,
  ⟨0x70010, [], fun _ => .bdStringIlim⟩,
  ⟨0x70014, [], fun _ => .bdBellowsPlim⟩,
  ⟨0x70018, [], fun _ => .bdShelfLimit⟩,
  ⟨0x7001C, [], fun _ => .bdStageRole⟩,
  ⟨0x70020, [], fun _ => .bdStringMap⟩,
  ⟨0x70024, [], fun _ => .bdTrays⟩,
  ⟨0x70028, [], fun _ => .bdSoeGain⟩,
  ⟨0x7002C, [], fun _ => .bdBrakeCfg⟩,
  ⟨0x70040, [], fun _ => .bdSchedHall⟩,
  ⟨0x70044, [], fun _ => .bdSchedApplied⟩,
  ⟨0x70080, [], fun _ => .bdStat⟩,
  ⟨0x70084, [], fun _ => .bdDemand⟩,
  ⟨0x70088, [], fun _ => .bdGrid⟩,
  ⟨0x7008C, [], fun _ => .bdGridVel⟩,
  ⟨0x70090, [], fun _ => .bdGridTarget⟩,
  ⟨0x70094, [], fun _ => .bdGridMeas⟩]

/-- The register maps, part 1. -/
def regRows1 : List RegRow := [
  ⟨0x70098, [], fun _ => .bdFollowErr⟩,
  ⟨0x7009C, [], fun _ => .bdStorage⟩,
  ⟨0x700A0, [], fun _ => .bdDisAvail⟩,
  ⟨0x700A4, [], fun _ => .bdChgAvail⟩,
  ⟨0x700A8, [], fun _ => .bdCapShelf⟩,
  ⟨0x700AC, [], fun _ => .bdBandLo⟩,
  ⟨0x700B0, [], fun _ => .bdBandHi⟩,
  ⟨0x700B4, [], fun _ => .bdSoe⟩,
  ⟨0x700C0, [(0x4, 4)], fun l => .bdString (l.getD 0 0)⟩,
  ⟨0x700D0, [], fun _ => .bdSpBusVref⟩,
  ⟨0x700D4, [], fun _ => .bdSpSoeTarget⟩,
  ⟨0x700D8, [], fun _ => .bdCapRack⟩,
  ⟨0x700DC, [], fun _ => .bdBrakeCnt⟩,
  ⟨0x70100, [(0x4, 16)], fun l => .bdTrayCap (l.getD 0 0)⟩,
  ⟨0x200000, [], fun _ => .leLoopEn⟩,
  ⟨0x200004, [], fun _ => .leStat⟩,
  ⟨0x200008, [], fun _ => .leSatAny⟩,
  ⟨0x20000C, [], fun _ => .leFlagAny⟩,
  ⟨0x200010, [], fun _ => .leBridgeCfg⟩,
  ⟨0x200100, [(0x8, 32)], fun l => .leSpsC (l.getD 0 0)⟩,
  ⟨0x200104, [(0x8, 32)], fun l => .leSpsSh (l.getD 0 0)⟩,
  ⟨0x201000, [(0x100, 32)], fun l => .leCfg (l.getD 0 0)⟩,
  ⟨0x201004, [(0x100, 32)], fun l => .leSrc (l.getD 0 0)⟩,
  ⟨0x201008, [(0x100, 32)], fun l => .leInSelLo (l.getD 0 0)⟩,
  ⟨0x20100C, [(0x100, 32)], fun l => .leInSelHi (l.getD 0 0)⟩,
  ⟨0x201010, [(0x100, 32)], fun l => .leOutMapLo (l.getD 0 0)⟩,
  ⟨0x201014, [(0x100, 32)], fun l => .leOutMapHi (l.getD 0 0)⟩,
  ⟨0x201018, [(0x100, 32)], fun l => .leBqPlace (l.getD 0 0)⟩,
  ⟨0x20101C, [(0x100, 32)], fun l => .leSched (l.getD 0 0)⟩,
  ⟨0x201020, [(0x100, 32)], fun l => .leHyst0 (l.getD 0 0)⟩,
  ⟨0x201024, [(0x100, 32)], fun l => .leHyst1 (l.getD 0 0)⟩,
  ⟨0x201028, [(0x100, 32)], fun l => .leState (l.getD 0 0)⟩,
  ⟨0x20102C, [(0x100, 32)], fun l => .leFlag (l.getD 0 0)⟩,
  ⟨0x201030, [(0x100, 32)], fun l => .leFfStat (l.getD 0 0)⟩,
  ⟨0x201034, [(0x100, 32)], fun l => .leFfVal (l.getD 0 0)⟩,
  ⟨0x201040, [(0x100, 32), (0x8, 8)], fun l => .leOmin (l.getD 0 0) (l.getD 1 0)⟩,
  ⟨0x201044, [(0x100, 32), (0x8, 8)], fun l => .leOmax (l.getD 0 0) (l.getD 1 0)⟩,
  ⟨0x201080, [(0x100, 32), (0x4, 8)], fun l => .leOinit (l.getD 0 0) (l.getD 1 0)⟩,
  ⟨0x2010A0, [(0x100, 32)], fun l => .leRbLo (l.getD 0 0)⟩,
  ⟨0x2010A4, [(0x100, 32)], fun l => .leRbHi (l.getD 0 0)⟩,
  ⟨0x2010C0, [(0x100, 32), (0x4, 8)], fun l => .leInteg (l.getD 0 0) (l.getD 1 0)⟩,
  ⟨0x2010E0, [(0x100, 32), (0x4, 8)], fun l => .leOut (l.getD 0 0) (l.getD 1 0)⟩,
  ⟨0x204000, [(0x200, 32), (0x20, 16)], fun l => .leTtLo0 (l.getD 0 0) (l.getD 1 0)⟩,
  ⟨0x204004, [(0x200, 32), (0x20, 16)], fun l => .leTtHi0 (l.getD 0 0) (l.getD 1 0)⟩,
  ⟨0x204008, [(0x200, 32), (0x20, 16)], fun l => .leTtLo1 (l.getD 0 0) (l.getD 1 0)⟩,
  ⟨0x20400C, [(0x200, 32), (0x20, 16)], fun l => .leTtHi1 (l.getD 0 0) (l.getD 1 0)⟩,
  ⟨0x204010, [(0x200, 32), (0x20, 16)], fun l => .leTtSet (l.getD 0 0) (l.getD 1 0)⟩,
  ⟨0x208000, [(0x80, 32)], fun l => .leBrHdr (l.getD 0 0)⟩]

/-- The register maps, part 2. -/
def regRows2 : List RegRow := [
  ⟨0x208004, [(0x80, 32), (0x4, 21)], fun l => .leBrVal (l.getD 0 0) (l.getD 1 0)⟩,
  ⟨0x300000, [(0x8, 131072)], fun l => .leCoefC (l.getD 0 0)⟩,
  ⟨0x300004, [(0x8, 131072)], fun l => .leCoefSh (l.getD 0 0)⟩,
  ⟨0x200200, [(0x10, 12)], fun l => .leSlStat (l.getD 0 0)⟩,
  ⟨0x200204, [(0x10, 12)], fun l => .leSlErr (l.getD 0 0)⟩,
  ⟨0x200208, [(0x10, 12)], fun l => .leSlTx (l.getD 0 0)⟩,
  ⟨0x201038, [(0x100, 32)], fun l => .leSup (l.getD 0 0)⟩,
  ⟨0x20103C, [(0x100, 32)], fun l => .leFeLim (l.getD 0 0)⟩,
  ⟨0x2010A8, [(0x100, 32)], fun l => .leSupStat (l.getD 0 0)⟩,
  ⟨0x2010AC, [(0x100, 32)], fun l => .leMissCnt (l.getD 0 0)⟩,
  ⟨0x200020, [], fun _ => .leTestCtrl⟩,
  ⟨0x200024, [], fun _ => .leTestAmp⟩,
  ⟨0x200028, [], fun _ => .leTestInc0⟩,
  ⟨0x20002C, [], fun _ => .leTestInc1⟩,
  ⟨0x200030, [], fun _ => .leTestLen⟩,
  ⟨0x200034, [], fun _ => .leTestPrepost⟩,
  ⟨0x200038, [], fun _ => .leTestSeed⟩,
  ⟨0x20003C, [], fun _ => .leCapSelLo⟩,
  ⟨0x200040, [], fun _ => .leCapSelMid⟩,
  ⟨0x200044, [], fun _ => .leCapSelHi⟩,
  ⟨0x200048, [], fun _ => .leCapBaseLo⟩,
  ⟨0x20004C, [], fun _ => .leCapBaseHi⟩,
  ⟨0x200050, [], fun _ => .leCapCfg⟩,
  ⟨0x200054, [], fun _ => .leCapLen⟩,
  ⟨0x200058, [], fun _ => .leTestStat⟩,
  ⟨0x20005C, [], fun _ => .leTestStartLo⟩,
  ⟨0x200060, [], fun _ => .leTestStartHi⟩,
  ⟨0x200064, [], fun _ => .leTestDd⟩,
  ⟨0xA0000, [], fun _ => .avStat⟩,
  ⟨0xA0004, [], fun _ => .avArithStat⟩,
  ⟨0xA0008, [], fun _ => .avTileMapLo⟩,
  ⟨0xA000C, [], fun _ => .avTileMapHi⟩,
  ⟨0xA0010, [], fun _ => .avTileFailLo⟩,
  ⟨0xA0014, [], fun _ => .avTileFailHi⟩,
  ⟨0xA0018, [], fun _ => .avStackStat⟩,
  ⟨0xA0020, [], fun _ => .avEccCfg⟩,
  ⟨0xA0024, [], fun _ => .avScrubStat⟩,
  ⟨0xA0028, [], fun _ => .avEccUeCnt⟩,
  ⟨0xA002C, [], fun _ => .avEccLastLo⟩,
  ⟨0xA0030, [], fun _ => .avEccLastHi⟩,
  ⟨0xA0034, [], fun _ => .avEccCeSram⟩,
  ⟨0xA0040, [(0x4, 8)], fun l => .avEccCeDram (l.getD 0 0)⟩,
  ⟨0xA0060, [], fun _ => .avBusyLo⟩,
  ⟨0xA0064, [], fun _ => .avBusyHi⟩,
  ⟨0xA0080, [], fun _ => .avSchedCfg⟩,
  ⟨0xA0084, [], fun _ => .avSchedStat⟩,
  ⟨0xA0088, [], fun _ => .avPreemptCnt⟩,
  ⟨0xA008C, [], fun _ => .avJobDone⟩]

/-- The register maps, part 3. -/
def regRows3 : List RegRow := [
  ⟨0xA0090, [], fun _ => .avTrainShare⟩,
  ⟨0xA0100, [], fun _ => .avFcCtrl⟩,
  ⟨0xA0104, [(0x4, 4)], fun l => .avFcTlmSel (l.getD 0 0)⟩,
  ⟨0xA0120, [], fun _ => .avFcSchedBaseLo⟩,
  ⟨0xA0124, [], fun _ => .avFcSchedBaseHi⟩,
  ⟨0xA0128, [], fun _ => .avFcSchedCfg⟩,
  ⟨0xA0130, [], fun _ => .avFcStat⟩,
  ⟨0xA0134, [], fun _ => .avFcGen⟩,
  ⟨0xA0138, [], fun _ => .avFcHistAnchorLo⟩,
  ⟨0xA013C, [], fun _ => .avFcHistAnchorHi⟩,
  ⟨0xA0140, [], fun _ => .avFcErr1ms⟩,
  ⟨0xA0144, [], fun _ => .avFcErr10ms⟩,
  ⟨0xA0148, [], fun _ => .avFcErr50ms⟩,
  ⟨0xA014C, [], fun _ => .avFcMiss⟩,
  ⟨0xA0150, [], fun _ => .avFcSchedErr⟩,
  ⟨0xA0154, [], fun _ => .avTrStat⟩,
  ⟨0xA0158, [], fun _ => .avTrGenReady⟩,
  ⟨0xA015C, [], fun _ => .avTrSource⟩,
  ⟨0xA0160, [(0x4, 4)], fun l => .avMdlBank (l.getD 0 0)⟩,
  ⟨0xA0200, [(0x8, 32)], fun l => .avFcBr (l.getD 0 0)⟩,
  ⟨0xA0204, [(0x8, 32)], fun l => .avFcBrc (l.getD 0 0)⟩,
  ⟨0xA0300, [], fun _ => .avLsStat⟩,
  ⟨0xA0304, [], fun _ => .avLsOrdLo⟩,
  ⟨0xA0308, [], fun _ => .avLsOrdHi⟩,
  ⟨0xA030C, [], fun _ => .avLsDivLo⟩,
  ⟨0xA0310, [], fun _ => .avLsDivHi⟩,
  ⟨0xA0314, [], fun _ => .avLsPort⟩,
  ⟨0x90000, [], fun _ => .plStat⟩,
  ⟨0x90004, [], fun _ => .plMaster⟩,
  ⟨0x90008, [], fun _ => .plPlanCtrl⟩,
  ⟨0x9000C, [], fun _ => .plPlanBaseLo⟩,
  ⟨0x90010, [], fun _ => .plPlanBaseHi⟩,
  ⟨0x90014, [], fun _ => .plPlanLen⟩,
  ⟨0x90018, [], fun _ => .plPlanSel⟩,
  ⟨0x9001C, [], fun _ => .plPlanIdLo⟩,
  ⟨0x90020, [], fun _ => .plPlanIdHi⟩,
  ⟨0x90024, [], fun _ => .plMaint⟩,
  ⟨0x90028, [], fun _ => .plSuspect⟩,
  ⟨0x9002C, [], fun _ => .plSliceStat⟩,
  ⟨0x90030, [], fun _ => .plStepStat⟩,
  ⟨0x90034, [], fun _ => .plMsgStat⟩,
  ⟨0x90100, [(0x10, 48)], fun l => .plLinkStat (l.getD 0 0)⟩,
  ⟨0x90104, [(0x10, 48)], fun l => .plLinkErr (l.getD 0 0)⟩,
  ⟨0x90108, [(0x10, 48)], fun l => .plLinkOpt (l.getD 0 0)⟩,
  ⟨0x80000, [], fun _ => .crCtrl⟩,
  ⟨0x80004, [], fun _ => .crStat⟩,
  ⟨0x80008, [], fun _ => .crVlim⟩,
  ⟨0x8000C, [], fun _ => .crVtaper⟩]

/-- The register maps, part 4. -/
def regRows4 : List RegRow := [
  ⟨0x80010, [], fun _ => .crVhard⟩,
  ⟨0x80014, [], fun _ => .crTemp⟩,
  ⟨0x80018, [], fun _ => .crIcell⟩,
  ⟨0x8001C, [], fun _ => .crWireCfg⟩,
  ⟨0x80020, [], fun _ => .crBalCfg⟩,
  ⟨0x80030, [], fun _ => .crCampStat⟩,
  ⟨0x80034, [], fun _ => .crCapsStat⟩,
  ⟨0x80038, [], fun _ => .crCapsRes⟩,
  ⟨0x80040, [(0x4, 48)], fun l => .crOcv (l.getD 0 0)⟩,
  ⟨0x80100, [(0x40, 4)], fun l => .crPcfg (l.getD 0 0)⟩,
  ⟨0x80104, [(0x40, 4)], fun l => .crPcap (l.getD 0 0)⟩,
  ⟨0x80108, [(0x40, 4)], fun l => .crPenergy (l.getD 0 0)⟩,
  ⟨0x8010C, [(0x40, 4)], fun l => .crPstat (l.getD 0 0)⟩,
  ⟨0x80110, [(0x40, 4)], fun l => .crPlim (l.getD 0 0)⟩,
  ⟨0x80114, [(0x40, 4)], fun l => .crPvolt (l.getD 0 0)⟩,
  ⟨0x80118, [(0x40, 4)], fun l => .crPsoe (l.getD 0 0)⟩,
  ⟨0x8011C, [(0x40, 4)], fun l => .crPstampA (l.getD 0 0)⟩,
  ⟨0x80120, [(0x40, 4)], fun l => .crPstampB (l.getD 0 0)⟩,
  ⟨0x80124, [(0x40, 4)], fun l => .crPerr (l.getD 0 0)⟩,
  ⟨0x81000, [(0x200, 4), (0x10, 32)], fun l => .crUnitStat (l.getD 0 0) (l.getD 1 0)⟩,
  ⟨0x81004, [(0x200, 4), (0x10, 32)], fun l => .crUnitT (l.getD 0 0) (l.getD 1 0)⟩,
  ⟨0x81008, [(0x200, 4), (0x10, 32)], fun l => .crUnitCg01 (l.getD 0 0) (l.getD 1 0)⟩,
  ⟨0x8100C, [(0x200, 4), (0x10, 32)], fun l => .crUnitCg23 (l.getD 0 0) (l.getD 1 0)⟩,
  ⟨0x84000, [(0x4, 2048)], fun l => .crCell (l.getD 0 0)⟩,
  ⟨0x20000, [], fun _ => .fcStat⟩,
  ⟨0x20004, [], fun _ => .fcTimer⟩,
  ⟨0x20008, [], fun _ => .fcTimerCorr⟩,
  ⟨0x2000C, [], fun _ => .fcAck⟩,
  ⟨0x20010, [], fun _ => .fcRaiseDetail⟩,
  ⟨0x20014, [], fun _ => .fcRaise⟩,
  ⟨0x20018, [], fun _ => .fcCount⟩,
  ⟨0x2001C, [], fun _ => .fcQuench⟩,
  ⟨0x20020, [], fun _ => .fcQentryLo⟩,
  ⟨0x20024, [], fun _ => .fcQentryHi⟩,
  ⟨0x20028, [], fun _ => .fcRelease⟩,
  ⟨0x2002C, [], fun _ => .fcTest⟩,
  ⟨0x20030, [], fun _ => .fcInj⟩,
  ⟨0x20040, [(0x4, 8)], fun l => .fcActive (l.getD 0 0)⟩,
  ⟨0x20060, [(0x4, 8)], fun l => .fcWiring (l.getD 0 0)⟩,
  ⟨0x30000, [], fun _ => .prCfg⟩,
  ⟨0x30004, [], fun _ => .prStat⟩,
  ⟨0x30008, [], fun _ => .prPartner⟩,
  ⟨0x3000C, [], fun _ => .prHealth⟩,
  ⟨0x30010, [], fun _ => .prCmp⟩,
  ⟨0x30014, [], fun _ => .prSwCnt⟩,
  ⟨0x30018, [], fun _ => .prSwLastLo⟩,
  ⟨0x3001C, [], fun _ => .prSwLastHi⟩,
  ⟨0x30020, [], fun _ => .prCfgsumLo⟩]

/-- The register maps, part 5. -/
def regRows5 : List RegRow := [
  ⟨0x30024, [], fun _ => .prCfgsumHi⟩,
  ⟨0x30028, [], fun _ => .prFeed⟩,
  ⟨0x60000, [], fun _ => .dmStat⟩,
  ⟨0x60004, [], fun _ => .dmBusy⟩,
  ⟨0x60008, [], fun _ => .dmReq⟩,
  ⟨0x60100, [(0x40, 32)], fun l => .dmChCtrl (l.getD 0 0)⟩,
  ⟨0x60104, [(0x40, 32)], fun l => .dmChCfg (l.getD 0 0)⟩,
  ⟨0x60108, [(0x40, 32)], fun l => .dmChLimit (l.getD 0 0)⟩,
  ⟨0x6010C, [(0x40, 32)], fun l => .dmChHeadLo (l.getD 0 0)⟩,
  ⟨0x60110, [(0x40, 32)], fun l => .dmChHeadHi (l.getD 0 0)⟩,
  ⟨0x60114, [(0x40, 32)], fun l => .dmChCurLo (l.getD 0 0)⟩,
  ⟨0x60118, [(0x40, 32)], fun l => .dmChCurHi (l.getD 0 0)⟩,
  ⟨0x6011C, [(0x40, 32)], fun l => .dmChStat (l.getD 0 0)⟩,
  ⟨0x60120, [(0x40, 32)], fun l => .dmChDone (l.getD 0 0)⟩,
  ⟨0x60124, [(0x40, 32)], fun l => .dmChBad (l.getD 0 0)⟩,
  ⟨0x60128, [(0x40, 32)], fun l => .dmChChain (l.getD 0 0)⟩,
  ⟨0x6012C, [(0x40, 32)], fun l => .dmChErr (l.getD 0 0)⟩,
  ⟨0x10000, [], fun _ => .cxLinkStat⟩,
  ⟨0x10004, [], fun _ => .cxLinkErr⟩,
  ⟨0x10008, [], fun _ => .cxHdmStat⟩,
  ⟨0x1000C, [], fun _ => .cxHostwin⟩,
  ⟨0x10010, [], fun _ => .cxDenyCnt⟩,
  ⟨0x10014, [], fun _ => .cxDenyLastLo⟩,
  ⟨0x10018, [], fun _ => .cxDenyLastHi⟩,
  ⟨0x10800, [(0x100, 3), (0x10, 8)], fun l => .cxRwBaseLo (l.getD 0 0) (l.getD 1 0)⟩,
  ⟨0x10804, [(0x100, 3), (0x10, 8)], fun l => .cxRwBaseHi (l.getD 0 0) (l.getD 1 0)⟩,
  ⟨0x10808, [(0x100, 3), (0x10, 8)], fun l => .cxRwSize (l.getD 0 0) (l.getD 1 0)⟩,
  ⟨0x50000, [], fun _ => .idStat⟩,
  ⟨0x50004, [], fun _ => .idSerialLo⟩,
  ⟨0x50008, [], fun _ => .idSerialHi⟩,
  ⟨0x5000C, [], fun _ => .idTkVer⟩,
  ⟨0x50010, [], fun _ => .idAppVer⟩,
  ⟨0x50014, [], fun _ => .idSvn⟩,
  ⟨0x50020, [], fun _ => .idUpdAddrLo⟩,
  ⟨0x50024, [], fun _ => .idUpdAddrHi⟩,
  ⟨0x50028, [], fun _ => .idUpdLen⟩,
  ⟨0x5002C, [], fun _ => .idUpdCtrl⟩,
  ⟨0x50030, [], fun _ => .idUpdStat⟩,
  ⟨0x30, [], fun _ => .syReady⟩,
  ⟨0x34, [], fun _ => .syReadyChg⟩,
  ⟨0x40000, [], fun _ => .evStat⟩,
  ⟨0x40004, [], fun _ => .evSeq⟩,
  ⟨0x40008, [], fun _ => .evStored⟩,
  ⟨0x4000C, [], fun _ => .evOpsec⟩,
  ⟨0x40010, [], fun _ => .evPwrcyc⟩,
  ⟨0x40014, [], fun _ => .evLost⟩]

/-- The whole register map. -/
def regRows : List RegRow := regRows0 ++ regRows1 ++ regRows2 ++ regRows3 ++ regRows4 ++ regRows5

/-- The indices a byte distance spells under a row's strides, if it spells them exactly. -/
def strideIndices : List (Nat × Nat) → Nat → Option (List Nat)
  | [], d => if d = 0 then some [] else none
  | (w, n) :: rest, d =>
    if d / w < n then (strideIndices rest (d % w)).map (fun l => d / w :: l)
    else none

/-- The register a row gives to an address. -/
def RegRow.at? (r : RegRow) (a : Nat) : Option Reg :=
  if r.base ≤ a then (strideIndices r.strides (a - r.base)).map r.reg else none

/-- The register at a device address of the register file (R478): none where no map names one. -/
def Reg.ofAddr (a : Nat) : Option Reg := regRows.findSome? (fun r => r.at? a)

end Sys2Proof.Machine
end

