-- ==== Sys2Proof/Machine/Rs.lean ====
section
/-! DEFINITION. The Reed-Solomon code of a memory line (R208): GF(2^8), the check symbols, and what the decoder of R209 finds in the
68 symbols of a line. -/

namespace Sys2Proof.Machine

/-- One multiplication by α = x in GF(2^8) with x^8 + x^4 + x^3 + x^2 + 1 (R208). -/
def gfStep (a : Byte) : Byte := (a <<< 1) ^^^ (if a.getLsbD 7 then 0x1D else 0)

/-- The product of two field elements: the bits of `b` from the top, `n` of them. -/
def gfMulBits (a b : Byte) : Nat → Byte
  | 0 => 0
  | n + 1 => gfStep (gfMulBits a (b >>> 1) n) ^^^ (if b.getLsbD 0 then a else 0)

/-- The product in GF(2^8). -/
def gfMul (a b : Byte) : Byte := gfMulBits a b 8

/-- α to a power. -/
def gfPow : Nat → Byte
  | 0 => 1
  | n + 1 => gfStep (gfPow n)

/-- A polynomial, highest coefficient first, at a point. -/
def gfEval (x : Byte) (cs : List Byte) : Byte := cs.foldl (fun acc c => gfMul acc x ^^^ c) 0

/-- The three syndromes of a line's 68 symbols: the code word read as a polynomial, symbol 0 its highest coefficient, at α^0, α^1 and
α^2 (R208; the order of the symbols is a DESIGN CHOICE, notes/assumptions/65). -/
def syndromes (syms : List Byte) : Byte × Byte × Byte := (gfEval 1 syms, gfEval 2 syms, gfEval 4 syms)

/-- The generator (x + 1)(x + α)(x + α^2) without its leading 1, highest coefficient first (R208). -/
def rsGenerator : List Byte := [7, 14, 8]

/-- The check symbols of the information symbols: the remainder of their polynomial times x^3 (R208). -/
def checkSymbols (info : List Byte) : List Byte :=
  info.foldl (fun r c =>
    let q := c ^^^ r.getD 0 0
    (r.drop 1 ++ [0]).zipWith (fun x g => x ^^^ gfMul q g) rsGenerator) [0, 0, 0]

/-- What the decoder finds (R209): nothing, one symbol with the difference that corrects it, or an uncorrectable pattern. -/
inductive Finding where
  | good
  | one (symbol : Nat) (diff : Byte)
  | bad
  deriving DecidableEq, Repr

/-- The finding behind three syndromes: one symbol in error at the place where they form a geometric sequence. -/
def findingOf (s : Byte × Byte × Byte) : Finding :=
  if s.1 = 0 ∧ s.2.1 = 0 ∧ s.2.2 = 0 then .good
  else
    match (List.range 68).find? (fun i =>
      s.1 ≠ 0 ∧ s.2.1 = gfMul s.1 (gfPow (67 - i)) ∧ s.2.2 = gfMul s.2.1 (gfPow (67 - i))) with
    | some i => .one i s.1
    | none => .bad

/-- A list of symbols with differences added at their places. -/
def addErrors (syms : List Byte) (errs : List (Nat × Byte)) : List Byte :=
  errs.foldl (fun l e => l.modify e.1 (fun b => b ^^^ e.2)) syms

end Sys2Proof.Machine
end

