-- ==== Sys2Proof/Machine/State.lean ====
section
/-! DEFINITION. The state of the WS96 module as plain data: one record per unit, the register file, the memories, and
the queue of the commands that are waiting. The inventory (INVENTORY.md, `## State`) lists every field with its rule. -/

namespace Sys2Proof.Machine

/-- Why a command stops the machine. No rule of spec/ leaves a command of the table without an effect, so no meaning
raises one; the constructor is kept for `Host.Core`'s shape. -/
inductive Fault where
  /-- Raised by no meaning of this model (safe). -/
  | unreachable
  deriving DecidableEq, Repr

/-- Why a command has no meaning. -/
inductive Refusal where
  /-- Raised by an arm of `exec` whose command has no meaning yet, with the row's mnemonic (safe). -/
  | notModelled (mnemonic : String)
  deriving DecidableEq, Repr

/-- A sparse table: index and value pairs, indices strictly rising, no value 0. An unlisted index holds 0. -/
abbrev Sparse (w : Nat) := List (Nat × BitVec w)

/-- Where a reply or a notification goes (R57, R61): ring, the ring's enable epoch (R58), and what the entry repeats
of its command. -/
structure RTo where
  ring : Nat
  epoch : Nat
  tag : Nat
  opcode : Nat
  seq : Word
  deriving DecidableEq, Repr

/-- What the posting of a status entry frees (R70): nothing, the tag and tracker entry of an operation that has ended, or the tag of
a launch that has completed. -/
inductive Frees where
  | nothing
  | op (id : Nat)
  | launch (at_ : Nat)
  deriving DecidableEq, Repr

/-- One status entry (R61) before its phase bit. `count` is the applying or launch count where the entry carries one; else the entry
carries the count of the frame in which it is posted. `first` marks the first reply of its packet (R60, wait). -/
structure StsEntry where
  rt : RTo
  status : Nat
  count : Option Nat
  result : List Word
  first : Bool
  frees : Frees
  deriving DecidableEq, Repr

/-- What a ring holds besides its registers (R54–R58): which pass of the status ring is being written, the entries held
back while the status ring is full or waits for R487, packets without a first reply, and the enable epoch. -/
structure RingSt where
  passOdd : Bool
  held : List StsEntry
  owing : Nat
  epoch : Nat
  rdownWait : Bool
  deriving DecidableEq, Repr

/-- The time states of R39. -/
inductive TimeState where
  | free | joining | locked | slewing | holdover
  deriving DecidableEq, Repr

/-- The strike counter and domain time (R36–R41); `pairPhase` is what is left of the partner's strike phase (R450). -/
structure TimeSt where
  powered : Bool
  count : Nat
  upFrames : Nat
  state : TimeState
  offset : Int
  freqCorr : Int
  sfSince : Nat
  sinceMsg : Nat
  inDomain : Bool
  adoptDelta : Option Int
  pairAdopt : Option Int
  pairPhase : Int
  deriving DecidableEq, Repr

/-- The states of a configuration transaction (R78). -/
inductive TxnState where
  | idle | opened | validating
  deriving DecidableEq, Repr

/-- A staged register word (R80): device address, staged value, base. -/
structure Staged where
  addr : Nat
  value : Word
  base : Word
  deriving DecidableEq, Repr

/-- The one configuration transaction (R78–R87); `winAt` is the frame of the last validation window (R82). -/
structure TxnSt where
  state : TxnState
  owner : Cls
  ring : Nat
  age : Nat
  staged : List Staged
  overflow : Bool
  commit : Option (RTo × Nat)
  windows : Nat
  applyAt : Option Nat
  deferred : Bool
  winAt : Option Nat
  timedOut : Option Cls
  agePending : Bool
  deriving DecidableEq, Repr

/-- The states of a launch slot (R42). -/
inductive SlotState where
  | free | armed | fired | gone
  deriving DecidableEq, Repr

/-- A launch slot (R42–R49); `origin` in the encoding of `SY_LAUNCH_ACT_n`; `valid` is the verdict of frame L−1 on a
launched commit (0 while it passes); `domain` names the master's position and the term of a domain launch (R348). -/
structure LaunchSlot where
  state : SlotState
  count : Nat
  action : Nat
  arg : Word
  origin : Nat
  tag : Nat
  status : Nat
  reply : Option RTo
  staged : List Staged
  valid : Nat
  result : List Word
  armedAt : Nat
  domain : Option (Nat × Nat)
  deriving DecidableEq, Repr

/-- The states of an operation in flight (R73, R77). -/
inductive OpState where
  | running | suspending | suspended | cancelling
  deriving DecidableEq, Repr

/-- An entry of the tracker (R70): the operation's identity, where its notifications go, its class, opcode and state,
the count of its last change, and whether a resumption is still to be reported (R73). `ended` marks an operation whose terminal
entry waits to be posted: its tag and its place in the tracker are held until then (R70). -/
structure Op where
  id : Nat
  rt : RTo
  cls : Cls
  state : OpState
  ended : Bool
  changed : Nat
  resumeNote : Option Nat
  cause : Nat
  deriving DecidableEq, Repr

/-- The states of a fault record (R407). -/
inductive RecState where
  | pending | acked | escalated | causedQuench
  deriving DecidableEq, Repr

/-- A fault record (R407) with the timer it started with, in frames (R410, R426). -/
structure FaultRec where
  count : Nat
  seq : Nat
  source : Nat
  cls : FCls
  kind : Nat
  cycle : Nat
  st : RecState
  raisedFw : Bool
  injected : Bool
  detail : Word
  dueAt : Int
  deriving DecidableEq, Repr

/-- A pair forced under R422: source, class, mode and kind. -/
structure Forced where
  source : Nat
  cls : FCls
  mode : Nat
  kind : Nat
  deriving DecidableEq, Repr

/-- Why quench was entered (R413, R426). -/
inductive QCause where
  | none | escalation | command | collector
  deriving DecidableEq, Repr

/-- `FC_QUENCH` and the entry count (R413, R415, R426); `rel` is the low nibble of R427. -/
structure QuenchSt where
  active : Bool
  contactorOpen : Bool
  cause : QCause
  rel : Nat
  source : Nat
  cls : FCls
  seq : Nat
  entry : Nat
  leaving : Bool
  leaveNew : Bool
  deriving DecidableEq, Repr

/-- The fault collector (R400–R426): the record list, newest first; the pairs in fault, non-complementary, monitored
and forced; quench and what awaits the next strike. -/
structure FaultSt where
  recs : List FaultRec
  nextSeq : Nat
  active : List (Nat × FCls)
  wiring : List (Nat × FCls)
  monitored : List (Nat × FCls)
  forced : List Forced
  testMode : Bool
  signalled : Bool
  quench : QuenchSt
  pushed : List FaultRec
  parity : Option FaultRec
  quenchCmds : List (RTo × FaultRec)
  release : Option Cls
  relNew : Bool
  readySeen : Nat
  deriving DecidableEq, Repr

/-- An event record on its way to flash (R525). -/
structure EvRec where
  type : Nat
  cls : FCls
  payload : List Word
  opSec : Nat
  pwrCyc : Nat
  count : Nat
  quench : Bool
  holder : Bool
  held : Bool
  deriving DecidableEq, Repr

/-- A stored event record with its rec_seq (R525). -/
structure StoredRec where
  seq : Nat
  body : EvRec
  deriving DecidableEq, Repr

/-- The event recorder (R525–R535); `stored` newest first. -/
structure EvSt where
  mounted : Bool
  mountFailed : Bool
  queue : List EvRec
  hold : List EvRec
  stored : List StoredRec
  nextSeq : Nat
  opSec : Nat
  opTick : Nat
  opSaved : Nat
  lastDownSec : Nat
  pwrCyc : Nat
  fromReset : Bool
  powerGoodQueued : Bool
  freezePending : Bool
  freezeNew : Bool
  frozen : Bool
  freezeStart : Int
  idle : Nat
  lostInFreeze : Nat
  retired : Nat
  retiredFault : Bool
  deriving DecidableEq, Repr

/-- The scheduled module reset (R67): kind (true full), the strike of the claim release while it is under way, the
strike of ST_OK, the strike of the reset, and where ST_OK goes. -/
structure ModReset where
  full : Bool
  rt : RTo
  releasing : Bool
  releaseAt : Option Nat
  postAt : Option Nat
  resetAt : Option Nat
  deriving DecidableEq, Repr

/-- The redundant pair (R428–R453). `topSeen` is the highest claim number seen in a stage's report or the partner's frames (R432);
`tx`, `rowTx` and `segTx` are the words that the pair link carries in the frame (R435, R440), `segOut` what the segment is of; `runA` and `runB`
count the frames in which a feed stayed above 46.0 V (R448). -/
structure PairSt where
  side : Bool
  pairUp : Bool
  downFault : Bool
  holding : Bool
  claimNum : Nat
  lastCause : Nat
  suspect : Bool
  releaseFlag : Bool
  takeNext : Option Nat
  giveNext : Option (Nat × Bool)
  releaseReq : List RTo
  kernelRelease : Bool
  partnerNow : Option PairFrame
  rowsOut : List (Nat × List Word)
  partnerLast : Option PairFrame
  missRun : Nat
  readyAtLast : Bool
  verdict : Nat
  verdictRun : Nat
  diffRun : Nat
  diffFault : Bool
  equalRun : Nat
  standbyReady : Bool
  healthRun : Nat
  startRun : Nat
  aloneRun : Nat
  aloneFault : Bool
  claimSeen : Nat
  topSeen : Nat
  sentRecent : List (Nat × Nat)
  foreignFault : Bool
  noLinkRun : Nat
  aligned : Bool
  alignRecv : Option (Nat × Nat)
  alignPending : List AlignSeg
  alignSend : Option (Nat × Nat)
  alignRetryAt : Nat
  alignReq : Bool
  ownFrame : Option PairFrame
  tx : List Word
  rowTx : List (List Word)
  segOut : Option AlignSeg
  segTx : List Word
  inDigest : DWord
  outDigest : DWord
  cfgDelta : DWord
  coolantOverride : Option Nat
  feedA : Bool
  feedB : Bool
  voltA : Nat
  voltB : Nat
  runA : Nat
  runB : Nat
  dying : Bool
  dyingFrames : Nat
  partnerAligned : Bool
  swLast : Nat
  deriving DecidableEq, Repr

/-- An HDM decoder (R486): committed, host base, size, device physical base, and a refused commit. -/
structure HdmDec where
  committed : Bool
  error : Bool
  hpa : Nat
  size : Nat
  dpa : Nat
  deriving DecidableEq, Repr

/-- The CXL port (R481–R501); `denyHi` is the high word of the last denied line, which a read of the low word latches. -/
structure CxlSt where
  linkUp : Bool
  speed : Nat
  width : Nat
  flit256 : Bool
  cacheEn : Bool
  memEn : Bool
  bme : Bool
  wasRate : Nat
  dec0 : HdmDec
  dec1 : HdmDec
  msixMask : Nat
  msixPend : Nat
  msixSent : List Nat
  fwIrq : List Nat
  denied : List Nat
  denyHi : Word
  lastPoison : Bool
  lastUr : Bool
  hostReq : List (Bool × Nat × List Byte)
  deriving DecidableEq, Repr

/-- One kind's two flash slots and its boot record (R515–R517). -/
structure SlotPair where
  slot0 : Option Image
  slot1 : Option Image
  boot : Bool
  staged : Bool
  trial : Bool
  floor : Nat
  running : Option Image
  deriving DecidableEq, Repr

/-- A staging action under way (R516). -/
structure StageJob where
  addr : Nat
  len : Nat
  deriving DecidableEq, Repr

/-- The phases of an SPDM connection (R510, R511). -/
inductive SpdmPhase where
  | start | version | capabilities | negotiated
  deriving DecidableEq, Repr

/-- Identity, attestation and firmware (R502–R519). -/
structure IdSt where
  serial : Nat
  pufOk : Bool
  certOk : Bool
  variantOk : Bool
  variantBody : List Byte
  tk : SlotPair
  app : SlotPair
  tkRun : Bool
  appRun : Bool
  updState : Nat
  updKind : Bool
  updStatus : Nat
  job : Option StageJob
  spdm : SpdmPhase
  spdmVer : Nat
  vca : List Byte
  transcript : List Byte
  mTranscript : List Byte
  response : List Byte
  publicKey : List Byte
  flashKey : List Byte
  deriving DecidableEq, Repr

/-- A saved configuration copy in flash (R524). -/
structure SavedCfg where
  count : Nat
  words : List (Nat × Word)
  crcOk : Bool
  deriving DecidableEq, Repr

/-- What the trusted kernel enabled (R3, R5) and what is in service (R8), and the bring-up (R524). `capDiff` names each unit on which
variant record and population disagree (R3); `keptTiles`, `keptStks` and `keptLinks` are the counts that `SY_CAP1` keeps while no
fault has taken the units out of service although they do not run: across an application reset (R556), and the links while
`peer_en` is 0 (R28). -/
structure SysSt where
  variant : Nat
  tiles : Nat
  stks : Nat
  links : Nat
  train : Bool
  lockstep : Bool
  master : Bool
  straps : Nat
  strapOk : Bool
  position : Nat
  capValid : Bool
  leverLatched : Bool
  cfgLoaded : Bool
  cfgFailed : Bool
  loadLate : Bool
  saved : List SavedCfg
  savePending : Option Nat
  capDiff : List Nat
  keptTiles : Nat
  keptStks : Nat
  keptLinks : Nat
  readyAge : List Nat
  limitDone : Nat
  modReset : Option ModReset
  deriving DecidableEq, Repr

/-- The module's own temperatures and its place on the tray management link (R545, R550, R551): the die's step with its
dwell counts per step, the module's step, the stop of 115 °C with the frames below 100 °C, the frames of a cold inlet;
the PLCA node, whether `plcaWait` listens, and the frames without a BEACON. -/
structure PhysSt where
  flow : Nat
  inlet : Int
  die : Int
  dieStep : Nat
  dieUp : List Nat
  dieDown : List Nat
  modStep : Nat
  stopped : Bool
  coolRun : Nat
  inletLow : Nat
  inletFault : Bool
  plcaNode : Option Nat
  plcaQuiet : Nat
  deriving DecidableEq, Repr

/-- One LPDDR5 stack (R192, R213): trained, in service, why it left (0 none, 1 training, 2 temperature), whether it was out of service
at the last reset, whether it has returned to service (its unwritten lines then read poisoned), its watermark in bytes, its corrected errors of the
present window, whether it runs hot, and its last retraining attempt. -/
structure StackSt where
  trained : Bool
  inService : Bool
  outBy : Nat
  wasOut : Bool
  returned : Bool
  watermark : Nat
  winCe : Nat
  hot : Bool
  lastTry : Int
  deriving DecidableEq, Repr

/-- The set-point slot (R17, R90, R125): BUS_VREF in mV, S, G, D and DIS in W, per-stage set-points in W, and the brake
request with the conditions of R108 behind its last change (bit 0 the first, bit 1 the second). -/
structure SpSlot where
  vref : Int
  s : Int
  g : Int
  d : Int
  dis : Int
  stage : List Int
  brakeReq : Bool
  brakeCond : Nat
  deriving DecidableEq, Repr

/-- A tray of the rack (R106, R107): the caps and draws it reported and when, the run of misses already reported, the cap
the host set (R99), and the cap last sent. -/
structure TraySt where
  cap : Nat
  draw : Nat
  release : Nat
  heardAt : Option Int
  missed : Bool
  host : Word
  sent : Option Nat
  deriving DecidableEq, Repr

/-- Bellows dispatch (R89–R120). `demand` holds the last D values, newest first, up to 5,000; `stat` the register values
that the next strike publishes (R120); `unmet` the host-set limits not met (R21); `trays` by tray number from 1;
`brakeOn` the assertion of R109 and `brakeNet` whether anything else holds the net low. -/
structure BellowsSt where
  started : Bool
  startAt : Int
  snap : DispSnap
  gHold : Int
  demand : List Int
  demandSum : Int
  d : Int
  gm : Int
  spPub : SpSlot
  spIdle : Option SpSlot
  spFresh : Bool
  spFault : Bool
  vref : Nat
  soeTgt : Nat
  vrefNext : Option Nat
  soeNext : Option Nat
  rackCap : Word
  rackCapNext : Option Word
  hostNext : List (Nat × Word)
  bandLo : Nat
  bandHi : Nat
  sched : List (Int × Word)
  brakeNet : Bool
  brakeOn : Bool
  brakeFault : Bool
  overRun : Nat
  trays : List TraySt
  step3Run : Nat
  step3Fault : Bool
  unmet : List Nat
  moved : List Nat
  short : Bool
  want : Int
  limFault : Bool
  stat : List (Nat × Word)
  deriving DecidableEq, Repr

/-- A bridge slot as published (R142): publishing count, model generation, 21 LQ elements. -/
structure BridgeSlot where
  pub : Nat
  gen : Nat
  elems : List Int
  deriving DecidableEq, Repr

/-- One loop (R121–R172). `started` is false while disabled or not yet started; `restart` and `swap` are due in the next
computed frame, `swapNow` marks a frame that swapped; `fb` is f_b of the last frame and `prevGen` the model_gen used in
it; `out`, `satHi`, `satLo` are those of the last computed frame; `badEntry` is the uncorrectable entry behind a miss;
`y` to `xUse` are the values of the present frame that a capture may select (R179). -/
structure LoopSt where
  started : Bool
  restart : Bool
  swap : Bool
  swapNow : Bool
  s : LoopSnap
  fb : Int
  prevGen : Nat
  feBlank : Nat
  feActive : Bool
  out : List Int
  satHi : Nat
  satLo : Nat
  regionUse : Nat
  missed : Bool
  badEntry : Option Nat
  noRegion : Bool
  y : List Int
  v : List Int
  r : Int
  et : Int
  fd : Int
  iUse : List Int
  xUse : List Int
  slotPub : Option BridgeSlot
  enabledAtPub : Bool
  deriving DecidableEq, Repr

/-- A stage link (R157–R164): lock, service, consecutive arrived frames and frames not arrived, the frame that arrived in
the present frame, whether one failed its checks, the last that arrived, the words last sent, and late outputs (R32). -/
structure StageLinkSt where
  lock : Bool
  inService : Bool
  goodRun : Nat
  missRun : Nat
  missFault : Bool
  now : Option FeedbackIn
  failed : Bool
  last : FeedbackIn
  tx : List Word
  lateRun : Nat
  lateFault : Bool
  deriving DecidableEq, Repr

/-- The phases of a loop test (R176), in the encoding of `LE_TEST_STAT`. -/
inductive TestPhase where
  | idle | pre | inject | post | done | aborted
  deriving DecidableEq, Repr

/-- The loop test (R176–R183): phase and abort cause shown, loop, start count, records written, the generators of R177, t
of the present frame, the count up to which the loop stays excluded (R181), owner class, the causes of R182 seen, and the lowest of the
first frame that closed with one. -/
structure TestSt where
  phase : TestPhase
  abort : Nat
  loop : Nat
  start : Nat
  records : Nat
  ph : Nat
  inc : Nat
  lfsr : Nat
  lfsrBit : Bool
  t : Int
  wave : Nat
  held : Bool
  quiet : List (Nat × Nat)
  owner : Cls
  claimChange : Bool
  loopMissed : Bool
  severe : Bool
  restarted : Bool
  capErr : Bool
  cause : Option Nat
  deriving DecidableEq, Repr

/-- The loop engine as a whole (R121–R183): coefficient entries known uncorrectable, cycles of the last frame; what the RO registers show of the
frame that ended (R156). -/
structure EngineSt where
  loops : List LoopSt
  badCoef : List Nat
  links : List StageLinkSt
  test : TestSt
  cycles : Nat
  shown : List LoopSt
  shownLinks : List StageLinkSt
  shownAt : Nat
  shownTest : TestSt
  shownDd : Int
  shownCycles : List Nat
  deriving DecidableEq, Repr

/-- The states of a peer link (R334), in the encoding of `PL_LINK_STAT_n`. -/
inductive LinkState where
  | down | training | ident | held | service | maint
  deriving DecidableEq, Repr

/-- The types of a peer frame (R321); an acknowledgement of a slice copy is of class 2, one of a generation of class 3. -/
inductive FrameType where
  | ident | leave | health | time | superframe | report | table | partialSum | claim | sliceCopy | gen
  | xferAck (copy : Bool)
  deriving DecidableEq, Repr

/-- A frame in the retry buffer (R323, R324): retransmissions, and its header (R320) but the payload length. The spec gives no frame's payload
layout; its content is what the state held when it was sent. -/
structure RetryFrame where
  seq : Nat
  tries : Nat
  type : FrameType
  cls : Nat
  src : Nat
  dst : Nat
  ack : Nat
  term : Nat
  planTag : Nat
  deriving DecidableEq, Repr

/-- One measurement of a link (R356): per lane the margin and the excess loss in 0.1 dB and the error ratio in 10^−15. -/
structure OptSample where
  m0 : Int
  m1 : Int
  e0 : Int
  e1 : Int
  b0 : Nat
  b1 : Nat
  deriving DecidableEq, Repr

/-- A peer link (R318–R335, R356–R358): state and hold reason, the far end's position, link, serial, plan and verdict, sequence
numbers sent and received, the retry buffer, the counts of frames declared lost, receive OMA per lane in 0.1 dBm, the
far transmit OMA, the last 60 measurements, the excess of the transmit direction, the health shown; frames received that await those before
them, and the numbers known to be skipped (R323, R324); the numbers whose skip marker went out and is not yet acknowledged; whether a leave
notice went out since the link last trained (R358, R360). -/
structure PeerLinkSt where
  st : LinkState
  hold : Nat
  farPos : Option Nat
  farLink : Nat
  farSerial : Nat
  farPlan : Nat
  farOk : Bool
  tx : Nat
  rx : Nat
  retry : List RetryFrame
  lostAt : List Int
  rx0 : Int
  rx1 : Int
  farTx : List Int
  samples : List OptSample
  back : Int
  health : Nat
  early : List (Nat × Instr)
  skips : List Nat
  skipOut : List Nat
  noticed : Bool
  deriving DecidableEq, Repr

/-- A shelf entry of a plan (R329). -/
structure ShelfEnt where
  pos : Nat
  limit : Nat
  holderA : Bool
  holderB : Bool
  trainerA : Nat
  trainerB : Nat
  serialA : Nat
  serialB : Nat
  deriving DecidableEq, Repr

/-- A link entry of a plan (R330). -/
structure LinkEnt where
  posA : Nat
  linkA : Nat
  posB : Nat
  linkB : Nat
  conns : List Nat
  loss : Nat
  deriving DecidableEq, Repr

/-- A plan (R328). -/
structure Plan where
  id : Nat
  succ : List Nat
  slices : Nat
  bandHalf : Nat
  shelves : List ShelfEnt
  links : List LinkEnt
  deriving DecidableEq, Repr

/-- A mastership claim held (R343, R344). -/
structure ClaimSt where
  term : Nat
  pos : Nat
  takeover : Nat
  deriving DecidableEq, Repr

/-- A slice role this module holds (R350, R351): slice, primary or mirror, its state, whether a copy is still under way, and
the superframe the copy began with, the blocks received, the inputs and sums of the steps to replay, and whether the snapshot has been
sent, or has come and awaits the first digest that matches (R354). The state of a slice is the model's own data, its bytes. -/
structure Role where
  slice : Nat
  primary : Bool
  state : List Byte
  copying : Option Nat
  blocks : List (Nat × List Byte)
  replay : List (List Int × List Word)
  snap : Bool
  deriving DecidableEq, Repr

/-- Where a slice lives (R350–R354). -/
structure SlicePlace where
  slice : Nat
  primary : Option Nat
  mirror : Option Nat
  lostBy : Option Nat
  deriving DecidableEq, Repr

/-- A partial sum that has arrived before its turn (R340): layer, the level it is added at, the slice it comes from, the words. -/
structure HeldPart where
  layer : Nat
  level : Nat
  slice : Nat
  sum : List Word
  deriving DecidableEq, Repr

/-- A hall step under way (R340): its superframe, layer and inputs; whether the layer is still to be computed here (R241); the reduced sum of
the layer where it came before that; per own primary slice the next tree level and the sum so far; the partials that await their layer and
level. -/
structure StepSt where
  k : Nat
  layer : Nat
  inputs : List Int
  todo : Bool
  down : Option (List Word)
  sums : List (Nat × Nat × List Word)
  held : List HeldPart
  deriving DecidableEq, Repr

/-- SLICE_REPLACE under way (R354): operation, the slices still to place, the slice whose copy runs, and its new mirror. -/
structure ReplaceSt where
  op : Nat
  todo : List Nat
  copy : Option (Nat × Nat)
  since : Nat
  deriving DecidableEq, Repr

/-- The hall fabric as this module sees it (R318–R360). `bufs` are the plan buffers; `active` the one an applied commit
selected; `members` the modules heard since they joined, with their missing reports; `msg` a complete message waiting for
its superframe start, `parts` the fragments of the message with the key `lastMsg` (R337), `phaseRef` the phase reference of the last message
accepted; `late` the late reports already counted (R362); `refusals` go into the next report (R49, R279);
`joined` is the superframe in which in_domain set (R335); `maint` is the state of the present maintenance action, `maintRefused` that the last
request was refused, `maintSince` the count at which the link under verification had come up (R358). -/
structure HallSt where
  bufs : List (Option Plan)
  active : Option Nat
  bufState : Nat
  loadStatus : Nat
  loading : Option (Nat × Nat)
  planSaved : Option Plan
  isMaster : Bool
  term : Nat
  high : Nat
  master : Option Nat
  claim : Option ClaimSt
  stepDown : Option (Nat × Nat)
  msg : Option SfMsg
  lastMsg : Option Nat
  parts : List SfMsg
  phaseRef : Int
  disarms : List (Nat × Nat × Nat)
  seenLaunch : List (Nat × Nat × Nat)
  reports : List Report
  late : List (Nat × Nat)
  members : List (Nat × Nat)
  leftNow : List Nat
  changes : List RoleChange
  table : Option (Nat × List Report)
  bands : List (Nat × Nat)
  proposals : Option (Nat × List (Nat × Nat))
  places : List SlicePlace
  roles : List Role
  step : Option StepSt
  replace : Option ReplaceSt
  oldCopies : List (Nat × Nat × List Nat)
  refusals : List (Nat × Nat)
  joined : Nat
  degraded : Bool
  maint : Nat
  maintRefused : Bool
  maintLink : Nat
  maintSince : Option Nat
  suspect : Word
  deriving DecidableEq, Repr

/-- One CS16 unit as the ring knows it (R374–R385): whether its DATA of the present sweep arrived and through which end,
its readings, its classification, the taps the present sweep tests and those the next one will, the confirmed taps whose
last test showed them connected, confirmed open taps beside the one its snapshot names, taps whose suspicion a test cleared, the balancing
masks selected and in force, the taps under suspicion (R379), and the unit status of its last DATA. -/
structure UnitSt where
  got : Bool
  viaB : Bool
  prim : List Nat
  coarse : List Nat
  temps : List Int
  ref : Nat
  ofs : Nat
  snap : UnitSnap
  testing : List Nat
  toTest : List Nat
  conOnce : List Nat
  more : List Nat
  realTaps : List Nat
  give : Nat
  take : Nat
  giveOut : Nat
  takeOut : Nat
  susp : List Nat
  status : Nat
  deriving DecidableEq, Repr

/-- A READ that has no answer yet (R368): the unit, the count it was sent at, how often it was sent. -/
structure PendingRead where
  unit : Nat
  sent : Nat
  tries : Nat
  deriving DecidableEq, Repr

/-- The slot entry of a string (R370): limits in 0.1 A, voltage in V, SoE in 0.1 %, usable energy in J, publishing
count (none before the first completed sweep). -/
structure CellEntry where
  dis : Nat
  chg : Nat
  volt : Nat
  soe : Nat
  energy : Nat
  pub : Option Int
  deriving DecidableEq, Repr

/-- A cell-ring port (R364–R398). `ring` in the encoding of `CR_PSTAT_p`; `a` and `b` of R372; `breakAt` the first
silent unit from end A (R373); `void` a sweep that a claim change made incomplete (R393); `fresh` a port that the strike of this
frame enabled or restarted (R391); charge counts in mC / (100 · 2^24), exact under R380. -/
structure PortSt where
  ring : Nat
  sweep : Option Nat
  wireTest : Bool
  a : Nat
  b : Nat
  breakAt : Option Nat
  endedB : Bool
  outA : Option PendingRead
  outB : Option PendingRead
  balDone : Bool
  units : List UnitSt
  counts : List Int
  counted : Bool
  socEst : Bool
  restRun : Nat
  restOk : Bool
  lastCur : Int
  done : Bool
  entered : Bool
  incomplete : Bool
  split : Bool
  stampA : Nat
  stampB : Nat
  degraded : Bool
  entry : CellEntry
  staleRun : Bool
  zeroDis : Bool
  zeroChg : Bool
  void : Bool
  fresh : Bool
  freeA : Nat
  freeB : Nat
  balLeft : List Nat
  txA : List (List Byte)
  txB : List (List Byte)
  deriving DecidableEq, Repr

/-- A balancing campaign (R386, R387): its operation, strings, target in mV (0 the default's), the target of the present
sweep, limit, completed sweeps, runs at target by string, spread at acceptance, charge given in mC. -/
structure CampSt where
  op : Nat
  tag : Nat
  strings : Nat
  target : Nat
  now : Nat
  limit : Nat
  sweeps : Nat
  runs : List Nat
  spread0 : Nat
  charge : Nat
  deriving DecidableEq, Repr

/-- A capacity sweep (R388–R390): its operation, port, test current in 0.1 A, phase, sweeps of REST, SoE at acceptance,
charge of DISCHARGE in mC / (100 · 2^24), the cells of R390, sweeps without another string in service. -/
structure CapsSt where
  op : Nat
  tag : Nat
  port : Nat
  cur : Nat
  phase : Nat
  rest : Nat
  soe0 : Nat
  charge : Int
  low : Nat
  high : Nat
  alone : Nat
  deriving DecidableEq, Repr

/-- The cell ring (R364–R399). `stopbal` is the mask of ports whose ring awaits a STOPBAL (R385); `pubAt` the last
publication of the slot (R370); `mayAt` and `mayBefore` whether the conditions of R391 held at the last strike and at the one before. -/
structure CellSt where
  stopbal : Nat
  ports : List PortSt
  camp : Option CampSt
  caps : Option CapsSt
  ready : Bool
  drove : Bool
  pubAt : Option Int
  mayAt : Bool
  mayBefore : Bool
  deriving DecidableEq, Repr

/-- A DMA channel (R454–R473): state 0 DISABLED, 1 IDLE, 2 RUNNING, 3 HALTED; halt reason; the descriptor in progress
(no words while none is fetched), the next one's address, the bytes left, its bad status; the current segment and the
next list entry of either stream; credit; whether a write failed since the last fence; waiting for a fence; the bytes of the present burst
still to read, the buffer (R463), the funnel's part of a destination line and its address (R458); the ranges of both streams known so far
(R459); the last address written at the host and at each peer link since the start, and the addresses a fence reads back (R466). -/
structure DmaCh where
  state : Nat
  halt : Nat
  cur : Nat
  next : Nat
  desc : List Word
  left : Nat
  bad : Nat
  srcAt : Nat
  srcLeft : Nat
  srcIdx : Nat
  dstAt : Nat
  dstLeft : Nat
  dstIdx : Nat
  credit : Nat
  failed : Bool
  fence : Bool
  lastStatus : Nat
  burst : Nat
  buf : List Byte
  lineAt : Nat
  line : List Byte
  srcs : List (Nat × Nat)
  dsts : List (Nat × Nat)
  hostLast : Option Nat
  peerLast : List (Nat × Nat)
  readBack : List Nat
  deriving DecidableEq, Repr

/-- A raised request line (R461): its number, the count it rose at, the channels that acknowledged it. -/
structure ReqLine where
  line : Nat
  since : Nat
  acked : List Nat
  deriving DecidableEq, Repr

/-- The DMA engine: channels, raised lines, and the channel that last started a burst (R463). -/
structure DmaSt where
  chs : List DmaCh
  lines : List ReqLine
  last : Nat
  deriving DecidableEq, Repr

/-- A published forecast record (R255): publishing count, run count, flags, generations, and points 0 to 5,020 in W. -/
structure FcRec where
  pub : Nat
  run : Nat
  valid : Bool
  schedAbsent : Bool
  modelGen : Nat
  generation : Nat
  points : List Int
  deriving DecidableEq, Repr

/-- A step-schedule record held (R267–R269): lane, sequence number, kind, job, start, phases as duration and draw,
repetitions, trays, eff, and the update it is used from (R268). -/
structure SchedRec where
  lane : Nat
  seq : Nat
  plan : Bool
  job : Nat
  start : Nat
  phases : List (Nat × Nat)
  reps : Nat
  trays : Nat
  eff : Nat
  tol : Nat
  usedFrom : Nat
  deriving DecidableEq, Repr

/-- A lane's read index and last accepted sequence number (R265, R268). -/
structure LaneSt where
  idx : Nat
  last : Option Nat
  deriving DecidableEq, Repr

/-- The forecaster run under way (R254): its count, its job, its bank, G_c (R257), and, once it has finished, the points of its buffer and
the bridge slots that it wrote with their model_gen. -/
structure FcRun where
  c : Nat
  job : Nat
  bank : Nat
  g : Int
  fin : Bool
  schedAbsent : Bool
  modelGen : Nat
  generation : Nat
  points : List Int
  bridges : List (Nat × Nat × List Int)
  deriving DecidableEq, Repr

/-- What a run forecast at horizons 100, 1,000 and 5,000, for the errors of R294: publishing count and points. -/
structure FcOut where
  pub : Nat
  p1 : Int
  p10 : Int
  p50 : Int
  deriving DecidableEq, Repr

/-- A model bank (R273–R275): flags, weights in bytes, the package digest, the inference block's descriptors and bundles
as placed in the bank, the generation its running copy holds (none: package weights), which copy runs, and the package's default
learning rate. -/
structure BankSt where
  valid : Bool
  loading : Bool
  trainable : Bool
  weights : Nat
  digest : List Byte
  descCount : Nat
  progLen : Nat
  gen : Option Nat
  copyB : Bool
  lr : Word
  deriving DecidableEq, Repr

/-- A MODEL_LOAD under way (R275): operation, bank, package address (none: the built-in package in flash, R276) and length, the bytes
copied. -/
structure LoadSt where
  op : Nat
  bank : Nat
  addr : Option Nat
  len : Nat
  data : List Byte
  deriving DecidableEq, Repr

/-- A generation held or on its way here (R283, R287, R355): its header, the frames present, whether it was checked and
kept, whether the history was re-encoded with it, and its encoder state with the newest frame in it (R284). -/
structure GenSt where
  hdr : GenHdr
  parts : List (Nat × List Byte)
  kept : Bool
  encoded : Bool
  encTo : Nat
  enc : DWord
  deriving DecidableEq, Repr

/-- A generation on its way to the receivers (R355): its header, and the frames each receiver still lacks, by position. -/
structure GenTx where
  hdr : GenHdr
  missing : List (Nat × List Nat)
  deriving DecidableEq, Repr

/-- The training run (R280–R286): operation, parameters, cycles left (none: no end) and the cycle under way. -/
structure TrainSt where
  op : Nat
  tag : Nat
  steps : Nat
  lag : Nat
  lr : Word
  left : Option Nat
  cycle : Option Nat
  deriving DecidableEq, Repr

/-- The forecaster and online training (R254–R296). `rows` and `partnerRows` hold history rows by frame until they are
written (R261), `partnerHeld` the frames in which the partner reported holding; `errs` the last errors per horizon;
`due` announced adoption counts with their generation (R288); `lastBank` the bank of the last run; `gateAt` the update at which the gate was
last evaluated (R259); `enc` the running encoder state, named by what it was formed from, and `encTo` the newest frame in it (R254); `hallBank` the bank that the hall steps are to run and `hallRan` the one that the last one ran (R279, R293); `opt` says that
the training state area of memory holds the optimizer state that the next cycle starts from (R281, R285), which a cycle replaces only at its
end (R286); `origins` are the checkpoints of encoder states, by the counts of the completed runs that left them (R281). -/
structure ForecastSt where
  pub : Option FcRec
  run : Option FcRun
  modelGen : Nat
  lastBank : Nat
  buf : Bool
  published : Bool
  histOn : Bool
  anchor : Int
  frames : Nat
  rows : List (Nat × List Word)
  partnerRows : List (Nat × List Word)
  partnerHeld : List Nat
  lanes : List LaneSt
  recs : List SchedRec
  lastUpdate : Nat
  outs : List FcOut
  errs : List (List Nat)
  gateHeld : Bool
  gateGood : Nat
  schedAbsent : Bool
  encoded : Bool
  gateAt : Nat
  encTo : Nat
  enc : DWord
  banks : List BankSt
  hallBank : Nat
  hallRan : Option Nat
  loads : List LoadSt
  gens : List GenSt
  sending : Option GenTx
  due : List (Nat × Nat)
  lagging : Bool
  late : Nat
  train : Option TrainSt
  opt : Bool
  origins : List (Nat × DWord)
  trainer : Option Nat
  deriving DecidableEq, Repr

/-- An accumulator plane (R184): unset, cleared (R230, PCLR), FP32 accumulators or 64-bit integer accumulators, `cols`
elements along dimension 0, row by row. -/
inductive Plane where
  | unset
  | cleared
  | floats (cols : Nat) (vals : List Word)
  | ints (cols : Nat) (vals : List Int)
  deriving DecidableEq, Repr

/-- A sequence instruction between two of its internal boundaries (R222, R238–R240): the parts done, S, the Z and P of SCAN by channel and
segment, its carries by channel, the digest of slot 1 of its bundle and the lines that slot 2 has written (R313). -/
structure SeqSt where
  part : Nat
  lanes : Nat
  zp : List (List (Word × Word))
  carry : List (List Word)
  slot1 : DWord
  lines : List Nat
  deriving DecidableEq, Repr

/-- The origin of a job: a submission, a forecaster run (R254). -/
inductive JobKind where
  | user | forecast
  deriving DecidableEq, Repr

/-- Where a job stands (R243, R248, R249, R304): hashing its digest, queued, running, parked, suspended, or ended with its
terminal status not yet posted. -/
inductive JobPhase where
  | hashing | queued | running | parked | suspended | ended
  deriving DecidableEq, Repr

/-- How a job ended (R250): status, bundle index, slot and opcode of a failing instruction. -/
structure JobEnd where
  status : Nat
  bundle : Nat
  slot : Nat
  opcode : Nat
  deriving DecidableEq, Repr

/-- One open LOOP (R230): its first and last bundle and the repetitions left. -/
structure LoopFrame where
  first : Nat
  last : Nat
  left : Nat
  deriving DecidableEq, Repr

/-- An anvil job (R226–R250, R300–R309). `op` is its tracker entry; `descs` the job's copy of its descriptor table, taken
when it first issues; `saved` marks a written save area with its CRC-32; `block` is the result block, none when the record
names none or an unusable one; `ordDone` the issue ordinal of the last bundle; `bridges` what BRWR wrote. -/
structure Job where
  id : Nat
  kind : JobKind
  op : Option Nat
  level : Nat
  cls : Cls
  mode : Word
  save : Nat
  prog : Nat
  progLen : Nat
  descTable : Nat
  descCount : Nat
  bases : List Nat
  seed : DWord
  stepStart : DWord
  block : Option Nat
  digestReq : Bool
  incl : List Byte
  stopOrd : Option Nat
  digest : Option (List Byte × Nat)
  phase : JobPhase
  issued : Bool
  pc : Nat
  loops : List LoopFrame
  sc : List DWord
  step : DWord
  descs : List (List Word)
  planes : List Plane
  seq : Option SeqSt
  ordDone : Nat
  cycles : Nat
  flags : Word
  varUsed : Bool
  parkedOnce : Bool
  nonrepro : Bool
  stopped : Bool
  tFirst : Nat
  tSave : Nat
  saved : Bool
  bridges : List (Nat × Nat × List Int)
  fin : Option JobEnd
  deriving DecidableEq, Repr

/-- The state of a lock-step session (R312–R316), in the encoding of `AV_LS_STAT`. -/
inductive LsState where
  | idle | running | searching | ended
  deriving DecidableEq, Repr

/-- The effects of one bundle on this module that a session compares (R313): the digests of slots 0 to 3 and the scalar
digest, with the values behind them: the footprints each slot writes in, the scalar registers and the step counter. -/
structure LsDigest where
  ord : Nat
  slots : List DWord
  scalar : DWord
  feet : List (List (Nat × Nat))
  sc : List DWord
  step : DWord
  deriving DecidableEq, Repr

/-- The lock-step port and session (R311–R316): port state, session, the launch slot that waits for the partner's outcome with
the hash of this module's message, the own and the partner's digest that have not met yet, the last ordinal compared, what
a divergence showed, how the own and the partner's job ended, and what the port last sent besides digests. -/
structure LockSt where
  linkUp : Bool
  partnerM : Bool
  state : LsState
  tag : Nat
  job : Option Nat
  waiting : Option Nat
  ownHash : DWord
  digest : Option LsDigest
  theirs : Option (Nat × List DWord × DWord)
  ord : Nat
  result : Nat
  scIdx : Nat
  scalarDiff : Bool
  divSlot : Nat
  line : Option Nat
  ownEnd : Option (Nat × Nat)
  theirEnd : Option (Nat × Nat)
  sent : Option LsOutcome
  deriving DecidableEq, Repr

/-- The anvil (R184–R253): its jobs in queue order, the running job, the count of `AV_BUSY_LO`, whether the self-test of
the tiles has run since the last start, and whether training's cycles reached train_cap in the present window (R245), and the corrected errors of
each SRAM slice in the present window with the threshold that stands in it (R213). -/
structure AnvilSt where
  jobs : List Job
  nextJob : Nat
  busy : Nat
  bist : Bool
  capped : Bool
  trained : Bool
  sliceCe : List Nat
  ceThresh : Nat
  eccHi : Word
  lock : LockSt
  deriving DecidableEq, Repr

/-- The module: every register, memory, buffer, counter, mode and pin of spec/. `regs` holds, by device address, each
register's difference (exclusive or) from the reset value of its map; `mem` holds SRAM, LPDDR5, the island mailbox and
the peer-link windows byte by byte. `poison` lists the lines whose poison bit is stored, `flawed` the lines whose stored symbols
differ from their code word in a way the decoder cannot correct, with the differences by symbol (R208, R209), and `cleanLines` the
lines of stacks written since they came into service (R192, R213). `free` counts the free values taken (Config.freeWord); `lastRead` is what the last
read returned. -/
structure Mach where
  regs : Sparse 32
  mem : Sparse 8
  poison : List Nat
  flawed : List (Nat × List (Nat × Byte))
  cleanLines : List Nat
  sys : SysSt
  time : TimeSt
  rings : List RingSt
  txn : TxnSt
  slots : List LaunchSlot
  ops : List Op
  nextOp : Nat
  fault : FaultSt
  ev : EvSt
  pair : PairSt
  cxl : CxlSt
  id : IdSt
  phys : PhysSt
  bel : BellowsSt
  fc : ForecastSt
  anvil : AnvilSt
  eng : EngineSt
  stks : List StackSt
  peers : List PeerLinkSt
  hall : HallSt
  cell : CellSt
  dma : DmaSt
  free : Nat
  lastRead : List Word
  deriving DecidableEq, Repr

/-- The block's state: the module and the queue of the commands that are waiting, first in, first out. -/
structure State extends Mach where
  pending : List Instr
  deriving DecidableEq, Repr

/-! The state right after reset: every register at the reset value of its map, nothing in memory, and every other field
at the value a rule gives before power-good, or at the value a log entry names. -/

/-- A stack before training (R522). -/
def StackSt.reset : StackSt := ⟨false, false, 0, false, false, 0, 0, false, 0⟩

/-- A peer link at reset. -/
def PeerLinkSt.reset : PeerLinkSt := ⟨.down, 0, none, 0, 0, 0, false, 0, 0, [], [], 0, 0, [], [], 0, 3, [], [], [], false⟩

/-- The hall at reset. -/
def HallSt.reset : HallSt where
  bufs := [none, none]
  active := none
  bufState := 0
  loadStatus := 0
  loading := none
  planSaved := none
  isMaster := false
  term := 0
  high := 0
  master := none
  claim := none
  stepDown := none
  msg := none
  lastMsg := none
  parts := []
  phaseRef := 0
  disarms := []
  seenLaunch := []
  reports := []
  late := []
  members := []
  leftNow := []
  changes := []
  table := none
  bands := []
  proposals := none
  places := []
  roles := []
  step := none
  replace := none
  oldCopies := []
  refusals := []
  joined := 0
  degraded := false
  maint := 0
  maintLink := 0
  maintRefused := false
  maintSince := none
  suspect := 0xFFFF0000

/-- A unit without classification (R395); `open_tap` reads 0x1F. -/
def UnitSnap.reset : UnitSnap := ⟨false, 0, 31, 0, 0, 0, List.replicate 20 0, 0⟩

/-- A unit not yet read. -/
def UnitSt.reset : UnitSt := ⟨false, false, [], [], [], 0, 0, UnitSnap.reset, [], [], [], [], [], 0, 0, 0, 0, [], 0⟩

/-- A port's entry before its first completed sweep (R103). -/
def CellEntry.reset : CellEntry := ⟨0, 0, 0, 0, 0, none⟩

/-- A port that has not started (R391, R395). -/
def PortSt.reset : PortSt where
  ring := 0
  sweep := none
  wireTest := false
  a := 0
  b := 0
  breakAt := none
  endedB := false
  outA := none
  outB := none
  balDone := false
  units := List.replicate 32 UnitSt.reset
  counts := List.replicate 512 0
  counted := false
  socEst := false
  restRun := 0
  restOk := true
  lastCur := 0
  done := false
  entered := false
  incomplete := false
  split := false
  stampA := 0
  stampB := 0
  degraded := false
  entry := CellEntry.reset
  staleRun := false
  zeroDis := false
  zeroChg := false
  void := false
  fresh := false
  freeA := 0
  freeB := 0
  balLeft := []
  txA := []
  txB := []

/-- The cell ring at reset. -/
def CellSt.reset : CellSt := ⟨0, List.replicate 4 PortSt.reset, none, none, false, false, none, false, false⟩

/-- A channel after power-good: DISABLED (R473). -/
def DmaCh.reset : DmaCh := ⟨0, 0, 0, 0, [], 0, 0, 0, 0, 0, 0, 0, 0, 0, false, false, 0, 0, [], 0, [], [], [], none, [], []⟩

/-- An empty bank. -/
def BankSt.reset : BankSt := ⟨false, false, false, 0, [], 0, 0, none, false, 0⟩

/-- No forecast, no history, no package (R264, R292, R293). -/
def ForecastSt.reset : ForecastSt where
  pub := none
  run := none
  modelGen := 0
  lastBank := 0
  buf := false
  published := false
  histOn := false
  anchor := 0
  frames := 0
  rows := []
  partnerRows := []
  partnerHeld := []
  lanes := List.replicate 64 ⟨0, none⟩
  recs := []
  lastUpdate := 0
  outs := []
  errs := [[], [], []]
  gateHeld := false
  gateGood := 0
  schedAbsent := false
  encoded := false
  gateAt := 0
  encTo := 0
  enc := 0
  banks := List.replicate 4 BankSt.reset
  hallBank := 2
  hallRan := none
  loads := []
  gens := []
  sending := none
  due := []
  lagging := false
  late := 0
  train := none
  opt := false
  origins := []
  trainer := none

/-- No lock-step session (R316). -/
def LockSt.reset : LockSt := ⟨false, false, .idle, 0, none, none, 0, none, none, 0, 0, 0, false, 0, none, none, none, none⟩

/-- The anvil without work. -/
def AnvilSt.reset : AnvilSt := ⟨[], 0, 0, false, false, false, List.replicate 64 0, 64, 0, LockSt.reset⟩

/-- The DMA engine after power-good (R473). -/
def DmaSt.reset : DmaSt := ⟨List.replicate 32 DmaCh.reset, [], 31⟩

/-- A ring at reset (R54). -/
def RingSt.reset : RingSt := ⟨true, [], 0, 0, false⟩

/-- The counter and domain time at reset (R36, R39). -/
def TimeSt.reset : TimeSt := ⟨false, 0, 0, .free, 0, 0, 255, 0, false, none, none, 0⟩

/-- No transaction (R78). -/
def TxnSt.reset : TxnSt := ⟨.idle, .host, 0, 0, [], false, none, 0, none, false, none, none, false⟩

/-- A free launch slot (R42). -/
def LaunchSlot.reset : LaunchSlot := ⟨.free, 0, 0, 0, 0, 0, 0, none, [], 0, [], 0, none⟩

/-- No quench (R426). -/
def QuenchSt.reset : QuenchSt := ⟨false, false, .none, 0, 0, .info, 0, 0, false, false⟩

/-- The collector after a full reset (R420). -/
def FaultSt.reset : FaultSt := ⟨[], 0, [], [], [], [], false, false, QuenchSt.reset, [], none, [], none, false, 0⟩

/-- The recorder of a new module (R525, R527). -/
def EvSt.reset : EvSt := ⟨false, false, [], [], [], 0, 0, 0, 0, 0, 0, false, false, false, false, false, 0, 0, 0, 0, false⟩

/-- The pair logic at reset (R453). -/
def PairSt.reset : PairSt where
  side := false
  pairUp := false
  downFault := false
  holding := false
  claimNum := 0
  lastCause := 0
  suspect := false
  releaseFlag := false
  takeNext := none
  giveNext := none
  releaseReq := []
  kernelRelease := false
  partnerNow := none
  rowsOut := []
  partnerLast := none
  missRun := 0
  readyAtLast := false
  verdict := 0
  verdictRun := 0
  diffRun := 0
  diffFault := false
  equalRun := 0
  standbyReady := false
  healthRun := 0
  startRun := 0
  aloneRun := 0
  aloneFault := false
  claimSeen := 0
  topSeen := 0
  sentRecent := []
  foreignFault := false
  noLinkRun := 0
  aligned := false
  alignRecv := none
  alignPending := []
  alignSend := none
  alignRetryAt := 0
  alignReq := false
  ownFrame := none
  tx := []
  rowTx := []
  segOut := none
  segTx := []
  inDigest := 0
  outDigest := 0
  cfgDelta := 0
  coolantOverride := none
  feedA := false
  feedB := false
  voltA := 0
  voltB := 0
  runA := 0
  runB := 0
  dying := false
  dyingFrames := 0
  partnerAligned := false
  swLast := 0

/-- An uncommitted decoder (R486). -/
def HdmDec.reset : HdmDec := ⟨false, false, 0, 0, 0⟩

/-- The port before training (R497, R501). -/
def CxlSt.reset : CxlSt := ⟨false, 0, 0, false, false, false, false, 0, HdmDec.reset, HdmDec.reset, 0, 0, [], [], [], 0, false, false, []⟩

/-- Empty flash slots. -/
def SlotPair.reset : SlotPair := ⟨none, none, false, false, false, 0, none⟩

/-- Identity before power-good (R519). -/
def IdSt.reset : IdSt where
  serial := 0
  pufOk := false
  certOk := false
  variantOk := false
  variantBody := []
  tk := SlotPair.reset
  app := SlotPair.reset
  tkRun := false
  appRun := false
  updState := 0
  updKind := false
  updStatus := 0
  job := none
  spdm := .start
  spdmVer := 0
  vca := []
  transcript := []
  mTranscript := []
  response := []
  publicKey := []
  flashKey := []

/-- Nothing enabled before the trusted kernel runs (R5, R7). -/
def SysSt.reset : SysSt where
  variant := 0
  tiles := 0
  stks := 0
  links := 0
  train := false
  lockstep := false
  master := false
  straps := 0
  strapOk := false
  position := 0
  capValid := false
  leverLatched := false
  cfgLoaded := false
  cfgFailed := false
  loadLate := false
  saved := []
  savePending := none
  capDiff := []
  keptTiles := 0
  keptStks := 0
  keptLinks := 0
  readyAge := [0, 0, 0, 0, 0, 0, 0, 0, 0, 0, 0, 0, 0]
  limitDone := 0
  modReset := none

/-- Temperatures and the tray link before the first measurement. -/
def PhysSt.reset : PhysSt where
  flow := 0
  inlet := 0
  die := 0
  dieStep := 0
  dieUp := [0, 0, 0, 0]
  dieDown := [0, 0, 0, 0]
  modStep := 0
  stopped := false
  coolRun := 0
  inletLow := 0
  inletFault := false
  plcaNode := none
  plcaQuiet := 0

/-- Dispatch values before the first start; the effective policy reads 1 and soe_pp 550 (R120). -/
def DispSnap.reset : DispSnap where
  g := 0
  v := 0
  effPolicy := 1
  freshRun := 0
  soePp := 550
  brakeReq := false
  brakeHold := 0
  coolantStep := 0
  coolOwn := 0
  coolUp := [0, 0, 0, 0]
  coolDown := [0, 0, 0, 0]
  spMiss := 0
  bandAge := none
  trayCaps := List.replicate 16 4294967295
  lastRepeat := 0

/-- The set-point slot before any publication; BUS_VREF as `BD_SP_BUS_VREF` resets. -/
def SpSlot.reset : SpSlot := ⟨800000, 0, 0, 0, 0, List.replicate 12 0, false, 0⟩

/-- A tray that has not reported. -/
def TraySt.reset : TraySt := ⟨0, 0, 0, none, false, 0xFFFFFFFF, none⟩

/-- Bellows dispatch before its start (R97, R118, R120). -/
def BellowsSt.reset : BellowsSt where
  started := false
  startAt := 0
  snap := DispSnap.reset
  gHold := 0
  demand := []
  demandSum := 0
  d := 0
  gm := 0
  spPub := SpSlot.reset
  spIdle := none
  spFresh := false
  spFault := false
  vref := 800000
  soeTgt := 550
  vrefNext := none
  soeNext := none
  rackCap := 0xFFFFFFFF
  rackCapNext := none
  hostNext := []
  bandLo := 0
  bandHi := 330000
  sched := []
  brakeNet := false
  brakeOn := false
  brakeFault := false
  overRun := 0
  trays := List.replicate 64 TraySt.reset
  step3Run := 0
  step3Fault := false
  unmet := []
  moved := [0, 0, 0, 0]
  short := false
  want := 0
  limFault := false
  stat := []

/-- A loop without state (R27, R143: OFF). -/
def LoopSnap.reset : LoopSnap where
  xh := []
  integ := []
  vPrev := []
  bq := []
  region := 0
  cand := none
  dwell := 0
  hold := []
  mode := .off
  ffM := 0
  off0 := 0
  last := 0
  feCount := 0
  missRun := 0
  stopped := false
  startWait := false

/-- A loop that has not started. -/
def LoopSt.reset : LoopSt where
  started := false
  restart := false
  swap := false
  swapNow := false
  s := LoopSnap.reset
  fb := 0
  prevGen := 0
  feBlank := 0
  feActive := false
  out := []
  satHi := 0
  satLo := 0
  regionUse := 0
  missed := false
  badEntry := none
  noRegion := false
  y := []
  v := []
  r := 0
  et := 0
  fd := 0
  iUse := []
  xUse := []
  slotPub := none
  enabledAtPub := false

/-- No feedback frame. -/
def FeedbackIn.none : FeedbackIn := ⟨true, false, 0, 0, 0, 0, 0, 0, [], 0, 0, 0⟩

/-- A stage link without lock (R164). -/
def StageLinkSt.reset : StageLinkSt := ⟨false, false, 0, 0, false, none, false, FeedbackIn.none, [], 0, false⟩

/-- No test (R183). -/
def TestSt.reset : TestSt := ⟨.idle, 0, 0, 0, 0, 0, 0, 0, false, 0, 0, false, [], .host, false, false, false, false, false, none⟩

/-- The loop engine before its start. -/
def EngineSt.reset : EngineSt where
  loops := List.replicate 32 LoopSt.reset
  badCoef := []
  links := List.replicate 12 StageLinkSt.reset
  test := TestSt.reset
  cycles := 0
  shown := List.replicate 32 LoopSt.reset
  shownLinks := List.replicate 12 StageLinkSt.reset
  shownAt := 0
  shownTest := TestSt.reset
  shownDd := 0
  shownCycles := []

/-- The module right after reset. -/
def Mach.reset : Mach where
  regs := []
  mem := []
  poison := []
  flawed := []
  cleanLines := []
  sys := SysSt.reset
  time := TimeSt.reset
  rings := List.replicate 10 RingSt.reset
  txn := TxnSt.reset
  slots := List.replicate 16 LaunchSlot.reset
  ops := []
  nextOp := 0
  fault := FaultSt.reset
  ev := EvSt.reset
  pair := PairSt.reset
  cxl := CxlSt.reset
  id := IdSt.reset
  phys := PhysSt.reset
  bel := BellowsSt.reset
  fc := ForecastSt.reset
  anvil := AnvilSt.reset
  eng := EngineSt.reset
  stks := List.replicate 8 StackSt.reset
  peers := List.replicate 48 PeerLinkSt.reset
  hall := HallSt.reset
  cell := CellSt.reset
  dma := DmaSt.reset
  free := 0
  lastRead := []

/-- The machine right after reset: the module, and no command waiting. -/
def State.reset : State := { Mach.reset with pending := [] }

end Sys2Proof.Machine
end

