-- ==== Sys2Proof/Machine/Sparse.lean ====
section
/-! DEFINITION. The canonical sparse tables behind the register file and the memories: indices strictly rising, no value
0, an unlisted index holding 0. -/

namespace Sys2Proof.Machine

/-- The value at an index. -/
def sget {w : Nat} : Sparse w → Nat → BitVec w
  | [], _ => 0
  | (k, v) :: r, a => if k = a then v else sget r a

/-- The table with one index given a value. Giving 0 removes the entry. -/
def sset {w : Nat} : Sparse w → Nat → BitVec w → Sparse w
  | [], a, x => if x = 0 then [] else [(a, x)]
  | (k, v) :: r, a, x =>
    if a < k then (if x = 0 then (k, v) :: r else (a, x) :: (k, v) :: r)
    else if a = k then (if x = 0 then r else (a, x) :: r)
    else (k, v) :: sset r a x

/-- All indices of a table lie at or above a bound, rise strictly, and carry no 0. -/
def swfFrom {w : Nat} : Nat → Sparse w → Bool
  | _, [] => true
  | n, (k, v) :: r => decide (n ≤ k) && decide (v ≠ 0) && swfFrom (k + 1) r

/-- The canonical form. -/
def swf {w : Nat} (t : Sparse w) : Bool := swfFrom 0 t

/-- The canonical table that reads as `t` does. -/
def snorm {w : Nat} : Sparse w → Sparse w
  | [] => []
  | (k, v) :: r => sset (snorm r) k v

end Sys2Proof.Machine
end

