-- ==== Sys2Proof/Machine/Mem.lean ====
section
/-! DEFINITION. The register file's words, the byte memories, the device address map (R476–R482), line poison
(R208–R213), and the judgement of an access by class and region window (R490–R493). -/

namespace Sys2Proof.Machine

/-- The applied value of a register. -/
def Mach.rd (m : Mach) (r : Reg) : Word := sget m.regs r.addr ^^^ r.reset

/-- A register given a value. -/
def Mach.wr (m : Mach) (r : Reg) (v : Word) : Mach := { m with regs := sset m.regs r.addr (v ^^^ r.reset) }

/-- A field of a register given a value. -/
def Mach.wrField (m : Mach) (r : Reg) (hi lo v : Nat) : Mach := m.wr r (setField (m.rd r) hi lo v)

/-- A field of a register as a number. -/
def Mach.rdField (m : Mach) (r : Reg) (hi lo : Nat) : Nat := field (m.rd r) hi lo

/-- Bits set in a register. -/
def Mach.orReg (m : Mach) (r : Reg) (v : Word) : Mach := m.wr r (m.rd r ||| v)

/-- A saturating count in a register's field. -/
def Mach.bump (m : Mach) (r : Reg) (hi lo d : Nat) : Mach := m.wr r (bumpField (m.rd r) hi lo d)

/-- The applied value of the register word at a device address (0 where no register lies, R478). -/
def Mach.rdAddr (m : Mach) (a : Nat) : Word :=
  match Reg.ofAddr a with
  | some r => m.rd r
  | none => 0

/-- One byte of memory. -/
def Mach.byte (m : Mach) (a : Nat) : Byte := sget m.mem a

/-- One byte of memory written. -/
def Mach.setByte (m : Mach) (a : Nat) (b : Byte) : Mach := { m with mem := sset m.mem a b }

/-- `n` bytes from an address. -/
def Mach.bytes (m : Mach) (a : Nat) : Nat → List Byte
  | 0 => []
  | n + 1 => m.byte a :: m.bytes (a + 1) n

/-- The little-endian word at an address (R11). -/
def Mach.word (m : Mach) (a : Nat) : Word := BitVec.ofNat 32 (leNat (m.bytes a 4))

/-- `n` little-endian words from an address. -/
def Mach.words (m : Mach) (a n : Nat) : List Word := bytesWords n (m.bytes a (4 * n))

/-- Bytes written from an address on. -/
def Mach.setBytes (m : Mach) (a : Nat) : List Byte → Mach
  | [] => m
  | b :: bs => (m.setByte a b).setBytes (a + 1) bs

/-- Words written from an address on. -/
def Mach.setWords (m : Mach) (a : Nat) (ws : List Word) : Mach := m.setBytes a (wordsBytes ws)

/-! The device address map. -/

/-- Base of SRAM (R476). -/
abbrev sramBase : Nat := 0x008000000000
/-- Size of SRAM (R476). -/
abbrev sramSize : Nat := 0x20000000
/-- Base of stack 0 (R476). -/
abbrev dramBase : Nat := 0x010000000000
/-- Size of one stack (R476). -/
abbrev stackSize : Nat := 0x2000000000
/-- Base of the host window (R476). -/
abbrev hostBase : Nat := 0x800000000000
/-- Base of the peer-link windows (R480). -/
abbrev peerBase : Nat := 0x000010000000
/-- Base of the island mailbox (R478). -/
abbrev mailBase : Nat := 0x400000
/-- Size of the register file (R476). -/
abbrev regSize : Nat := 0x1000000

/-- What lies at a device address (R476). -/
inductive Space where
  | reg
  | mailbox
  | peer (n off : Nat)
  | sram (off : Nat)
  | stack (s off : Nat)
  | host (off : Nat)
  | none
  deriving DecidableEq, Repr

/-- The decode of one address: absent stacks and links that are not fitted are not decoded (R10, R477, R480). -/
def Mach.space (m : Mach) (a : Nat) : Space :=
  if a < regSize then (if mailBase ≤ a ∧ a < mailBase + 0x10000 then .mailbox else .reg)
  else if peerBase ≤ a ∧ a < peerBase + 0x3000000 then
    let n := (a - peerBase) / 0x100000
    if n < m.sys.links then .peer n ((a - peerBase) % 0x100000) else .none
  else if sramBase ≤ a ∧ a < sramBase + sramSize then .sram (a - sramBase)
  else if dramBase ≤ a ∧ a < dramBase + 8 * stackSize then
    let s := (a - dramBase) / stackSize
    if m.sys.stks.testBit s then .stack s ((a - dramBase) % stackSize) else .none
  else if hostBase ≤ a ∧ a < 2 * hostBase then .host (a - hostBase)
  else .none

/-- Every 64-byte line that a range touches. -/
def linesOf (a len : Nat) : List Nat :=
  if len = 0 then [] else (List.range ((a + len - 1) / 64 + 1 - a / 64)).map (fun i => 64 * (a / 64 + i))

/-- Whether a whole range is decoded; a range that crosses out of the decoded space is not (R477). -/
def Mach.decoded (m : Mach) (a len : Nat) : Bool :=
  decide (0 < len) &&
    (match m.space a, m.space (a + len - 1) with
     | .reg, .reg => true
     | .reg, .mailbox => true
     | .mailbox, .reg => true
     | .mailbox, .mailbox => true
     | .peer _ _, .peer _ _ => true
     | .sram _, .sram _ => true
     | .stack s _, .stack t _ => ((List.range 8).filter (fun u => s ≤ u && u ≤ t)).all (fun u => m.sys.stks.testBit u)
     | .host _, .host _ => true
     | _, _ => false)

/-- The stack that holds an address, if one does. -/
def Mach.stackOf (m : Mach) (a : Nat) : Option Nat :=
  match m.space a with
  | .stack s _ => some s
  | _ => none

/-- A stack's state. -/
def Mach.stackSt (m : Mach) (s : Nat) : StackSt := m.stks.getD s StackSt.reset

/-- Whether an address lies in a stack out of service (R213). -/
def Mach.stackOut (m : Mach) (a : Nat) : Bool :=
  match m.stackOf a with
  | some s => !(m.stackSt s).inService
  | none => false

/-- The lines that a range touches in part, which a write of it reads first (R210). -/
def partLines (a len : Nat) : List (Nat × Nat) :=
  ((linesOf a len).filter (fun l => !(decide (a ≤ l) && decide (l + 64 ≤ a + len)))).map (fun l => (l, 64))

/-- Whether a line's symbols hold an uncorrectable pattern (R209). -/
def Mach.isFlawed (m : Mach) (line : Nat) : Bool := m.flawed.any (fun x => x.1 == line)

/-- Whether the line at a line address reads poisoned: stored poison, an uncorrectable pattern, a stack out of service, or a line of
a returned stack that nothing has written since the return (R209, R213). -/
def Mach.poisoned (m : Mach) (line : Nat) : Bool :=
  m.poison.contains line || m.isFlawed line || m.stackOut line ||
    (match m.stackOf line with
     | some s => (m.stackSt s).returned && !m.cleanLines.contains line
     | none => false)

/-- Whether a range touches a poisoned line. -/
def Mach.poisonIn (m : Mach) (a len : Nat) : Bool := (linesOf a len).any m.poisoned

/-- A whole line becomes good: stored poison cleared, and known written (R210, R213). -/
def Mach.cleanLine (m : Mach) (line : Nat) : Mach :=
  { m with poison := m.poison.filter (fun l => l != line),
           flawed := m.flawed.filter (fun x => x.1 != line),
           cleanLines := if (m.stackOf line).isSome then addOnce m.cleanLines line else m.cleanLines }

/-- A line rewritten with the poison bit set and fresh check symbols (R212). -/
def Mach.poisonLine (m : Mach) (line : Nat) : Mach :=
  { m with poison := addOnce m.poison line, flawed := m.flawed.filter (fun x => x.1 != line) }

/-- Part of a line written: a full line clears poison; a partial write reads the line, merges and writes it back, and of a poisoned
line it is discarded with a bus error, as is any write to a stack out of service (R210, R213). A written line carries valid check
symbols, above the watermark too (R192). -/
def Mach.storeInLine (m : Mach) (a : Nat) (bs : List Byte) : Mach × Bool :=
  let line := 64 * (a / 64)
  if m.stackOut line then (m, false)
  else if bs.length = 64 ∨ !m.poisoned line then ((m.setBytes a bs).cleanLine line, true)
  else (m, false)

/-- Bytes stored line by line, with whether every line took them. -/
def Mach.store (m : Mach) (a : Nat) : Nat → List Byte → Mach × Bool
  | 0, _ => (m, true)
  | _, [] => (m, true)
  | fuel + 1, bs =>
    let n := 64 - a % 64
    let r := m.storeInLine a (bs.take n)
    let r' := r.1.store (a + n) fuel (bs.drop n)
    (r'.1, r.2 && r'.2)

/-- Bytes stored, as many lines as they need. -/
def Mach.storeAll (m : Mach) (a : Nat) (bs : List Byte) : Mach × Bool := m.store a (bs.length / 64 + 2) bs

/-- Whether bytes from an address on could all be stored (R210, R213): every line that they touch in part is free of poison, and none
lies in a stack out of service. -/
def Mach.canStore (m : Mach) (a len : Nat) : Bool :=
  (linesOf a len).all (fun l => !m.stackOut l && (!m.poisoned l || (decide (a ≤ l) && decide (l + 64 ≤ a + len))))

/-! Region windows (R490–R493). -/

/-- The register number of a class's windows: 0 HOST, 1 PEER, 2 FW (R500). -/
def winOf : Cls → Option Nat
  | .host => some 0
  | .peer => some 1
  | .fw => some 2
  | .tk => none

/-- Base, size in bytes and permissions of a window (R501). -/
def Mach.window (m : Mach) (q w : Nat) : Nat × Nat × Bool × Bool :=
  let lo := m.rd (.cxRwBaseLo q w)
  let hi := m.rd (.cxRwBaseHi q w)
  (field lo 31 16 * 0x10000 + field hi 15 0 * 0x100000000, (m.rd (.cxRwSize q w)).toNat * 0x10000, bit lo 0, bit lo 1)

/-- Whether an enabled window of a class covers a whole range with the permission it needs (R491). -/
def Mach.covered (m : Mach) (c : Cls) (a len : Nat) (write : Bool) : Bool :=
  match winOf c with
  | none => true
  | some q => (List.range 8).any (fun w =>
      let x := m.window q w
      decide (x.2.1 ≠ 0) && decide (x.1 ≤ a) && decide (a + len ≤ x.1 + x.2.1)
        && (if write then x.2.2.2 else x.2.2.1))

/-- Whether two ranges overlap. -/
def overlap (a n b k : Nat) : Bool := decide (a < b + k) && decide (b < a + n)

/-- Bytes of a command ring, and of its status ring, from its size field (R54, R60, R61). -/
def Mach.ringSize (m : Mach) (n : Nat) : Nat := 2 ^ (m.rdField (.cxCmdCtrl n) 3 0)

/-- Device address of a command ring (R54). -/
def Mach.cmdBase (m : Mach) (n : Nat) : Nat := addr48 (m.rd (.cxCmdBaseLo n)) (m.rd (.cxCmdBaseHi n))

/-- Device address of a status ring (R54). -/
def Mach.stsBase (m : Mach) (n : Nat) : Nat := addr48 (m.rd (.cxStsBaseLo n)) (m.rd (.cxStsBaseHi n))

/-- Whether a range touches the lines of ring n (R492), which are memory and no registers (R53). -/
def Mach.touchesRing (m : Mach) (n a len : Nat) : Bool :=
  decide (regSize ≤ a) && (overlap a len (m.cmdBase n) (64 * m.ringSize n) || overlap a len (m.stsBase n) (32 * m.ringSize n))

/-- Whether a range touches the model banks or the training state area (R273). -/
def touchesBanks (a len : Nat) : Bool :=
  overlap a len (sramBase + 0x10000000) 0x8000000 || overlap a len (dramBase + 0x1800000000) 0x800000000

/-- Whether a range touches the history ring (R261). -/
def touchesHistory (a len : Nat) : Bool := overlap a len (sramBase + 0x18000000) 0x8000000

/-- Whether a range touches the ring registers of rings 6, 7 and I1 or a window register (R492). -/
def touchesGuardedRegs (a len : Nat) : Bool :=
  overlap a len 0x10580 0x80 || overlap a len 0x10640 0x40 || overlap a len 0x10800 0x300

/-- The protections of R492, which hold whatever the windows grant. -/
def Mach.protectedFrom (m : Mach) (c : Cls) (a len : Nat) (write : Bool) : Bool :=
  let outer := c = .host ∨ c = .peer
  (touchesHistory a len && write)
  || (touchesBanks a len && write && decide outer)
  || ((m.touchesRing 6 a len || m.touchesRing 7 a len) && decide outer)
  || (overlap a len mailBase 0x1000 && (decide (c = .peer) || (decide (c = .fw) && write)))
  || (overlap a len (mailBase + 0x1000) 0xF000 && decide outer)
  || (touchesGuardedRegs a len && write && decide outer)

/-- How an access is judged at the decode point (R477, R491, R495). -/
inductive Judge where
  | ok | undecoded | denied
  deriving DecidableEq, Repr

/-- The judgement of an access by class, range and direction. Before cap_valid every CXL.mem access is denied by its own
row (R497). -/
def Mach.judge (m : Mach) (c : Cls) (a len : Nat) (write : Bool) : Judge :=
  if !m.decoded a len then .undecoded
  else if m.covered c a len write && !m.protectedFrom c a len write then .ok
  else .denied

end Sys2Proof.Machine
end

