-- ==== Sys2Proof/Machine/Ops.lean ====
section
/-! DEFINITION. The operations every unit shares: free values, MSI-X, event records (R525–R530), fault records
(R407–R410), status entries (R57, R61), the tracker (R70), capability words (R5), and the form of every meaning. -/

namespace Sys2Proof.Machine

/-- A fresh free value: nothing is known of it (notes/assumptions/3). -/
def Mach.take (m : Mach) : Word × Mach := (Config.freeWord m.free, { m with free := m.free + 1 })

/-! ## Readiness, enables, capability -/

/-- A bit of `SY_FUNC_EN` (R24). -/
def Mach.en (m : Mach) (fn : Nat) : Bool := bit (m.rd .syFuncEn) fn

/-- Whether the forecaster is enabled: forecast_en acts only while anvil_en is 1 (R24). -/
def Mach.forecastEn (m : Mach) : Bool := m.en fnForecast && m.en fnAnvil

/-- Whether training is enabled: train_en acts only while forecast_en and anvil_en are 1 (R24). -/
def Mach.trainEn (m : Mach) : Bool := m.en fnTrain && m.forecastEn

/-- A bit of `SY_READY` (R521). -/
def Mach.ready (m : Mach) (fn : Nat) : Bool := bit (m.rd .syReady) fn

/-- Bits set in the low `n` bits of a mask. -/
def popcount (n mask : Nat) : Nat := (bitsOf n mask).length

/-- `SY_CAP0` (R5) from what the trusted kernel enabled. -/
def SysSt.cap0 (y : SysSt) : Word :=
  if y.capValid then
    flag true 31 ||| flag y.master 25 ||| flag y.lockstep 24 ||| flag y.train 23 |||
    flag (y.tiles != 0) 22 ||| place y.links 16 ||| place (popcount 8 y.stks) 12 |||
    place y.variant 8 ||| place (popcount 64 y.tiles) 0
  else 0

/-- Tiles in service: enabled and without a failure (R8, R214, R216). -/
def Mach.tilesIn (m : Mach) : Nat :=
  m.sys.tiles &&& ((m.rd .avTileMapLo).toNat ||| ((m.rd .avTileMapHi).toNat <<< 32))

/-- Stacks in service, as a mask (R8, R213). -/
def Mach.stacksIn (m : Mach) : Nat :=
  natOfBits ((bitsOf 8 m.sys.stks).filter (fun s => (m.stackSt s).inService))

/-! ## MSI-X (R496) -/

/-- An event on an MSI-X vector (R496): with the link down it is dropped (R498); masked, it pends. -/
def Mach.msix (m : Mach) (v : Nat) : Mach :=
  if !m.cxl.linkUp then m
  else if m.cxl.msixMask.testBit v then { m with cxl := { m.cxl with msixPend := m.cxl.msixPend ||| (1 <<< v) } }
  else { m with cxl := { m.cxl with msixSent := m.cxl.msixSent ++ [v] } }

/-- An internal signal to the firmware cores (R496), numbered by ring, or by 16 plus the DMA channel. -/
def Mach.fwSignal (m : Mach) (n : Nat) : Mach := { m with cxl := { m.cxl with fwIrq := m.cxl.fwIrq ++ [n] } }

/-! ## Event records -/

/-- A record of the present frame (R525). -/
def Mach.evRec (m : Mach) (type : Nat) (cls : FCls) (payload : List Word) : EvRec :=
  { type := type, cls := cls, payload := payload, opSec := m.ev.opSec, pwrCyc := m.ev.pwrCyc, count := m.time.count,
    quench := m.fault.quench.active, holder := m.pair.holding, held := false }

/-- A list without its last INFO or CORR record. -/
def dropNewestMild : List EvRec → List EvRec
  | [] => []
  | r :: rs => if rs.any (fun x => !x.cls.grave) then r :: dropNewestMild rs else if r.cls.grave then r :: rs else rs

/-- Records of the holding buffer that a thaw has put behind the write queue and that are not stored yet (R531). -/
def Mach.heldQueued (m : Mach) : Nat := (m.ev.queue.filter (fun r => r.held)).length

/-- Records in the holding buffer (R529, R535). -/
def Mach.holdFill (m : Mach) : Nat := m.ev.hold.length + m.heldQueued

/-- Records in the write queue (R528, R535). -/
def Mach.queueFill (m : Mach) : Nat := m.ev.queue.length - m.heldQueued

/-- A record meets the holding buffer (R529, R530). The oldest held record stands first. -/
def Mach.holdRec (m : Mach) (r : EvRec) : Mach :=
  let r := { r with held := true }
  if m.holdFill < 256 then { m with ev := { m.ev with hold := m.ev.hold ++ [r] } }
  else
    let m : Mach := { m.bump .evLost 15 8 1 with ev := { m.ev with lostInFreeze := m.ev.lostInFreeze + 1 } }
    if r.cls.grave && m.ev.hold.any (fun x => !x.cls.grave) then
      { m with ev := { m.ev with hold := dropNewestMild m.ev.hold ++ [r] } }
    else m

/-- A record is taken in: not stored under `recorder_en` 0 (R27), held while frozen, lost when the queue is full
(R528), else queued. -/
def Mach.emitCore (m : Mach) (r : EvRec) : Mach :=
  if !m.en fnRecorder && !r.cls.grave then m.bump .evLost 31 16 1
  else if m.ev.frozen then m.holdRec r
  else if m.queueFill < 1024 then { m with ev := { m.ev with queue := m.ev.queue ++ [r] } }
  else m.bump .evLost 7 0 1

/-! ## Fault records -/

/-- The four words of a fault record (R407). -/
def FaultRec.words (r : FaultRec) : List Word :=
  let st := match r.st with
    | .pending => 0
    | .acked => 1
    | .escalated => 2
    | .causedQuench => 3
  [BitVec.ofNat 32 r.count, place (r.count / 4294967296 % 65536) 0 ||| place r.seq 16,
   place (r.source % 256) 0 ||| place r.cls.code 8 ||| place (r.kind % 16) 10 ||| place (r.cycle % 1024) 16 |||
     place st 28 ||| flag r.raisedFw 30 ||| flag r.injected 31,
   r.detail]

/-- The timer of a class in frames (R410, R426). -/
def Mach.timerOf (m : Mach) : FCls → Nat
  | .info => 0
  | .corr => 100 * m.rdField .fcTimerCorr 15 0
  | .severe => m.rdField .fcTimer 31 16
  | .fatal => m.rdField .fcTimer 7 0

/-- How a fault was reported: at a known reference cycle, through `FC_RAISE`, or injected (R404, R407, R422). -/
structure FaultHow where
  cycle : Nat
  raisedFw : Bool
  injected : Bool

/-- The counter of `FC_COUNT` that a class has (R426). -/
def Mach.countFault (m : Mach) : FCls → Mach
  | .info => m.bump .fcCount 7 0 1
  | .corr => m.bump .fcCount 15 8 1
  | .severe => m.bump .fcCount 23 16 1
  | .fatal => m.bump .fcCount 31 24 1

/-- The fault vector: at each new record, at most once a frame, only while new_record is clear (R424). -/
def Mach.signalFault (m : Mach) : Mach :=
  let m' : Mach := if !m.fault.signalled && !bit (m.rd .fcStat) 29 then
      { m.msix 0 with fault := { m.fault with signalled := true } } else m
  m'.orReg .fcStat (flag true 29)

/-- The record a change to fault writes (R407): INFO acknowledged, any other class pending. It escalates at the strike that opens the
frame after its timer (R410). -/
def Mach.newRec (m : Mach) (source : Nat) (cls : FCls) (kind : Nat) (detail : Word) (how : FaultHow) : FaultRec :=
  { count := m.time.count, seq := m.fault.nextSeq, source := source, cls := cls, kind := kind, cycle := how.cycle,
    st := if cls = .info then .acked else .pending, raisedFw := how.raisedFw, injected := how.injected,
    detail := detail, dueAt := ((m.time.count + m.timerOf cls + 1 : Nat) : Int) }

/-- One record placed at the head of the list, with its counters, its event record and the fault vector. -/
def Mach.placeRec (m : Mach) (r : FaultRec) : Mach :=
  let m : Mach := { m with fault := { m.fault with recs := r :: m.fault.recs, nextSeq := (m.fault.nextSeq + 1) % 65536 } }
  let m : Mach := (m.countFault r.cls).signalFault
  let m : Mach := m.emitCore (m.evRec evFault r.cls r.words)
  if r.cls.grave then { m with eng := { m.eng with test := { m.eng.test with severe := true } } } else m

/-- A record whose effect waits for the next strike (R409, R412, R413). -/
def FaultRec.nextStrike (r : FaultRec) (now : Nat) : FaultRec := { r with dueAt := ((now + 1 : Nat) : Int) }

/-- A record is written; a pending record it pushes out of the 256 escalates at once (R409): a CORR one as a SEVERE record accepted in
the same reference cycle; toward quench, or toward contactor_open of a quench in force (R415), any of them acts at the next strike. `fuel`
bounds the chain of pushed-out CORR records. -/
def Mach.recordLoop (m : Mach) : Nat → FaultRec → Mach
  | 0, r => m.placeRec r
  | fuel + 1, r =>
    let m : Mach := m.placeRec r
    if m.fault.recs.length ≤ 256 then m
    else
      let out := m.fault.recs.getLast?
      let m : Mach := { m with fault := { m.fault with recs := m.fault.recs.take 256 } }
      match out with
      | none => m
      | some o =>
        if o.st != .pending then m
        else
          let m : Mach := { m with fault := { m.fault with pushed := m.fault.pushed ++ [o.nextStrike m.time.count] } }
          if o.cls = .corr then
            m.recordLoop fuel (m.newRec o.source .severe o.kind o.detail ⟨r.cycle, o.raisedFw, o.injected⟩)
          else m

/-- Whether a pair is held by an injection (R422). -/
def Mach.isForced (m : Mach) (src : Nat) (c : FCls) : Bool :=
  m.fault.forced.any (fun f => f.source == src && decide (f.cls = c))

/-- Whether a pair brings no change to fault: it stays in fault (R403), it is non-complementary (R401), or an injection holds it
(R422). -/
def Mach.pairQuiet (m : Mach) (src : Nat) (c : FCls) : Bool :=
  m.fault.active.contains (src, c) || m.fault.wiring.contains (src, c) || m.isForced src c

/-- A pair is known complementary from now on (R402). -/
def Mach.seePair (m : Mach) (p : Nat × FCls) : Mach :=
  if m.fault.monitored.contains p then m
  else { m with fault := { m.fault with monitored := m.fault.monitored ++ [p] } }

/-- The first loss of a freeze records an INFO fault of source 0x09, code 4 (R530, R533), where the pair reports (R401, R403, R422). -/
def afterLoss (before m : Mach) : Mach :=
  if before.ev.lostInFreeze = 0 ∧ m.ev.lostInFreeze ≠ 0 ∧ m.pairQuiet srcRecorder .info = false then
    let t := m.take
    t.2.recordLoop 300 (t.2.newRec srcRecorder .info kindGeneral 4 ⟨t.1.toNat % 1000, false, false⟩)
  else m

/-- A fault accepted at a known reference cycle. -/
def Mach.faultAt (m : Mach) (source : Nat) (cls : FCls) (kind : Nat) (detail : Word) (how : FaultHow) : Mach :=
  afterLoss m (m.recordLoop 300 (m.newRec source cls kind detail how))

/-- A fault that a unit of the module reports on its pair, with a kind code (R403, R406), the pair seen complementary (R402); the
reference cycle inside the frame is a free value (notes/assumptions/3). -/
def Mach.raiseKind (m : Mach) (source : Nat) (cls : FCls) (kind : Nat) (detail : Word) : Mach :=
  if m.pairQuiet source cls then m
  else
    let t := (m.seePair (source, cls)).take
    t.2.faultAt source cls kind detail ⟨t.1.toNat % 1000, false, false⟩

/-- As `raiseKind`, of kind 0. -/
def Mach.raise (m : Mach) (source : Nat) (cls : FCls) (detail : Word) : Mach := m.raiseKind source cls kindGeneral detail

/-- An event record of a unit (R526). -/
def Mach.emit (m : Mach) (type : Nat) (cls : FCls) (payload : List Word) : Mach :=
  afterLoss m (m.emitCore (m.evRec type cls payload))

/-- What holds a line that is read with a check, in SRAM or in a stack in service: `none` for SRAM. Above the watermark a line that
nothing has written reads as zeros without a check (R192), or poisoned in a stack that returned (R213). -/
def Mach.lineHome (m : Mach) (line : Nat) : Option (Option Nat) :=
  match m.space line with
  | .sram _ => some none
  | .stack s off =>
    let x := m.stackSt s
    if x.inService && (decide (off < x.watermark) || m.cleanLines.contains line) then some (some s) else none
  | _ => none

/-- `AV_ECC_LAST_LO` and `AV_ECC_LAST_HI` of an error (R218). -/
def Mach.eccLast (m : Mach) (line kind symbol : Nat) : Mach :=
  { m.wr .avEccLastLo (BitVec.ofNat 32 line) with
    anvil.eccHi := place (line / 4294967296 % 65536) 0 ||| place (symbol % 256) 16 ||| place kind 30 }

/-- The source and detail of a memory fault (R405). -/
def memFault (home : Option Nat) (line : Nat) : Nat × Word :=
  match home with
  | none => (srcSram, BitVec.ofNat 32 ((line - sramBase) / 64))
  | some s => (srcStack s, BitVec.ofNat 32 ((line - dramBase) % stackSize / 64))

/-- An uncorrectable line (R209): counted, with the SEVERE fault. -/
def Mach.uncorrectable (m : Mach) (home : Option Nat) (line kind : Nat) : Mach :=
  let d := memFault home line
  ((m.eccLast line kind 255).bump .avEccUeCnt 15 0 1).raise d.1 .severe d.2

/-- A read of some bytes: each line of them whose symbols still hold an uncorrectable pattern is found anew (R209). -/
def Mach.checkRead (m : Mach) (a len : Nat) : Mach :=
  (m.flawed.filter (fun x => overlap x.1 64 a len)).foldl (fun m x => match m.lineHome x.1 with
    | some home => m.uncorrectable home x.1 2
    | none => m) m

/-- A read of several ranges. -/
def Mach.checkReads (m : Mach) (rs : List (Nat × Nat)) : Mach := rs.foldl (fun m r => m.checkRead r.1 r.2) m

/-- The bytes of a range for a reader that takes nothing with poison: none where one of its lines reads poisoned. -/
def Mach.cleanBytes (m : Mach) (a n : Nat) : List Byte := if m.poisonIn a n then [] else m.bytes a n

/-- The reads that a write of a range makes: of the lines that it covers in part (R210). -/
def Mach.checkWrite (m : Mach) (a len : Nat) : Mach := m.checkReads (partLines a len)

/-- The INFO fault of a register access, naming the class and the offset (R13, R405). -/
def Mach.accessFault (m : Mach) (c : Cls) (addr : Nat) : Mach :=
  m.raise srcRegister .info (place c.code 0 ||| place (addr / 4 % 0x1000000) 8)

/-- A denied access (R494): the class's count and the last denied line; the INFO fault of source 0x04 once per frame and
class where the path asks for it. -/
def Mach.deny (m : Mach) (c : Cls) (addr : Nat) (write record : Bool) : Mach :=
  let m : Mach := match c with
    | .host => m.bump .cxDenyCnt 31 24 1
    | .peer => m.bump .cxDenyCnt 23 16 1
    | .fw => m.bump .cxDenyCnt 15 8 1
    | .tk => m
  let line := addr / 64 * 64
  let m : Mach := { m.wr .cxDenyLastLo (BitVec.ofNat 32 line) with
    cxl.denyHi := place (line / 4294967296 % 65536) 0 ||| place c.code 16 ||| flag write 18 }
  if record && !m.cxl.denied.contains c.code then
    { m with cxl := { m.cxl with denied := m.cxl.denied ++ [c.code] } }.raise srcCxl .info (place c.code 0)
  else m

/-! ## Status entries -/

/-- A ring's state. -/
def Mach.ring (m : Mach) (n : Nat) : RingSt := m.rings.getD n RingSt.reset

/-- A ring's state changed. -/
def Mach.setRing (m : Mach) (n : Nat) (f : RingSt → RingSt) : Mach := { m with rings := m.rings.modify n f }

/-- Whether a ring is enabled (R54). -/
def Mach.ringEn (m : Mach) (n : Nat) : Bool := bit (m.rd (.cxCmdCtrl n)) 31

/-- Whether the status ring is full (R57). -/
def Mach.stsFull (m : Mach) (n : Nat) : Bool :=
  decide (((m.rd (.cxStsTail n)).toNat + 1) % m.ringSize n = (m.rd (.cxStsHead n)).toNat)

/-- The words of a status entry posted in the frame of count `now` (R61). -/
def StsEntry.words (e : StsEntry) (phase : Bool) (now : Nat) : List Word :=
  let count := e.count.getD now
  [flag phase 31 ||| place (e.rt.tag % 2048) 16 ||| place (e.rt.opcode % 256) 8 ||| place (e.status % 256) 0,
   e.rt.seq, BitVec.ofNat 32 count, BitVec.ofNat 32 (count / 4294967296),
   wordAt e.result 0, wordAt e.result 1, wordAt e.result 2, wordAt e.result 3]

/-- Whether a line lies inside a committed decoder (R486, R487). -/
def Mach.inHdm (m : Mach) (a : Nat) : Bool :=
  let dpa := a - sramBase
  decide (sramBase ≤ a) && ([m.cxl.dec0, m.cxl.dec1].any (fun d => d.committed && decide (d.dpa ≤ dpa)
    && decide (dpa < d.dpa + d.size)))

/-- The address of the next status entry. -/
def Mach.stsSlot (m : Mach) (n : Nat) : Nat := m.stsBase n + 32 * (m.rd (.cxStsTail n)).toNat

/-- An operation leaves the tracker. -/
def Mach.dropOp (m : Mach) (id : Nat) : Mach := { m with ops := m.ops.filter (fun o => o.id != id) }

/-- What a terminal entry holds until it is posted or dropped becomes free (R70). -/
def Mach.release (m : Mach) (e : StsEntry) : Mach :=
  match e.frees with
  | .op id => m.dropOp id
  | _ => m

/-- Whether the lines of a status entry lie where a ring may lie: SRAM, LPDDR5, the island's mailbox (R53, R55). -/
def Mach.ringSpace (m : Mach) (a : Nat) : Bool :=
  match m.space a with
  | .sram _ => true
  | .stack _ _ => true
  | .mailbox => true
  | _ => false

/-- Bytes of a status ring written as any other write, a partial one with its read: a poisoned line and a stack out of service keep what they hold (R210, R213). -/
def Mach.putRing (m : Mach) (a : Nat) (bs : List Byte) : Mach := if m.ringSpace a then ((m.checkWrite a bs.length).storeAll a bs).1 else m

/-- One status entry written at the tail, the tail advanced, and the ring's vector signalled (R57, R54, R496). -/
def Mach.writeEntry (m : Mach) (n : Nat) (e : StsEntry) : Mach :=
  let m : Mach := (m.release e).putRing (m.stsSlot n) (wordsBytes (e.words (m.ring n).passOdd m.time.count))
  let next := ((m.rd (.cxStsTail n)).toNat + 1) % m.ringSize n
  let m : Mach := m.wr (.cxStsTail n) (BitVec.ofNat 32 next)
  let m : Mach := m.setRing n (fun r => { r with
    passOdd := if next = 0 then !r.passOdd else r.passOdd
    owing := if e.first then r.owing - 1 else r.owing })
  if bit (m.rd (.cxCmdCtrl n)) 30 then
    (if n < 6 then m.msix (n + 1) else if n = 8 then m.msix 7 else m.fwSignal n)
  else m

/-- Held entries go out in order until the ring is full or a line needs RdOwnNoData first (R57, R76, R487). -/
def Mach.drain (m : Mach) (n : Nat) : Nat → Mach
  | 0 => m
  | fuel + 1 =>
    match (m.ring n).held with
    | [] => m
    | e :: rest =>
      if (m.ring n).rdownWait || m.stsFull n then m
      else if m.cxl.linkUp && m.cxl.cacheEn && m.inHdm (m.stsSlot n) then m.setRing n (fun r => { r with rdownWait := true })
      else ((m.setRing n (fun r => { r with held := rest })).writeEntry n e).drain n fuel

/-- Every held entry that can go out does. -/
def Mach.drainAll (m : Mach) (n : Nat) : Mach := m.drain n ((m.ring n).held.length)

/-- A reply or notification for a ring: dropped and counted once its ring has been disabled (R58), else posted in
order. -/
def Mach.post (m : Mach) (e : StsEntry) : Mach :=
  let r := m.ring e.rt.ring
  if !m.ringEn e.rt.ring || r.epoch != e.rt.epoch then (m.release e).bump (.cxStsDrop e.rt.ring) 15 0 1
  else (m.setRing e.rt.ring (fun r => { r with held := r.held ++ [e] })).drainAll e.rt.ring

/-- The first reply of a packet. -/
def Mach.reply (m : Mach) (rt : RTo) (status : Nat) (result : List Word) : Mach :=
  m.post ⟨rt, status, none, result, true, .nothing⟩

/-- A notification. -/
def Mach.notify (m : Mach) (rt : RTo) (status : Nat) (result : List Word) : Mach :=
  m.post ⟨rt, status, none, result, false, .nothing⟩

/-- The active plan (R327). -/
def Mach.plan (m : Mach) : Option Plan := m.hall.active.bind (fun b => (m.hall.bufs.getD b none))

/-! ## The tracker -/

/-- The completed launch whose terminal entry this is: where it replies, and the count at which it completed. -/
def StsEntry.launch (e : StsEntry) : Option (RTo × Nat) :=
  match e.frees with
  | .launch n => some (e.rt, n)
  | _ => none

/-- Completed launches whose terminal entry waits in a ring (R70). -/
def Mach.endingLaunches (m : Mach) : List (RTo × Nat) := m.rings.flatMap (fun r => r.held.filterMap StsEntry.launch)

/-- Whether a launched commit under validation has its place in the tracker (R62 check 7, R84). -/
def Mach.commitEntry (m : Mach) : Bool := m.txn.commit.any (fun x => x.2 != 0)

/-- Whether a slot holds the tag of the packet that armed it (R70). A domain launch that a message armed holds none (DEDUCED,
notes/assumptions/28). -/
def LaunchSlot.holdsTag (l : LaunchSlot) : Bool := decide (l.state = .armed) && l.reply.isSome

/-- Tracker entries in use: operations in flight, and launches that a packet armed, from their command to their terminal entry (R63,
R70). -/
def Mach.inFlight (m : Mach) : Nat :=
  m.ops.length + (m.slots.filter LaunchSlot.holdsTag).length + m.endingLaunches.length
    + (if m.commitEntry then 1 else 0)

/-- The tags held by operations, and by launches until their terminal entry is posted (R70). -/
def Mach.tagHeld (m : Mach) (tag : Nat) : Bool :=
  m.ops.any (fun o => o.rt.tag == tag && tag != 0) || m.slots.any (fun l => l.holdsTag && l.tag == tag)
    || (m.endingLaunches.any (fun x => x.1.tag == tag && tag != 0))

/-- The operation that holds a tag, at work or with its terminal entry still to be posted. -/
def Mach.opHolding (m : Mach) (tag : Nat) : Option Op := m.ops.find? (fun o => o.rt.tag == tag && tag != 0)

/-- The operation at work that holds a tag. One that has ended, while its terminal entry still waits behind a full status ring, is at work
no more, though it holds its tag (R70): the table of R73 has no row for it, and the model answers OP_SUSPEND, OP_RESUME and OP_CANCEL
with ST_BAD_STATE (DESIGN CHOICE, notes/assumptions/81). -/
def Mach.opByTag (m : Mach) (tag : Nat) : Option Op := (m.opHolding tag).filter (fun o => !o.ended)

/-- The operation with a tracker number. -/
def Mach.opById (m : Mach) (id : Nat) : Option Op := m.ops.find? (fun o => o.id == id)

/-- A new tracker entry, running. -/
def Mach.addOp (m : Mach) (rt : RTo) (cls : Cls) : Mach × Nat :=
  ({ m with ops := m.ops ++ [⟨m.nextOp, rt, cls, .running, false, m.time.count, none, 0⟩], nextOp := m.nextOp + 1 }, m.nextOp)

/-- An operation's state changed, at the present count (R77). A resumption that no bundle and no step followed is not notified any more once
the operation is suspended again (R73). -/
def Mach.setOp (m : Mach) (id : Nat) (st : OpState) : Mach :=
  { m with ops := m.ops.map (fun o => if o.id == id then
      { o with state := st, changed := m.time.count, resumeNote := if st = .suspended then none else o.resumeNote } else o) }

/-- Whether an operation started by an opcode holds its tag, at work or with its terminal entry still to be posted (R70). -/
def Mach.opcodeHeld (m : Mach) (oc : Nat) : Bool := m.ops.any (fun o => o.rt.opcode == oc)

/-- An operation that has ended while its terminal entry waits: it is at work no more, and no longer suspended. -/
def Op.finish (o : Op) : Op := { o with ended := true, state := if o.state = .suspended then .cancelling else o.state }

/-- An operation ends: its terminal status is posted, and with it its tag is free (R70). An untagged operation's terminal status
is its only reply (R71). -/
def Mach.endOp (m : Mach) (id status : Nat) (result : List Word) : Mach :=
  match m.opById id with
  | none => m
  | some o =>
    if o.ended then m
    else
      ({ m with ops := m.ops.map (fun p => if p.id == id then p.finish else p) } : Mach).post
        ⟨o.rt, status, none, result, o.rt.tag == 0, .op id⟩

/-- Notifications of a tag held back by a full status ring (R76). -/
def Mach.heldNotes (m : Mach) (tag ring : Nat) : Nat :=
  ((m.ring ring).held.filter (fun e => e.rt.tag == tag && !e.first)).length

/-! ## The form of a meaning -/

/-- Peer links in service (R8, R334). -/
def Mach.linksIn (m : Mach) : Nat := (m.peers.filter (fun l => decide (l.st = .service))).length

/-- Every enabled stack stands in service or out of service under R213 (R216, R522). -/
def Mach.stacksSettled (m : Mach) : Bool :=
  (bitsOf 8 m.sys.stks).all (fun s => (m.stackSt s).inService || (m.stackSt s).outBy != 0)

/-- Links in service as `SY_CAP1` counts them: those in SERVICE, and those that only a disable or a reset holds down (R8, R28, R556). -/
def Mach.linksShown (m : Mach) : Nat := min (max m.linksIn m.sys.keptLinks) m.sys.links

/-- Stacks in service as `SY_CAP1` counts them (R8, R556): the kept count stands until every stack has been trained again. -/
def Mach.stksShown (m : Mach) : Nat :=
  let in_ := popcount 8 m.stacksIn
  if m.stacksSettled then in_
  else max in_ (min m.sys.keptStks ((bitsOf 8 m.sys.stks).filter (fun s => (m.stackSt s).outBy == 0)).length)

/-- Tiles in service as `SY_CAP1` counts them (R8, R556): the kept count stands until the self-test has run again. -/
def Mach.tilesShown (m : Mach) : Nat :=
  if m.anvil.bist then popcount 64 m.tilesIn else min (max (popcount 64 m.tilesIn) m.sys.keptTiles) (popcount 64 m.sys.tiles)

/-- `SY_CAP1` (R5): what is in service at present, never above what is enabled (R8). -/
def Mach.cap1 (m : Mach) : Word :=
  if m.sys.capValid then place m.linksShown 16 ||| place m.stksShown 12 ||| place m.tilesShown 0 else 0

/-- What every command ends with: svc_change marks a change of `SY_CAP1` (R424), and the sparse tables stand in their
canonical form. -/
def settle (before m : Mach) : Mach :=
  let m : Mach := if before.cap1 != m.cap1 then m.orReg .fcStat (flag true 28) else m
  { m with regs := snorm m.regs, mem := snorm m.mem }

/-- The form of a meaning: the module changes, the queue does not. -/
def State.on (s : State) (f : Mach → Mach) : Host.Outcome State Fault Refusal :=
  .next { s with toMach := settle s.toMach (f s.toMach) }

end Sys2Proof.Machine
end

