-- ==== Sys2Proof/Machine/AnvilMem.lean ====
section
/-! DEFINITION. Tensor descriptors and the bytes behind them (R223–R225): parsing, footprints, region checks, packed
elements of every format of R194 and R224, read and written row by row. -/

namespace Sys2Proof.Machine

/-- A tensor descriptor as an instruction uses it (R223): address after its base, format, rank, the four extents, the
strides of dimensions 1 to 3, and the scale descriptor's index. -/
structure Tensor where
  base : Nat
  fmt : Nat
  rank : Nat
  dims : List Nat
  strides : List Nat
  scale : Nat
  deriving DecidableEq, Repr

/-! Format codes of R224. -/
abbrev fF32 : Nat := 0x0
abbrev fBf16 : Nat := 0x1
abbrev fI8 : Nat := 0x9
abbrev fI32 : Nat := 0xA
abbrev fLq : Nat := 0xB
abbrev fScale : Nat := 0xC
abbrev fI64 : Nat := 0xD

/-- 2^48, the device address space of R223. -/
abbrev addrMod : Nat := 281474976710656

/-- Whether a format is an MX format. -/
def isMx (f : Nat) : Bool := decide (4 ≤ f) && decide (f ≤ 8)

/-- The floating format behind a format code, MX elements included. -/
def floatOf (f : Nat) : Option FloatFmt :=
  match f with
  | 0 => some fp32
  | 1 => some bf16
  | 2 => some e4m3
  | 3 => some e5m2
  | 4 => some e4m3
  | 5 => some e5m2
  | 6 => some e3m2
  | 7 => some e2m3
  | 8 => some e2m1
  | _ => none

/-- Whether a format code names a floating format. -/
def isFloat (f : Nat) : Bool := (floatOf f).isSome

/-- Bits of one element (R194, R224). -/
def fmtBits (f : Nat) : Nat :=
  match f with
  | 0 => 32
  | 1 => 16
  | 2 => 8
  | 3 => 8
  | 4 => 8
  | 5 => 8
  | 6 => 6
  | 7 => 6
  | 8 => 4
  | 9 => 8
  | 10 => 32
  | 11 => 32
  | 12 => 8
  | 13 => 64
  | _ => 0

/-- Extent `i` of a tensor. -/
def Tensor.dim (t : Tensor) (i : Nat) : Nat := t.dims.getD i 1

/-- Stride of dimension `i`, 1 to 3. -/
def Tensor.stride (t : Tensor) (i : Nat) : Nat := t.strides.getD (i - 1) 0

/-- Elements of a tensor. -/
def Tensor.count (t : Tensor) : Nat := t.dim 0 * t.dim 1 * t.dim 2 * t.dim 3

/-- Bytes of one packed row of dimension 0 (R194). -/
def Tensor.rowBytes (t : Tensor) : Nat := (t.dim 0 * fmtBits t.fmt + 7) / 8

/-- The reserved bits and ranges of a descriptor (R223, R237). -/
def descOk (w : List Word) : Bool :=
  let w1 := wordAt w 1
  let rank := field w1 26 24
  decide (field w1 18 16 ≤ 4) && !bit w1 19 && decide (field w1 23 20 ≤ 0xD) && decide (1 ≤ rank) && decide (rank ≤ 4)
    && decide (field w1 31 27 = 0)
    && (List.range 4).all (fun i => let d := wordAt w (2 + i)
        decide (field d 31 24 = 0) && decide (d.toNat ≠ 0) && (decide (i < rank) || decide (d.toNat = 1)))
    && decide (field (wordAt w 9) 31 8 = 0) && (List.range 6).all (fun i => decide (wordAt w (10 + i) = 0))

/-- The tensor a descriptor's words spell, with its base resolved against the job bases (R223). -/
def descTensor (bases : List Nat) (w : List Word) : Tensor :=
  let w1 := wordAt w 1
  let sel := field w1 18 16
  let addr := addr48 (wordAt w 0) (w1 &&& 0xFFFF)
  { base := if sel = 0 then addr else (bases.getD (sel - 1) 0 + addr) % addrMod
    fmt := field w1 23 20
    rank := field w1 26 24
    dims := [(wordAt w 2).toNat, (wordAt w 3).toNat, (wordAt w 4).toNat, (wordAt w 5).toNat]
    strides := [(wordAt w 6).toNat, (wordAt w 7).toNat, (wordAt w 8).toNat]
    scale := field (wordAt w 9) 7 0 }

/-- A tensor with its scale tensor, MX only. -/
structure Operand where
  t : Tensor
  sc : Option Tensor
  deriving DecidableEq, Repr

/-- A descriptor by index (R223, R224): none where it is illegal. -/
def operandAt (descs : List (List Word)) (bases : List Nat) (i : Nat) : Option Operand :=
  match descs[i]? with
  | none => none
  | some w =>
    if !descOk w then none
    else
      let t := descTensor bases w
      if isMx t.fmt then
        match descs[t.scale]? with
        | none => none
        | some v =>
          let s := descTensor bases v
          if t.dim 0 % 32 = 0 ∧ descOk v ∧ s.fmt = fScale ∧ s.dims = (t.dim 0 / 32) :: t.dims.tail then
            some ⟨t, some s⟩
          else none
      else some ⟨t, none⟩

/-- The footprint of a tensor from its lowest to its highest byte (R225). -/
def Tensor.foot (t : Tensor) : Nat × Nat :=
  (t.base, (t.dim 1 - 1) * t.stride 1 + (t.dim 2 - 1) * t.stride 2 + (t.dim 3 - 1) * t.stride 3 + t.rowBytes)

/-- The footprint of row `i` of dimension 1, whatever the extent (R225, gathers and scatters). -/
def Tensor.rowFoot (t : Tensor) (i : Int) : Nat × Nat :=
  ((((t.base : Int) + i * t.stride 1) % addrMod).toNat, t.rowBytes)

/-- Whether an agent of a class may use a range as anvil data: one region window, in SRAM or LPDDR5 (R225). -/
def Mach.anvilMay (m : Mach) (c : Cls) (write : Bool) (r : Nat × Nat) : Bool :=
  decide (m.judge c r.1 r.2 write = .ok) && decide (sramBase ≤ r.1) && decide (r.1 < hostBase)

/-- The starting addresses of the rows of a tensor in row-major order. -/
def Tensor.rows (t : Tensor) : List Nat :=
  (List.range (t.dim 3)).flatMap fun i3 => (List.range (t.dim 2)).flatMap fun i2 => (List.range (t.dim 1)).map fun i1 =>
    (t.base + i1 * t.stride 1 + i2 * t.stride 2 + i3 * t.stride 3) % addrMod

/-- The address of an element of 64 bits by its linear index. -/
def Tensor.elemAt (t : Tensor) (e : Nat) : Nat := (t.rows.getD (e / t.dim 0) 0 + 8 * (e % t.dim 0)) % addrMod

/-- `n` packed codes of a width from a number. -/
def unpack (bits : Nat) : Nat → Nat → List Nat
  | 0, _ => []
  | n + 1, v => v % 2 ^ bits :: unpack bits n (v / 2 ^ bits)

/-- Codes packed into a number, the first lowest. -/
def pack (bits : Nat) : List Nat → Nat
  | [] => 0
  | c :: cs => c % 2 ^ bits + 2 ^ bits * pack bits cs

/-- The codes of one row. -/
def Mach.rowCodes (m : Mach) (t : Tensor) (a : Nat) : List Nat :=
  unpack (fmtBits t.fmt) (t.dim 0) (leNat (m.bytes a t.rowBytes))

/-- The codes of a tensor in row-major order from dimension 0. -/
def Mach.codes (m : Mach) (t : Tensor) : List Nat := t.rows.flatMap (m.rowCodes t)

/-- One row written. -/
def Mach.putRow (m : Mach) (t : Tensor) (a : Nat) (cs : List Nat) : Mach :=
  (m.storeAll a (leBytes t.rowBytes (pack (fmtBits t.fmt) cs))).1

/-- Codes written row by row. -/
def Mach.putRows (m : Mach) (t : Tensor) : List Nat → List Nat → Mach
  | [], _ => m
  | a :: as, cs => (m.putRow t a (cs.take (t.dim 0))).putRows t as (cs.drop (t.dim 0))

/-- A tensor's codes written. -/
def Mach.putCodes (m : Mach) (t : Tensor) (cs : List Nat) : Mach := m.putRows t t.rows cs

/-- The value of a code of a floating format without a scale. -/
def codeVal (f code : Nat) : FVal :=
  match floatOf f with
  | some x => decodeFloat x code
  | none => .nan

/-- The value of an MX element under its block's scale code. -/
def mxCodeVal (f code scale : Nat) : FVal :=
  match floatOf f with
  | some x => mxVal x code scale
  | none => .nan

/-- The values of an operand in row-major order. -/
def Mach.vals (m : Mach) (o : Operand) : List FVal :=
  let cs := m.codes o.t
  match o.sc with
  | some s =>
    let ss := m.codes s
    cs.mapIdx (fun i c => mxCodeVal o.t.fmt c (ss.getD (i / 32) 0))
  | none => cs.map (codeVal o.t.fmt)

/-- The FP32 words of an FP32 operand. -/
def Mach.f32s (m : Mach) (o : Operand) : List Word := (m.codes o.t).map (BitVec.ofNat 32)

/-- The signed value of a code of `n` bits. -/
def signedCode (n code : Nat) : Int := if code < 2 ^ (n - 1) then (code : Int) else (code : Int) - 2 ^ n

/-- The code of a signed value. -/
def codeOfInt (n : Nat) (v : Int) : Nat := (v % 2 ^ n).toNat

/-- The integers of an operand of an integer format. -/
def Mach.ints (m : Mach) (o : Operand) : List Int := (m.codes o.t).map (signedCode (fmtBits o.t.fmt))

/-- Blocks of `n` elements of a list, `fuel` at most. -/
def chunksOf {α : Type} (n : Nat) : Nat → List α → List (List α)
  | 0, _ => []
  | _, [] => []
  | f + 1, l => l.take n :: chunksOf n f (l.drop n)

/-- FP32 words in flight as the codes of a floating format, with the scale codes of MX blocks and the flags (R195, R196). In FP32 they
stand as they are. -/
def f32Codes (f : Nat) (ieee : Bool) (vs : List Word) : List Nat × List Nat × Word :=
  match floatOf f with
  | none => ([], [], 0)
  | some x =>
    if f = fF32 then (vs.map (·.toNat), [], 0)
    else if isMx f then
      let bs := (chunksOf 32 vs.length vs).map (quantMx x ieee)
      (bs.flatMap (fun b => b.1), bs.map (fun b => b.2.1), bs.foldl (fun a b => a ||| b.2.2) 0)
    else
      let es := vs.map (fun v => encodeFloat x ieee (f32val v))
      (es.map Prod.fst, [], es.foldl (fun a e => a ||| e.2) 0)

/-- FP32 words converted to FP32 under R195, as any other destination format would take them. -/
def convF32 (ieee : Bool) (vs : List Word) : List Word := vs.map (fun v => (toF32 ieee (f32val v)).1)

/-- Codes written from an element on, each row that they touch read, merged and written. -/
def Mach.putCodesAt (m : Mach) (t : Tensor) (start : Nat) (cs : List Nat) : Mach :=
  let n := t.dim 0
  (List.range ((start + cs.length + n - 1) / n - start / n)).foldl (fun m i =>
    let r := start / n + i
    match t.rows[r]? with
    | none => m
    | some a => m.putRow t a ((m.rowCodes t a).mapIdx (fun e old =>
        if start ≤ r * n + e then cs.getD (r * n + e - start) old else old))) m

/-- FP32 words written from an element of an operand of a floating format on, with the flags. -/
def Mach.putF32At (m : Mach) (ieee : Bool) (o : Operand) (start : Nat) (vs : List Word) : Mach × Word :=
  let r := f32Codes o.t.fmt ieee vs
  let m := m.putCodesAt o.t start r.1
  match o.sc with
  | some s => (m.putCodesAt s (start / 32) r.2.1, r.2.2)
  | none => (m, r.2.2)

/-- FP32 words written into an operand of a floating format, with the flags. -/
def Mach.putF32 (m : Mach) (ieee : Bool) (o : Operand) (vs : List Word) : Mach × Word :=
  let r := f32Codes o.t.fmt ieee vs
  let m := m.putCodes o.t r.1
  match o.sc with
  | some s => (m.putCodes s r.2.1, r.2.2)
  | none => (m, r.2.2)

end Sys2Proof.Machine
end

