-- ==== Sys2Proof/Machine/Keccak.lean ====
section
/-! DEFINITION. SHA3-256, SHAKE128 and SHAKE256 of FIPS 202, which R233, R274, R304, R313, R351, R436, R504 and R509
name: the permutation Keccak-f[1600] over 25 lanes, the sponge, and the two domain paddings. -/

namespace Sys2Proof.Machine

/-- The state of the permutation: five planes (y) of five lanes (x). -/
abbrev Planes := List (List DWord)

/-- A plane turned by `n` places: lane x of it is lane x + n of `p`. -/
def turn (n : Nat) (p : List DWord) : List DWord := p.drop n ++ p.take n

/-- The lanewise exclusive or of two planes. -/
def planeXor (p q : List DWord) : List DWord := List.zipWith (· ^^^ ·) p q

/-- Step theta: the plane of column parities, combined from the neighbours on both sides, goes into every plane. -/
def theta (a : Planes) : Planes :=
  let parity := a.foldl planeXor (List.replicate 5 0)
  let mixed := planeXor (turn 4 parity) ((turn 1 parity).map (·.rotateLeft 1))
  a.map (planeXor mixed)

/-- Where the walk of step rho stands after `t` moves from (1, 0). -/
def rhoAt : Nat → Nat × Nat
  | 0 => (1, 0)
  | t + 1 => ((rhoAt t).2, (2 * (rhoAt t).1 + 3 * (rhoAt t).2) % 5)

/-- How far step rho turns the lane (x, y): the triangular number of the move that reaches it, 0 for (0, 0). -/
def rhoBy (x y : Nat) : Nat :=
  match (List.range 24).find? (fun t => rhoAt t == (x, y)) with
  | some t => (t + 1) * (t + 2) / 2 % 64
  | none => 0

/-- For the plane y that steps rho and pi form: which lane comes to each x (its plane is x itself), and how far turned. -/
def rhoPiPlan : List (List (Nat × Nat)) :=
  (List.range 5).map (fun y => (List.range 5).map (fun x => ((x + 3 * y) % 5, rhoBy ((x + 3 * y) % 5) x)))

/-- Steps rho and pi. -/
def rhoPi (plan : List (List (Nat × Nat))) (a : Planes) : Planes :=
  plan.map (List.zipWith (fun src f => (src.getD f.1 0).rotateLeft f.2) a)

/-- Step chi on one plane. -/
def chi (p : List DWord) : List DWord :=
  planeXor p (List.zipWith (fun u v => ~~~u &&& v) (turn 1 p) (turn 2 p))

/-- The shift register of step iota after `t` ticks: x^8 + x^6 + x^5 + x^4 + 1, started at 1. -/
def iotaReg : Nat → Nat
  | 0 => 1
  | t + 1 => if iotaReg t < 128 then 2 * iotaReg t else (2 * iotaReg t) % 256 ^^^ 0x71

/-- The constant of round `r`: the register's bit 0 at tick 7r + j stands at bit 2^j - 1. -/
def iotaOf (r : Nat) : DWord :=
  (List.range 7).foldl (fun w j => if (iotaReg (7 * r + j)).testBit 0 then w ^^^ BitVec.twoPow 64 (2 ^ j - 1) else w) 0

/-- Step iota. -/
def iota (c : DWord) (a : Planes) : Planes := a.modify 0 (List.modify · 0 (· ^^^ c))

/-- The permutation Keccak-f[1600]: 24 rounds of theta, rho, pi, chi and iota. -/
def keccakF (a : Planes) : Planes :=
  let plan := rhoPiPlan
  (List.range 24).foldl (fun a r => iota (iotaOf r) ((rhoPi plan (theta a)).map chi)) a

/-- A block as planes: its bytes 8 to a lane, what the rate leaves of the state 0. -/
def blockPlanes (blk : List Byte) : Planes :=
  (List.range 5).map (fun y => (List.range 5).map (fun x => BitVec.ofNat 64 (leNat ((blk.drop (40 * y + 8 * x)).take 8))))

/-- The state after a message that `k` whole blocks of `rate` bytes hold. -/
def soak (rate : Nat) (k : Nat) (msg : List Byte) : Planes :=
  (List.range k).foldl (fun a i => keccakF (List.zipWith planeXor a (blockPlanes ((msg.drop (rate * i)).take rate))))
    (List.replicate 5 (List.replicate 5 0))

/-- The bytes that fill the last block, `n` of them: the domain's bits first, the last bit of the block set. -/
def sealBytes (dom n : Nat) : List Byte := leBytes n (dom + 2 ^ (8 * n - 1))

/-- The first `n` bytes a sponge gives of a message, for `n` at most one block. -/
def keccakHash (rate dom n : Nat) (msg : List Byte) : List Byte :=
  let k := msg.length / rate + 1
  let out := soak rate k (msg ++ sealBytes dom (rate * k - msg.length))
  (out.flatten.flatMap (fun l => leBytes 8 l.toNat)).take n

/-- SHA3-256, 32 bytes. -/
def sha3_256 (msg : List Byte) : List Byte := keccakHash 136 0x06 32 msg

/-- The first `n` bytes of SHAKE128, for `n` at most one block. -/
def shake128 (n : Nat) (msg : List Byte) : List Byte := keccakHash 168 0x1F n msg

/-- The first `n` bytes of SHAKE256, for `n` at most one block. -/
def shake256 (n : Nat) (msg : List Byte) : List Byte := keccakHash 136 0x1F n msg

/-- H(m): the first 8 bytes of SHA3-256 over m, as a little-endian 64-bit value (R436, R313, R351). -/
def hash8 (msg : List Byte) : DWord := BitVec.ofNat 64 (leNat ((sha3_256 msg).take 8))

end Sys2Proof.Machine
end

