-- ==== Sys2Proof/Machine/Vfn.lean ====
section
/-! DEFINITION. The table functions of VFN (R206, R230): exp, log, tanh, sigmoid and reciprocal square root. Genrov's tables are not
printed, so the value is the opaque `Config.vfnTable`, held to the 2 ulp that R206 promises around the exact value, which is computed here
in fixed point with 160 fraction bits (notes/assumptions/4). -/

namespace Sys2Proof.Machine

/-- One in fixed point. -/
abbrev fixOne : Nat := 2 ^ 160

/-- ln 2 in fixed point. -/
abbrev fixLn2 : Nat := 0xB17217F7D1CF79ABC9E3B39803F2F6AF40F34326

/-- m · 2^e in fixed point. -/
def fixOf (m : Nat) (e : Int) : Nat := if 0 ≤ e + 160 then m * 2 ^ (e + 160).toNat else m / 2 ^ (-(e + 160)).toNat

/-- Σ r^n / n! from its term `t` of index `n` on. -/
def expTerms (r : Nat) : Nat → Nat → Nat → Nat
  | 0, _, _ => 0
  | fuel + 1, n, t => t + expTerms r fuel (n + 1) (t * r / fixOne / (n + 1))

/-- e^x of a fixed-point x as (M, k), for M · 2^(k − 160) with 1 ≤ M · 2^−160 < 2. Beyond every FP32 result k stays at ±1000. -/
def fixExp (x : Int) : Nat × Int :=
  (expTerms (x % (fixLn2 : Int)).toNat 64 0 fixOne, clampInt (x / (fixLn2 : Int)) (-1000) 1000)

/-- z + z^3/3 + z^5/5 + …, from the power `p` of index `n` on. -/
def atanhTerms (sq : Nat) : Nat → Nat → Nat → Nat
  | 0, _, _ => 0
  | fuel + 1, n, p => p / (2 * n + 1) + atanhTerms sq fuel (n + 1) (p * sq / fixOne)

/-- ln(m · 2^e) in fixed point, for m above 0. -/
def fixLog (m : Nat) (e : Int) : Int :=
  let b := m.log2
  let y := m * fixOne / 2 ^ b
  let z := (y - fixOne) * fixOne / (y + fixOne)
  (e + b) * fixLn2 + 2 * (atanhTerms (z * z / fixOne) 64 0 z : Nat)

/-- (M, k) of `fixExp` in fixed point, for k at most 0. -/
def fixSmall (x : Nat × Int) : Nat := x.1 / 2 ^ (-x.2).toNat

/-- The exact value of a table function where R206 bounds it: sign, magnitude and exponent. None for the operands at which the function
has no finite value, and for NaN and infinities. -/
def vfnExact (fn : Nat) (v : FVal) : Option (Bool × Nat × Int) :=
  match v with
  | .fin neg m e =>
    let x : Int := if neg then -(fixOf m e : Int) else fixOf m e
    match fn with
    | 0 => let r := fixExp x; some (false, r.1, r.2 - 160)
    | 1 => if neg ∨ m = 0 then none else let l := fixLog m e; some (decide (l < 0), l.natAbs, -160)
    | 2 =>
      if (m.log2 : Int) + e < -40 then some (neg, m, e)
      else
        let d := fixSmall (fixExp (-(2 * fixOf m e : Int)))
        some (neg, (fixOne - d) * fixOne / (fixOne + d), -160)
    | 3 =>
      if neg then
        let r := fixExp x
        some (false, r.1 * fixOne / (fixOne + fixSmall r), r.2 - 160)
      else some (false, fixOne * fixOne / (fixOne + fixSmall (fixExp (-x))), -160)
    | _ =>
      if neg ∨ m = 0 then none
      else
        let odd := e % 2 = 1
        let m' := if odd then 2 * m else m
        let e' := if odd then e - 1 else e
        some (false, isqrt (2 ^ 300 / m'), -150 - e' / 2)
  | _ => none

/-- An FP32 code on the line of the numbers, −0 and +0 at 0. -/
def f32ord (w : Word) : Int := if bit w 31 then -(w.toNat % 2 ^ 31 : Nat) else w.toNat

/-- The FP32 code at a place of that line. -/
def f32at (o : Int) : Word := BitVec.ofNat 32 (o.natAbs + if o < 0 then 2 ^ 31 else 0)

/-- A table function (R206): within two codes of the exact value's nearest code, on its side of 0 where the function is positive; a value
beyond FP32 overflows under R195. -/
def vfn (ieee : Bool) (fn : Nat) (w : Word) : Word × Word :=
  match vfnExact fn (f32val w) with
  | none => (Config.vfnTable fn w, Config.vfnFlags fn w &&& 3)
  | some (neg, m, e) =>
    let c := roundMag fp32 m e true
    if fp32.maxCode < c then (BitVec.ofNat 32 (infCode fp32 ieee neg), fOverflow)
    else
      let o : Int := if neg then -c else c
      let lo : Int := if fn = 1 ∨ fn = 2 then o - 2 else max 0 (o - 2)
      (f32at (clampInt (f32ord (Config.vfnTable fn w)) lo (min (o + 2) fp32.maxCode)), 0)

end Sys2Proof.Machine
end

