-- ==== Sys2Proof/Machine/AnvilIsa.lean ====
section
/-! DEFINITION. The anvil's instructions (R219–R240): one bundle of four slots over a job and the memory. An instruction
that cannot be carried out answers the status its job ends with: ST_ANV_ILLEGAL, ST_REGION, ST_MEM_POISON,
ST_VARIABLE_REFUSED. A sequence instruction runs from one internal boundary to the next (R222). -/

namespace Sys2Proof.Machine

/-- An instruction (R221). -/
structure Ins where
  op : Nat
  dst : Nat
  a : Nat
  b : Nat
  c : Nat
  fmt : Nat
  split : Nat
  rsv : Nat
  sub : Nat
  imm : Nat
  deriving DecidableEq, Repr

/-- The four words of a slot (R221). -/
def insOf (w : List Word) : Ins :=
  { op := field (wordAt w 0) 7 0
    dst := field (wordAt w 0) 15 8
    a := field (wordAt w 0) 23 16
    b := field (wordAt w 0) 31 24
    c := field (wordAt w 1) 7 0
    fmt := field (wordAt w 1) 11 8
    split := field (wordAt w 1) 13 12
    rsv := field (wordAt w 1) 15 14
    sub := field (wordAt w 1) 31 16
    imm := (wordAt w 2).toNat + (wordAt w 3).toNat * 4294967296 }

/-- A bundle under way: the module, the job, T, and the lines written by the present slot (R313). -/
structure Bx where
  m : Mach
  j : Job
  t : Nat
  lines : List Nat

/-- ovf_ieee of the mode word (R201). -/
def Job.ieee (j : Job) : Bool := bit j.mode 1

/-- repro of the mode word (R201). -/
def Job.repro (j : Job) : Bool := bit j.mode 0

/-- A descriptor operand of a job. -/
def Job.operand (j : Job) (i : Nat) : Option Operand := operandAt j.descs j.bases i

/-- An operand of an accepted format, or an illegal instruction. -/
def Bx.opnd (x : Bx) (i : Nat) (ok : Nat → Bool) : Except Nat Operand :=
  match x.j.operand i with
  | some o => if ok o.t.fmt then .ok o else .error stAnvIllegal
  | none => .error stAnvIllegal

/-- The footprints of an operand, scales included. -/
def Operand.feet (o : Operand) : List (Nat × Nat) := o.t.foot :: (o.sc.map Tensor.foot).toList

/-- The footprints of a row of an operand, scales included. -/
def Operand.rowFeet (o : Operand) (i : Int) : List (Nat × Nat) := o.t.rowFoot i :: (o.sc.map (fun s => s.rowFoot i)).toList

/-- The lines an operand's rows touch. -/
def Operand.lines (o : Operand) : List Nat :=
  o.t.rows.flatMap (fun a => linesOf a o.t.rowBytes)
    ++ (o.sc.map (fun s => s.rows.flatMap (fun a => linesOf a s.rowBytes))).getD []

/-- What an instruction uses of an operand: the footprints that a window has to hold, and the bytes that it touches. -/
structure Use where
  feet : List (Nat × Nat)
  rows : List (Nat × Nat)

/-- The rows' bytes of an operand, scales included. -/
def Operand.ranges (o : Operand) : List (Nat × Nat) :=
  o.t.rows.map (fun a => (a, o.t.rowBytes)) ++ (o.sc.map (fun s => s.rows.map (fun a => (a, s.rowBytes)))).getD []

/-- All of an operand. -/
def Operand.use (o : Operand) : Use := ⟨o.feet, o.ranges⟩

/-- The range from the lowest to the highest byte of some ranges. -/
def hull : List (Nat × Nat) → Nat × Nat
  | [] => (0, 0)
  | r :: rs =>
    let lo := rs.foldl (fun a x => min a x.1) r.1
    (lo, rs.foldl (fun a x => max a (x.1 + x.2)) (r.1 + r.2) - lo)

/-- Indexed rows of an operand: its footprint with every indexed element has to lie in one window (R225). -/
def Operand.useRows (o : Operand) (is : List Int) : Use :=
  ⟨hull (o.t.foot :: is.map o.t.rowFoot) :: (o.sc.map (fun s => hull (s.foot :: is.map s.rowFoot))).toList, is.flatMap o.rowFeet⟩

/-- Whether memory gives every byte read, and takes every byte written: a partial write reads its line too (R210, R211, R213;
notes/assumptions/69). -/
def Bx.clean (x : Bx) (reads writes : List (Nat × Nat)) : Except Nat Unit :=
  if reads.any (fun r => x.m.poisonIn r.1 r.2) || !writes.all (fun r => x.m.canStore r.1 r.2) then .error stMemPoison else .ok ()

/-- The checks before an instruction acts: extents conform (R237), footprints lie in windows (R225), and memory is good. -/
def Bx.check (x : Bx) (conform : Bool) (reads writes : List Use) : Except Nat Unit :=
  if !conform then .error stAnvIllegal
  else if !(reads.all (fun u => u.feet.all (x.m.anvilMay x.j.cls false)) && writes.all (fun u => u.feet.all (x.m.anvilMay x.j.cls true)))
  then .error stRegion
  else x.clean (reads.flatMap Use.rows) (writes.flatMap Use.rows)

/-- Flags of the job, also ORed into `AV_ARITH_STAT` (R218, R250). -/
def Bx.flags (x : Bx) (f : Word) : Bx :=
  { x with m := x.m.orReg .avArithStat (f &&& 0x3F), j := { x.j with flags := x.j.flags ||| (f &&& 0x3F) } }

/-- The memory after a write of the given lines, and the flags of what was written. -/
def Bx.wrote (x : Bx) (m : Mach) (lines : List Nat) (f : Word) : Bx :=
  ({ x with m := m, lines := lines.foldl addOnce x.lines } : Bx).flags f

/-- FP32 words written into an operand. -/
def Bx.putF32 (x : Bx) (o : Operand) (vs : List Word) (f : Word) : Bx :=
  let r := x.m.putF32 x.j.ieee o vs
  x.wrote r.1 o.lines (f ||| r.2)

/-- The lines of the elements from `start` on, `n` of them. -/
def Tensor.spanLines (t : Tensor) (start n : Nat) : List Nat :=
  let d := t.dim 0
  let b := fmtBits t.fmt
  (List.range ((start + n + d - 1) / d - start / d)).flatMap (fun i =>
    let r := start / d + i
    let lo := (start - r * d) * b / 8
    let hi := (min d (start + n - r * d) * b + 7) / 8
    (t.rows[r]?).elim [] (fun a => linesOf (a + lo) (hi - lo)))

/-- The lines of elements of an operand, with those of their scales. -/
def Operand.spanLines (o : Operand) (start n : Nat) : List Nat :=
  o.t.spanLines start n ++ (o.sc.map (fun s => s.spanLines (start / 32) ((start + n + 31) / 32 - start / 32))).getD []

/-- FP32 words written into a part of an operand; only their own lines are written (R313). -/
def Bx.putF32At (x : Bx) (o : Operand) (start : Nat) (vs : List Word) (f : Word) : Bx :=
  let r := x.m.putF32At x.j.ieee o start vs
  x.wrote r.1 (o.spanLines start vs.length) (f ||| r.2)

/-- Codes written into an operand. -/
def Bx.putCodes (x : Bx) (o : Operand) (cs : List Nat) (f : Word) : Bx := x.wrote (x.m.putCodes o.t cs) o.lines f

/-- Words in flight split into results and flags. -/
def splitFlags (rs : List (Word × Word)) : List Word × Word := (rs.map Prod.fst, rs.foldl (fun a r => a ||| r.2) 0)

/-- Only FP32. -/
def isF32 (f : Nat) : Bool := f == fF32

/-- A class-V instruction: refused in reproducible mode, else marked (R232). -/
def Bx.variable (x : Bx) : Except Nat Bx :=
  if x.j.repro then .error stVariableRefused else .ok { x with j := { x.j with varUsed := true } }

/-- How a reduction of this instruction runs. -/
def Bx.red (x : Bx) (i : Ins) : RedMode := ⟨x.j.ieee, x.j.repro, x.t, i.split == 2⟩

/-! ## Slot 1: data movement -/

/-- LOAD: the same codes in a tensor of the same format and extents. -/
def Bx.load (x : Bx) (i : Ins) : Except Nat Bx := do
  let a ← x.opnd i.a (fun _ => true)
  let d ← x.opnd i.dst (fun f => f == a.t.fmt)
  x.check (a.t.dims == d.t.dims) [a.use] [d.use]
  let x' := x.putCodes d (x.m.codes a.t) 0
  match a.sc, d.sc with
  | some s, some e => pure { x' with m := x'.m.putCodes e (x.m.codes s) }
  | _, _ => pure x'

/-- Whether an integer format is one whose elements CVT converts. -/
def isInt (f : Nat) : Bool := f == fI8 || f == fI32 || f == fI64

/-- The conversions of CVT: into a floating format from one or from integers (R195), FP32 to LQ, LQ to FP32, integers to LQ (R197).
Every other pair is illegal (R237). -/
def cvtOk (src dst : Nat) : Bool :=
  if isFloat dst then isFloat src || isInt src || (src == fLq && dst == fF32)
  else dst == fLq && (src == fF32 || isInt src)

/-- One element converted (R195, R197): the code and the flags. -/
def cvtCode (ieee : Bool) (src dst k : Nat) (v : FVal) (code : Nat) : Nat × Word :=
  match floatOf dst with
  | some x =>
    if isFloat src then encodeFloat x ieee v
    else if src = fLq then ((lqToF32 (BitVec.ofNat 32 code)).toNat, 0)
    else encodeFloat x ieee (intVal (signedCode (fmtBits src) code))
  | none =>
    let r := if src = fF32 then f32toLq (signedCode 6 k) (BitVec.ofNat 32 code) else intToLq (signedCode (fmtBits src) code) k
    (r.1.toNat, r.2)

/-- CVT (R195, R197). -/
def Bx.cvt (x : Bx) (i : Ins) : Except Nat Bx := do
  let a ← x.opnd i.a (fun _ => true)
  let d ← x.opnd i.dst (fun f => f == i.fmt && !isMx f)
  let k := i.sub % 64
  x.check (cvtOk a.t.fmt d.t.fmt && a.t.dims == d.t.dims && !(d.t.fmt == fLq && !isFloat a.t.fmt && k == 63)) [a.use] [d.use]
  let cs := x.m.codes a.t
  let vs := if isFloat a.t.fmt then x.m.vals a else cs.map (fun _ => FVal.nan)
  let rs := List.zipWith (cvtCode x.j.ieee a.t.fmt d.t.fmt k) vs cs
  pure (x.putCodes d (rs.map Prod.fst) (rs.foldl (fun f r => f ||| r.2) 0))

/-- QMX (R196). -/
def Bx.qmx (x : Bx) (i : Ins) : Except Nat Bx := do
  let a ← x.opnd i.a isF32
  let d ← x.opnd i.dst isMx
  x.check (a.t.dims == d.t.dims) [a.use] [d.use]
  pure (x.putF32 d (x.m.f32s a) 0)

/-- TRANS: dimensions 0 and 1 exchanged. R230 names no formats for it; the model refuses the MX formats, whose blocks of 32 along dimension 0 an
exchange would break (DESIGN CHOICE, notes/assumptions/86). -/
def Bx.trans (x : Bx) (i : Ins) : Except Nat Bx := do
  let a ← x.opnd i.a (fun f => !isMx f)
  let d ← x.opnd i.dst (fun f => f == a.t.fmt)
  x.check (d.t.dims == [a.t.dim 1, a.t.dim 0, a.t.dim 2, a.t.dim 3]) [a.use] [d.use]
  let cs := x.m.codes a.t
  let n0 := a.t.dim 0
  let n1 := a.t.dim 1
  let out := (List.range (a.t.dim 2 * a.t.dim 3)).flatMap fun p => (List.range n0).flatMap fun r =>
    (List.range n1).map fun c => cs.getD (p * n0 * n1 + c * n0 + r) 0
  pure (x.putCodes d out 0)

/-- The index list of a gather or scatter. -/
def Bx.indices (x : Bx) (i : Ins) : Except Nat (Operand × List Int) := do
  let b ← x.opnd i.b (fun f => f == fI32)
  x.check (decide (b.t.rank = 1)) [b.use] []
  pure (b, x.m.ints b)

/-- A row's bytes copied between tensors of one format, scales included. -/
def copyRow (from_ : Mach) (m : Mach) (s d : Operand) (i j : Int) : Mach :=
  let m := m.putRow d.t (d.t.rowFoot j).1 (from_.rowCodes s.t (s.t.rowFoot i).1)
  match s.sc, d.sc with
  | some p, some q => m.putRow q (q.rowFoot j).1 (from_.rowCodes p (p.rowFoot i).1)
  | _, _ => m

/-- The lines of some rows of an operand. -/
def Operand.rowLines (o : Operand) (is : List Int) : List Nat :=
  is.flatMap (fun i => (o.rowFeet i).flatMap (fun r => linesOf r.1 r.2))

/-- Rows 0 to n − 1. -/
def rowIds (n : Nat) : List Int := (List.range n).map Int.ofNat

/-- GATHER. -/
def Bx.gather (x : Bx) (i : Ins) : Except Nat Bx := do
  let a ← x.opnd i.a (fun _ => true)
  let d ← x.opnd i.dst (fun f => f == a.t.fmt)
  let ix ← x.indices i
  x.check (decide (a.t.rank ≤ 2 ∧ d.t.rank ≤ 2) && a.t.dim 0 == d.t.dim 0 && ix.1.t.dim 0 == d.t.dim 1)
    [a.useRows ix.2] [d.use]
  let m := (List.zip (rowIds (d.t.dim 1)) ix.2).foldl (fun m p => copyRow x.m m a d p.2 p.1) x.m
  pure (x.wrote m d.lines 0)

/-- SCATTER: rows written in ascending i, so that the highest i stands. -/
def Bx.scatter (x : Bx) (i : Ins) : Except Nat Bx := do
  let a ← x.opnd i.a (fun _ => true)
  let d ← x.opnd i.dst (fun f => f == a.t.fmt)
  let ix ← x.indices i
  x.check (decide (a.t.rank ≤ 2 ∧ d.t.rank ≤ 2) && a.t.dim 0 == d.t.dim 0 && ix.1.t.dim 0 == a.t.dim 1)
    [a.use] [d.useRows ix.2]
  let m := (List.zip (rowIds (a.t.dim 1)) ix.2).foldl (fun m p => copyRow x.m m a d p.1 p.2) x.m
  pure (x.wrote m (d.rowLines ix.2) 0)

/-- One row added into a row of the destination (R202, R236). -/
def addRow (ieee : Bool) (src : Mach) (a d : Operand) (st : Mach × Word) (p : Int × Int) : Mach × Word :=
  let s := (src.rowCodes a.t (a.t.rowFoot p.1).1).map (fun c => (resF32 ieee (codeVal a.t.fmt c)).1)
  let old := (st.1.rowCodes d.t (d.t.rowFoot p.2).1).map (fun c => (resF32 ieee (codeVal d.t.fmt c)).1)
  let r := splitFlags (List.zipWith (f32add ieee) old s)
  let cs := f32Codes d.t.fmt ieee r.1
  (st.1.putRow d.t (d.t.rowFoot p.2).1 cs.1, st.2 ||| r.2 ||| cs.2.2)

/-- A list in an order that is open: each element goes to a place that a key names. -/
def shuffle {α : Type} (key : Nat → Nat) : List α → List α
  | [] => []
  | a :: l =>
    let r := shuffle key l
    let k := key r.length % (r.length + 1)
    r.take k ++ a :: r.drop k

/-- The keys of an order that the spec leaves open, and the bundle after taking them. -/
def Bx.order (x : Bx) : (Nat → Nat) × Bx := (Config.orderKey x.m.free, { x with m := { x.m with free := x.m.free + 1 } })

/-- SCADD_ORD and, with `free`, SCADD, whose rows are added in an open order (R230, R236). -/
def Bx.scadd (x : Bx) (i : Ins) (free : Bool) : Except Nat Bx := do
  let fp := fun f => f == fF32 || f == fBf16
  let a ← x.opnd i.a fp
  let d ← x.opnd i.dst fp
  let ix ← x.indices i
  let x ← if free then x.variable else pure x
  x.check (decide (a.t.rank ≤ 2 ∧ d.t.rank ≤ 2) && a.t.dim 0 == d.t.dim 0 && ix.1.t.dim 0 == a.t.dim 1)
    [a.use, d.useRows ix.2] [d.useRows ix.2]
  let ps := List.zip (rowIds (a.t.dim 1)) ix.2
  let k := x.order
  let x := if free then k.2 else x
  let r := (if free then shuffle k.1 ps else ps).foldl (addRow x.j.ieee x.m a d) (x.m, 0)
  pure (x.wrote r.1 (d.rowLines ix.2) r.2)

/-- TADV: the address of a descriptor in the job's copy of the table. -/
def Bx.tadv (x : Bx) (i : Ins) : Except Nat Bx := do
  let _ ← x.opnd i.dst (fun _ => true)
  match x.j.descs[i.dst]? with
  | none => .error stAnvIllegal
  | some w =>
    let old := addr48 (wordAt w 0) (wordAt w 1)
    let new := (old + (x.j.sc.getD i.a 0).toNat * i.imm) % addrMod
    let w' := (w.set 0 (BitVec.ofNat 32 new)).set 1 (setField (wordAt w 1) 15 0 (new / 4294967296))
    if 32 ≤ i.a then .error stAnvIllegal
    else pure { x with j := { x.j with descs := x.j.descs.set i.dst w' } }

/-! ## Slot 2: matrix and sequence instructions -/

/-- A plane given a value. An integer plane takes half of the accumulator store (R184), so the planes of the other kind
no longer hold what they held. -/
def setPlane (ps : List Plane) (k : Nat) (p : Plane) : List Plane :=
  (ps.map (fun q => match p, q with
    | .floats _ _, .ints _ _ => .unset
    | .ints _ _, .floats _ _ => .unset
    | _, q => q)).set k p

/-- The rows of values of an operand along dimension 0. -/
def valRows {α : Type} (o : Operand) (vs : List α) : List (List α) := chunksOf (o.t.dim 0) vs.length vs

/-- The float product of two operands, row by row of the first (R199, R203, R204). -/
def Bx.product (x : Bx) (i : Ins) (a b : Operand) : List Word × Word :=
  let bs := valRows b (x.m.vals b)
  splitFlags ((valRows a (x.m.vals a)).flatMap (fun ra => bs.map (dotVals (x.red i) ra)))

/-- Extents of a product: both operands reduce along dimension 0 (R199). -/
def prodOk (a b : Operand) : Bool := decide (a.t.rank ≤ 2 ∧ b.t.rank ≤ 2) && a.t.dim 0 == b.t.dim 0

/-- Whether each part of a product fits its plane of 128 × 128 accumulators (R184): rows are divided among the logical tiles along M, columns
along N, neither along K (DEDUCED, notes/assumptions/70). -/
def planeFits (tiles split rows cols : Nat) : Bool :=
  decide ((if split = 0 then (rows + tiles - 1) / tiles else rows) ≤ 128)
    && decide ((if split = 1 then (cols + tiles - 1) / tiles else cols) ≤ 128)

/-- Whether a plane holds an INT8 product. -/
def Plane.isInts : Plane → Bool
  | .ints _ _ => true
  | _ => false

/-- The logical tiles whose planes hold a product: T in fast mode, the 64 canonical lanes in reproducible mode and for INT8 products, whose
results depend on no T (R204, R206, the save area of R246). -/
def Bx.lanes (x : Bx) (int : Bool) : Nat := if x.j.repro || int then 64 else x.t

/-- A plane given a product; where the product does not fit, the plane holds what the spec does not state. -/
def Bx.fill (x : Bx) (i : Ins) (rows cols : Nat) (p : Plane) : Bx :=
  let ps := setPlane x.j.planes i.dst p
  { x with j := { x.j with planes := if planeFits (x.lanes p.isInts) i.split rows cols then ps else ps.set i.dst .unset } }

/-- MMUL: a plane takes the product. -/
def Bx.mmul (x : Bx) (i : Ins) : Except Nat Bx := do
  let a ← x.opnd i.a (fun f => isFloat f || f == fI8)
  let b ← x.opnd i.b (fun f => if a.t.fmt == fI8 then f == fI8 else isFloat f)
  x.check (prodOk a b && decide (i.dst < (if a.t.fmt == fI8 then 2 else 4))) [a.use, b.use] []
  if a.t.fmt == fI8 then
    let bs := valRows b (x.m.ints b)
    let vs := (valRows a (x.m.ints a)).flatMap (fun ra => bs.map (dotInts ra))
    pure (x.fill i (a.t.dim 1) (b.t.dim 1) (.ints (b.t.dim 1) vs))
  else
    let r := x.product i a b
    pure ((x.fill i (a.t.dim 1) (b.t.dim 1) (.floats (b.t.dim 1) r.1)).flags r.2)

/-- The prior value of a destination widened to FP32 (R202). -/
def Bx.prior (x : Bx) (d : Operand) : List Word := (x.m.vals d).map (fun v => (resF32 x.j.ieee v).1)

/-- A result added into a destination from an element on, and converted to its format (R202). -/
def Bx.accumulate (x : Bx) (d : Operand) (start : Nat) (r : List Word × Word) : Bx :=
  let s := splitFlags (List.zipWith (f32add x.j.ieee) ((x.prior d).drop start) r.1)
  x.putF32At d start (convF32 x.j.ieee s.1) (r.2 ||| s.2)

/-- MMAC: a descriptor accumulates the product (R202). -/
def Bx.mmac (x : Bx) (i : Ins) : Except Nat Bx := do
  let a ← x.opnd i.a isFloat
  let b ← x.opnd i.b isFloat
  let d ← x.opnd i.dst isFloat
  x.check (prodOk a b && d.t.dims == [b.t.dim 1, a.t.dim 1, 1, 1]) [a.use, b.use, d.use] [d.use]
  pure (x.accumulate d 0 (x.product i a b))

/-- Codes of integer accumulators in INT32, LQ or INT8, the last through the column multipliers (R197, R200). -/
def intCodes (fmt sh cols : Nat) (mults : List Word) (zs : List Int) : List Nat × Word :=
  let rs : List (Nat × Word) := zs.mapIdx (fun e z =>
    if fmt = fI32 then let r := intToI32 z; (r.1.toNat, r.2)
    else if fmt = fLq then let r := intToLq z sh; (r.1.toNat, r.2)
    else let r := intToI8 z (mults.getD (e % cols) 0); (codeOfInt 8 r.1, r.2))
  (rs.map Prod.fst, rs.foldl (fun f r => f ||| r.2) 0)

/-- What the content of a plane that nothing has set depends on: the job, the bundle and the plane, so that equal jobs store equal bits
(R298; notes/assumptions/3). -/
def Bx.planeKey (x : Bx) (i : Ins) : List Nat :=
  i.a :: x.j.ordDone :: x.j.mode.toNat :: x.j.seed.toNat :: x.j.stepStart.toNat :: (x.m.bytes x.j.prog (64 * x.j.progLen)).map (·.toNat)

/-- PSTORE (R195, R196, R200). -/
def Bx.pstore (x : Bx) (i : Ins) : Except Nat Bx := do
  let d ← x.opnd i.dst (fun f => f == i.fmt && (isFloat f || f == fI32 || f == fLq || f == fI8))
  let ms ← if d.t.fmt == fI8 then (do
      let b ← x.opnd i.b isF32
      x.check (decide (b.t.rank = 1) && b.t.dim 0 == d.t.dim 0) [b.use] []
      pure (x.m.f32s b)) else pure []
  let sh := i.sub % 64
  let base := decide (i.a < 4) && decide (d.t.rank ≤ 2) && !(d.t.fmt == fLq && sh == 63)
  match x.j.planes.getD i.a .unset with
  | .unset =>
    x.check base [] [d.use]
    let key := x.planeKey i
    pure (x.putCodes d ((List.range d.t.count).map (fun e => (Config.planeWord key e).toNat % 2 ^ fmtBits d.t.fmt)) 0)
  | .cleared =>
    x.check base [] [d.use]
    if isFloat d.t.fmt then pure (x.putF32 d (List.replicate d.t.count 0) 0)
    else
      let r := intCodes d.t.fmt sh (d.t.dim 0) ms (List.replicate d.t.count 0)
      pure (x.putCodes d r.1 r.2)
  | .floats cols vs =>
    x.check (base && isFloat d.t.fmt && d.t.dim 0 == cols && vs.length == d.t.count) [] [d.use]
    pure (x.putF32 d (convF32 x.j.ieee vs) 0)
  | .ints cols zs =>
    x.check (base && !isFloat d.t.fmt && d.t.dim 0 == cols && zs.length == d.t.count) [] [d.use]
    let r := intCodes d.t.fmt sh cols ms zs
    pure (x.putCodes d r.1 r.2)

/-- PCLR. -/
def Bx.pclr (x : Bx) (i : Ins) : Except Nat Bx :=
  if i.dst < 4 then .ok { x with j := { x.j with planes := x.j.planes.set i.dst .cleared } } else .error stAnvIllegal

/-- The limit of a sequence extent (R238–R240). -/
abbrev seqMax : Nat := 1048576

/-- The sequence instruction under way, or its start: S is T in fast mode and 64 in reproducible mode (R238). -/
def Bx.seqNow (x : Bx) : SeqSt := x.j.seq.getD ⟨0, if x.j.repro then 64 else x.t, [], [], 0, []⟩

/-- The checks of a sequence instruction: all of them before its first part; before a later part that memory is good. -/
def Bx.seqCheck (x : Bx) (conform : Bool) (reads writes : List Use) (rows puts : List (Nat × Nat)) : Except Nat Unit :=
  if x.j.seq.isNone then x.check conform reads writes else x.clean rows puts

/-- A part of a sequence instruction is done: the boundary that follows it lies inside the instruction, or is its end (R222). -/
def Bx.seqNext (x : Bx) (q : SeqSt) (parts : Nat) : Bx × Bool :=
  if q.part + 1 < parts then ({ x with j := { x.j with seq := some { q with part := q.part + 1 } } }, false)
  else ({ x with j := { x.j with seq := none } }, true)

/-- The bytes of some rows of an operand, by the row's index. -/
def Operand.rowsAt (o : Operand) (lo n : Nat) : List (Nat × Nat) :=
  (((o.t.rows.drop lo).take n).map (fun a => (a, o.t.rowBytes)))
    ++ (o.sc.map (fun s => ((s.rows.drop lo).take n).map (fun a => (a, s.rowBytes)))).getD []

/-- The bytes of the rows that some elements of an operand lie in. -/
def Operand.rowsOf (o : Operand) (start n : Nat) : List (Nat × Nat) :=
  let d := o.t.dim 0
  o.rowsAt (start / d) ((start + n + d - 1) / d - start / d)

/-- Phase 1 of SCAN over the local steps lo to hi − 1 of every segment (R238): Z and P appended by channel and segment, and the
flags. -/
def scanPhase1 (ieee : Bool) (segs n l lo hi : Nat) (av vv : List Word) (zp : List (List (Word × Word))) :
    List (List (Word × Word)) × Word :=
  let rs := (List.range (n * segs)).map (fun r =>
    let c := r / segs
    let s := r % segs
    let old := zp.getD r []
    let at_ := segStart segs l s
    let ts := ((List.range (hi - lo)).map (fun k => at_ + lo + k)).filter (fun t => decide (t < segStart segs l (s + 1)))
    let y := scanSegment ieee (ts.map (fun t => (av.getD (t * n + c) 0, vv.getD (t * n + c) 0)))
      (old.getLastD (0, 0x3F800000), 0) []
    (old ++ y.2.2, y.2.1))
  (rs.map Prod.fst, rs.foldl (fun f r => f ||| r.2) 0)

/-- Phase 2 of SCAN (R238): for every channel the carries c[−1] to c[S − 1], and the flags. -/
def scanPhase2 (ieee : Bool) (segs n : Nat) (init : List Word) (zp : List (List (Word × Word))) : List (List Word) × Word :=
  let rs := (List.range n).map (fun c =>
    (List.range segs).foldl (fun (acc : List Word × Word) s =>
      let e := (zp.getD (c * segs + s) []).getLastD (0, 0x3F800000)
      let r := f32fma ieee e.2 (acc.1.getLastD 0) e.1
      (acc.1 ++ [r.1], acc.2 ||| r.2)) ([init.getD c 0], 0))
  (rs.map Prod.fst, rs.foldl (fun f r => f ||| r.2) 0)

/-- Phase 3 of SCAN for one step of a segment (R238): the row X[t] and the flags. -/
def scanPhase3 (ieee : Bool) (segs n : Nat) (q : SeqSt) (s k : Nat) : List Word × Word :=
  splitFlags ((List.range n).map (fun c =>
    let e := (q.zp.getD (c * segs + s) []).getD k (0, 0)
    f32fma ieee e.2 ((q.carry.getD c []).getD s 0) e.1))

/-- SCAN (R238): its parts are the stretches of 1,024 steps of phase 1, the last of them with phase 2, and those of phase 3. -/
def Bx.scan (x : Bx) (i : Ins) : Except Nat (Bx × Bool) := do
  let a ← x.opnd i.a isF32
  let v ← x.opnd i.b isF32
  let s ← x.opnd i.c isF32
  let d ← x.opnd i.dst isF32
  let n := a.t.dim 0
  let l := a.t.dim 1
  let q := x.seqNow
  let segs := q.lanes
  let long := (l + segs - 1) / segs
  let bs := long / 1024
  let j := if q.part ≤ bs then q.part else q.part - bs - 1
  let lo := 1024 * j
  let hi := if j < bs then lo + 1024 else long
  let steps := (List.range segs).flatMap (fun g => ((List.range (hi - lo)).map (fun k => (g, lo + k))).filter
    (fun p => decide (segStart segs l p.1 + p.2 < segStart segs l (p.1 + 1))))
  let rowOf := fun (o : Operand) => steps.flatMap (fun p => o.rowsAt (segStart segs l p.1 + p.2) 1)
  x.seqCheck (decide (a.t.rank ≤ 2) && v.t.dims == a.t.dims && d.t.dims == a.t.dims && decide (s.t.rank = 1)
    && s.t.dim 0 == n && decide (l ≤ seqMax)) [a.use, v.use, s.use] [d.use]
    (if q.part ≤ bs then rowOf a ++ rowOf v ++ s.ranges else []) (if q.part ≤ bs then [] else rowOf d)
  if q.part ≤ bs then
    let r := scanPhase1 x.j.ieee segs n l lo hi (x.m.f32s a) (x.m.f32s v) q.zp
    let c := if q.part = bs then scanPhase2 x.j.ieee segs n (x.m.f32s s) r.1 else ([], 0)
    pure ((x.flags (r.2 ||| c.2)).seqNext { q with zp := r.1, carry := c.1 } (2 * bs + 2))
  else
    let x := steps.foldl (fun (y : Bx) p =>
      let r := scanPhase3 y.j.ieee segs n q p.1 p.2
      y.putF32At d ((segStart segs l p.1 + p.2) * n) r.1 r.2) x
    pure (x.seqNext q (2 * bs + 2))

/-- CONV (R239): its parts are stretches of 1,024 outputs in the order of their elements (DEDUCED, notes/assumptions/71). -/
def Bx.conv (x : Bx) (i : Ins) : Except Nat (Bx × Bool) := do
  let ok := fun f => isFloat f && f != fF32
  let u ← x.opnd i.a ok
  let h ← x.opnd i.b (fun f => f == u.t.fmt)
  let d ← x.opnd i.dst isFloat
  let n := u.t.dim 0
  let l := u.t.dim 1
  let k := h.t.dim 1
  let acc := i.sub % 2 == 1
  let q := x.seqNow
  let start := 1024 * q.part
  let cnt := min 1024 (n * l - start)
  x.seqCheck (decide (u.t.rank ≤ 2) && decide (h.t.rank ≤ 2) && h.t.dim 0 == n && d.t.dims == u.t.dims
    && decide (l ≤ seqMax) && decide (k ≤ seqMax)) ([u.use, h.use] ++ (if acc then [d.use] else [])) [d.use]
    (u.rowsOf 0 (start + cnt) ++ h.ranges ++ (if acc then d.rowsOf start cnt else [])) (d.rowsOf start cnt)
  let uv := x.m.vals u
  let hv := x.m.vals h
  let r := splitFlags ((List.range cnt).map (fun e =>
    let t := (start + e) / n
    let c := (start + e) % n
    reduceProducts (x.red i) ((List.range (min t (k - 1) + 1)).map (fun j =>
      mulVal (hv.getD (j * n + c) .nan) (uv.getD ((t - j) * n + c) .nan)))))
  pure ((if acc then x.accumulate d start r else x.putF32At d start r.1 r.2).seqNext q (n * l / 1024 + 1))

/-- The maximum of FP32 words (R205). -/
def maxWords : List Word → Word
  | [] => f32nan
  | [w] => w
  | w :: ws => f32max w (maxWords ws)

/-- The minimum of FP32 words (R205). -/
def minWords : List Word → Word
  | [] => f32nan
  | [w] => w
  | w :: ws => f32min w (minWords ws)

/-- The code of exp in R230. -/
abbrev fnExp : Nat := 0

/-- The scores of a query row over its keys, with the flags (R240). -/
def attnScores (r : RedMode) (scale : Word) (ks : List (List FVal)) (q : List FVal) : List Word × Word :=
  splitFlags (ks.map (fun k =>
    let dot := dotVals r q k
    let s := f32mul r.ieee dot.1 scale
    (s.1, dot.2 ||| s.2)))

/-- The weights p of a row converted to the format of V, 32 keys to an MX block (R196, R240). -/
def attnWeights (ieee : Bool) (vFmt : Nat) (ps : List Word) : List FVal × Word :=
  match floatOf vFmt with
  | none => (ps.map f32val, 0)
  | some x =>
    if isMx vFmt then
      let bs := (chunksOf 32 ps.length ps).map (quantMx x ieee)
      (bs.flatMap (fun b => b.1.map (fun c => mxVal x c b.2.1)), bs.foldl (fun f b => f ||| b.2.2) 0)
    else
      let cs := ps.map (fun p => encodeFloat x ieee (f32val p))
      (cs.map (fun c => decodeFloat x c.1), cs.foldl (fun f c => f ||| c.2) 0)

/-- exp of a difference, with its flags (R206). -/
def expDiff (ieee : Bool) (a b : Word) : Word × Word :=
  let z := f32sub ieee a b
  let p := vfn ieee fnExp z.1
  (p.1, z.2 ||| p.2)

/-- The normaliser and the output row in reproducible mode, from the scores and their maximum (R240). -/
def attnRow (r : RedMode) (vFmt hv : Nat) (vs : List (List FVal)) (ss : List Word) (mx : Word) : Word × List Word × Word :=
  let ps := splitFlags (ss.map (fun s => expDiff r.ieee s mx))
  let nrm := sumWords r ps.1
  let pv := attnWeights r.ieee vFmt ps.1
  let outs := splitFlags ((List.range hv).map (fun e =>
    let dot := dotVals r pv.1 (vs.map (fun v => v.getD e .nan))
    let o := f32div r.ieee dot.1 nrm.1
    (o.1, dot.2 ||| o.2)))
  (nrm.1, outs.1, ps.2 ||| nrm.2 ||| pv.2 ||| outs.2)

/-- A query row on one tile in fast mode (R240): the running maximum, none before its first block, the normaliser and the output, each value with
its flags. -/
structure AttnSt where
  mx : Option Word
  nrm : Word × Word
  out : List (Word × Word)

/-- A row before its first block. -/
def AttnSt.start (hv : Nat) : AttnSt := ⟨none, laneZero, List.replicate hv laneZero⟩

/-- A value in flight times a factor in flight. -/
def wScale (ieee : Bool) (a c : Word × Word) : Word × Word :=
  let p := f32mul ieee a.1 c.1
  (p.1, a.2 ||| c.2 ||| p.2)

/-- A row rescaled by exp(m_old − m_new) to a new maximum (R240). -/
def AttnSt.rescale (ieee : Bool) (a : AttnSt) (mx : Word) : AttnSt :=
  match a.mx with
  | none => { a with mx := some mx }
  | some old =>
    let c := expDiff ieee old mx
    ⟨some mx, wScale ieee a.nrm c, a.out.map (fun o => wScale ieee o c)⟩

/-- The higher of a row's maximum and another. -/
def AttnSt.maxWith (a : AttnSt) (w : Word) : Word := a.mx.elim w (fun m => f32max m w)

/-- One block of up to 128 keys, each with its score and its row of V (R240). The weights p of the block are added in ascending order to the
normaliser (R231), and Σ p·v, one pass of the array, to the output (R203), p in the format of V (DEDUCED, notes/assumptions/87). -/
def AttnSt.block (r : RedMode) (vFmt : Nat) (a : AttnSt) (blk : List (Word × List FVal)) : AttnSt :=
  let mx := a.maxWith (maxWords (blk.map (·.1)))
  let a := a.rescale r.ieee mx
  let ps := blk.map (fun b => expDiff r.ieee b.1 mx)
  let pv := attnWeights r.ieee vFmt (ps.map (·.1))
  { a with
    nrm := ps.foldl (fAdd r.ieee) (a.nrm.1, a.nrm.2 ||| pv.2)
    out := a.out.mapIdx (fun e o =>
      fAdd r.ieee o (roundSum r.ieee (List.zipWith mulVal pv.1 (blk.map (fun b => b.2.getD e .nan))))) }

/-- Two tiles' parts of a row joined (R231, R240). -/
def AttnSt.join (ieee : Bool) (a b : AttnSt) : AttnSt :=
  match b.mx with
  | none => a
  | some w =>
    let mx := a.maxWith w
    let x := a.rescale ieee mx
    let y := b.rescale ieee mx
    ⟨some mx, fAdd ieee x.nrm y.nrm, List.zipWith (fAdd ieee) x.out y.out⟩

/-- One level of the join, a tile without a partner passed up (R231). -/
def joinRows (ieee : Bool) : List AttnSt → List AttnSt
  | a :: b :: r => a.join ieee b :: joinRows ieee r
  | l => l

/-- All levels of the join. -/
def joinAllRows (ieee : Bool) (hv : Nat) : Nat → List AttnSt → AttnSt
  | 0, l => l.headD (AttnSt.start hv)
  | k + 1, l => joinAllRows ieee hv k (joinRows ieee l)

/-- The normaliser and the output row in fast mode (R240): blocks of 128 keys in ascending order, block b of B on tile ⌊T·b / B⌋ (R231). -/
def attnFast (r : RedMode) (vFmt hv : Nat) (vs : List (List FVal)) (ss : List Word) : Word × List Word × Word :=
  let blks := groups 128 ss.length (ss.zip vs)
  let tiles := (blks.mapIdx (fun b x => (r.tiles * b / blks.length, x))).foldl
    (fun l p => l.modify p.1 (fun a => a.block r vFmt p.2)) (List.replicate r.tiles (AttnSt.start hv))
  let a := joinAllRows r.ieee hv (r.tiles.log2 + 1) tiles
  let outs := splitFlags (a.out.map (fun o =>
    let q := f32div r.ieee o.1 a.nrm.1
    (q.1, o.2 ||| q.2)))
  (a.nrm.1, outs.1, a.nrm.2 ||| outs.2)

/-- The operands of ATTN and ATTN_BWD: Q, K, V, the destination and the statistics. -/
def Bx.attnOps (x : Bx) (i : Ins) : Except Nat (Operand × Operand × Operand × Operand × Operand) := do
  let q ← x.opnd i.a isFloat
  let k ← x.opnd i.b isFloat
  let v ← x.opnd i.c isFloat
  let d ← x.opnd i.dst isFloat
  let st ← x.opnd (i.imm % 256) isF32
  pure (q, k, v, d, st)

/-- The extents of R240. -/
def attnOk (q k v st : Operand) : Bool :=
  let hd := q.t.dim 0
  decide (q.t.rank ≤ 2 ∧ k.t.rank ≤ 2 ∧ v.t.rank ≤ 2) && k.t.dim 0 == hd
    && v.t.dim 1 == k.t.dim 1 && decide (32 ≤ hd) && decide (hd ≤ 256) && decide (32 ≤ v.t.dim 0)
    && decide (v.t.dim 0 ≤ 256) && decide (q.t.dim 1 ≤ seqMax) && decide (k.t.dim 1 ≤ seqMax)
    && st.t.dims == [2, q.t.dim 1, 1, 1]

/-- What an attention's unstated values depend on: the codes of its inputs and its setting. -/
def Bx.attnKey (x : Bx) (i : Ins) (os : List Operand) : List Nat :=
  x.j.mode.toNat :: i.op :: i.sub % 2 :: i.imm / 4294967296 :: os.flatMap (fun o =>
    o.t.fmt :: o.t.dims ++ x.m.codes o.t ++ (o.sc.map x.m.codes).getD [])

/-- ATTN (R240), a block of 128 query rows to a part. Under causal masking row r takes the keys 0 to r, and its sums are those over these keys
(DEDUCED, notes/assumptions/87). -/
def Bx.attn (x : Bx) (i : Ins) : Except Nat (Bx × Bool) := do
  let (q, k, v, d, st) ← x.attnOps i
  let n := q.t.dim 1
  let hv := v.t.dim 0
  let causal := i.sub % 2 == 1
  let sq := x.seqNow
  let lo := 128 * sq.part
  let cnt := min 128 (n - lo)
  x.seqCheck (attnOk q k v st && decide (d.t.rank ≤ 2) && d.t.dims == [hv, n, 1, 1]) [q.use, k.use, v.use] [d.use, st.use]
    (q.rowsAt lo cnt ++ k.ranges ++ v.ranges) (d.rowsAt lo cnt ++ st.rowsAt lo cnt)
  let ks := valRows k (x.m.vals k)
  let vs := valRows v (x.m.vals v)
  let rows := (((valRows q (x.m.vals q)).drop lo).take cnt).mapIdx (fun e qr =>
    let r := lo + e
    let ss := attnScores (x.red i) (BitVec.ofNat 32 (i.imm / 4294967296)) (if causal then ks.take (r + 1) else ks) qr
    let mx := maxWords ss.1
    let y := if x.j.repro then attnRow (x.red i) v.t.fmt hv vs ss.1 mx else attnFast (x.red i) v.t.fmt hv vs ss.1
    ([mx, y.1], y.2.1, ss.2 ||| y.2.2))
  let x := x.putF32At d (hv * lo) (rows.flatMap (fun r => r.2.1)) (rows.foldl (fun g r => g ||| r.2.2) 0)
  pure ((x.putF32At st (2 * lo) (rows.flatMap (fun r => r.1)) 0).seqNext sq (n / 128 + 1))

/-- ATTN_BWD (R240), a block of 128 query rows to a part: the gradients are unstated functions of Q, K, V, m, l and T; the spec gives no
equation and no further operand for them. Before the last part the destination holds unstated values too. -/
def Bx.attnBwd (x : Bx) (i : Ins) : Except Nat (Bx × Bool) := do
  let (q, k, v, d, st) ← x.attnOps i
  let sq := x.seqNow
  let parts := q.t.dim 1 / 128 + 1
  x.seqCheck (attnOk q k v st && decide (d.t.rank ≤ 2)) [q.use, k.use, v.use, st.use] [d.use]
    (q.rowsAt (128 * sq.part) 128 ++ k.ranges ++ v.ranges ++ st.rowsAt (128 * sq.part) 128) d.ranges
  let f := Config.attnWord ((parts - sq.part) :: x.attnKey i [q, k, v, st]) (if x.j.repro then 64 else x.t)
  pure ((x.putF32 d ((List.range d.t.count).map (fun e => f (e + 1))) (f 0 &&& 0x1F)).seqNext sq parts)

/-! ## Slot 3: vector instructions -/

/-- An element-wise FP32 instruction over up to three sources. -/
def Bx.elementwise (x : Bx) (i : Ins) (srcs : List Nat) (f : List Word → Word × Word) : Except Nat Bx := do
  let os ← srcs.mapM (fun k => x.opnd k isF32)
  let d ← x.opnd i.dst isF32
  x.check (os.all (fun o => o.t.dims == d.t.dims)) (os.map Operand.use) [d.use]
  let vs := os.map x.m.f32s
  let r := splitFlags ((List.range d.t.count).map (fun e => f (vs.map (fun l => l.getD e 0))))
  pure (x.putF32 d r.1 r.2)

/-- The index set of a reduction along a dimension: for each output element, the linear indices it reduces. -/
def redIndices (dims : List Nat) (dim : Nat) : List (List Nat) :=
  let d := fun k => dims.getD k 1
  let step := (List.range dim).foldl (fun a k => a * d k) 1
  let n := d dim
  let outer := (List.range (4 - dim - 1)).foldl (fun a k => a * d (dim + 1 + k)) 1
  (List.range outer).flatMap fun o => (List.range step).map fun s => (List.range n).map fun k => o * n * step + k * step + s

/-- A reduction of src_a along a dimension into a destination whose extent there is 1. -/
def Bx.reduceDim (x : Bx) (i : Ins) (dim : Nat) (f : List Word → Word × Word) : Except Nat Bx := do
  let a ← x.opnd i.a isF32
  let d ← x.opnd i.dst isF32
  x.check (d.t.dims == a.t.dims.set dim 1) [a.use] [d.use]
  let vs := x.m.f32s a
  let r := splitFlags ((redIndices a.t.dims dim).map (fun is => f (is.map (fun k => vs.getD k 0))))
  pure (x.putF32 d r.1 r.2)

/-- VLQ (R198): coefficients of R127 as INT64 rows of src_a along dimension 0, LQ values src_b, LQ constants src_c. -/
def Bx.vlq (x : Bx) (i : Ins) : Except Nat Bx := do
  let a ← x.opnd i.a (fun f => f == fI64)
  let b ← x.opnd i.b (fun f => f == fLq)
  let c ← x.opnd i.c (fun f => f == fLq)
  let d ← x.opnd i.dst (fun f => f == fLq)
  x.check (decide (a.t.rank ≤ 2) && decide (b.t.rank = 1) && b.t.dim 0 == a.t.dim 0 && decide (d.t.rank = 1)
    && d.t.dim 0 == a.t.dim 1 && c.t.dims == d.t.dims) [a.use, b.use, c.use] [d.use]
  let bv := x.m.ints b
  let cv := x.m.ints c
  let rs := (valRows a (x.m.codes a.t)).mapIdx (fun r cs => codeOfInt 32 (lqSum cs bv (cv.getD r 0)))
  pure (x.putCodes d rs 0)

/-- VRAND (R233). -/
def Bx.vrand (x : Bx) (i : Ins) : Except Nat Bx := do
  let d ← x.opnd i.dst (fun f => f == fI32)
  x.check true [] [d.use]
  pure (x.putCodes d ((List.range d.t.count).map (fun e =>
    leNat (shake128 4 (leBytes 8 x.j.seed.toNat ++ leBytes 8 x.j.step.toNat ++ leBytes 8 e)))) 0)

/-- VCVT_SR (R234). -/
def Bx.vcvtSr (x : Bx) (i : Ins) : Except Nat Bx := do
  let a ← x.opnd i.a isF32
  let d ← x.opnd i.dst (fun f => f == i.fmt && isFloat f && !isMx f)
  let x ← x.variable
  x.check (a.t.dims == d.t.dims) [a.use] [d.use]
  let n := x.m.free
  let fm := (floatOf d.t.fmt).getD fp32
  let rs := (x.m.f32s a).mapIdx (fun e w => stochastic fm x.j.ieee w (Config.entropy24 n e).toNat)
  let x : Bx := { x with m := { x.m with free := n + 1 } }
  pure (x.putCodes d (rs.map Prod.fst) (rs.foldl (fun f r => f ||| r.2) 0))

/-- The sum of values in flight by additions of two neighbours each, in an order that keys name. -/
def joinFree (ieee : Bool) (key : Nat → Nat) : Nat → List (Word × Word) → Word × Word
  | 0, l => l.headD laneZero
  | fuel + 1, l =>
    match l with
    | a :: b :: r =>
      let k := key fuel % (r.length + 1)
      let all := a :: b :: r
      joinFree ieee key fuel (all.take k ++ fAdd ieee (all.getD k laneZero) (all.getD (k + 1) laneZero) :: all.drop (k + 2))
    | _ => l.headD laneZero

/-- Whether the magnitude of one FP32 word exceeds another word. -/
def f32above (a b : Word) : Bool :=
  match f32val (clearBit a 31), f32val b with
  | .nan, _ => false
  | _, .nan => false
  | x, y => !leVal x y

/-- VRED_EXIT (R235): the elements are added in an open order, and the sum stops at the first boundary of 512 elements at which its
magnitude exceeds the threshold. -/
def Bx.vredExit (x : Bx) (i : Ins) : Except Nat Bx := do
  let a ← x.opnd i.a isF32
  let d ← x.opnd i.dst isF32
  let x ← x.variable
  x.check (decide (2 ≤ d.t.dim 0)) [a.use] [{ d.use with rows := d.rowsAt 0 1 }]
  let k := x.order
  let ws := (shuffle k.1 (x.m.f32s a)).map (fun w => (w, (0 : Word)))
  let sum := fun (cnt : Nat) => joinFree x.j.ieee (fun e => k.1 (cnt * 4294967296 + e)) cnt (ws.take cnt)
  let stops := ((List.range (ws.length / 512)).map (fun b => 512 * (b + 1)))
  let cnt := (stops.find? (fun c => f32above (sum c).1 (BitVec.ofNat 32 i.imm))).getD ws.length
  let r := sum cnt
  pure (k.2.putF32At d 0 [r.1, f32ofInt cnt] r.2)

/-! ## Slots -/

/-- Slot 1 of a bundle. -/
def Bx.slot1 (x : Bx) (i : Ins) : Except Nat Bx :=
  match i.op with
  | 0x00 => .ok x
  | 0x20 => x.load i
  | 0x21 => x.cvt i
  | 0x22 => x.qmx i
  | 0x23 => x.gather i
  | 0x24 => x.scatter i
  | 0x25 => x.scadd i false
  | 0x26 => x.scadd i true
  | 0x27 => x.tadv i
  | 0x28 => x.trans i
  | _ => .error stAnvIllegal

/-- Slot 2 of a bundle, or the part of it up to the next internal boundary; whether its end is reached. -/
def Bx.slot2 (x : Bx) (i : Ins) : Except Nat (Bx × Bool) :=
  let whole := fun (r : Except Nat Bx) => r.map (fun y => (y, true))
  match i.op with
  | 0x00 => .ok (x, true)
  | 0x40 => whole (x.mmul i)
  | 0x41 => whole (x.mmac i)
  | 0x42 => whole (x.pstore i)
  | 0x43 => whole (x.pclr i)
  | 0x44 => x.conv i
  | 0x45 => x.scan i
  | 0x46 => x.attn i
  | 0x47 => x.attnBwd i
  | _ => .error stAnvIllegal

/-- Slot 3 of a bundle. -/
def Bx.slot3 (x : Bx) (i : Ins) : Except Nat Bx :=
  let ie := x.j.ieee
  match i.op with
  | 0x00 => .ok x
  | 0x60 => x.elementwise i [i.a, i.b] (fun v => f32add ie (wordAt v 0) (wordAt v 1))
  | 0x61 => x.elementwise i [i.a, i.b] (fun v => f32sub ie (wordAt v 0) (wordAt v 1))
  | 0x62 => x.elementwise i [i.a, i.b] (fun v => f32mul ie (wordAt v 0) (wordAt v 1))
  | 0x63 => x.elementwise i [i.a, i.b, i.c] (fun v => f32fma ie (wordAt v 0) (wordAt v 1) (wordAt v 2))
  | 0x64 => x.elementwise i [i.a, i.b] (fun v => f32div ie (wordAt v 0) (wordAt v 1))
  | 0x65 => x.elementwise i [i.a] (fun v => f32sqrt ie (wordAt v 0))
  | 0x66 => x.elementwise i [i.a, i.b] (fun v => (f32max (wordAt v 0) (wordAt v 1), 0))
  | 0x67 => x.elementwise i [i.a, i.b] (fun v => (f32min (wordAt v 0) (wordAt v 1), 0))
  | 0x68 =>
    if 4 < i.sub then .error stAnvIllegal
    else x.elementwise i [i.a] (fun v => vfn ie i.sub (wordAt v 0))
  | 0x69 => x.elementwise i [i.a, i.b, i.c] (fun v => (if f32nonzero (wordAt v 2) then wordAt v 0 else wordAt v 1, 0))
  | 0x6A => x.vlq i
  | 0x6B => x.vrand i
  | 0x6C => x.reduceDim i (i.sub % 4) (sumWords (x.red i))
  | 0x6D => if 1 < i.sub then .error stAnvIllegal else
      x.reduceDim i (i.imm % 4) (fun ws => (if i.sub = 0 then maxWords ws else minWords ws, 0))
  | 0x6E => x.vcvtSr i
  | 0x6F => x.vredExit i
  | _ => .error stAnvIllegal

/-- A scalar register; sc0 reads 0 (R221). -/
def Job.scReg (j : Job) (k : Nat) : DWord := if k = 0 then 0 else j.sc.getD k 0

/-- A scalar register written; writes to sc0 are discarded (R221). -/
def Job.setSc (j : Job) (k : Nat) (v : DWord) : Job := if k = 0 then j else { j with sc := j.sc.set k v }

/-- SALU (R230). The result of a shift by 64 or more is not stated: a free function of the operands (notes/assumptions/3). -/
def Bx.salu (x : Bx) (i : Ins) : Except Nat Bx :=
  let big := bit (BitVec.ofNat 32 i.sub) 15
  let op := i.sub % 32768
  if 8 < op ∨ 32 ≤ i.dst ∨ 32 ≤ i.a ∨ (!big ∧ op ≠ 8 ∧ 32 ≤ i.b) then .error stAnvIllegal
  else
    let a := x.j.scReg i.a
    let b := if big ∨ op = 8 then BitVec.ofNat 64 i.imm else x.j.scReg i.b
    let done (v : DWord) : Except Nat Bx := .ok { x with j := x.j.setSc i.dst v }
    match op with
    | 0 => done (a + b)
    | 1 => done (a - b)
    | 2 => done (a * b)
    | 3 => done (a &&& b)
    | 4 => done (a ||| b)
    | 5 => done (a ^^^ b)
    | 8 => done b
    | _ =>
      if b.toNat < 64 then done (if op = 6 then a <<< b.toNat else a >>> b.toNat) else done (Config.shiftWord op a b)

/-- SLD (R230). -/
def Bx.sld (x : Bx) (i : Ins) : Except Nat Bx := do
  let a ← x.opnd i.a (fun f => f == fI64)
  x.check (decide (i.imm < a.t.count) && decide (i.dst < 32)) [{ a.use with rows := [(a.t.elemAt i.imm, 8)] }] []
  pure { x with j := x.j.setSc i.dst (BitVec.ofNat 64 ((x.m.codes a.t).getD i.imm 0)) }

/-- BRWR (R230): kept with the run until its publication (R257). -/
def Bx.brwr (x : Bx) (i : Ins) : Except Nat Bx := do
  let a ← x.opnd i.a (fun f => f == fLq)
  x.check (decide (x.j.kind = .forecast) && a.t.count == 21) [a.use] []
  pure { x with j := { x.j with bridges := (x.j.bridges.filter (fun b => b.1 != i.imm % 32)) ++
    [(i.imm % 32, i.imm / 256 % 256, x.m.ints a)] } }

/-- What slot 0 does to the sequencer. -/
inductive Flow where
  | next
  | halt
  | goto (b : Nat)
  | loop (last times : Nat)

/-- Slot 0 of a bundle (R230, R237). -/
def Bx.slot0 (x : Bx) (i : Ins) : Except Nat (Bx × Flow) :=
  match i.op with
  | 0x00 => .ok (x, .next)
  | 0x01 => .ok (x, .halt)
  | 0x02 =>
    let n := i.imm / 4294967296 % 16777216
    let times := i.imm % 4294967296
    if times = 0 ∨ 4 ≤ x.j.loops.length then .error stAnvIllegal
    else if n = 0 then .ok (x, .next) else .ok (x, .loop (x.j.pc + n) times)
  | 0x03 =>
    let b := i.imm % 2097152
    if x.j.progLen ≤ b ∨ 32 ≤ i.a then .error stAnvIllegal
    else .ok (x, if x.j.scReg i.a != 0 then .goto b else .next)
  | 0x04 => (x.salu i).map (fun y => (y, .next))
  | 0x05 => (x.sld i).map (fun y => (y, .next))
  | 0x06 => .ok ({ x with j := { x.j with step := x.j.step + BitVec.ofNat 64 i.imm } }, .next)
  | 0x07 => .ok (x, .next)
  | 0x08 => (x.brwr i).map (fun y => (y, .next))
  | _ => .error stAnvIllegal

/-- The bundle after bundle `pc`: the innermost LOOP that ends here goes back while repetitions are left (R230). -/
def loopBack (pc : Nat) : List LoopFrame → Nat × List LoopFrame
  | [] => (pc + 1, [])
  | f :: r =>
    if pc = f.last then (if 1 < f.left then (f.first, { f with left := f.left - 1 } :: r) else loopBack pc r)
    else (pc + 1, f :: r)

/-- The sequencer after a bundle. -/
def Job.flow (j : Job) : Flow → Job
  | .next => let r := loopBack j.pc j.loops; { j with pc := r.1, loops := r.2 }
  | .halt => j
  | .goto b => { j with pc := b, loops := j.loops.dropWhile (fun f => decide (b < f.first) || decide (f.last < b)) }
  | .loop last times => { j with pc := j.pc + 1, loops := ⟨j.pc + 1, last, times⟩ :: j.loops }

/-- The reserved fields of an instruction in a slot, and the split codes it may carry (R221, R237). -/
def insOk (slot : Nat) (i : Ins) : Bool := i.rsv == 0 && (if slot = 2 then decide (i.split < 3) else i.split == 0)

/-- A status with the slot and opcode it belongs to (R250). -/
def inSlot {α : Type} (slot : Nat) (i : Ins) (r : Except Nat α) : Except (Nat × Nat × Nat) α :=
  match r with
  | .ok a => .ok a
  | .error st => .error (st, slot, i.op)

/-- A line's hash in a slot's digest (R313). -/
def lineHash (m : Mach) (line : Nat) : DWord := hash8 (leBytes 6 line ++ m.bytes line 64)

/-- The digest of a slot: the exclusive or over the distinct lines that it wrote (R313). -/
def Bx.slotHash (x : Bx) : DWord := x.lines.foldl (fun a l => a ^^^ lineHash x.m l) 0

/-- A bundle from one boundary to the next, its effects in the order of R220: slots 1, 2, 3, then 0. At its end the answer is what slot 0
does, with the digests of slots 0 to 3; before, none. -/
def Bx.bundle (x : Bx) (ws : List Word) : Except (Nat × Nat × Nat) (Bx × Option (Flow × List DWord)) := do
  let i0 := insOf (ws.take 4)
  let i1 := insOf ((ws.drop 4).take 4)
  let i2 := insOf ((ws.drop 8).take 4)
  let i3 := insOf ((ws.drop 12).take 4)
  let first := x.j.seq.isNone
  let q := x.seqNow
  let x1 ← if first then inSlot 1 i1 (if insOk 1 i1 then { x with lines := [] }.slot1 i1 else .error stAnvIllegal) else pure x
  let h1 := if first then x1.slotHash else q.slot1
  let r2 ← inSlot 2 i2 (if insOk 2 i2 then { x1 with lines := q.lines }.slot2 i2 else .error stAnvIllegal)
  let x2 := r2.1
  if !r2.2 then
    pure ({ x2 with j := { x2.j with seq := x2.j.seq.map (fun p => { p with slot1 := h1, lines := x2.lines }) } }, none)
  else
    let x3 ← inSlot 3 i3 (if insOk 3 i3 then { x2 with lines := [] }.slot3 i3 else .error stAnvIllegal)
    let r ← inSlot 0 i0 (if insOk 0 i0 then x3.slot0 i0 else .error stAnvIllegal)
    pure (r.1, some (r.2, [0, h1, x2.slotHash, x3.slotHash]))

/-- A bundle run through all of its internal boundaries; `fuel` bounds them. -/
def Bx.whole (x : Bx) (ws : List Word) : Nat → Except (Nat × Nat × Nat) Bx
  | 0 => .ok x
  | fuel + 1 =>
    match x.bundle ws with
    | .error e => .error e
    | .ok (y, some _) => .ok y
    | .ok (y, none) => y.whole ws fuel

end Sys2Proof.Machine
end

