-- ==== Sys2Proof/Machine/Rings.lean ====
section
/-! DEFINITION. The command and status rings' registers (R54–R58): enabling, disabling, doorbells, status heads. -/

namespace Sys2Proof.Machine

/-- The class of a ring (R53): rings 0–5 and I0 HOST, ring 6 and I1 FW, ring 7 TK. -/
def ringClass (n : Nat) : Cls := if n = 6 ∨ n = 9 then .fw else if n = 7 then .tk else .host

/-- I0 and I1 (R53). -/
def isIsland (n : Nat) : Bool := decide (n = 8 ∨ n = 9)

/-- Phase 0 in every entry of a status ring (R55): `k` entries from an address on. -/
def Mach.clearPhases (m : Mach) (a : Nat) : Nat → Mach
  | 0 => m
  | k + 1 => (m.putRing (a + 3) [m.byte (a + 3) &&& 0x7F]).clearPhases (a + 32) k

/-- ring_en from 0 to 1 (R55): indices and sequence at 0, phase 0 in every status entry. -/
def Mach.enableRing (m : Mach) (n : Nat) : Mach :=
  let m : Mach := (((m.wr (.cxCmdHead n) 0).wr (.cxCmdTail n) 0).wr (.cxStsHead n) 0).wr (.cxStsTail n) 0
  let m : Mach := (m.wr (.cxCmdSeq n) 0).clearPhases (m.stsBase n) (m.ringSize n)
  m.setRing n (fun r => { r with passOdd := true, held := [], owing := 0, rdownWait := false })

/-- ring_en from 1 to 0 (R58): unread packets are discarded, entries still held are counted as dropped, and every later
reply of a command read before is dropped by its epoch. -/
def Mach.disableRing (m : Mach) (n : Nat) : Mach :=
  let m : Mach := ((m.ring n).held.foldl Mach.release m).bump (.cxStsDrop n) 15 0 (m.ring n).held.length
  let m : Mach := m.wr (.cxCmdTail n) (m.rd (.cxCmdHead n))
  m.setRing n (fun r => { r with held := [], owing := 0, epoch := r.epoch + 1, rdownWait := false })

/-- A write of `CX_CMD_CTRL_n` (R54, R55): void with a size outside 4–12 on a general ring; size_log2 is taken only while
ring_en is 0; on I0 and I1 it is read only. -/
def Mach.writeRingCtrl (m : Mach) (n : Nat) (v : Word) : Mach :=
  let old := m.rd (.cxCmdCtrl n)
  let was := bit old 31
  let size := field v 3 0
  if !isIsland n && (decide (size < 4) || decide (12 < size)) then m
  else
    let w := putBit (putBit old 31 (bit v 31)) 30 (bit v 30)
    let w := if was || isIsland n then w else setField w 3 0 size
    let m : Mach := m.wr (.cxCmdCtrl n) w
    if !was && bit v 31 then m.enableRing n
    else if was && !bit v 31 then m.disableRing n
    else m

/-- A write of a base register, taken only while ring_en is 0, never on I0 and I1 (R55, R479). -/
def Mach.writeRingBase (m : Mach) (n : Nat) (r : Reg) (v : Word) : Mach :=
  if m.ringEn n || isIsland n then m else m.wr r (v &&& r.rwMask)

/-- The doorbell (R56): an index at or above the ring size is discarded. -/
def Mach.writeCmdTail (m : Mach) (n : Nat) (v : Word) : Mach :=
  let i := field v 11 0
  if i < m.ringSize n then m.wr (.cxCmdTail n) (BitVec.ofNat 32 i) else m

/-- Host software releases status entries (R57); entries held back by a full ring then go out. -/
def Mach.writeStsHead (m : Mach) (n : Nat) (v : Word) : Mach :=
  let i := field v 11 0
  if i < m.ringSize n then (m.wr (.cxStsHead n) (BitVec.ofNat 32 i)).drainAll n else m

/-- RdOwnNoData answered (R487): the entry whose line it named is written, and those behind it follow. -/
def Mach.rdownDone (m : Mach) (n : Nat) : Mach :=
  match (m.ring n).rdownWait, (m.ring n).held with
  | true, e :: rest =>
    ((m.setRing n (fun r => { r with held := rest, rdownWait := false })).writeEntry n e).drainAll n
  | _, _ => m

/-- STATUS_POST: a reply of the module for the command of a ring, its seq and its result words (`answer`), goes to that ring's
status ring (R57, R61). -/
def execStatusPost (ring tag op status : Nat) (answer : Word × List Word) (s : State) : Host.Outcome State Fault Refusal :=
  s.on (fun m => m.notify ⟨ring, (m.ring ring).epoch, tag, op, answer.1⟩ status answer.2)

/-- RDOWN_NODATA (R487). -/
def execRdownNodata (ring : Nat) (s : State) : Host.Outcome State Fault Refusal := s.on (fun m => m.rdownDone ring)

end Sys2Proof.Machine
end

