-- ==== Sys2Proof/Machine/LongOps.lean ====
section
/-! DEFINITION. Operations in flight (R69–R77): suspending, resuming, cancelling, querying, and their safe points. -/

namespace Sys2Proof.Machine

/-- The state code of R77. -/
def OpState.code : OpState → Nat
  | .running => 0
  | .suspending => 1
  | .suspended => 2
  | .cancelling => 3

/-- The launch that holds a tag, armed or with its terminal entry still to be posted: where it replies, and the count of its last
change of state (R70, R77). -/
def Mach.tagLaunch (m : Mach) (tag : Nat) : Option (RTo × Nat) :=
  match m.slots.find? (fun l => l.holdsTag && l.tag == tag && tag != 0) with
  | some l => l.reply.map (fun rt => (rt, l.armedAt))
  | none => m.endingLaunches.find? (fun x => x.1.tag == tag && tag != 0)

/-- The class that started what holds a tag, for R73's class check: of a launch the class of the ring that armed it, a domain launch
on its master too. -/
def Mach.tagClass (m : Mach) (tag : Nat) : Option Cls :=
  match m.opHolding tag with
  | some o => some o.cls
  | none => (m.tagLaunch tag).map (fun x => ringClass x.1.ring)

/-- R73's check of the requester class: unknown tag, then class. Tag 0x000 names nothing that holds a tag: the rows 'tag not held' and
'untagged' of R73 both bear on it, and the model takes the first (DESIGN CHOICE, notes/assumptions/28). -/
def Mach.targetCheck (m : Mach) (tag : Nat) (c : Cls) : Option Nat :=
  if tag = 0 then some stTagUnknown
  else match m.tagClass tag with
    | none => some stTagUnknown
    | some k => if c = k ∨ c = .tk then none else some stNotPermitted

/-- A request beyond the four notifications a full status ring may hold back for one tag (R76); the notification of a resumption still to
come is one of them. -/
def Mach.noteFull (m : Mach) (o : Op) : Bool :=
  decide (4 ≤ m.heldNotes o.rt.tag o.rt.ring + (if o.resumeNote.isSome then 1 else 0))

/-- OP_SUSPEND (R73). -/
def Mach.opSuspend (m : Mach) (rt : RTo) (tag : Nat) : Mach :=
  match m.opByTag tag with
  | none => m.reply rt stBadState []
  | some o =>
    match o.state with
    | .running => if m.noteFull o then m.reply rt stBusy [] else (m.setOp o.id .suspending).reply rt stOk []
    | _ => m.reply rt stBadState []

/-- OP_RESUME (R73): the notification follows at the first bundle or step after resumption; `note` says which. -/
def Mach.opResume (m : Mach) (rt : RTo) (tag note : Nat) : Mach :=
  match m.opByTag tag with
  | none => m.reply rt stBadState []
  | some o =>
    match o.state with
    | .suspended =>
      if m.noteFull o then m.reply rt stBusy []
      else
        let m : Mach := m.setOp o.id .running
        let m : Mach := { m with ops := m.ops.map (fun p => if p.id == o.id then { p with resumeNote := some note } else p) }
        m.reply rt stOk []
    | _ => m.reply rt stBadState []

/-- The notification of a resumption, at the operation's first bundle or step (R73). -/
def Mach.noteResumed (m : Mach) (id : Nat) : Mach :=
  match m.opById id with
  | none => m
  | some o =>
    match o.resumeNote with
    | none => m
    | some st =>
      let m : Mach := { m with ops := m.ops.map (fun p => if p.id == id then { p with resumeNote := none } else p) }
      m.notify o.rt st []

/-- OP_QUERY (R77): state, starting ring and class, and the count of the last change. -/
def Mach.opQuery (m : Mach) (rt : RTo) (tag : Nat) : Mach :=
  match m.opHolding tag with
  | some o => m.reply rt stOk [place o.state.code 0, place (o.rt.ring % 16) 0 ||| place o.cls.code 8,
      BitVec.ofNat 32 o.changed, BitVec.ofNat 32 (o.changed / 4294967296)]
  | none =>
    match m.tagLaunch tag with
    | some x => m.reply rt stOk [4, place (x.1.ring % 16) 0 ||| place (ringClass x.1.ring).code 8,
        BitVec.ofNat 32 x.2, BitVec.ofNat 32 (x.2 / 4294967296)]
    | none => m.reply rt stOk [5, 0, 0, 0]

end Sys2Proof.Machine
end

