-- ==== Sys2Proof/Machine/AnvilJobs.lean ====
section
/-! DEFINITION. Anvil jobs: submission (R226–R228), issue and scheduling (R219–R222, R241–R249), the save area (R246,
R247), results and replay records (R250, R300–R305), lock-step digests (R313), and the disable of R215. -/

namespace Sys2Proof.Machine

/-- T, the tiles in service (R186). -/
def Mach.tilesNow (m : Mach) : Nat := popcount 64 m.tilesIn

/-- A job by number. -/
def Mach.job (m : Mach) (id : Nat) : Option Job := m.anvil.jobs.find? (fun j => j.id == id)

/-- A job changed. -/
def Mach.setJob (m : Mach) (id : Nat) (f : Job → Job) : Mach :=
  { m with anvil.jobs := m.anvil.jobs.map (fun j => if j.id == id then f j else j) }

/-- A job leaves the list. -/
def Mach.dropJob (m : Mach) (id : Nat) : Mach := { m with anvil.jobs := m.anvil.jobs.filter (fun j => j.id != id) }

/-- A job ends (R250): its terminal status follows with its completion. -/
def Mach.stopJob (m : Mach) (id : Nat) (e : JobEnd) : Mach :=
  m.setJob id (fun j => { j with phase := .ended, fin := some e })

/-- The running job. -/
def Mach.runningJob (m : Mach) : Option Job := m.anvil.jobs.find? (fun j => decide (j.phase = .running))

/-- The job of a tracker entry. -/
def Mach.jobOfOp (m : Mach) (op : Nat) : Option Job := m.anvil.jobs.find? (fun j => j.op == some op)

/-- Whether the anvil may work at all: ready, enabled, not stopped by temperature, with a tile in service. -/
def Mach.anvilOn (m : Mach) : Bool :=
  m.ready fnAnvil && m.en fnAnvil && !m.phys.stopped && decide (m.tilesNow ≠ 0)

/-- Whether training or a re-encoding has work (R241, R284). -/
def Mach.trainWork (m : Mach) : Bool := m.fc.train.any (fun t => t.cycle.isSome) || m.fc.gens.any (fun g => g.kept && !g.encoded)

/-- Work of level 2 that may run: it is not held to train_cap, nor by temperature (R245, R550). -/
def Mach.levelTwo (m : Mach) : Bool := decide (m.phys.modStep < 2) && m.trainWork && !m.anvil.capped

/-- Work of level 1 (R241): a layer of a hall step still to be computed here. -/
def Mach.levelOne (m : Mach) : Bool := m.hall.step.any (·.todo)

/-- Whether a level may run: user_en of `AV_SCHED_CFG` stands over levels 3–6 (R245, R252), the derating steps 2 and 3 over
levels 2–6 (R550). -/
def Mach.levelOn (m : Mach) (level : Nat) : Bool :=
  decide (level < 2) || (decide (m.phys.modStep < 2) && (decide (level < 3) || bit (m.rd .avSchedCfg) 8))

/-- A job that waits for the anvil and may have it (R243, R245). -/
def Mach.waits (m : Mach) (j : Job) : Bool :=
  (decide (j.phase = .queued) || decide (j.phase = .parked)) && m.levelOn j.level

/-- Whether work of a lower level number is ready (R243). -/
def Mach.lowerWork (m : Mach) (level : Nat) : Bool :=
  m.anvil.jobs.any (fun j => m.waits j && decide (j.level < level)) || (decide (1 < level) && m.levelOne)
    || (decide (2 < level) && m.levelTwo)

/-- The first job of a level that may run: a parked one before a queued one (R243). -/
def Mach.firstOf (m : Mach) (level : Nat) : Option Job :=
  let js := m.anvil.jobs.filter (fun j => m.waits j && j.level == level)
  match js.find? (fun j => decide (j.phase = .parked)) with
  | some j => some j
  | none => js.head?

/-- The job that runs next while none runs, if no work of a lower level number stands before it. -/
def Mach.nextUp (m : Mach) : Option Job :=
  match (List.range 7).findSome? m.firstOf with
  | some j => if m.lowerWork j.level then none else some j
  | none => none

/-- Whether work of level 1 or 2 may have the anvil at present: it works, no job runs, and nothing of a lower level number is ready (R241,
R243). -/
def Mach.anvilFree (m : Mach) (level : Nat) : Bool := m.anvilOn && m.runningJob.isNone && !m.lowerWork level

/-- Bundles of a hall step, of training or of a re-encoding issue, as many as the spec does not say: they count in `AV_BUSY_LO`
(R218). -/
def Mach.otherBundles (m : Mach) : Mach :=
  let t := m.take
  { t.2 with anvil.busy := (t.2.anvil.busy + 1 + t.1.toNat) % 2 ^ 64 }

/-- The state of a job's operation. -/
def Mach.jobOpState (m : Mach) (j : Job) : OpState :=
  match j.op with
  | some o => ((m.opById o).map (·.state)).getD .running
  | none => .running

/-- Whether a running job waits for the partner's digest (R313). It waits for none that cannot come, since the partner's job has ended before that
ordinal or with a status other than ST_OK: the job then runs to its own end, which R315 compares. -/
def Mach.lockWaits (m : Mach) (j : Job) : Bool :=
  decide (m.anvil.lock.state = .running) && m.anvil.lock.job == some j.id
    && m.anvil.lock.digest.any (fun d => !m.anvil.lock.theirEnd.any (fun e => decide (e.2 < d.ord) || e.1 != stOk))

/-- Whether a running job issues its next bundle: no suspension, cancellation, preemption or disable stands at the present
boundary (R222). -/
def Mach.mayIssue (m : Mach) (j : Job) : Bool :=
  m.anvilOn && decide (m.jobOpState j = .running) && !m.lowerWork j.level && m.levelOn j.level
    && !m.lockWaits j

/-! ## Lock-step digests (R313) -/

/-- The footprints of the destinations of each slot that wrote lines (R314): of ATTN the statistics too. -/
def slotFeet (j : Job) (hs : List DWord) (ws : List Word) : List (List (Nat × Nat)) :=
  hs.mapIdx (fun k h =>
    let i := insOf ((ws.drop (4 * k)).take 4)
    if h = 0 then []
    else (i.dst :: if i.op = 0x46 then [i.imm % 256] else []).flatMap (fun d =>
      ((operandAt j.descs j.bases d).map Operand.feet).getD []))

/-- The digests of one bundle. -/
def lockDigest (ord : Nat) (j : Job) (hs : List DWord) (ws : List Word) : LsDigest :=
  { ord := ord
    slots := hs
    scalar := hash8 ((j.sc.drop 1).flatMap (fun v => leBytes 8 v.toNat) ++ leBytes 8 j.step.toNat)
    feet := slotFeet j hs ws
    sc := j.sc
    step := j.step }

/-- Both modules' digests of one ordinal meet (R313): equal ones let the next bundle issue. -/
def Mach.lockCompare (m : Mach) : Mach :=
  match m.anvil.lock.digest, m.anvil.lock.theirs with
  | some d, some t =>
    if d.ord ≠ t.1 then m
    else if d.slots = t.2.1 ∧ d.scalar = t.2.2 then
      { m with anvil.lock.ord := d.ord, anvil.lock.digest := none, anvil.lock.theirs := none }
    else { m with anvil.lock.ord := d.ord }
  | _, _ => m

/-! ## Issue -/

/-- The first issue of a job: its own copy of the descriptor table and T (R223, R300). -/
def Mach.beginJob (m : Mach) (j : Job) : Job :=
  { j with issued := true, tFirst := m.tilesNow, phase := .running,
           descs := (List.range j.descCount).map (fun d => m.words (j.descTable + 64 * d) 16) }

/-- The anvil cycles between two boundaries, which the spec bounds and does not state (R222, R244). -/
def Mach.bundleCycles (m : Mach) : Nat × Mach :=
  let t := m.take
  (1 + t.1.toNat % 8192, t.2)

/-- Internal boundaries of one bundle, at most: outputs of CONV by 1,024 (R239). -/
abbrev partsMax : Nat := 2 ^ 36

/-- The end of a bundle (R301, R305, R313): the sequencer goes on, a session takes its digests, HALT ends the job, and a tagged job stops
once at the boundary after the wanted ordinal. -/
def Mach.bundleEnd (m : Mach) (j : Job) (flow : Flow) (hs : List DWord) (ws : List Word) : Mach :=
  let j := j.flow flow
  let m := m.setJob j.id (fun _ => j)
  let m : Mach := if decide (m.anvil.lock.state = .running) && m.anvil.lock.job == some j.id then
      ({ m with anvil.lock.digest := some (lockDigest j.ordDone j hs ws) } : Mach).lockCompare
    else m
  match flow with
  | .halt => m.stopJob j.id ⟨stOk, j.pc, 0, 0⟩
  | _ =>
    match j.op.bind m.opById with
    | some o =>
      if j.stopOrd = some j.ordDone ∧ !j.stopped ∧ o.rt.tag ≠ 0 then
        (m.setJob j.id (fun j => { j with stopped := true })).setOp o.id .suspending
      else m
    | none => m

/-- A job ends at its present bundle, on poison with its flag (R211, R250). -/
def Mach.stopAtBundle (m : Mach) (j : Job) (st slot op : Nat) : Mach :=
  let fl := if st = stMemPoison then fPoison else 0
  ((m.setJob j.id (fun j => { j with flags := j.flags ||| fl })).orReg .avArithStat fl).stopJob j.id ⟨st, j.pc, slot, op⟩

/-- The operands that an instruction reads (R230). -/
def Ins.sources (i : Ins) : List Nat :=
  if i.op = 0x05 ∨ i.op = 0x08 ∨ (0x20 ≤ i.op ∧ i.op ≤ 0x22) ∨ i.op = 0x28 ∨ i.op = 0x65 ∨ i.op = 0x68 ∨ 0x6C ≤ i.op then [i.a]
  else if i.op = 0x25 ∨ i.op = 0x26 then [i.a, i.b, i.dst]
  else if i.op = 0x23 ∨ i.op = 0x24 ∨ i.op = 0x40 ∨ i.op = 0x41 ∨ i.op = 0x44 ∨ (0x60 ≤ i.op ∧ i.op ≤ 0x67 ∧ i.op ≠ 0x63) then [i.a, i.b]
  else if 0x45 ≤ i.op ∧ i.op ≤ 0x47 ∨ i.op = 0x63 ∨ i.op = 0x69 ∨ i.op = 0x6A then [i.a, i.b, i.c]
  else []

/-- The operand of memory that an instruction writes: MMUL and MMAC write planes, TADV a descriptor, the scalar slot registers (R230). -/
def Ins.targets (i : Ins) : List Nat :=
  if (0x20 ≤ i.op ∧ i.op ≤ 0x28 ∧ i.op ≠ 0x27) ∨ i.op = 0x42 ∨ (0x44 ≤ i.op ∧ i.op ≤ 0x47) ∨ 0x60 ≤ i.op then [i.dst] else []

/-- An instruction that met a poisoned line: the errors that its reads found, those of its partial writes among them (R209, R210). -/
def Mach.slotPoison (m : Mach) (j : Job) (ws : List Word) (st slot : Nat) : Mach :=
  if st = stMemPoison then
    let i := insOf ((ws.drop (4 * slot)).take 4)
    let ranges (d : Nat) : List (Nat × Nat) := ((operandAt j.descs j.bases d).map Operand.ranges).getD []
    m.checkReads (i.sources.flatMap ranges ++
      ((i.targets.filter (fun d => !i.sources.contains d)).flatMap ranges).flatMap (fun r => partLines r.1 r.2))
  else m

/-- A bundle issues (R220), or goes on from its last internal boundary to the next (R222). A bundle whose checks fail anywhere has no
effect and ends its job. -/
def Mach.runBundle (m : Mach) (j : Job) : Mach :=
  let m : Mach := match j.op with
    | some o => m.noteResumed o
    | none => m
  let fresh := !j.issued
  let start := j.seq.isNone
  let j := if fresh then m.beginJob j else { j with phase := .running }
  let m := m.setJob j.id (fun _ => j)
  let at_ := j.prog + 64 * j.pc
  let ws := m.words at_ 16
  let x : Bx := { m := m, j := j, t := m.tilesNow, lines := [] }
  if j.progLen ≤ j.pc then m.stopJob j.id ⟨stAnvIllegal, j.pc, 0, 0⟩
  else if (fresh && m.poisonIn j.descTable (64 * j.descCount)) || m.poisonIn at_ 64 then
    (m.checkReads ((if fresh then [(j.descTable, 64 * j.descCount)] else []) ++ [(at_, 64)])).stopAtBundle j stMemPoison 0 0
  else
    match x.bundle ws, if start then x.whole ws partsMax else .ok x with
    | .error (st, slot, op), _ => (m.slotPoison j ws st slot).stopAtBundle j st slot op
    | .ok (_, none), .error (st, slot, op) => (m.slotPoison j ws st slot).stopAtBundle j st slot op
    | .ok (x, done), _ =>
      let r := x.m.bundleCycles
      let m : Mach := if start then { r.2 with anvil.busy := (r.2.anvil.busy + 1) % 2 ^ 64 } else r.2
      let j' : Job := { x.j with ordDone := x.j.ordDone + (if start then 1 else 0), cycles := x.j.cycles + r.1 }
      match done with
      | none => m.setJob j.id (fun _ => j')
      | some (flow, hs) => m.bundleEnd j' flow hs ws

/-- The next bundle of the running job, or the first one of the next job in line. -/
def Mach.issueBundle (m : Mach) : Mach :=
  match m.runningJob with
  | some j => if m.mayIssue j then m.runBundle j else m
  | none =>
    match m.nextUp with
    | some j => if decide (j.phase = .queued) && !j.saved && m.mayIssue j then m.runBundle j else m
    | none => m

/-! ## Sessions (R315) -/

/-- A lock-step session ends on this module with a result (R315). -/
def Mach.endSession (m : Mach) (result : Nat) : Mach :=
  { m with anvil.lock := { m.anvil.lock with
      state := .ended, result := result, job := none, digest := none, theirs := none, ownEnd := none, theirEnd := none } }

/-- Whether a session compares this job, or searches for the line in which it differed. -/
def Mach.inSession (m : Mach) (j : Job) : Bool :=
  (decide (m.anvil.lock.state = .running) || decide (m.anvil.lock.state = .searching)) && m.anvil.lock.job == some j.id

/-- The ends of a job that end its session with ST_LS_PARTNER on the other module (R315). -/
def endsPartner (st : Nat) : Bool := st == stCancelled || st == stTileLost || st == stMemPoison || st == stSaveCorrupt

/-! ## The save area (R246, R247) -/

/-- Bytes of a save area (R246). -/
abbrev saveSize : Nat := 0x1008000

/-- A plane as numbers. -/
def Plane.key : Plane → List Nat
  | .unset => [0]
  | .cleared => [1]
  | .floats c vs => 2 :: c :: vs.map (·.toNat)
  | .ints c vs => 3 :: c :: vs.map (codeOfInt 64)

/-- All that a save area holds of a job (R246): bundle index, loop stack, scalar registers, step counter, mode word, T at save, S and the
intermediates of a sequence instruction, and the accumulator planes. -/
def Job.saveKey (j : Job) (tiles : Nat) : List Nat :=
  j.pc :: j.loops.flatMap (fun f => [f.first, f.last, f.left]) ++ j.sc.map (·.toNat) ++ [j.step.toNat, j.mode.toNat, tiles]
    ++ j.planes.flatMap Plane.key
    ++ (j.seq.elim [] (fun q => q.part :: q.lanes :: (q.zp.flatten.flatMap (fun p => [p.1.toNat, p.2.toNat])
      ++ q.carry.flatten.map (·.toNat))))

/-- Where in a save area its CRC-32 stands. -/
def saveCrcAt : Nat := 4 * (Config.saveCrcWord % 4096)

/-- The bytes of a save area that its CRC-32 covers: all others (R246). -/
def Mach.saveRest (m : Mach) (save : Nat) : List Byte :=
  m.bytes save saveCrcAt ++ m.bytes (save + saveCrcAt + 4) (saveSize - saveCrcAt - 4)

/-- A job's state written to its save area, after it ran on `tiles` tiles (R246): the descriptor table at its place, everything else at
places that R246 does not fix, and the CRC-32 over the rest. -/
def Mach.saveJob (m : Mach) (j : Job) (tiles : Nat) : Mach :=
  if !j.issued then m
  else
    let m := (m.storeAll j.save ((List.range saveSize).map (Config.saveByte (j.saveKey tiles)))).1
    let m := (m.storeAll (j.save + 0x4000) (wordsBytes j.descs.flatten)).1
    let m := (m.storeAll (j.save + saveCrcAt) (wordBytes (crc32 (m.saveRest j.save)))).1
    m.setJob j.id (fun j => { j with saved := true, tSave := tiles })

/-- A running job parked at its boundary (R243, R245, R550). -/
def Mach.parkJob (m : Mach) (j : Job) : Mach :=
  (m.saveJob j m.tilesNow).setJob j.id (fun j => { j with phase := .parked, parkedOnce := true })

/-- A preemption takes hold: the running job meets ready work of a lower level number, which counts in `AV_PREEMPT_CNT`, user_en at 0, or a
derating step (R243, R245, R252, R550). -/
def Mach.preempt (m : Mach) : Mach :=
  match m.runningJob with
  | some j =>
    if m.lowerWork j.level then (m.parkJob j).bump .avPreemptCnt 31 0 1
    else if !m.levelOn j.level then m.parkJob j
    else m
  | none => m

/-- A saved job restored (R247, R248, R309): a save area that changed ends it; another T in fast mode withdraws the
promise. -/
def Mach.restoreJob (m : Mach) (j : Job) : Mach :=
  if !j.saved then m
  else if m.poisonIn j.save saveSize then (m.checkRead j.save saveSize).stopAtBundle j stMemPoison 0 0
  else if m.word (j.save + saveCrcAt) != crc32 (m.saveRest j.save) then m.stopJob j.id ⟨stSaveCorrupt, j.pc, 0, 0⟩
  else
    let non := !j.repro && decide (j.tSave ≠ m.tilesNow)
    let m := m.setJob j.id (fun j => { j with phase := .running, saved := false, nonrepro := j.nonrepro || non })
    let m : Mach := if non && m.inSession j then
        { m.endSession stLsMismatch with anvil.lock.sent := some (.jobEnd stResumedNonrepro j.ordDone) } else m
    if non then
      { m with ops := m.ops.map (fun o => if some o.id == j.op && o.rt.tag != 0
          then { o with resumeNote := some stResumedNonrepro } else o) }
    else m

/-- The restore of the job that is next in line, where it was saved (R243, R248). -/
def Mach.restoreNext (m : Mach) : Mach :=
  match m.runningJob, m.nextUp with
  | none, some j => if m.anvilOn then m.restoreJob j else m
  | _, _ => m

/-! ## Completion -/

/-- Result words 4 to 7 of a terminal status (R250). -/
def Job.result (j : Job) (e : JobEnd) : List Word :=
  let w7 := flag j.varUsed 0 ||| flag j.parkedOnce 1
  if e.status = stOk then [BitVec.ofNat 32 j.cycles, BitVec.ofNat 32 (j.cycles / 4294967296), j.flags, w7]
  else [BitVec.ofNat 32 e.bundle, place e.slot 0 ||| place e.opcode 8, j.flags, w7]

/-- The replay record and digest part of a result block, offsets 0x40 to 0xBF (R300, R303). -/
def Mach.replayBytes (m : Mach) (j : Job) (e : JobEnd) : List Byte :=
  let head := place 1 0 ||| place e.status 8 ||| flag j.varUsed 16 ||| flag j.parkedOnce 17 ||| flag j.nonrepro 18
    ||| flag j.digest.isSome 19 ||| flag j.stopped 20
  wordBytes head ++ wordBytes j.mode ++ leBytes 8 j.seed.toNat ++ leBytes 8 j.stepStart.toNat ++ leBytes 8 j.step.toNat
    ++ leBytes 8 j.ordDone ++ leBytes 8 j.cycles ++ wordBytes (place j.tFirst 0 ||| place m.tilesNow 8)
    ++ wordBytes m.sys.cap0 ++ leBytes 8 m.time.count
    ++ (match j.digest with
        | some d => d.1 ++ leBytes 8 d.2
        | none => List.replicate 40 0)
    ++ List.replicate 24 0

/-- The result block written before the terminal status (R302). -/
def Mach.writeReplay (m : Mach) (j : Job) (e : JobEnd) : Mach :=
  match j.block with
  | some a => (m.storeAll (a + 0x40) (m.replayBytes j e)).1
  | none => m

/-- Both jobs have ended (R315): ST_OK at one ordinal, or a divergence. Where both end with the same other status at the
same ordinal, R315 states no result: a free value. -/
def Mach.judgeEnds (m : Mach) : Mach :=
  match m.anvil.lock.ownEnd, m.anvil.lock.theirEnd with
  | some a, some b =>
    if a ≠ b then m.endSession stDiverged
    else if a.1 = stOk then m.endSession stOk
    else m.take.2.endSession (m.take.1.toNat % 256)
  | _, _ => m

/-- What the end of a job does to its session on this module (R315). -/
def Mach.sessionJobEnd (m : Mach) (j : Job) (st : Nat) : Mach :=
  if !m.inSession j then m
  else
    let m : Mach := { m with anvil.lock.sent := some (.jobEnd st j.ordDone) }
    if endsPartner st then m.endSession st
    else if m.anvil.lock.state = .searching then m
    else ({ m with anvil.lock.ownEnd := some (st, j.ordDone) } : Mach).judgeEnds

/-- A user job posts its terminal status (R250). -/
def Mach.completeJob (m : Mach) (j : Job) (e : JobEnd) : Mach :=
  let m := m.writeReplay j e
  let m := (m.bump .avJobDone 31 0 1).sessionJobEnd j e.status
  let m := m.dropJob j.id
  match j.op with
  | some o => m.endOp o e.status (j.result e)
  | none => m

/-- A job cancelled: at once where nothing of it runs (R73, R249), else at its boundary. -/
def Mach.cancelJob (m : Mach) (j : Job) : Mach := m.completeJob j ⟨stCancelled, j.pc, 0, 0⟩

/-- A job suspended at its boundary, with ST_SUSPENDED under its tag (R73, R248, R249); it ran on `tiles` tiles. -/
def Mach.suspendJob (m : Mach) (j : Job) (tiles : Nat) : Mach :=
  let m := if j.phase = .running then m.saveJob j tiles else m
  let m := m.setJob j.id (fun j => { j with phase := .suspended })
  match j.op.bind m.opById with
  | some o => (m.setOp o.id .suspended).notify o.rt stSuspended []
  | none => m

/-- A resumed job joins the tail of its level (R248). -/
def Mach.requeueJob (m : Mach) (j : Job) : Mach :=
  { m with anvil.jobs := m.anvil.jobs.filter (fun k => k.id != j.id) ++
      [{ j with phase := if j.fin.isSome then .ended else if j.digestReq && j.digest.isNone && j.block.isSome then .hashing else .queued }] }

/-! ## The result digest (R304) -/

/-- The elements of a descriptor's tensor in packed form, the scales behind those of an MX tensor (R304 part 6). -/
def Mach.packedTensor (m : Mach) (descs : List (List Word)) (bases : List Nat) (d : Nat) : List Byte :=
  match operandAt descs bases d with
  | none => []
  | some o =>
    o.t.rows.flatMap (fun a => m.bytes a o.t.rowBytes)
      ++ (match o.sc with
          | some s => s.rows.flatMap (fun a => m.bytes a s.rowBytes)
          | none => [])

/-- Parts 1 to 5 of the digest message (R304). -/
def Mach.digestHead (m : Mach) (j : Job) : List Byte :=
  wordBytes j.mode ++ leBytes 8 j.seed.toNat ++ leBytes 8 j.stepStart.toNat ++ m.bytes j.prog (64 * j.progLen)
    ++ (List.range j.descCount).flatMap (fun d =>
      let w := m.words (j.descTable + 64 * d) 16
      wordsBytes ((w.set 0 0).set 1 (setField (wordAt w 1) 18 0 0)))

/-- The descriptors whose tensors enter the digest. -/
def Job.included (j : Job) : List Nat :=
  (List.range j.descCount).filter (fun d => (j.incl.getD (d / 8) 0).getLsbD (d % 8))

/-- What the digest message reads: program, descriptor table and the tensors included. -/
def Mach.digestReads (_ : Mach) (j : Job) (descs : List (List Word)) : List (Nat × Nat) :=
  [(j.prog, 64 * j.progLen), (j.descTable, 64 * j.descCount)]
    ++ j.included.flatMap (fun d => ((operandAt descs j.bases d).map Operand.ranges).getD [])

/-- Whether the digest message meets a poisoned line. -/
def Mach.digestPoison (m : Mach) (j : Job) (descs : List (List Word)) : Bool :=
  (m.digestReads j descs).any (fun r => m.poisonIn r.1 r.2)

/-- The hash engine finishes the oldest digest (R304): the job may start, or ends on a poisoned line. -/
def Mach.digestDone (m : Mach) : Mach :=
  match m.anvil.jobs.find? (fun j => decide (j.phase = .hashing)) with
  | none => m
  | some j =>
    let descs := (List.range j.descCount).map (fun d => m.words (j.descTable + 64 * d) 16)
    if m.digestPoison j descs then
      let m := m.checkReads (m.digestReads j descs)
      ((m.setJob j.id (fun j => { j with flags := j.flags ||| fPoison })).orReg .avArithStat fPoison).stopJob j.id
        ⟨stMemPoison, 0, 0, 0⟩
    else
      let msg := m.digestHead j ++ j.included.flatMap (m.packedTensor descs j.bases)
      m.setJob j.id (fun j => { j with phase := .queued, digest := some (sha3_256 msg, msg.length) })

/-! ## Submission (R226–R228, R300–R302) -/

/-- The 64-bit field at an offset of a record. -/
def dwordAt (bs : List Byte) (off : Nat) : Nat := leNat ((bs.drop off).take 8)

/-- The 32-bit field at an offset of a record. -/
def word32At (bs : List Byte) (off : Nat) : Nat := leNat ((bs.drop off).take 4)

/-- Check 5 of R228: magic, version, reserved fields, alignments and ranges of the record, and the save area. -/
def jobRecordOk (bs : List Byte) (rec save : Nat) : Bool :=
  let w := fun o => BitVec.ofNat 32 (word32At bs o)
  decide (word32At bs 0 = 0x41564A42) && decide (0x0100 ≤ field (w 4) 15 0) && decide (field (w 4) 15 0 ≤ 0x01FF)
    && decide (field (w 4) 31 17 = 0) && decide (dwordAt bs 8 / addrMod = 0) && decide (dwordAt bs 8 % 64 = 0)
    && decide (1 ≤ field (w 0x10) 20 0) && decide (field (w 0x10) 20 0 ≤ 1048576) && decide (field (w 0x10) 31 21 = 0)
    && decide (1 ≤ field (w 0x14) 8 0) && decide (field (w 0x14) 8 0 ≤ 256) && decide (field (w 0x14) 31 9 = 0)
    && decide (dwordAt bs 0x18 % 64 = 0)
    && (List.range 4).all (fun b => decide (dwordAt bs (0x20 + 8 * b) % 64 = 0))
    && decide (1 ≤ field (w 0x40) 6 0) && decide (field (w 0x40) 6 0 ≤ 64) && decide (word32At bs 0x44 = 0)
    && (bs.drop 0x60).all (fun b => b == 0)
    && decide (rec % 64 = 0) && decide (save % 4096 = 0) && decide (save ≠ 0)

/-- Check 4 of R228: the record, save area, program and descriptor table lie in the class's windows. -/
def Mach.jobWindows (m : Mach) (c : Cls) (bs : List Byte) (rec save : Nat) : Bool :=
  m.anvilMay c false (rec, 128) && m.anvilMay c true (save, saveSize)
    && m.anvilMay c false (dwordAt bs 8 % addrMod, 64 * field (BitVec.ofNat 32 (word32At bs 0x10)) 20 0)
    && m.anvilMay c false (dwordAt bs 0x18 % addrMod, 64 * field (BitVec.ofNat 32 (word32At bs 0x14)) 8 0)

/-- The checks of R228 in order: an anvil whose tiles are all out of service is not ready, which check 2 answers before R9's
ST_UNIT_OUT. -/
def Mach.jobCheck (m : Mach) (c : Cls) (bs : List Byte) (rec save : Nat) (mode w7 w10 : Word) : Option Nat :=
  if m.sys.tiles = 0 then some stUnitAbsent
  else if !m.ready fnAnvil || !m.en fnAnvil then some stBadState
  else if field mode 31 2 ≠ 0 ∨ field w7 31 2 ≠ 0 ∨ w10 ≠ 0 then some stBadParam
  else if !m.jobWindows c bs rec save then some stRegion
  else if m.poisonIn rec 128 then some stMemPoison
  else if !jobRecordOk bs rec save then some stBadParam
  else if bit mode 0 && bit (BitVec.ofNat 32 (word32At bs 4)) 16 then some stVariableRefused
  else if m.tilesNow < word32At bs 0x40 % 128 then some stTilesShort
  else if 2048 ≤ m.inFlight then some stBusy
  else none

/-- The job a record describes, with the request part of its result block (R227, R300, R302). -/
def Mach.makeJob (m : Mach) (c : Cls) (op : Nat) (bs : List Byte) (save : Nat) (mode : Word) (prio : Nat) : Job :=
  let dig := dwordAt bs 0x58 % addrMod
  let usable := decide (dig % 64 = 0) && m.anvilMay c true (dig, 192) && m.anvilMay c false (dig, 192)
  let rq := m.bytes dig 0x40
  let given := decide (dig ≠ 0) && usable && decide (word32At rq 0 = 0x41565242)
  let w := BitVec.ofNat 32 (word32At rq 4)
  { id := m.anvil.nextJob
    kind := .user
    op := some op
    level := 3 + prio
    cls := c
    mode := mode
    save := save
    prog := dwordAt bs 8 % addrMod
    progLen := word32At bs 0x10 % 2097152
    descTable := dwordAt bs 0x18 % addrMod
    descCount := word32At bs 0x14 % 512
    bases := (List.range 4).map (fun b => dwordAt bs (0x20 + 8 * b) % addrMod)
    seed := BitVec.ofNat 64 (dwordAt bs 0x48)
    stepStart := BitVec.ofNat 64 (dwordAt bs 0x50)
    block := if dig ≠ 0 ∧ usable then some dig else none
    digestReq := given && bit w 0
    incl := if given then (rq.drop 0x20).take 32 else []
    stopOrd := if given && bit w 1 then some (dwordAt rq 8) else none
    digest := none
    phase := if dig ≠ 0 ∧ !usable then .ended else if given && bit w 0 then .hashing else .queued
    issued := false
    pc := 0
    loops := []
    sc := [0, BitVec.ofNat 64 (if given then dwordAt rq 0x10 else 0), BitVec.ofNat 64 (if given then dwordAt rq 0x18 else 0)]
      ++ List.replicate 29 0
    step := BitVec.ofNat 64 (dwordAt bs 0x50)
    descs := []
    planes := List.replicate 4 .unset
    seq := none
    ordDone := 0
    cycles := 0
    flags := 0
    varUsed := false
    parkedOnce := false
    nonrepro := false
    stopped := false
    tFirst := 0
    tSave := 0
    saved := false
    bridges := []
    fin := if dig ≠ 0 ∧ !usable then some ⟨stRegion, 0, 0, 0⟩ else none }

/-- What the reading of a job record leaves where it ends the submission with a poisoned line (R209, R211). -/
def Mach.recordRead (m : Mach) (rec st : Nat) : Mach :=
  if st = stMemPoison then (m.checkRead rec 128).orReg .avArithStat fPoison else m

/-- AV_JOB_SUBMIT (R226–R228, R71). -/
def Mach.opJobSubmit (m : Mach) (rt : RTo) (c : Cls) (rec save : Nat) (mode w7 w10 : Word) : Mach :=
  let bs := m.bytes rec 128
  match m.jobCheck c bs rec save mode w7 w10 with
  | some st => (m.recordRead rec st).reply rt st []
  | none =>
    let r := m.addOp rt c
    let j := r.1.makeJob c r.2 bs save mode (field w7 1 0)
    let m : Mach := { r.1 with anvil.jobs := r.1.anvil.jobs ++ [j], anvil.nextJob := r.1.anvil.nextJob + 1 }
    if rt.tag = 0 then m else m.reply rt stAccepted []

/-! ## Disable and lost tiles (R214, R215, R550) -/

/-- Every job stops at its boundary: tagged ones are suspended, the others end with a status (R214, R215). A job whose
suspension or cancellation already stands takes it here. `tiles` is T before what stops them. -/
def Mach.stopAll (m : Mach) (status tiles : Nat) (only : Job → Bool) : Mach :=
  (m.anvil.jobs.filter (fun j => only j && decide (j.phase ≠ .ended) && decide (j.phase ≠ .suspended)
      && decide (j.kind = .user))).foldl (fun m j =>
    match j.op.bind m.opById with
    | some o =>
      if o.state = .cancelling then m.cancelJob j
      else if o.rt.tag ≠ 0 then m.suspendJob j tiles
      else m.completeJob j ⟨status, j.pc, 0, 0⟩
    | none => m) m

/-- A forecaster run starts over on the present T (R214). -/
def Job.restart (j : Job) : Job :=
  { j with issued := false, phase := .queued, pc := 0, loops := [], step := j.stepStart, planes := List.replicate 4 .unset,
           seq := none, saved := false, bridges := [], sc := [0, j.sc.getD 1 0, j.sc.getD 2 0] ++ List.replicate 29 0 }

/-- A step not completed when its superframe ends, or when the anvil stops (R340, R215). -/
def Mach.endStep (m : Mach) : Mach :=
  if m.hall.step.isSome then ({ m with hall.step := none } : Mach).bump .plStepStat 15 8 1 else m

/-- anvil_en cleared (R215, R27): every job stops, a forecaster run is discarded with what the initial encoding gave (R29), and a hall step
under way ends. -/
def Mach.anvilOff (m : Mach) : Mach :=
  let m := m.stopAll stCancelled m.tilesNow (fun _ => true)
  ({ m with
    anvil.jobs := m.anvil.jobs.filter (fun j => decide (j.kind = .user))
    fc.published := m.fc.published && m.fc.run.isNone
    fc.run := none
    fc.encoded := false } : Mach).endStep

/-- A tile fails a check (R214): it leaves service, is marked, a SEVERE fault of its source says residue or parity (R405), the job
that ran on it stops, and a forecaster run starts over. A training cycle under way starts over from the optimizer state kept at its start,
which only its end replaces (R286). -/
def Mach.tileFault (m : Mach) (t : Nat) (parity : Bool) : Mach :=
  if 64 ≤ t ∨ !m.tilesIn.testBit t then m
  else
    let r := if t < 32 then Reg.avTileMapLo else Reg.avTileMapHi
    let f := if t < 32 then Reg.avTileFailLo else Reg.avTileFailHi
    let before := m.tilesNow
    let m := (m.wr r (clearBit (m.rd r) (t % 32))).wr f (setBit (m.rd f) (t % 32))
    let m := m.raise (srcTile t) .severe (flag parity 0)
    let m := m.stopAll stTileLost before (fun j => decide (j.phase = .running))
    { m with anvil.jobs := m.anvil.jobs.map (fun j =>
        if decide (j.kind = .forecast) && (decide (j.phase = .running) || decide (j.phase = .parked)) then j.restart else j) }

/-- `AV_SCHED_STAT` (R252). -/
def Mach.schedStat (m : Mach) : Word :=
  let waiting := (m.anvil.jobs.filter (fun j =>
    decide (j.phase = .queued) || decide (j.phase = .parked) || decide (j.phase = .hashing))).length
  match m.runningJob with
  | some j => place j.level 24 ||| place (((j.op.bind m.opById).map (fun o => o.rt.tag)).getD 0) 12 ||| place waiting 0
  | none => (if m.levelOne && m.anvilOn then place 1 24 else if m.levelTwo && m.anvilOn then place 2 24 ||| place ((m.fc.train.map (·.tag)).getD 0) 12 else place 7 24) ||| place waiting 0

/-- ANVIL_PREEMPT (R243). -/
def execAnvilPreempt (s : State) : Host.Outcome State Fault Refusal := s.on Mach.preempt

/-- ANVIL_RESTORE (R243, R247). -/
def execAnvilRestore (s : State) : Host.Outcome State Fault Refusal := s.on Mach.restoreNext

/-- DIGEST_HASH_DONE (R304). -/
def execDigestHashDone (s : State) : Host.Outcome State Fault Refusal := s.on Mach.digestDone

/-- TILE_FAULT (R214). -/
def execTileFault (t : Nat) (parity : Bool) (s : State) : Host.Outcome State Fault Refusal :=
  s.on (fun m => m.tileFault t parity)

end Sys2Proof.Machine
end

