-- ==== Sys2Proof/Machine/Collector.lean ====
section
/-! DEFINITION. The fault collector and quench (R400–R426). -/

namespace Sys2Proof.Machine

/-- Whether a source exists (R405) and its unit is present (R402, R404). -/
def Mach.sourcePresent (m : Mach) (src : Nat) : Bool :=
  if src ≤ 0x0B then true
  else if 0x10 ≤ src ∧ src ≤ 0x2F then true
  else if 0x30 ≤ src ∧ src ≤ 0x3B then true
  else if 0x40 ≤ src ∧ src ≤ 0x43 then true
  else if 0x48 ≤ src ∧ src ≤ 0x4F then m.sys.stks.testBit (src - 0x48)
  else if src = 0x50 then true
  else if src = 0x58 then m.sys.tiles != 0
  else if 0x60 ≤ src ∧ src ≤ 0x8F then decide (src - 0x60 < m.sys.links)
  else if src = 0x90 then true
  else if 0xC0 ≤ src ∧ src ≤ 0xFF then m.sys.tiles.testBit (src - 0xC0)
  else false

/-- Whether a source drives a pair of a class (R405, its column Classes). -/
def sourceClass (src : Nat) (c : FCls) : Bool :=
  if src = 0x00 then c == .fatal
  else if src = 0x03 then c == .info
  else if src = 0x01 ∨ src = 0x02 ∨ src = 0x07 ∨ 0x10 ≤ src ∧ src ≤ 0x2F ∨ 0x40 ≤ src ∧ src ≤ 0x43 then true
  else if 0x30 ≤ src ∧ src ≤ 0x3B ∨ 0x48 ≤ src ∧ src ≤ 0x50 then c == .corr || c == .severe
  else if 0xC0 ≤ src then c == .severe
  else c != .fatal

/-- Whether a fault pair exists and its unit is present (R400, R402, R405). -/
def Mach.pairPresent (m : Mach) (src : Nat) (c : FCls) : Bool := m.sourcePresent src && sourceClass src c

/-- The readiness bit of the unit behind a source, where it has one (R402). -/
def sourceReadyBit (src : Nat) : Option Nat :=
  if src = 0x04 then some rdCxl
  else if src = 0x05 then some fnBellows
  else if src = 0x09 then some fnRecorder
  else if src = 0x0A then some fnDma
  else if 0x10 ≤ src ∧ src ≤ 0x3B then some fnLoop
  else if 0x40 ≤ src ∧ src ≤ 0x43 then some fnCellring
  else if 0x48 ≤ src ∧ src ≤ 0x4F then some rdLpddr
  else if src = 0x58 then some fnForecast
  else if 0x60 ≤ src ∧ src ≤ 0x90 then some fnPeer
  else if 0xC0 ≤ src then some fnAnvil
  else none

/-- Whether the collector monitors a pair (R402): it exists and its unit is present, and it has been seen complementary or its
unit has set its readiness bit. Monitoring that began goes on. -/
def Mach.monitors (m : Mach) (src : Nat) (c : FCls) : Bool :=
  m.pairPresent src c &&
    (m.fault.monitored.contains (src, c) || (match sourceReadyBit src with
      | some b => m.ready b || m.fault.readySeen.testBit b
      | none => true))

/-- A pair's fault state changed. -/
def Mach.setActive (m : Mach) (p : Nat × FCls) (on : Bool) : Mach :=
  let l := m.fault.active.filter (fun q => q != p)
  { m with fault := { m.fault with active := if on then l ++ [p] else l } }

/-- A pair's non-complementary state changed (R401). -/
def Mach.setWiring (m : Mach) (p : Nat × FCls) (on : Bool) : Mach :=
  let l := m.fault.wiring.filter (fun q => q != p)
  { m with fault := { m.fault with wiring := if on then l ++ [p] else l } }

/-- The order of R408: class, FATAL first; then source; then the order given. A sender that has changes of one reference cycle in several
commands presents them in the order of R408 (DESIGN CHOICE, notes/assumptions/83). -/
def changeBefore (a b : PairChange) : Bool :=
  decide (b.cls.code < a.cls.code) || (decide (a.cls = b.cls) && decide (a.source ≤ b.source))

/-- One change put into a list in the order of R408. -/
def insertChange (x : PairChange) : List PairChange → List PairChange
  | [] => [x]
  | y :: ys => if changeBefore y x then y :: insertChange x ys else x :: y :: ys

/-- The changes of one reference cycle in the order of R408. -/
def orderChanges (l : List PairChange) : List PairChange := l.foldl (fun acc x => insertChange x acc) []

/-- One accepted change (R403): to fault on a monitored pair, it is recorded; back to no fault, it is not. A pair that is
non-complementary or forced reports nothing (R401, R422). -/
def Mach.acceptChange (cycle : Nat) (m : Mach) (x : PairChange) : Mach :=
  let p := (x.source, x.cls)
  if !m.pairPresent x.source x.cls || m.fault.wiring.contains p || m.isForced x.source x.cls then m
  else
    let m : Mach := m.seePair p
    if !x.toFault then m.setActive p false
    else if m.fault.active.contains p then m
    else (m.setActive p true).faultAt x.source x.cls x.kind x.detail ⟨cycle, false, false⟩

/-! ## Quench -/

/-- The encoding of cause in `FC_QUENCH` (R426). -/
def QCause.code : QCause → Nat
  | .none => 0
  | .escalation => 1
  | .command => 2
  | .collector => 3

/-- `FC_QUENCH` (R426). -/
def QuenchSt.word (q : QuenchSt) : Word :=
  flag q.active 31 ||| flag q.contactorOpen 30 ||| place q.cause.code 28 ||| place (q.rel % 16) 24 |||
    place (q.source % 256) 16 ||| place (q.seq % 65536) 0

/-- A record of the list given a state. -/
def Mach.setRec (m : Mach) (seq : Nat) (st : RecState) : Mach :=
  { m with fault := { m.fault with recs := m.fault.recs.map (fun r => if r.seq == seq then { r with st := st } else r) } }

/-- The links whose role is not 0b00 (R163). -/
def Mach.role (m : Mach) (n : Nat) : Nat := m.rdField .bdStageRole (2 * n + 1) (2 * n)

/-- The links with a role. -/
def Mach.roleLinks (m : Mach) : List Nat := (List.range 12).filter (fun n => m.role n != 0)

/-- The claim word (R430). -/
def Mach.claimWord (m : Mach) : Word :=
  place (m.pair.claimNum % 256) 24 ||| flag m.pair.holding 23 ||| flag m.pair.side 22 ||| flag m.pair.releaseFlag 21

/-- A frame of twelve words with its CRC (R159). -/
def sealFrame (w0 claim : Word) (chans : List Word) (w10 : Word) : List Word :=
  let body := [w0, claim] ++ (chans.take 8 ++ List.replicate (8 - chans.length) 0) ++ [w10]
  body ++ [crc32Words body]

/-- The quench frame for link n (R414). -/
def Mach.quenchFrame (m : Mach) (n : Nat) : List Word :=
  let q := m.fault.quench
  let w2 := flag q.contactorOpen 0 ||| place q.cls.code 8 ||| place (q.source % 256) 16
  sealFrame (place 0xA5 24 ||| place (m.time.count % 256) 16 ||| place n 12) m.claimWord [w2] 0

/-- Quench frames on every link with a role (R413 step 2). -/
def Mach.sendQuenchFrames (m : Mach) : Mach :=
  m.roleLinks.foldl (fun m n =>
    { m with eng := { m.eng with links := m.eng.links.modify n (fun l => { l with tx := m.quenchFrame n }) } }) m

/-- A loop test under way aborts on a cause; the lowest code of one frame stands (R182). -/
def TestSt.running (t : TestSt) : Bool := decide (t.phase = .pre ∨ t.phase = .inject ∨ t.phase = .post)

/-- A running CAPACITY_SWEEP or BALANCE_CAMPAIGN goes toward suspended (R75). -/
def Mach.suspendCellOps (m : Mach) : Mach :=
  { m with ops := m.ops.map (fun o =>
      if decide (o.state = .running) && (o.rt.opcode == ocCapacitySweep || o.rt.opcode == ocBalanceCampaign)
      then { o with state := .suspending, changed := m.time.count } else o) }

/-- The same while quench is in force, for one that starts or resumes then (R75). -/
def Mach.quenchCellOps (m : Mach) : Mach := if m.fault.quench.active then m.suspendCellOps else m

/-- Payload of the record of quench entry or end (R526 type 0x05). -/
def Mach.quenchRecord (m : Mach) (cls : FCls) (status : Nat) : Mach :=
  m.emit evQuench cls [m.fault.quench.word, BitVec.ofNat 32 m.fault.quench.entry, BitVec.ofNat 32 status, 0]

/-- Quench enters with its cause record (R413): active, cause and entry count; the unit rules that act at entry (R75, R385);
contactor_open under R415. -/
def Mach.enterQuench (m : Mach) (cause : QCause) (r : FaultRec) : Mach :=
  let cell := decide (r.kind = kindCell) && decide (cause = .escalation)
  let m : Mach := { m with fault.quench := ⟨true, cell, cause, 0xF, r.source, r.cls, r.seq, m.time.count, false, false⟩ }
  let m : Mach := if cause = .command then m else m.setRec r.seq .causedQuench
  { m.suspendCellOps with cell.stopbal := 15 }

/-- A SEVERE or FATAL record escalates while quench is in force (R415, R417). -/
def Mach.escalateInQuench (m : Mach) (r : FaultRec) : Mach :=
  let m : Mach := m.setRec r.seq .escalated
  if r.kind = kindCell then
    { m with fault.quench.contactorOpen := true }
  else m

/-- Whether what waits for a strike falls due at the present one (R409, R412, R413). -/
def Mach.ripe (m : Mach) (r : FaultRec) : Bool := decide (r.dueAt ≤ (m.time.count : Int))

/-- The records whose timers have run out at the present strike (R410). -/
def Mach.dueRecs (m : Mach) : List FaultRec :=
  m.fault.recs.filter (fun r => decide (r.st = .pending) && decide (r.cls ≠ .info)
    && decide (r.dueAt ≤ (m.time.count : Int)))

/-- A CORR record escalates to a SEVERE record of its source, kind and detail (R410). -/
def Mach.escalateCorr (m : Mach) (r : FaultRec) : Mach :=
  (m.setRec r.seq .escalated).faultAt r.source .severe r.kind r.detail ⟨0, r.raisedFw, r.injected⟩

/-- The record of lowest seq, seq counted modulo 2^16 (R407, R413). -/
def oldestOf : List FaultRec → Option FaultRec
  | [] => none
  | r :: rs =>
    match oldestOf rs with
    | none => some r
    | some o => if (o.seq + 65536 - r.seq) % 65536 < 32768 then some r else some o

/-- The cause of a quench in force replaced (R412): a collector fault keeps quench in force, whatever release was accepted before. -/
def Mach.setQCause (m : Mach) (cause : QCause) (r : FaultRec) : Mach :=
  { m with
    fault.quench.cause := cause
    fault.quench.source := r.source
    fault.quench.seq := r.seq
    fault.quench.cls := r.cls
    fault.quench.leaving := false }

/-- A collector fault enters quench, or becomes the cause of one in force for another cause (R412). -/
def Mach.parityQuench (m : Mach) (r : FaultRec) : Mach :=
  let m : Mach := { m with fault.parity := none }
  if !m.fault.quench.active then m.enterQuench .collector r
  else if m.fault.quench.cause = .collector then m
  else (m.setRec r.seq .causedQuench).setQCause .collector r

/-- CORR records of kind cell that escalate while quench is in force open the contactors (R415). -/
def Mach.cellCorr (m : Mach) (l : List FaultRec) : Mach :=
  if m.fault.quench.active && l.any (fun r => decide (r.cls = .corr) && decide (r.kind = kindCell)) then
    { m with fault.quench.contactorOpen := true }
  else m

/-- The SEVERE and FATAL records that escalate, and a collector fault (R412, R413): the first cause enters quench, or changes one in
force; every other record goes to escalated. -/
def Mach.graveCauses (m : Mach) (grave : List FaultRec) : Mach :=
  match m.fault.parity.filter m.ripe with
  | some r => (grave.filter (fun x => x.seq != r.seq)).foldl Mach.escalateInQuench (m.parityQuench r)
  | none =>
    if m.fault.quench.active then grave.foldl Mach.escalateInQuench m
    else match oldestOf grave with
      | some r => (grave.filter (fun x => x.seq != r.seq)).foldl Mach.escalateInQuench (m.enterQuench .escalation r)
      | none => m

/-- The QUENCH commands due (R413, R417): the first enters quench where none is in force; each is answered ST_OK. -/
def Mach.commandCauses (m : Mach) : Mach :=
  let cmds := m.fault.quenchCmds.filter (fun c => m.ripe c.2)
  let m : Mach := { m with fault.quenchCmds := m.fault.quenchCmds.filter (fun c => !m.ripe c.2) }
  let m : Mach := if m.fault.quench.active then m
    else match cmds with
      | c :: _ => m.enterQuench .command c.2
      | [] => m
  cmds.foldl (fun m c => m.reply c.1 stOk []) m

/-- What the collector decides at a strike (R410, R412, R413): CORR records due escalate; then the first of collector
fault, escalation, QUENCH command enters quench, or, in force already, changes it as R412 and R417 say. What was recorded after the
strike waits for the next one. -/
def Mach.quenchCauses (m : Mach) : Mach :=
  let due := m.dueRecs
  let pushed := m.fault.pushed.filter m.ripe
  let m : Mach := { m with fault.pushed := m.fault.pushed.filter (fun r => !m.ripe r) }
  let m : Mach := (due.filter (fun r => decide (r.cls = .corr))).reverse.foldl Mach.escalateCorr m
  let own := due.filter (fun r => r.cls.grave)
  let grave := own ++ pushed.filter (fun r => r.cls.grave && !own.any (fun x => x.seq == r.seq))
  (m.graveCauses grave).commandCauses.cellCorr (due ++ pushed)

/-- The decision of a strike, with what leaves at entry: the quench frames, with contactor_open as the strike left it (R413 step 2,
R415), and the record of the entry. -/
def Mach.quenchDecide (m : Mach) : Mach :=
  let n := m.quenchCauses
  if n.fault.quench.active && !m.fault.quench.active then n.sendQuenchFrames.quenchRecord .severe 0xF else n

/-- QUENCH served (R66, R413, R417): its INFO record at once, the quench code and ST_OK at the next strike. -/
def Mach.opQuench (m : Mach) (rt : RTo) (c : Cls) : Mach :=
  let detail := place c.code 0
  let n : Mach := m.raise srcKernel .info detail
  let r := (n.fault.recs.find? (fun r => r.seq == m.fault.nextSeq)).getD
    (m.newRec srcKernel .info kindGeneral detail ⟨0, false, false⟩)
  { n with fault := { n.fault with quenchCmds := n.fault.quenchCmds ++ [(rt, r.nextStrike m.time.count)] } }

/-- FAULT_READ (R66): the record at an index of the list, 0 newest. -/
def Mach.opFaultRead (m : Mach) (rt : RTo) (i : Nat) : Mach :=
  match m.fault.recs[i]? with
  | some r => m.reply rt stOk r.words
  | none => m.reply rt stBadParam []

/-! ## Register actions -/

/-- A write of `FC_ACK` (R411). -/
def Mach.ackFault (m : Mach) (c : Cls) (v : Word) : Mach :=
  if c = .host ∨ c = .peer then m
  else { m with fault := { m.fault with recs := m.fault.recs.map (fun r =>
      if r.seq == field v 15 0 && decide (r.st = .pending) then { r with st := .acked } else r) } }

/-- A write of `FC_RAISE_DETAIL` (R404). -/
def Mach.raiseDetail (m : Mach) (c : Cls) (v : Word) : Mach :=
  if c = .host ∨ c = .peer then m.accessFault c (Reg.addr .fcRaiseDetail) else m.wr .fcRaiseDetail v

/-- A write of `FC_RAISE` (R404, R426): HOST and PEER are discarded with an INFO fault; kinds 4 and 5, kinds not used
(R406), absent units and sources outside R405 are discarded. -/
def Mach.fcRaiseWrite (m : Mach) (c : Cls) (v : Word) : Mach :=
  if c = .host ∨ c = .peer then m.accessFault c (Reg.addr .fcRaise)
  else if 4 ≤ field v 15 12 then m
  else if !m.sourcePresent (field v 7 0) then m
  else
    let t := m.take
    t.2.faultAt (field v 7 0) (FCls.ofCode (field v 9 8)) (field v 15 12) (m.rd .fcRaiseDetail)
      ⟨t.1.toNat % 1000, true, false⟩

/-- A write of `FC_RELEASE` (R418): PEER makes no request. A request waits for the next strike; one that joins a waiting request is decided
with it. -/
def Mach.releaseWrite (m : Mach) (c : Cls) (v : Word) : Mach :=
  if c = .peer then m.accessFault c (Reg.addr .fcRelease)
  else if bit v 0 then
    { m with fault := { m.fault with release := some c, relNew := m.fault.relNew || m.fault.release.isNone } }
  else m

/-- The status of a release request at this strike (R418), first matching row. -/
def Mach.releaseStatus (m : Mach) : Nat :=
  if !m.fault.quench.active then stBadState
  else if m.fault.quench.cause = .collector then stQuenchLocked
  else if (m.fault.active ++ m.fault.wiring).any (fun p => p.2.grave) then stFaultActive
  else if m.fault.recs.any (fun r => decide (r.st = .pending) && r.cls.grave) then stFaultPending
  else stOk

/-- RELEASE_DECISION (R418), of a request made before the present strike: rel_status takes the low nibble; ST_OK ends quench at the strike
after. -/
def Mach.decideRelease (m : Mach) : Mach :=
  if m.fault.release.isNone || m.fault.relNew then m
  else
    let st := m.releaseStatus
    { m with
      fault.release := none
      fault.quench.rel := st % 16
      fault.quench.leaving := m.fault.quench.leaving || decide (st = stOk)
      fault.quench.leaveNew := m.fault.quench.leaveNew || (decide (st = stOk) && !m.fault.quench.leaving) }

/-- A forced pair's entry replaced or removed (R422). -/
def Mach.setForced (m : Mach) (src : Nat) (c : FCls) (f : Option Forced) : Mach :=
  let l := m.fault.forced.filter (fun x => !(x.source == src && decide (x.cls = c)))
  { m with fault := { m.fault with forced := match f with
      | some x => l ++ [x]
      | none => l } }

/-- An injected fault record; the cycle is a free value. -/
def Mach.injectFault (m : Mach) (src : Nat) (c : FCls) (kind : Nat) : Mach :=
  let t := m.take
  t.2.faultAt src c kind 0 ⟨t.1.toNat % 1000, false, true⟩

/-- A pair forced non-complementary: recorded where the collector monitors it (R401, R402, R422). -/
def Mach.wirePair (m : Mach) (p : Nat × FCls) : Mach :=
  if !m.monitors p.1 p.2 || m.fault.wiring.contains p then m else (m.setWiring p true).injectFault p.1 p.2 kindWiring

/-- A forced pair taken out of the non-complementary state, which the collector records as it does any clearance (R401, R422). -/
def Mach.unwire (m : Mach) (p : Nat × FCls) : Mach :=
  if m.fault.wiring.contains p then (m.setWiring p false).injectFault p.1 .info kindWiring else m

/-- A forced pair released (R422): the collector takes the state the pair then reports, which the next change tells. -/
def Mach.releasePair (m : Mach) (p : Nat × FCls) : Mach := ((m.setForced p.1 p.2 none).setActive p false).unwire p

/-- A write of `FC_INJ` (R422): outside test mode discarded with an INFO fault of source 0x03; in test mode it forces the
pair it names, or releases it. -/
def Mach.injWrite (m : Mach) (c : Cls) (v : Word) : Mach :=
  let src := field v 7 0
  let fc := FCls.ofCode (field v 9 8)
  let kind := field v 15 12
  let p := (src, fc)
  if !m.fault.testMode then m.accessFault c (Reg.addr .fcInj)
  else if !m.pairPresent src fc then m
  else match field v 31 30 with
    | 0 =>
      if !m.isForced src fc then m else m.releasePair p
    | 1 =>
      let m : Mach := ((m.setForced src fc (some ⟨src, fc, 1, kind⟩)).unwire p).seePair p
      if m.fault.active.contains p then m else (m.setActive p true).injectFault src fc kind
    | 2 => (((m.setForced src fc (some ⟨src, fc, 2, kind⟩)).unwire p).seePair p).setActive p false
    | _ =>
      (m.setForced src fc (some ⟨src, fc, 3, kind⟩)).wirePair p

/-- Factory test mode ends (R421): forced pairs are released. -/
def Mach.endTestMode (m : Mach) : Mach :=
  let m : Mach := m.fault.forced.foldl (fun m f => m.releasePair (f.source, f.cls)) m
  { m with fault.testMode := false }

/-! ## The commands -/

/-- FAULT_PAIR_CHANGE: the changes accepted in one reference cycle, in the order of R408. -/
def execFaultPairChange (changes : List PairChange) (cycle : Nat) (s : State) : Host.Outcome State Fault Refusal :=
  s.on (fun m => (orderChanges changes).foldl (Mach.acceptChange cycle) m)

/-- PAIR_NONCOMPLEMENTARY (R401): a wiring fault of the pair's source and class. -/
def execPairNoncomplementary (source : Nat) (cls : FCls) (cycle : Nat) (s : State) :
    Host.Outcome State Fault Refusal :=
  s.on (fun m =>
    if !m.monitors source cls || m.fault.wiring.contains (source, cls) || m.isForced source cls then m
    else (m.setWiring (source, cls) true).faultAt source cls kindWiring 0 ⟨cycle, false, false⟩)

/-- PAIR_WIRING_CLEAR (R401): an INFO fault of kind wiring, and the pair takes the state it now reports. A fault of a higher class that it
reports is recorded before the clearance, both being of one reference cycle (R408). -/
def execPairWiringClear (source : Nat) (cls : FCls) (faulted : Bool) (kind : Nat) (detail : Word) (cycle : Nat)
    (s : State) : Host.Outcome State Fault Refusal :=
  s.on (fun m =>
    if !m.fault.wiring.contains (source, cls) || m.isForced source cls then m
    else
      let m : Mach := (m.setWiring (source, cls) false).seePair (source, cls)
      let take (m : Mach) : Mach := m.acceptChange cycle ⟨faulted, source, cls, kind, detail⟩
      let note (m : Mach) : Mach := m.faultAt source .info kindWiring 0 ⟨cycle, false, false⟩
      if cls = .info then take (note m) else note (take m))

/-- FAULT_ESCALATION: the timers that have run out at the present strike (R409, R410, R413). -/
def execFaultEscalation (s : State) : Host.Outcome State Fault Refusal := s.on Mach.quenchDecide

/-- COLLECTOR_PARITY_ERROR (R412): a FATAL fault of source 0x00, kind collector; quench follows at the next strike. -/
def execCollectorParityError (offset : Nat) (s : State) : Host.Outcome State Fault Refusal :=
  s.on (fun m =>
    let n : Mach := m.raiseKind srcCollector .fatal kindCollector (place (offset % 256) 0)
    { n with fault.parity := m.fault.parity.orElse (fun _ =>
        (n.fault.recs.find? (fun r => r.seq == m.fault.nextSeq)).map (FaultRec.nextStrike · m.time.count)) })

/-- RELEASE_DECISION. -/
def execReleaseDecision (s : State) : Host.Outcome State Fault Refusal := s.on Mach.decideRelease

/-- The word of `FC_INJ` for a mode, kind, class and source (R426). -/
def injWord (mode kind source : Nat) (cls : FCls) : Word :=
  place mode 30 ||| place (kind % 16) 12 ||| place cls.code 8 ||| place (source % 256) 0

end Sys2Proof.Machine
end

