-- ==== Sys2Proof/Machine/Bellows.lean ====
section
/-! DEFINITION. Bellows dispatch (R89–R120): the per-frame split, the shaper, the grid target, storage and strings, caps,
the brake line, coolant steps, and the fall-backs of R18 and R19. Powers are in W. -/

namespace Sys2Proof.Machine

/-! ## What dispatch reads -/

/-- The feedback of link n that arrived in the present frame, for a link with a role (R89, R161). -/
def Mach.fbNow (m : Mach) (n : Nat) : Option FeedbackIn :=
  if m.role n = 0 then none else (m.eng.links.getD n StageLinkSt.reset).now

/-- A stage is in service for dispatch: its feedback arrived in the present frame and it reports no fault (R91, R162). -/
def Mach.stageOk (m : Mach) (n : Nat) : Bool := (m.fbNow n).any (fun f => f.fault == 0)

/-- The PFC stages in service (R91). -/
def Mach.pfcStages (m : Mach) : List Nat := (List.range 12).filter (fun n => m.role n == 1 && m.stageOk n)

/-- D (R89): output power of the stages with a role that are in service. -/
def Mach.demandNow (m : Mach) : Int :=
  isum (((List.range 12).filter m.stageOk).map (fun n => (m.fbNow n).elim 0 FeedbackIn.outW))

/-- The rating in W of the clamp stages in service, as their feedback reports it (R104). -/
def Mach.clampRating (m : Mach) : Nat :=
  nsum (((List.range 12).filter (fun n => m.role n == 3 && m.stageOk n)).map (fun n => (m.fbNow n).elim 0 FeedbackIn.clampW))

/-- Gm (R89): input power of the PFC stages in service. -/
def Mach.gridNow (m : Mach) : Int := isum (m.pfcStages.map (fun n => (m.fbNow n).elim 0 FeedbackIn.inW))

/-- The stage link of a string (R120); none for 0xF. -/
def Mach.stringLink (m : Mach) (s : Nat) : Option Nat :=
  let n := m.rdField .bdStringMap (4 * s + 3) (4 * s)
  if n < 12 then some n else none

/-- Cell limits stale (R18, R103): none published, an age of 2,000 F, or the cell ring disabled (R27). -/
def Mach.limitsStale (m : Mach) : Bool :=
  !m.en fnCellring || (match m.cell.pubAt with
    | none => true
    | some p => decide (p + 2000 ≤ m.time.count))

/-- The slot entry of a string. -/
def Mach.entry (m : Mach) (s : Nat) : CellEntry := (m.cell.ports.getD s PortSt.reset).entry

/-- The string power in W that a capacity sweep sets, by port, positive when giving (R389). -/
def Mach.capsDrive (m : Mach) : Option (Nat × Int) :=
  match m.cell.caps with
  | none => none
  | some c =>
    if (m.opById c.op).any (fun o => decide (o.state ≠ .suspended)) then
      let w : Int := ((c.cur * (m.entry c.port).volt / 10 : Nat) : Int)
      some (c.port, if c.phase = 1 then 0 else if c.phase = 2 then w else -w)
    else none

/-- A string is in service (R101): its bellows stage is in service and nonzero limits are published for it, in one direction at
least (DESIGN CHOICE, notes/assumptions/66); one that a capacity sweep drives is not (R389). -/
def Mach.stringIn (m : Mach) (s : Nat) : Bool :=
  match m.stringLink s with
  | none => false
  | some n =>
    decide (m.role n = 2) && m.stageOk n && !m.limitsStale && (m.entry s).pub.isSome
      && (decide ((m.entry s).dis ≠ 0) || decide ((m.entry s).chg ≠ 0)) && m.capsDrive.all (fun c => c.1 != s)

/-- Availability in one direction (R101): limit in 0.1 A, voltage in V, distance to the reserve edge in 0.1 %. -/
def availPower (lim volt plim : Nat) (room : Int) : Int :=
  let t := clampInt (tdiv (room * 1000) 20) 0 1000
  tdiv ((min (lim * volt / 10) plim : Nat) * t) 1000

/-- dis[s] (R101). -/
def Mach.disOf (m : Mach) (s : Nat) : Int :=
  if m.stringIn s then
    let e := m.entry s
    availPower (min (m.rdField .bdStringIlim 15 0) e.dis) e.volt (m.rd .bdBellowsPlim).toNat
      ((e.soe : Int) - (m.rdField .bdReserve 9 0 : Nat))
  else 0

/-- chg[s] (R101). -/
def Mach.chgOf (m : Mach) (s : Nat) : Int :=
  if m.stringIn s then
    let e := m.entry s
    availPower (min (m.rdField .bdStringIlim 31 16) e.chg) e.volt (m.rd .bdBellowsPlim).toNat
      ((m.rdField .bdReserve 25 16 : Nat) - (e.soe : Int))
  else 0

/-- DIS (R90). -/
def Mach.disAvail (m : Mach) : Int := isum ((List.range 4).map m.disOf)

/-- CHG (R90). -/
def Mach.chgAvail (m : Mach) : Int := isum ((List.range 4).map m.chgOf)

/-- Usable energy of the strings in service, in J (R105). -/
def Mach.energyIn (m : Mach) : Int :=
  isum ((List.range 4).map (fun s => if m.stringIn s then ((m.entry s).energy : Int) else 0))

/-- The shelf SoE: the mean weighted by usable energy, the fraction of 0.1 % dropped (DESIGN CHOICE, notes/assumptions/66); undefined
with no string in service (R90). -/
def Mach.shelfSoe (m : Mach) : Option Int :=
  if m.energyIn = 0 then none
  else some (isum ((List.range 4).map (fun s =>
    if m.stringIn s then ((m.entry s).soe : Int) * (m.entry s).energy else 0)) / m.energyIn)

/-- The forecast record that dispatch may use: ready and of age at most 20 F (R18). -/
def Mach.freshForecast (m : Mach) : Option FcRec :=
  match m.fc.pub with
  | some r => if m.ready fnForecast && decide (m.time.count ≤ r.pub + 20) then some r else none
  | none => none

/-- fc[j] (R256): the point that lies j frames after the present one. -/
def Mach.fcAt (m : Mach) (r : FcRec) (j : Nat) : Int := r.points.getD (m.time.count - r.pub + j) 0

/-- fc_mean (R256). -/
def Mach.fcMean (m : Mach) (r : FcRec) : Int :=
  tdiv (isum ((r.points.drop (m.time.count - r.pub + 1)).take 5000)) 5000

/-- G in W, rounded to nearest (R120). -/
def wattOf (g : Int) : Int := roundHalfAway g 1000000

/-- The factor of a coolant step in percent (R113). -/
def coolFactor (step : Nat) : Nat := if step = 0 then 100 else if step = 1 then 80 else if step = 2 then 50 else 20

/-- cap_safety (R89). -/
def Mach.capSafety (m : Mach) : Nat := (m.rd .bdShelfLimit).toNat * coolFactor m.bel.snap.coolantStep / 100

/-- The rack share of the rack cap (R99); none without a cap. -/
def Mach.rackShare (m : Mach) : Option Nat :=
  if m.bel.rackCap = 0xFFFFFFFF then none else some (m.bel.rackCap.toNat / m.rdField .bdTrays 22 20)

/-- cap_shelf (R89). -/
def Mach.capShelf (m : Mach) : Nat := m.rackShare.elim m.capSafety (min m.capSafety)

/-- The band in force: [0, `BD_RATING`] until a master's band applies (R97). -/
def Mach.band (m : Mach) : Int × Int :=
  if m.bel.snap.bandAge.isNone then (0, ((m.rd .bdRating).toNat : Int)) else (m.bel.bandLo, m.bel.bandHi)

/-- band_stale (R18, R97). -/
def Mach.bandStale (m : Mach) : Bool := m.bel.snap.bandAge.any (fun a => decide (300 < a))

/-! ## The shaper (R92) -/

/-- One shaper step: G in µW, V in mW/s, target in W, the limits of `BD_RAMP` and the rating. -/
def shaperStep (g v gt : Int) (ramp accel rating : Nat) : Int × Int :=
  let r : Int := (ramp * rating / 10 : Nat)
  let a : Int := (accel * rating / 10 : Nat)
  let dv := tdiv a 100000
  let e := tdiv (gt * 1000000 - g) 1000
  let vd := signInt e * min r (isqrt (2 * a.natAbs * e.natAbs) : Nat)
  let v' := v + clampInt (vd - v) (-dv) dv
  let g' := g + roundHalfAway v' 100
  if (e.natAbs : Int) ≤ 1000 ∧ (v'.natAbs : Int) ≤ dv then (gt * 1000000, 0) else (g', v')

/-! ## Policy -/

/-- The selected policy (R95). -/
def Mach.policy (m : Mach) : Nat := m.rdField .bdPolicy 1 0

/-- The effective policy of a frame (R18, R19, R95, R118). The five forecasts of R19 gate PREDICTIVE however it is entered: forecasts are
counted under every policy, and a commit that selects PREDICTIVE with fewer than five counted gives NONPREDICTIVE until the fifth (R95 leaves
open whether that gate holds for a commit; DESIGN CHOICE, notes/assumptions/82). -/
def Mach.effective (m : Mach) : Nat :=
  if m.policy ≠ 0 then m.policy
  else if (m.bel.snap.effPolicy = 0 ∨ 5 ≤ m.bel.snap.freshRun) ∧ m.freshForecast.isSome = true then 0
  else 1

/-! ## Pre-positioning (R105) -/

/-- The running sum and its extremes over the horizon, in units of 10 µJ. -/
def horizon (gw : Int) : List Int → Int × Int × Int → Int × Int × Int
  | [], x => x
  | p :: ps, (e, hi, lo) =>
    let e' := e + p - gw
    horizon gw ps (e', max hi e', min lo e')

/-- soe_pp and preposition_short from a published record (R105). -/
def Mach.preposition (m : Mach) (r : FcRec) : Int × Bool :=
  let tgt : Int := m.bel.soeTgt
  let eu := m.energyIn
  if eu = 0 then (tgt, false)
  else
    let h := horizon (wattOf m.bel.snap.g) ((r.points.drop (m.time.count - r.pub + 1)).take 5000) (0, 0, 0)
    let lo := (m.rdField .bdReserve 9 0 : Nat) + tdiv (h.2.1 * 1000) (eu * 100000)
    let hi := (m.rdField .bdReserve 25 16 : Nat) + tdiv (h.2.2 * 1000) (eu * 100000)
    if lo > hi then (lo, true) else (clampInt tgt lo hi, false)

/-! ## The brake (R108–R111) and the caps (R106, R107) -/

/-- The trays the module serves, by number (R99). -/
def Mach.served (m : Mach) : List Nat :=
  (List.range (m.rdField .bdTrays 14 8)).map (fun t => m.rdField .bdTrays 6 0 + t)

/-- A tray of the rack. -/
def Mach.tray (m : Mach) (n : Nat) : TraySt := m.bel.trays.getD (n - 1) TraySt.reset

/-- A tray changed. -/
def Mach.setTray (m : Mach) (n : Nat) (f : TraySt → TraySt) : Mach :=
  { m with bel.trays := m.bel.trays.modify (n - 1) f }

/-- What a tray counts in the release condition (R107): its last report, or, older than 200 F, the cap last sent (the cap
decided while none was sent). -/
def Mach.releaseDraw (m : Mach) (i n : Nat) : Nat :=
  let t := m.tray n
  if t.heardAt.any (fun c => decide ((m.time.count : Int) ≤ c + 200)) then t.release
  else t.sent.getD (m.bel.snap.trayCaps.getD i 4294967295)

/-- The caps decided in a frame (R106); the G of a brake bound is the one before the frame's shaper step (DESIGN CHOICE,
notes/assumptions/66). -/
def Mach.decideCaps (m : Mach) : List Nat :=
  let n := m.rdField .bdTrays 14 8
  let share := m.capShelf / n
  let num : Int := 100 * (wattOf m.bel.snap.g + m.disAvail) - 2 * ((m.rd .bdRating).toNat : Int)
  let bound : Nat := (num / (100 * (n : Int))).toNat
  (m.served.map (fun t =>
    let c := min (m.tray t).host.toNat share
    if m.bel.brakeOn then min c bound else c)) ++ List.replicate (16 - n) 4294967295

/-- The brake request of a frame (R108, R110): D, the new G in W, DIS, and the run of frames above cap_safety. Answers
the request and the conditions of R108. -/
def Mach.brakeRule (m : Mach) (d g dis : Int) (overN : Nat) : Bool × Nat :=
  let c1 := decide (dis < d - g)
  let c2 := decide (1000 ≤ overN)
  let cond := natOfBits ((if c1 then [0] else []) ++ (if c2 then [1] else []))
  if !m.bel.snap.brakeReq then (c1 || c2, cond)
  else
    let rel : Int := nsum (m.served.mapIdx (fun i n => m.releaseDraw i n))
    let lim := min (g + dis) (m.capSafety : Int)
    let held := m.bel.brakeOn && decide (m.rdField .bdBrakeCfg 15 0 ≤ m.bel.snap.brakeHold)
    (!(held && decide (100 * rel ≤ 100 * lim - 2 * ((m.rd .bdRating).toNat : Int)) && !c1), cond)

/-! ## The split of storage over the strings (R102) -/

/-- The share of each string: in proportion to its availability in the direction of S, the remainder to the first with
any. -/
def splitStrings (s : Int) (avail : List Int) : List Int :=
  let tot := isum avail
  if s = 0 ∨ tot = 0 then avail.map (fun _ => 0)
  else
    let parts := avail.map (fun a => tdiv (s * a) tot)
    let rest := s - isum parts
    match avail.findIdx? (fun a => a != 0) with
    | some i => parts.modify i (fun x => x + rest)
    | none => parts

/-- The power of each string in a frame (R102): S split over the strings in service; a string that a capacity sweep drives gets the power of
its test current, and what is left of S, within what the others can give and take, goes to them (R389; DEDUCED, notes/assumptions/90). -/
def Mach.stringParts (m : Mach) (s dis chg : Int) : List Int :=
  let share (s : Int) : List Int := splitStrings s (if s > 0 then (List.range 4).map m.disOf else (List.range 4).map m.chgOf)
  match m.capsDrive with
  | some c => (share (clampInt (s - c.2) (-chg) dis)).set c.1 c.2
  | none => share s

/-! ## R21 -/

/-- The current limits of a string from the cell ring, discharge and charge: 0 A while they are stale (R18, R27). -/
def Mach.cellIlim (m : Mach) (s : Nat) : Nat × Nat :=
  if m.limitsStale then (0, 0) else ((m.entry s).dis, (m.entry s).chg)

/-- A cell limit prevails over a host current limit of a mapped string (R101). -/
def Mach.ilimUnmet (m : Mach) (s : Nat) : Bool :=
  (m.stringLink s).isSome
    && (decide ((m.cellIlim s).1 < m.rdField .bdStringIlim 15 0) || decide ((m.cellIlim s).2 < m.rdField .bdStringIlim 31 16))

/-- A cell limit of 0 A bars a mapped string from a direction that the reserve band leaves open. -/
def Mach.bandUnmet (m : Mach) (s : Nat) : Bool :=
  (m.stringLink s).isSome
    && ((decide ((m.cellIlim s).1 = 0) && decide (m.rdField .bdReserve 9 0 < (m.entry s).soe))
      || (decide ((m.cellIlim s).2 = 0) && decide ((m.entry s).soe < m.rdField .bdReserve 25 16)))

/-- The served trays whose host cap lies above their share of a cap_safety that prevails (R106). -/
def Mach.traysUnmet (m : Mach) : List Nat :=
  if m.capShelf < m.capSafety then []
  else m.served.filter (fun t => (m.tray t).host != 0xFFFFFFFF
    && decide (m.capSafety / m.rdField .bdTrays 14 8 < (m.tray t).host.toNat))

/-- A unit of a running campaign above t_derate: its cells are not selected (R384, R385). -/
def Mach.spreadUnmet (m : Mach) : Bool :=
  m.cell.camp.any (fun c => (List.range 4).any (fun p => c.strings.testBit p
    && (m.cell.ports.getD p PortSt.reset).units.any (fun u => u.temps.any (fun t => decide (sfield (m.rd .crTemp) 15 8 < t)))))

/-- The per-shelf limit that the active plan gives the module's shelf lies above cap_safety (R341). -/
def Mach.planUnmet (m : Mach) : Bool :=
  m.plan.any (fun p => p.shelves.any (fun e => e.pos / 2 == m.sys.position / 2 && decide (m.capSafety < 1000 * e.limit)))

/-- The host-set limits a safety limit prevails over in this frame: the codes of R557 with the tray below them (DEDUCED,
notes/assumptions/12). `surplus` says that G − D exceeds CHG by more than the clamp stages take (R104), `cut` that cap_safety or a
full charge side lowers the target of the policy. -/
def Mach.limitsUnmet (m : Mach) (surplus cut : Bool) : List Nat :=
  let code (c : Nat) (b : Bool) : List Nat := if b then [256 * c] else []
  code 0x10 surplus ++ code 0x11 surplus ++ code 0x12 (m.rackShare.any (fun r => decide (m.capSafety < r)))
    ++ m.traysUnmet.map (fun t => 256 * 0x13 + t % 128) ++ code 0x14 cut ++ code 0x15 ((List.range 4).any m.bandUnmet)
    ++ code 0x16 ((List.range 4).any m.ilimUnmet) ++ code 0x17 m.spreadUnmet ++ code 0x18 m.planUnmet

/-- The INFO faults of R21 at each change between met and not met: first what is met again. -/
def Mach.noteLimits (m : Mach) (now : List Nat) : Mach :=
  let old := m.bel.unmet
  let m : Mach := (old.filter (fun c => !now.contains c)).foldl (fun m c => m.raise srcBellows .info (BitVec.ofNat 32 c)) m
  let m : Mach := (now.filter (fun c => !old.contains c)).foldl (fun m c =>
    m.raise srcBellows .info (BitVec.ofNat 32 c ||| flag true 16)) m
  { m with bel.unmet := now }

/-- The record of a string that goes from giving to taking or back (R23, R526 type 0x07); `moved` keeps each string's last
direction, 1 giving, 2 taking. -/
def Mach.noteStrings (m : Mach) (parts : List Int) : Mach :=
  (List.range 4).foldl (fun m s =>
    let x := parts.getD s 0
    let now := if x > 0 then 1 else if x < 0 then 2 else 0
    let was := m.bel.moved.getD s 0
    if now = 0 then m
    else
      let m : Mach := if was ≠ 0 ∧ was ≠ now then m.emit evPlacement .info [0, BitVec.ofNat 32 s, BitVec.ofNat 32 now, 0] else m
      { m with bel.moved := m.bel.moved.set s now }) m

/-! ## The frame -/

/-- The record of the effective policy (R119, R526 type 0x06, subtype 3) with D, G and DIS. -/
def Mach.policyRecord (m : Mach) (eff : Nat) (d g dis : Int) : Mach :=
  m.emit evBellows .info [place 3 0 ||| place eff 16, wordOfInt d, wordOfInt g, wordOfInt dis]

/-- The record of the brake (R109, R119, R526 type 0x06, subtype 1): its condition, asserted or released, and D, G and DIS. -/
def Mach.brakeRecord (m : Mach) (on : Bool) (p : SpSlot) : Mach :=
  m.emit evBellows .info [place 1 0 ||| place p.brakeCond 8 ||| flag on 10, wordOfInt p.d, wordOfInt p.g, wordOfInt p.dis]

/-- Dispatch starts (R118): G = Gm, V = 0, and the effective policy, a change of which is recorded (R119). -/
def Mach.dispatchStart (m : Mach) (gm : Int) : Mach :=
  let eff := if m.policy = 0 then 1 else m.policy
  let m : Mach := if eff = m.bel.snap.effPolicy then m else m.policyRecord eff m.demandNow gm m.disAvail
  { m with
    bel.started := true
    bel.startAt := m.time.count
    bel.demand := []
    bel.demandSum := 0
    bel.gHold := gm
    bel.snap.g := gm * 1000000
    bel.snap.v := 0
    bel.snap.freshRun := 0
    bel.snap.effPolicy := eff }

/-- Dispatch stops (R27, R118): shaper state discarded, no set-points, no caps, brake released, with its record where the holder drove
it (R119). The loop engine goes on to miss set-points (R18). -/
def Mach.dispatchOff (m : Mach) : Mach :=
  let m : Mach := if m.bel.brakeOn && m.pair.holding then m.brakeRecord false m.bel.spPub else m
  let m : Mach := m.wr .bdStat (putBit (m.rd .bdStat) 4 false)
  { m with
    bel.started := false
    bel.spIdle := none
    bel.stat := []
    bel.brakeOn := false
    bel.brakeFault := false
    bel.overRun := 0
    bel.snap.g := 0
    bel.snap.v := 0
    bel.snap.brakeReq := false
    bel.snap.brakeHold := 0 }

/-- The demand of a frame joins the window of 5,000 (R90). -/
def Mach.pushDemand (m : Mach) (d : Int) : Mach :=
  let old := if m.bel.demand.length < 5000 then 0 else m.bel.demand.getD 4999 0
  { m with
    bel.demand := d :: m.bel.demand.take 4999
    bel.demandSum := m.bel.demandSum + d - old }

/-- The policy of a frame takes effect, with its record (R95, R119), and HOLD latches G. -/
def Mach.enterPolicy (m : Mach) (d dis : Int) : Mach :=
  let eff := m.effective
  let m : Mach := if m.freshForecast.isSome then m else { m with bel.snap.freshRun := 0 }
  if eff = m.bel.snap.effPolicy then m
  else
    let g := wattOf m.bel.snap.g
    let m : Mach := if eff = 2 then { m with bel.gHold := g } else m
    ({ m with bel.snap.effPolicy := eff } : Mach).policyRecord eff d g dis

/-- base + corr of R90 before the band clamp (R90, R95, R104), which the superframe report carries as want (R338). -/
def Mach.want (m : Mach) : Int :=
  let corrTo (t : Int) : Int := m.shelfSoe.elim 0 (fun x => ((m.rd .bdSoeGain).toNat : Int) * (t - x))
  match m.bel.snap.effPolicy, m.freshForecast with
  | 0, some r => m.fcMean r + corrTo m.bel.snap.soePp
  | 2, _ => m.bel.gHold
  | _, _ => tdiv m.bel.demandSum (m.bel.demand.length : Nat) + corrTo m.bel.soeTgt

/-- The grid target before the shaper (R90, R91, R95, R97, R104): base and correction, band, caps, charge side. Answers
G*, whether cap_shelf limits it, and whether a safety limit cuts the policy's target: cap_safety, or a full charge side whose surplus is
beyond the clamp rating (R104). -/
def Mach.gridTarget (m : Mach) (d chg : Int) : Int × Bool × Bool :=
  let raw : Int := m.want
  let gt := clampInt raw m.band.1 m.band.2
  let rating : Int := (m.rd .bdRating).toNat
  let cap : Int := m.capShelf
  let limited := decide (cap < gt) && decide (cap ≤ rating)
  let full := decide (chg < wattOf m.bel.snap.g - d)
  let gt' := min (min gt cap) rating
  let gt'' := if full then min gt' (d + chg) else gt'
  (if m.pfcStages.isEmpty then 0 else gt'', limited, (limited && m.capShelf == m.capSafety)
    || (decide (gt'' < gt') && decide ((m.clampRating : Int) < wattOf m.bel.snap.g - d - chg)))

/-- A string's status word (R120): its power in 0.1 kW, truncated toward zero (DESIGN CHOICE, notes/assumptions/66). The spec does not say
whether the measured or the commanded power is meant; the model shows the commanded share of S, as giving and taking do (DESIGN CHOICE,
notes/assumptions/82). -/
def Mach.stringWord (m : Mach) (parts : List Int) (s : Nat) : Word :=
  place ((tdiv (parts.getD s 0) 100 % 65536).toNat) 16 ||| flag (m.stringIn s) 10 ||| place ((m.entry s).soe % 1024) 0

/-- The status registers that the next strike publishes (R120). `follow` is Gm − G with the G before the frame's shaper step, V is rounded
half away from zero to W/s, and a shelf SoE that is undefined shows as 0 (DESIGN CHOICE, notes/assumptions/66). -/
def Mach.statusOf (m : Mach) (d gm gt s dis chg follow : Int) (parts : List Int) (limited : Bool) : List (Nat × Word) :=
  let g := wattOf m.bel.snap.g
  let bits (p : Int → Bool) : Nat := natOfBits ((List.range 4).filter (fun i => p (parts.getD i 0)))
  let stat := place (bits (fun x => decide (x < 0))) 28 ||| place (bits (fun x => decide (x > 0))) 24 |||
    place m.bel.snap.coolantStep 16 ||| flag m.pair.holding 10 |||
    flag (decide (g < m.band.1) || decide (m.band.2 < g)) 9 ||| flag m.bel.short 8 ||| flag limited 7 |||
    flag (!m.bel.unmet.isEmpty) 6 ||| flag m.bel.snap.brakeReq 4 ||| flag m.bandStale 3 |||
    flag m.freshForecast.isNone 2 ||| place m.bel.snap.effPolicy 0
  [(Reg.addr .bdStat, stat), (Reg.addr .bdDemand, wordOfInt d), (Reg.addr .bdGrid, wordOfInt g),
   (Reg.addr .bdGridVel, wordOfInt (roundHalfAway m.bel.snap.v 1000)), (Reg.addr .bdGridTarget, wordOfInt gt),
   (Reg.addr .bdGridMeas, wordOfInt gm), (Reg.addr .bdFollowErr, wordOfInt follow), (Reg.addr .bdStorage, wordOfInt s),
   (Reg.addr .bdDisAvail, wordOfInt dis), (Reg.addr .bdChgAvail, wordOfInt chg),
   (Reg.addr .bdCapShelf, BitVec.ofNat 32 m.capShelf), (Reg.addr .bdBandLo, wordOfInt m.band.1),
   (Reg.addr .bdBandHi, wordOfInt m.band.2),
   (Reg.addr .bdSoe, place (m.bel.snap.soePp % 1024) 16 ||| place ((m.shelfSoe.getD 0).toNat % 1024) 0)]
    ++ (List.range 4).map (fun i => (Reg.addr (.bdString i), m.stringWord parts i))
    ++ (List.range 16).map (fun i => (Reg.addr (.bdTrayCap i), BitVec.ofNat 32 (m.bel.snap.trayCaps.getD i 4294967295)))

/-- The set-points of the stages (R91, R102): G shared by the PFC stages in service, each string's share at its link. -/
def Mach.stageSetpoints (m : Mach) (g : Int) (parts : List Int) : List Int :=
  let pfc := m.pfcStages
  (List.range 12).map (fun n =>
    if pfc.contains n then tdiv g (pfc.length : Nat)
    else isum ((List.range 4).map (fun s => if m.stringLink s = some n then parts.getD s 0 else 0)))

/-- In quench the shaper stands at the measured grid power (R116). -/
def Mach.holdShaper (m : Mach) (gm : Int) : Mach := { m with bel.snap.g := gm * 1000000, bel.snap.v := 0 }

/-- The dispatch window of a frame (R90, R105, R108); `late` when the set-points are not complete by +4.0 µs (R32). -/
def Mach.dispatchFrame (m : Mach) (late : Bool) : Mach :=
  let d := m.demandNow
  let gm := m.gridNow
  if !m.ready fnBellows then { m.dispatchOff with bel.d := d, bel.gm := gm, bel.want := m.want }
  else
    let m : Mach := if m.bel.started then m else m.dispatchStart gm
    let quench := m.fault.quench.active
    let m : Mach := if quench then m.holdShaper gm else m
    let m : Mach := { m.pushDemand d with bel.d := d, bel.gm := gm }
    let dis := m.disAvail
    let chg := m.chgAvail
    let m : Mach := m.enterPolicy d dis
    let m : Mach :=
      match m.freshForecast with
      | some r =>
        if m.bel.snap.effPolicy ≠ 0 ∨ bit (m.rd .bdPolicy) 16 = false then
          { m with bel.snap.soePp := m.bel.soeTgt, bel.short := false }
        else if r.pub = m.time.count then
          let p := m.preposition r
          { m with bel.snap.soePp := p.1.toNat, bel.short := p.2 }
        else m
      | none => { m with bel.snap.soePp := m.bel.soeTgt, bel.short := false }
    let was := wattOf m.bel.snap.g
    let t := m.gridTarget d chg
    let gt := t.1
    let overN := if (m.capSafety : Int) < d then satAdd m.bel.overRun 1 1000 else 0
    let m : Mach := { m with bel.overRun := overN, bel.want := m.want }
    if quench then
      { m with bel.stat := m.statusOf d gm gt 0 dis chg (gm - was) [] t.2.1 }
    else
      let m : Mach := m.noteLimits (m.limitsUnmet (decide ((m.clampRating : Int) < was - d - chg)) t.2.2)
      let ramp := m.rd .bdRamp
      let gv := shaperStep m.bel.snap.g m.bel.snap.v gt (field ramp 15 0) (field ramp 31 16) (m.rd .bdRating).toNat
      let caps := m.decideCaps
      let m : Mach := { m with bel.snap.g := gv.1, bel.snap.v := gv.2, bel.snap.trayCaps := caps }
      let g := wattOf gv.1
      let dff := match m.bel.snap.effPolicy, m.freshForecast with
        | 0, some r => m.fcAt r 1
        | _, _ => d
      let s := clampInt (dff - g) (-chg) dis
      let parts := m.stringParts s dis chg
      let b := m.brakeRule d g dis overN
      let m : Mach := { m with bel.snap.brakeReq := b.1 }
      let slot : SpSlot := ⟨m.bel.vref, s, g, d, dis, m.stageSetpoints g parts, b.1, b.2⟩
      let m : Mach := m.noteStrings parts
      { m with
        bel.spIdle := if late then none else some slot
        bel.stat := if late then [] else m.statusOf d gm gt s dis chg (gm - was) parts t.2.1 }

/-! ## Coolant steps (R113) -/

/-- Whether the condition of a step holds, flow in 0.01 L/min and inlet in 0.1 °C. -/
def coolHolds (step flow : Nat) (inlet : Int) : Bool :=
  if step = 0 then decide (120 ≤ flow) && decide (inlet ≤ 400)
  else if step = 1 then decide (120 ≤ flow) && decide (400 < inlet) && decide (inlet ≤ 450)
  else if step = 2 then (decide (60 ≤ flow) && decide (flow < 120)) || decide (450 < inlet)
  else decide (flow < 60)

/-- The worst step whose condition holds. -/
def coolStepOf (flow : Nat) (inlet : Int) : Nat :=
  if coolHolds 3 flow inlet then 3 else if coolHolds 2 flow inlet then 2 else if coolHolds 1 flow inlet then 1 else 0

/-- The step after a frame's measurement: the worst step whose condition held for 100 F, else the best one whose
condition, with the margin, held for 500,000 F. -/
def coolNext (cur : Nat) (up down : List Nat) : Nat :=
  match ((List.range 4).filter (fun s => decide (cur < s) && decide (100 ≤ up.getD s 0))).getLast? with
  | some s => s
  | none =>
    match (List.range cur).find? (fun s => decide (500000 ≤ down.getD s 0)) with
    | some s => s
    | none => cur

/-- One frame of the module's own coolant measurement. -/
def Mach.coolFrame (m : Mach) (flow : Nat) (inlet : Int) : Mach :=
  let p := m.bel.snap
  let up := (List.range 4).map (fun s => if coolHolds s flow inlet then p.coolUp.getD s 0 + 1 else 0)
  let better := coolStepOf (flow - 10) (inlet + 10)
  let down := (List.range 4).map (fun s => if better ≤ s then min (p.coolDown.getD s 0 + 1) 500000 else 0)
  { m with
    bel.snap.coolUp := up.map (fun x => min x 100)
    bel.snap.coolDown := down
    bel.snap.coolOwn := coolNext p.coolOwn up down }

/-- The step that dispatch takes from the present strike on: its own, or the holder's while this module does not hold the
claim and the partner's frame arrived (R439). -/
def Mach.coolDue (m : Mach) : Nat :=
  match m.pair.coolantOverride with
  | some s => if m.pair.holding then m.bel.snap.coolOwn else s
  | none => m.bel.snap.coolOwn

/-- The record of a coolant step (R119, R526 type 0x06, subtype 2), with D, G and DIS. -/
def Mach.coolantRecord (m : Mach) (s : Nat) : Mach :=
  m.emit evBellows .info [place 2 0 ||| place s 16, wordOfInt m.bel.d, wordOfInt (wattOf m.bel.snap.g), wordOfInt m.disAvail]

/-- COOLANT_STEP_CHANGE (R113, R119). -/
def Mach.coolantChange (m : Mach) : Mach :=
  let s := m.coolDue
  if s = m.bel.snap.coolantStep then m
  else
    { m with bel.snap.coolantStep := s }.coolantRecord s

/-- COOLANT_STEP3_FAULT (R114): the module's own measurement stayed in step 3 for 30,000 F. -/
def Mach.coolantStep3 (m : Mach) : Mach :=
  if decide (30000 < m.bel.step3Run) && !m.bel.step3Fault then
    { m with bel.step3Fault := true }.raise srcThermal .severe 3
  else m

/-! ## The strike -/

/-- The brake at a strike that publishes a slot (R109, R110, R119). Assertions are counted and recorded by the holder,
whose shadow partner only follows (R108). -/
def Mach.brakeStrike (m : Mach) (p : SpSlot) : Mach :=
  if p.brakeReq && !m.bel.brakeOn then
    let m : Mach := { m with bel.brakeOn := true, bel.brakeFault := false, bel.snap.brakeHold := 1 }
    if m.pair.holding then
      (m.bump .bdBrakeCnt 31 0 1).brakeRecord true p
    else m
  else if !p.brakeReq && m.bel.brakeOn then
    let m : Mach := { m with bel.brakeOn := false, bel.brakeFault := false, bel.snap.brakeHold := 0 }
    if m.pair.holding then m.brakeRecord false p else m
  else if m.bel.brakeOn then { m with bel.snap.brakeHold := m.bel.snap.brakeHold + 1 }
  else m

/-- `brake_n` as this module's dispatch drives it: by the holder only, and not while the collector drives it (R108, R413). -/
def Mach.brakeDriven (m : Mach) : Bool := m.bel.brakeOn && m.pair.holding && !m.fault.quench.active

/-- Whether the `brake_n` net is low, from any source (R120): the holder's dispatch, the holder's collector in quench (R413, R443), or another
driver. -/
def Mach.brakeLow (m : Mach) : Bool := m.brakeDriven || (m.fault.quench.active && m.pair.holding) || m.bel.brakeNet

/-- The brake at the end of quench (R116, R419): the collector's driver lets go; dispatch asserts `brake_n` for a request that still stands,
which is an assertion counted and recorded as any (R109, R119), and releases it for one that does not. min_hold counts anew from this
strike (R116); that max_hold of R111 does so too is DESIGN CHOICE, notes/assumptions/82. -/
def Mach.brakeAfterQuench (m : Mach) : Mach :=
  let req := m.bel.snap.brakeReq
  let was := m.bel.brakeOn
  let m : Mach := { m with
    bel.brakeOn := req
    bel.brakeFault := m.bel.brakeFault && !req
    bel.snap.brakeHold := if req then 1 else 0 }
  if !m.pair.holding then m
  else if req then (m.bump .bdBrakeCnt 31 0 1).brakeRecord true m.bel.spPub
  else if was then m.brakeRecord false m.bel.spPub
  else m

/-- Quench ends (R419), not in the frame of its decision: active and contactor_open clear, the loops restart (R148), and dispatch goes on
from G = Gm and V = 0 (R116). -/
def Mach.endQuench (m : Mach) : Mach :=
  if m.fault.quench.active && m.fault.quench.leaving && !m.fault.quench.leaveNew then
    let m : Mach := { m with
      fault.quench.active := false
      fault.quench.contactorOpen := false
      fault.quench.leaving := false
      bel.snap.g := m.bel.gm * 1000000
      bel.snap.v := 0
      eng.loops := m.eng.loops.map (fun l => if l.started then { l with restart := true } else l) }
    (m.quenchRecord .info 0).brakeAfterQuench
  else m

/-- Host values published at a strike (R64, R98, R99). -/
def Mach.publishHost (m : Mach) : Mach :=
  let b := m.bel
  let m : Mach := match b.vrefNext with
    | some v => { m.wr .bdSpBusVref (BitVec.ofNat 32 v) with bel.vref := v, bel.vrefNext := none }
    | none => m
  let m : Mach := match b.soeNext with
    | some v => { m.wr .bdSpSoeTarget (BitVec.ofNat 32 v) with bel.soeTgt := v, bel.soeNext := none }
    | none => m
  let m : Mach := match b.rackCapNext with
    | some v => { m.wr .bdCapRack v with bel.rackCap := v, bel.rackCapNext := none }
    | none => m
  let m : Mach := b.hostNext.foldl (fun m x => m.setTray x.1 (fun t => { t with host := x.2 })) m
  { m with bel.hostNext := [] }

/-- A change of the claim where the brake stands: the new holder's dispatch asserts `brake_n`, the old one's releases it, each with its
record (R108, R117, R119). In quench the collector of the holder drives it instead (R413). -/
def Mach.brakeClaim (m : Mach) : Mach :=
  if !m.bel.brakeOn || m.fault.quench.active then m
  else if m.pair.holding then (m.bump .bdBrakeCnt 31 0 1).brakeRecord true m.bel.spPub
  else m.brakeRecord false m.bel.spPub

/-- The set-point slot at a strike (R17, R18, R174): swapped when dispatch completed it, else a miss counts while the loops are
ready. In quench nothing is published, and the shaper stands at Gm (R116). -/
def Mach.swapSetpoints (m : Mach) : Mach :=
  if m.fault.quench.active then
    let m : Mach := if m.bel.brakeOn then { m with bel.snap.brakeHold := m.bel.snap.brakeHold + 1 } else m
    ({ m with bel.spIdle := none, bel.spFresh := false } : Mach).holdShaper (if m.bel.started then m.bel.gm else 0)
  else match m.bel.spIdle with
  | some p =>
    let m : Mach := m.brakeStrike p
    { m with
      bel.spPub := { p with vref := m.bel.vref }
      bel.spIdle := none
      bel.spFresh := true
      bel.spFault := false
      bel.snap.spMiss := 0 }
  | none =>
    let m : Mach := if m.bel.brakeOn then { m with bel.snap.brakeHold := m.bel.snap.brakeHold + 1 } else m
    let m : Mach := { m with bel.spFresh := false }
    if m.ready fnLoop then { m with bel.snap.spMiss := satAdd m.bel.snap.spMiss 1 4 } else m

/-- What the strike does for dispatch: host values, the set-point slot, the status registers, ages (R17, R18, R114). -/
def Mach.bellowsStrike (m : Mach) : Mach :=
  let m : Mach := m.publishHost.swapSetpoints
  let m : Mach := m.bel.stat.foldl (fun m x => match Reg.ofAddr x.1 with
    | some r => m.wr r x.2
    | none => m) m
  let m : Mach := m.wr .bdStat (putBit (m.rd .bdStat) 5 m.brakeLow)
  { m with
    bel.stat := []
    bel.snap.bandAge := m.bel.snap.bandAge.map (fun a => satAdd a 1 255999)
    bel.step3Run := if m.bel.snap.coolOwn = 3 then satAdd m.bel.step3Run 1 30001 else 0
    bel.step3Fault := m.bel.step3Fault && decide (m.bel.snap.coolOwn = 3) }

/-- A band of the master applies at the strike that opens its superframe (R97). -/
def Mach.applyBand (m : Mach) (lo hi : Nat) : Mach :=
  { m with bel.bandLo := lo, bel.bandHi := hi, bel.snap.bandAge := some 0 }

/-- A module that leaves the domain keeps its band and marks it stale (R97). -/
def Mach.staleBand (m : Mach) : Mach := { m with bel.snap.bandAge := m.bel.snap.bandAge.map (fun a => max a 301) }

/-- A newly published forecast (R19): the run of consecutive forecasts whose age never exceeded 20 F. -/
def Mach.countForecast (m : Mach) : Mach := { m with bel.snap.freshRun := satAdd m.bel.snap.freshRun 1 5 }

/-! ## Commands of host software -/

/-- What stops a SET_POINT or SET_CAP whose parameters are right: quench, then readiness (R64, R523). -/
def Mach.setGate (m : Mach) : Option Nat :=
  if m.fault.quench.active then some stQuenched else if !m.ready fnBellows then some stBadState else none

/-- SET_POINT (R64, R98). -/
def Mach.opSetPoint (m : Mach) (rt : RTo) (target value : Nat) : Mach :=
  let vref := decide (target = 1 ∧ 760000 ≤ value ∧ value ≤ 840000)
  let soe := decide (target = 2 ∧ m.rdField .bdReserve 9 0 ≤ value ∧ value ≤ m.rdField .bdReserve 25 16)
  if !vref && !soe then m.reply rt stBadParam []
  else match m.setGate with
    | some st => m.reply rt st []
    | none =>
      if vref then { m with bel.vrefNext := some value }.reply rt stOk [] else { m with bel.soeNext := some value }.reply rt stOk []

/-- SET_CAP (R64, R99). -/
def Mach.opSetCap (m : Mach) (rt : RTo) (scope : Nat) (cap : Word) : Mach :=
  if scope != 0 && !m.served.contains scope then m.reply rt stBadParam []
  else match m.setGate with
    | some st => m.reply rt st []
    | none =>
      if scope = 0 then { m with bel.rackCapNext := some cap }.reply rt stOk []
      else { m with bel.hostNext := m.bel.hostNext ++ [(scope, cap)] }.reply rt stOk []

/-- A write of `BD_SCHED_HALL` (R100). -/
def Mach.schedWrite (m : Mach) (v : Word) : Mach :=
  { m.wr .bdSchedHall v with bel.sched := m.bel.sched ++ [((m.time.count : Int), v)] }

/-- GRID_SCHEDULE_STEP (R100): at a step's first frame, the newest entry written at least 100 F before it applies. -/
def Mach.schedStep (m : Mach) : Mach :=
  if m.time.count % 100000 ≠ 0 then m
  else
    match (m.bel.sched.filter (fun x => decide (x.1 + 100 ≤ (m.time.count : Int)))).getLast? with
    | none => m
    | some x =>
      { m.wr .bdSchedApplied x.2 with
        bel.sched := m.bel.sched.filter (fun y => decide ((m.time.count : Int) < y.1 + 100)) }

/-! ## Faults and messages -/

/-- SETPOINT_MISSING_FAULT (R18, R557): condition 0x01, once per run. -/
def Mach.setpointMissing (m : Mach) : Mach :=
  if decide (4 ≤ m.bel.snap.spMiss) && !m.bel.spFault then
    { m with bel.spFault := true }.raise srcBellows .severe (place 0x01 8)
  else m

/-- CELL_LIMITS_STALE_FAULT (R18, R557): condition 0x02, once per run, which a publication ends; a disabled cell ring raises none
(R27). -/
def Mach.limitsFault (m : Mach) : Mach :=
  match m.cell.pubAt with
  | none => m
  | some p =>
    if m.time.count < p + 2000 then m
    else if m.en fnCellring && !m.bel.limFault then
      { m with bel.limFault := true }.raise srcBellows .severe (place 0x02 8)
    else m

/-- QUENCH_END. -/
def execQuenchEnd (s : State) : Host.Outcome State Fault Refusal := s.on Mach.endQuench

/-- BRAKE_HOLD_FAULT (R111, R557): condition 0x03; the brake stays asserted. -/
def Mach.brakeHoldFault (m : Mach) : Mach :=
  if m.brakeDriven && !m.bel.brakeFault && decide (100 * m.rdField .bdBrakeCfg 31 16 < m.bel.snap.brakeHold) then
    { m with bel.brakeFault := true }.raise srcBellows .severe (place 0x03 8)
  else m

/-- Whether cap messages may leave (R106, R118). -/
def Mach.capsMaySend (m : Mach) : Bool := m.pair.holding && !m.fault.quench.active && m.ready fnBellows && m.bel.started

/-- CAP_MESSAGE_SEND (R106): caps that differ from those last sent. -/
def Mach.sendCaps (m : Mach) : Mach :=
  if !m.capsMaySend then m
  else
    (m.served.mapIdx (fun i n => (i, n))).foldl (fun m x =>
      m.setTray x.2 (fun t => { t with sent := some (m.bel.snap.trayCaps.getD x.1 4294967295) })) m

/-- CAP_MESSAGE_REPEAT (R106): every cap again, 10,000 F after the last repeat. -/
def Mach.repeatCaps (m : Mach) : Mach :=
  if m.capsMaySend && decide (m.bel.snap.lastRepeat + 10000 ≤ (m.time.count : Int)) then
    { m.sendCaps with bel.snap.lastRepeat := m.time.count }
  else m

/-- TRAY_REPORT (R107). -/
def Mach.trayReport (m : Mach) (n cap draw release : Nat) : Mach :=
  if n = 0 then m
  else m.setTray n (fun t => { t with
    cap := cap
    draw := draw
    release := release
    heardAt := some m.time.count
    missed := false })

/-- TRAY_REPORT_MISSED (R107, R557): condition 0x04, three report periods without a report, once per run. -/
def Mach.trayMissed (m : Mach) (n : Nat) : Mach :=
  let t := m.tray n
  let since := max m.bel.startAt (t.heardAt.getD m.bel.startAt)
  if m.ready fnBellows && m.bel.started && m.served.contains n && !t.missed && decide (since + 300 < m.time.count) then
    (m.setTray n (fun t => { t with missed := true })).raise srcBellows .info (place 0x04 8 ||| place n 0)
  else m

/-- BRAKE_N_NET_CHANGE (R120): another driver of the net; brake_line follows. -/
def Mach.brakeNetChange (m : Mach) (low : Bool) : Mach :=
  let m : Mach := { m with bel.brakeNet := low }
  m.wr .bdStat (putBit (m.rd .bdStat) 5 m.brakeLow)

/-! ## The commands -/

/-- SETPOINT_MISSING_FAULT. -/
def execSetpointMissingFault (s : State) : Host.Outcome State Fault Refusal := s.on Mach.setpointMissing

/-- CELL_LIMITS_STALE_FAULT. -/
def execCellLimitsStaleFault (s : State) : Host.Outcome State Fault Refusal := s.on Mach.limitsFault

/-- BRAKE_HOLD_FAULT. -/
def execBrakeHoldFault (s : State) : Host.Outcome State Fault Refusal := s.on Mach.brakeHoldFault

/-- CAP_MESSAGE_SEND. -/
def execCapMessageSend (s : State) : Host.Outcome State Fault Refusal := s.on Mach.sendCaps

/-- CAP_MESSAGE_REPEAT. -/
def execCapMessageRepeat (s : State) : Host.Outcome State Fault Refusal := s.on Mach.repeatCaps

/-- TRAY_REPORT. -/
def execTrayReport (tray cap draw release : Nat) (s : State) : Host.Outcome State Fault Refusal :=
  s.on (fun m => m.trayReport tray cap draw release)

/-- TRAY_REPORT_MISSED. -/
def execTrayReportMissed (tray : Nat) (s : State) : Host.Outcome State Fault Refusal := s.on (fun m => m.trayMissed tray)

/-- COOLANT_STEP_CHANGE. -/
def execCoolantStepChange (s : State) : Host.Outcome State Fault Refusal := s.on Mach.coolantChange

/-- COOLANT_STEP3_FAULT. -/
def execCoolantStep3Fault (s : State) : Host.Outcome State Fault Refusal := s.on Mach.coolantStep3

/-- GRID_SCHEDULE_STEP. -/
def execGridScheduleStep (s : State) : Host.Outcome State Fault Refusal := s.on Mach.schedStep

/-- BRAKE_N_NET_CHANGE. -/
def execBrakeNNetChange (low : Bool) (s : State) : Host.Outcome State Fault Refusal := s.on (fun m => m.brakeNetChange low)

end Sys2Proof.Machine
end

