-- ==== Sys2Proof/Machine/Dma.lean ====
section
/-! DEFINITION. The DMA engine's channels, request lines and credits (R454, R460–R462, R466–R475). Descriptors and bursts,
which reach the register file, stand in DmaMove. -/

namespace Sys2Proof.Machine

/-- The class a channel belongs to (R454). -/
def chClass (ch : Nat) : Cls := if ch < 16 then .host else if ch < 30 then .fw else .tk

/-- Whether a class may write a channel's registers (R454). -/
def chOwned (c : Cls) (ch : Nat) : Bool := decide (c = chClass ch ∨ c = .tk)

/-- A channel. -/
def Mach.ch (m : Mach) (n : Nat) : DmaCh := m.dma.chs.getD n DmaCh.reset

/-- A channel changed. -/
def Mach.setCh (m : Mach) (n : Nat) (f : DmaCh → DmaCh) : Mach := { m with dma.chs := m.dma.chs.modify n f }

/-- pacing of a channel (R475). -/
def Mach.pacing (m : Mach) (n : Nat) : Nat := m.rdField (.dmChCfg n) 31 30

/-- burst_log2 of a channel. -/
def Mach.burstMax (m : Mach) (n : Nat) : Nat := 2 ^ m.rdField (.dmChCfg n) 23 20

/-- req_line of a channel. -/
def Mach.reqOf (m : Mach) (n : Nat) : Nat := m.rdField (.dmChCfg n) 19 16

/-- Whether a channel is bound to a line with request-line pacing and enabled. -/
def Mach.bound (m : Mach) (n line : Nat) : Bool :=
  m.pacing n == 1 && m.reqOf n == line && (m.ch n).state != 0

/-- DMA_REQUEST_WITHDRAW (R461): a request no channel has acknowledged 1 F after it rose is withdrawn and counted in
req_lost of each channel bound to it. -/
def Mach.withdrawLine (m : Mach) (line : Nat) : Mach :=
  if m.dma.lines.any (fun l => l.line == line && l.acked.isEmpty && decide (l.since + 1 ≤ m.time.count)) then
    let lost := (List.range 32).filter (fun k => m.bound k line)
    let m : Mach := { m with dma.lines := m.dma.lines.filter (fun l => l.line != line) }
    lost.foldl (fun m k => m.bump (.dmChErr k) 23 16 1) m
  else m

/-- A source event raises a request line (R461): the request before it that no channel acknowledged within 1 F is withdrawn first; a line that
stays raised gives no second burst; one that a channel has acknowledged rises anew. -/
def Mach.reqLine (m : Mach) (line : Nat) : Mach :=
  let m := m.withdrawLine line
  if m.dma.lines.any (fun l => l.line == line && l.acked.isEmpty) then m
  else { m with dma.lines := m.dma.lines.filter (fun l => l.line != line) ++ [⟨line, m.time.count, []⟩] }

/-- A channel acknowledges its line by starting a burst; once every bound channel has, the line falls (R461). -/
def Mach.ackLine (m : Mach) (n : Nat) : Mach :=
  let line := m.reqOf n
  let rest := ((List.range 32).filter (fun k => m.bound k line))
  { m with dma.lines := (m.dma.lines.map (fun l =>
      if l.line == line then { l with acked := addOnce l.acked n } else l)).filter (fun l =>
        !(l.line == line && rest.all (fun k => l.acked.contains k))) }

/-- Whether a line is raised and a channel has not yet acknowledged it. -/
def Mach.lineFor (m : Mach) (n : Nat) : Bool :=
  m.dma.lines.any (fun l => l.line == m.reqOf n && !l.acked.contains n)

/-- DMA_CREDIT_TICK (R462): 1 µs of credit for every running rate-limited channel. -/
def Mach.creditTick (m : Mach) : Mach :=
  (List.range 32).foldl (fun m n =>
    if (m.ch n).state == 2 && m.pacing n == 2 then
      let rate := m.rdField (.dmChCfg n) 11 0
      let top := 2 * m.burstMax n
      m.setCh n (fun c => { c with credit := min (c.credit + rate * 16) top })
    else m) m

/-- A channel drops everything (R472): data lost, no write-back; done, bad and chain are undefined, so free values. -/
def Mach.dropChannel (m : Mach) (n : Nat) : Mach :=
  let old := m.ch n
  let a := m.take
  let b := a.2.take
  let c := b.2.take
  let m : Mach := ((c.2.wr (.dmChDone n) a.1).wr (.dmChBad n) b.1).wr (.dmChChain n) c.1
  m.setCh n (fun _ => { DmaCh.reset with cur := old.cur, lastStatus := old.lastStatus })

/-- A channel disabled (R472): only a channel that is not DISABLED has anything to drop. -/
def Mach.disableChannel (m : Mach) (n : Nat) : Mach := if (m.ch n).state = 0 then m else m.dropChannel n

/-- A channel enabled: IDLE, unless `dma_en` is 0 (R472). -/
def Mach.enableChannel (m : Mach) (n : Nat) : Mach :=
  if (m.ch n).state = 0 ∧ m.en fnDma then m.setCh n (fun c => { c with state := 1 }) else m

/-- A start (R471). -/
def Mach.startChannel (m : Mach) (n : Nat) : Mach :=
  let st := (m.ch n).state
  if m.en fnDma && (st == 1 || st == 3) then
    let head := addr48 (m.rd (.dmChHeadLo n)) (m.rd (.dmChHeadHi n))
    (m.wr (.dmChChain n) 0).setCh n (fun c => { DmaCh.reset with
      state := 2
      cur := head
      next := head
      lastStatus := c.lastStatus })
  else m

/-- A write of `DM_CH_CTRL_c` (R471, R472): en 0 disables, whatever start says; en 1 makes a disabled channel IDLE; start
acts on a channel that was enabled already. -/
def Mach.writeChCtrl (m : Mach) (n : Nat) (v : Word) : Mach :=
  let was := bit (m.rd (.dmChCtrl n)) 31
  let m : Mach := m.wr (.dmChCtrl n) (flag (bit v 31) 31)
  if !bit v 31 then m.disableChannel n
  else
    let m : Mach := m.enableChannel n
    if was && bit v 30 then m.startChannel n else m

/-- Whether a value of `DM_CH_CFG_c` is accepted (R471). -/
def chCfgOk (v : Word) : Bool :=
  let p := field v 31 30
  let b := field v 23 20
  p != 3 && decide (6 ≤ b) && decide (b ≤ 12) && decide (field v 19 16 ≤ 5) && !(p == 2 && field v 11 0 == 0)

/-- A write of `DM_CH_CFG_c`, `DM_CH_LIMIT_c` or a head register: only while the channel does not run (R471, R475). -/
def Mach.writeChReg (m : Mach) (n : Nat) (r : Reg) (v : Word) : Mach :=
  if (m.ch n).state = 2 then m
  else match r with
    | .dmChCfg _ => if chCfgOk v then m.wr r (v &&& r.rwMask) else m
    | .dmChLimit _ => if field v 23 0 = 0 then m else m.wr r (v &&& r.rwMask)
    | _ => m.wr r (v &&& r.rwMask)

/-- A write to a channel's register by its owner or TK, which changes nothing in one that only reads; any other class is discarded with an INFO fault (R454). -/
def Mach.writeChannel (m : Mach) (c : Cls) (n : Nat) (r : Reg) (v : Word) : Mach :=
  if !chOwned c n then m.accessFault c r.addr
  else match r with
    | .dmChCtrl _ => m.writeChCtrl n v
    | .dmChCfg _ | .dmChLimit _ | .dmChHeadLo _ | .dmChHeadHi _ => m.writeChReg n r v
    | _ => m

/-- A channel whose buffer and funnel are discarded. -/
def DmaCh.emptied (c : DmaCh) : DmaCh := { c with burst := 0, buf := [], line := [] }

/-- A descriptor marked bad (R457, R467): counted, an INFO fault naming the channel, and a SEVERE one for a parity error. The
rest of the descriptor is discarded. -/
def Mach.markBad (m : Mach) (n status : Nat) : Mach :=
  let m : Mach := (m.bump (.dmChBad n) 31 0 1).setCh n (fun c => { c.emptied with bad := status, left := 0 })
  let m := m.raise srcDma .info (place n 0)
  if status = 0x86 then m.raise srcDma .severe (place n 0) else m

/-- A channel halts with a reason and a CORR fault (R469, R470). -/
def Mach.haltChannel (m : Mach) (n reason : Nat) : Mach :=
  (m.setCh n (fun c => { c.emptied with state := 3, halt := reason, desc := [], fence := false })).raise srcDma .corr (place n 0)

/-- Whether a channel has a descriptor whose data is not all moved. -/
def DmaCh.moving (c : DmaCh) : Bool := c.state == 2 && !c.desc.isEmpty && c.bad == 0 && c.left != 0 && !c.fence

/-- DMA_TARGET_TIMEOUT (R467): a data access of the descriptor in progress had no answer within 8 µs. Whether it was a write, which the
next fence reports (R466), is a free value (notes/assumptions/3). While a fence waits, it is a write, or the read that proves its arrival,
that timed out. -/
def Mach.dmaTimeout (m : Mach) (n : Nat) : Mach :=
  let c := m.ch n
  if c.moving then
    let t := m.take
    (t.2.setCh n (fun c => { c with failed := c.failed || bit t.1 0 })).markBad n 0x82
  else if c.state == 2 && c.fence then m.setCh n (fun c => { c with failed := true })
  else m

/-! ## Arbitration (R460–R463) -/

/-- Whether a channel has a burst in progress. -/
def DmaCh.inBurst (c : DmaCh) : Bool := c.state == 2 && (c.burst != 0 || !c.buf.isEmpty)

/-- The length of a channel's next burst: what its descriptor has still to read, up to 2^burst_log2. -/
def Mach.burstLen (m : Mach) (n : Nat) : Nat := min (m.burstMax n) ((m.ch n).left - (m.ch n).line.length)

/-- Whether a channel may start a burst (R460–R462). -/
def Mach.burstReady (m : Mach) (n : Nat) : Bool :=
  (m.ch n).moving && !(m.ch n).inBurst &&
    (match m.pacing n with
     | 0 => true
     | 1 => m.lineFor n
     | 2 => decide (m.burstLen n ≤ (m.ch n).credit)
     | _ => false)

/-- The channel that the next beat serves (R463): one of the lowest priority number that is ready; at that number the burst in progress, else
round-robin from the channel that last started a burst. -/
def Mach.burstPick (m : Mach) : Option Nat :=
  let order := (List.range 32).map (fun i => (m.dma.last + 1 + i) % 32)
  let prio (n : Nat) := m.rdField (.dmChCfg n) 29 28
  let going := order.filter (fun n => (m.ch n).inBurst)
  let ready := order.filter m.burstReady
  [0, 1, 2, 3].findSome? (fun p =>
    match going.find? (fun n => prio n == p) with
    | some n => some n
    | none => ready.find? (fun n => prio n == p))

/-- Whether pre-emption holds a burst of a channel (R475). -/
def Mach.preempted (m : Mach) (n : Nat) : Bool := (m.ch n).inBurst && m.burstPick != some n

/-- DMA_LATE_WRITE_ERROR (R468); writes that had left a channel before its disable arrive or fail all the same (R472). -/
def Mach.dmaLateError (m : Mach) (n : Nat) : Mach :=
  if n < 32 then
    ((m.bump (.dmChErr n) 31 24 1).setCh n (fun c => { c with failed := true })).raise srcDma .info (place n 0)
  else m

/-- `dma_en` cleared: every channel drops everything (R27, R472). -/
def Mach.dmaOff (m : Mach) : Mach := (List.range 32).foldl Mach.disableChannel m

/-- `dma_en` set again: the en bit of each channel decides its state (R472). -/
def Mach.dmaOn (m : Mach) : Mach :=
  (List.range 32).foldl (fun m n => if bit (m.rd (.dmChCtrl n)) 31 then m.enableChannel n else m) m

/-! ## The commands -/

/-- DMA_REQUEST_LINE: a source event of lines 0–5 (R461). -/
def execDmaRequestLine (line : Nat) (s : State) : Host.Outcome State Fault Refusal :=
  s.on (fun m => if line < 6 then m.reqLine line else m)

/-- DMA_REQUEST_WITHDRAW. -/
def execDmaRequestWithdraw (line : Nat) (s : State) : Host.Outcome State Fault Refusal :=
  s.on (fun m => m.withdrawLine line)

/-- DMA_CREDIT_TICK. -/
def execDmaCreditTick (s : State) : Host.Outcome State Fault Refusal := s.on Mach.creditTick

/-- DMA_TARGET_TIMEOUT. -/
def execDmaTargetTimeout (ch : Nat) (s : State) : Host.Outcome State Fault Refusal := s.on (fun m => m.dmaTimeout ch)

/-- DMA_LATE_WRITE_ERROR. -/
def execDmaLateWriteError (ch : Nat) (s : State) : Host.Outcome State Fault Refusal :=
  s.on (fun m => m.dmaLateError ch)

end Sys2Proof.Machine
end

