-- ==== Sys2Proof/Machine/CxlPort.lean ====
section
/-! DEFINITION. The CXL port (R481–R489, R494, R497, R498): link state, HDM decoders, CXL.mem, the host window. -/

namespace Sys2Proof.Machine

/-- The rates and widths the port operates at (R483): 5 is 64 GT/s, 4 is 32 GT/s; 64 GT/s only with 256-byte flits. -/
def linkModeOk (speed width : Nat) (flit256 : Bool) : Bool :=
  (speed == 5 && flit256 || speed == 4) && (width == 8 || width == 4)

/-- CXL_LINK_UP (R483, R497, R498): the link trains; a retrain to a lower rate or width counts and records an INFO
fault. -/
def Mach.linkUp (m : Mach) (speed width : Nat) (flit256 cacheEn memEn bme : Bool) (msixMask : Nat) : Mach :=
  if !m.time.powered || m.cxl.linkUp || !linkModeOk speed width flit256 then m
  else
    let lower := decide (m.cxl.wasRate ≠ 0) &&
      (decide (speed < m.cxl.wasRate / 16) || decide (width < m.cxl.wasRate % 16))
    let m : Mach := { m with
      cxl.linkUp := true
      cxl.speed := speed
      cxl.width := width
      cxl.flit256 := flit256
      cxl.cacheEn := cacheEn
      cxl.memEn := memEn
      cxl.bme := bme
      cxl.msixMask := msixMask
      cxl.wasRate := 16 * speed + width }
    if lower then (m.bump .cxLinkErr 15 0 1).raise srcCxl .info 0 else m

/-- Entries that wait for RdOwnNoData go out without it once the link is down (R498). -/
def Mach.releaseRdown (m : Mach) : Mach :=
  (List.range 10).foldl (fun m n =>
    if (m.ring n).rdownWait then (m.setRing n (fun r => { r with rdownWait := false })).drainAll n else m) m

/-- CXL_LINK_DOWN (R498, R513, R546): the decoders, bus mastering, MSI-X and the SPDM connection are cleared; a
link-down counts and records a CORR fault, a hot reset does not. -/
def Mach.linkDown (m : Mach) (hotReset : Bool) : Mach :=
  if !m.cxl.linkUp && !hotReset then m
  else
    let m : Mach := { m with
      cxl.linkUp := false
      cxl.speed := 0
      cxl.width := 0
      cxl.flit256 := false
      cxl.cacheEn := false
      cxl.memEn := false
      cxl.bme := false
      cxl.dec0 := HdmDec.reset
      cxl.dec1 := HdmDec.reset
      cxl.msixMask := 0xFFFFFFFF
      cxl.msixPend := 0
      id.spdm := .start
      id.vca := []
      id.transcript := []
      id.mTranscript := [] }
    let m := m.releaseRdown
    if hotReset then m else (m.bump .cxLinkErr 31 16 1).raise srcCxl .corr 0

/-- Bytes of the LPDDR5 capacity that range 2 reports (R482, R486). -/
def Mach.range2 (m : Mach) : Nat := popcount 8 m.sys.stks * stackSize

/-- Whether a DPA range lies inside a range that the Device DVSEC reports (R486). -/
def Mach.dpaOk (m : Mach) (dpa size : Nat) : Bool :=
  decide (0 < size) && (decide (dpa + size ≤ sramSize) ||
    (decide (0x008000000000 ≤ dpa) && decide (dpa + size ≤ 0x008000000000 + m.range2)))

/-- The first DPA of decoder `i` with a skip: decoder 1 follows decoder 0 (R486). -/
def Mach.decoderDpa (m : Mach) (i skip : Nat) : Nat :=
  skip + (if i = 1 ∧ m.cxl.dec0.committed then m.cxl.dec0.dpa + m.cxl.dec0.size else 0)

/-- HDM_DECODER_COMMIT (R486): accepted, or refused with a commit error; decoder 1 has no range without LPDDR5. -/
def Mach.hdmCommit (m : Mach) (i hpa size skip ways : Nat) : Mach :=
  let dpa := m.decoderDpa i skip
  let d : HdmDec := if ways = 1 ∧ m.dpaOk dpa size ∧ ¬(i = 1 ∧ m.range2 = 0) then ⟨true, false, hpa, size, dpa⟩ else ⟨false, true, hpa, size, dpa⟩
  match i with
  | 0 => { m with cxl.dec0 := d }
  | 1 => { m with cxl.dec1 := d }
  | _ => m

/-- The device address behind a host physical address, if a committed decoder claims it (R486). -/
def Mach.hdmAddr (m : Mach) (hpa : Nat) : Option Nat :=
  ([m.cxl.dec0, m.cxl.dec1].find? (fun d => d.committed && decide (d.hpa ≤ hpa) && decide (hpa < d.hpa + d.size))).map
    (fun d => sramBase + d.dpa + (hpa - d.hpa))

/-- What a CXL.mem or CXL.io read returned. -/
def Mach.answer (m : Mach) (ws : List Word) (poison ur : Bool) : Mach :=
  { m with
    lastRead := ws
    cxl.lastPoison := poison
    cxl.lastUr := ur }

/-- Sixteen words of zero data. -/
def zeroLine : List Word := List.replicate 16 0

/-- CXL_MEM_READ (R10, R489, R494, R497): the line of a host physical address. -/
def Mach.memRead (m : Mach) (hpa : Nat) : Mach :=
  if !m.cxl.linkUp then m
  else match m.hdmAddr hpa with
    | none => m.answer zeroLine false true
    | some d =>
      let line := d / 64 * 64
      match m.judge .host line 64 false with
      | .undecoded => m.answer zeroLine false true
      | .denied => (m.deny .host line false true).answer zeroLine true false
      | .ok =>
        if !m.sys.capValid then (m.deny .host line false true).answer zeroLine true false
        else if m.stackOut line then m.answer zeroLine true false
        else (m.checkRead line 64).answer (m.words line 16) (m.poisoned line) false

/-- A line with the enabled bytes of a write laid over it. -/
def mergeBytes : List Byte → List (Option Byte) → List Byte
  | _ :: bs, some x :: xs => x :: mergeBytes bs xs
  | b :: bs, _ :: xs => b :: mergeBytes bs xs
  | bs, [] => bs
  | [], _ => []

/-- CXL_MEM_WRITE (R10, R210, R488, R489, R494, R497): a line write with byte enables. -/
def Mach.memWrite (m : Mach) (hpa : Nat) (bytes : List (Option Byte)) : Mach :=
  if !m.cxl.linkUp then m
  else match m.hdmAddr hpa with
    | none => m.answer [] false true
    | some d =>
      let line := d / 64 * 64
      match m.judge .host line 64 true with
      | .undecoded => m.answer [] false true
      | .denied => (m.deny .host line true true).answer [] false false
      | .ok =>
        if !m.sys.capValid then (m.deny .host line true true).answer [] false false
        else if m.stackOut line then (m.bump .cxDenyCnt 31 24 1).answer [] false false
        else
          let full := decide (bytes.length = 64) && bytes.all Option.isSome
          if !full && m.poisoned line then (m.checkRead line 64).answer [] false true
          else ((m.setBytes line (mergeBytes (m.bytes line 64) bytes)).cleanLine line).answer [] false false

/-- Whether the host window is open (R481). -/
def Mach.hostOpen (m : Mach) : Bool := bit (m.rd .cxHostwin) 0 && m.cxl.linkUp && m.cxl.bme

/-- HOST_WINDOW_ACCESS (R481, R494): an internal access goes out as a CXL.io request; `answer` 0 is data, 1 unsupported
request or completer abort, anything else no answer within 8 µs. A bus error or timeout reads as `lastUr`. -/
def Mach.hostAccess (m : Mach) (c : Cls) (addr : Nat) (write : Bool) (data : List Byte) (answer : Nat) : Mach :=
  match m.judge c addr data.length write with
  | .undecoded => m.answer [] false true
  | .denied => (m.deny c addr write (decide (c = .fw))).answer [] false true
  | .ok =>
    match m.space addr with
    | .host h =>
      if !m.hostOpen then m.answer [] false true
      else
        let m : Mach := { m with cxl.hostReq := m.cxl.hostReq ++ [(write, h, if write then data else [])] }
        if write then m.answer [] false false
        else if answer = 0 then m.answer (bytesWords ((data.length + 3) / 4) data) false false
        else m.answer [] false true
    | _ => m

/-! ## The commands -/

/-- CXL_MEM_READ. -/
def execCxlMemRead (addr : Nat) (s : State) : Host.Outcome State Fault Refusal := s.on (fun m => m.memRead addr)

/-- CXL_MEM_WRITE. -/
def execCxlMemWrite (addr : Nat) (bytes : List (Option Byte)) (s : State) : Host.Outcome State Fault Refusal :=
  s.on (fun m => m.memWrite addr bytes)

/-- CXL_LINK_UP. -/
def execCxlLinkUp (speed width : Nat) (flit256 cacheEn memEn bme : Bool) (msixMask : Nat) (s : State) :
    Host.Outcome State Fault Refusal := s.on (fun m => m.linkUp speed width flit256 cacheEn memEn bme msixMask)

/-- CXL_LINK_DOWN. -/
def execCxlLinkDown (hotReset : Bool) (s : State) : Host.Outcome State Fault Refusal :=
  s.on (fun m => m.linkDown hotReset)

/-- HDM_DECODER_COMMIT. -/
def execHdmDecoderCommit (i hpa size skip ways : Nat) (s : State) : Host.Outcome State Fault Refusal :=
  s.on (fun m => m.hdmCommit i hpa size skip ways)

/-- HOST_WINDOW_ACCESS. -/
def execHostWindowAccess (c : Cls) (addr : Nat) (write : Bool) (data : List Byte) (answer : Nat) (s : State) :
    Host.Outcome State Fault Refusal := s.on (fun m => m.hostAccess c addr write data answer)

end Sys2Proof.Machine
end

