-- ==== Sys2Proof/Machine/LoopTest.lean ====
section
/-! DEFINITION. The loop test and response capture (R176–R183). -/

namespace Sys2Proof.Machine

/-! ## The sine table (R177) -/

/-- π in units of 2^−96. -/
abbrev piFix : Int := 248902613312231085230521944622

/-- The remaining terms of the sine series: `n` terms, the present term, its index, x², in units of 2^−96. -/
def sinTerms : Nat → Int → Int → Int → Int
  | 0, _, _, _ => 0
  | n + 1, t, i, x2 => t + sinTerms n (-(t * x2 / 2 ^ 96) / ((2 * i + 2) * (2 * i + 3))) (i + 1) x2

/-- sin(2π q / 4,096) for q up to 1,024, in units of 2^−96. -/
def sinFix (q : Nat) : Int :=
  let x := piFix * q / 2048
  sinTerms 16 x 0 (x * x / 2 ^ 96)

/-- A value in units of 2^−96 rounded to LQ. -/
def lqOfFix (v : Int) : Int := (v * 2 ^ 25 + 2 ^ 96) / 2 ^ 97

/-- sintab[q] (R177). -/
def sinTab (q : Nat) : Int :=
  let q := q % 4096
  if q ≤ 1024 then lqOfFix (sinFix q)
  else if q ≤ 2048 then lqOfFix (sinFix (2048 - q))
  else if q ≤ 3072 then -lqOfFix (sinFix (q - 2048))
  else -lqOfFix (sinFix (4096 - q))

/-! ## The generators (R177) -/

/-- Register length and tap of a PRBS order. -/
def prbsTaps (order : Nat) : Nat × Nat :=
  match order with
  | 0 => (7, 6)
  | 1 => (9, 5)
  | 2 => (11, 9)
  | 3 => (15, 14)
  | 4 => (23, 18)
  | _ => (31, 28)

/-- One step of lfsr(): the new register and the bit. -/
def lfsrStep (order s : Nat) : Nat × Bool :=
  let p := prbsTaps order
  let b := s.testBit (p.1 - 1) != s.testBit (p.2 - 1)
  ((2 * s + (if b then 1 else 0)) % 2 ^ p.1, b)

/-- `LE_TEST_DD` (R177). -/
def Mach.testDd (m : Mach) : Int :=
  let len := m.rdField .leTestLen 20 0
  if len = 0 then 0 else tdiv (((m.rd .leTestInc1).toNat : Int) - (m.rd .leTestInc0).toNat) len

/-- The frames of PRE. -/
def Mach.testPre (m : Mach) : Nat := m.rdField .leTestPrepost 15 0

/-- The frames of INJECT. -/
def Mach.testLen (m : Mach) : Nat := m.rdField .leTestLen 20 0

/-- The frames of POST. -/
def Mach.testPost (m : Mach) : Nat := m.rdField .leTestPrepost 31 16

/-- The phase of the present frame by the table of R176. -/
def Mach.phaseNow (m : Mach) : TestPhase :=
  let n := m.time.count - m.eng.test.start
  if n < m.testPre then .pre
  else if n < m.testPre + m.testLen then .inject
  else if n < m.testPre + m.testLen + m.testPost then .post
  else .done

/-- The causes of R182 seen while the test runs, by code. -/
def Mach.testCauses (m : Mach) : List Nat :=
  let t := m.eng.test
  (if m.fault.quench.active then [2] else []) ++ (if t.claimChange then [3] else []) ++ (if t.loopMissed then [4] else [])
    ++ (if t.severe then [5] else []) ++ (if t.restarted then [6] else []) ++ (if t.capErr then [7] else [])

/-- The test injects or captures in the present frame: it runs, has met no cause, and its time is not over. -/
def Mach.testLive (m : Mach) : Bool :=
  m.eng.test.running && m.eng.test.cause.isNone && m.testCauses.isEmpty && decide (m.phaseNow ≠ .done)

/-- The test value of the present frame with its generators (R177). -/
def Mach.testValue (m : Mach) : Mach :=
  if m.testLive && decide (m.phaseNow = .inject) then
    let x := m.eng.test
    let n := m.time.count - x.start - m.testPre
    let a := (m.rd .leTestAmp).toInt
    let ctrl := m.rd .leTestCtrl
    let hold := field ctrl 15 8
    let order := field ctrl 7 5
    let x : TestSt := match field ctrl 19 16 with
      | 1 => { x with t := a }
      | 2 =>
        let ph := if n = 0 then 0 else x.ph
        let inc := if n = 0 then (m.rd .leTestInc0).toNat else x.inc
        { x with
          t := roundShift (a * sinTab (ph / 1048576)) 24
          ph := (ph + inc) % 4294967296
          inc := (((inc : Int) + m.testDd) % 4294967296).toNat }
      | 3 =>
        let s := if n = 0 then (m.rd .leTestSeed).toNat % 2 ^ (prbsTaps order).1 else x.lfsr
        let step := if n = 0 || (hold != 0 && n % hold == 0) then lfsrStep order s else (s, x.lfsrBit)
        { x with t := if step.2 then a else -a, lfsr := step.1, lfsrBit := step.2 }
      | _ => { x with t := 0 }
    { m with eng.test := x }
  else { m with eng.test.t := 0 }

/-! ## Capture (R179) -/

/-- The value a capture selector names. -/
def captureWord (l : LoopSt) (t : Int) (sel : Nat) : Int :=
  let i := sel % 32
  match sel / 32 with
  | 0 => l.y.getD i 0
  | 1 => l.out.getD i 0
  | 2 => l.v.getD i 0
  | 3 => l.iUse.getD i 0
  | 4 => l.xUse.getD i 0
  | 5 => match i with
    | 0 => l.r
    | 1 => l.et
    | 2 => l.fb
    | 3 => l.fd
    | 4 => t
    | _ => 0
  | _ => 0

/-- The twelve capture selectors. -/
def Mach.capSelectors (m : Mach) : List Nat :=
  [Reg.leCapSelLo, .leCapSelMid, .leCapSelHi].flatMap (fun r =>
    (List.range 4).map (fun s => m.rdField r (8 * s + 7) (8 * s)))

/-- The sixteen words of a capture record of the present frame. In a frame in which the test loop's start is deferred nothing is computed; the
record then shows missed 0 and the values last computed, which R179 leaves open (DESIGN CHOICE, notes/assumptions/85). -/
def Mach.captureRecord (m : Mach) (l : LoopSt) : List Word :=
  let x := m.eng.test
  let inj := decide (m.phaseNow = .inject)
  [BitVec.ofNat 32 m.time.count, BitVec.ofNat 32 (m.time.count / 4294967296),
   flag l.missed 0 ||| flag inj 1 ||| place ((l.satHi ||| l.satLo) % 256) 8 ||| flag l.swapNow 16 |||
     place (l.regionUse % 16) 20,
   wordOfInt x.t] ++ m.capSelectors.map (fun s => wordOfInt (captureWord l x.t s))

/-- A write of whole lines by a class to memory or the host window (R179, R491): false on an error. -/
def Mach.writeLines (m : Mach) (c : Cls) (a : Nat) (bs : List Byte) : Mach × Bool :=
  match m.judge c a bs.length true with
  | .ok =>
    match m.space a with
    | .host off => if m.hostOpen then ({ m with cxl.hostReq := m.cxl.hostReq ++ [(true, off, bs)] }, true) else (m, false)
    | .sram _ => m.storeAll a bs
    | .stack _ _ => m.storeAll a bs
    | _ => (m, false)
  | _ => (m, false)

/-- The capture of the present frame: one record each dec frames (R176), while the test goes on. With all twelve selectors 0xFF there is nothing
to record and no buffer is needed (R180): no record is written and records stays 0 (R176 does not say so; DESIGN CHOICE,
notes/assumptions/85). -/
def Mach.capture (m : Mach) : Mach :=
  let x := m.eng.test
  let dec := m.rdField .leCapCfg 9 0
  let any := m.capSelectors.any (fun s => s != 255)
  if m.testLive && any && dec != 0 && (m.time.count - x.start) % dec == 0 then
    let i := (m.time.count - x.start) / dec
    let a := addr48 (m.rd .leCapBaseLo) (m.rd .leCapBaseHi) + 64 * i
    let r := m.writeLines x.owner a (wordsBytes (m.captureRecord (m.eng.loops.getD x.loop LoopSt.reset)))
    if r.2 then ({ r.1 with eng.test.records := x.records + 1 } : Mach).reqLine 4 else { r.1 with eng.test.capErr := true }
  else m

/-! ## Phases, start, abort -/

/-- The code of a phase in `LE_TEST_STAT`. -/
def TestPhase.code : TestPhase → Nat
  | .idle => 0
  | .pre => 1
  | .inject => 2
  | .post => 3
  | .done => 4
  | .aborted => 5

/-- `LE_TEST_STAT` (R183). -/
def TestSt.word (t : TestSt) : Word := place t.phase.code 29 ||| place (t.abort % 32) 24 ||| place (t.records % 2097152) 0

/-- The record of a test's start or end (R181). -/
def Mach.testRecord (m : Mach) (sub : Nat) : Mach :=
  let x := m.eng.test
  m.emit evLoop .info [BitVec.ofNat 32 sub, BitVec.ofNat 32 x.loop, BitVec.ofNat 32 x.wave, x.word]

/-- A test starts at the strike that applies its commit (R176). -/
def Mach.testStart (m : Mach) (owner : Cls) : Mach :=
  let m : Mach := { m with eng.test := { TestSt.reset with
    phase := .pre
    loop := m.rdField .leTestCtrl 4 0
    start := m.time.count
    wave := m.rdField .leTestCtrl 19 16
    held := m.pair.holding
    quiet := m.eng.test.quiet
    owner := owner } }
  { m with eng.test.phase := m.phaseNow }.testRecord 1

/-- A test ends in a phase: its record, and the 100 F for which the holder still excludes its loop (R181). -/
def Mach.testEnd (m : Mach) (p : TestPhase) (code : Nat) : Mach :=
  let x := m.eng.test
  let quiet := x.quiet.filter (fun q => decide (m.time.count < q.2))
  ({ m with eng.test := { x with
      phase := p
      abort := code
      t := 0
      quiet := if x.held then quiet ++ [(x.loop, m.time.count + 100)] else quiet } } : Mach).testRecord 2

/-- A test aborts with a cause code (R182). -/
def Mach.testAbort (m : Mach) (code : Nat) : Mach :=
  if m.eng.test.running then m.testEnd .aborted code else m

/-- LOOP_TEST_PHASE (R176): the test moves to the phase of the present frame, and to DONE at its end. A cause of the frame in which the test is
over already aborts nothing (R182). -/
def Mach.testPhase (m : Mach) : Mach :=
  let p := m.phaseNow
  if m.eng.test.running && m.eng.test.cause.isNone && (m.testCauses.isEmpty || decide (p = .done)) then
    if p = .done then m.testEnd .done 0 else { m with eng.test.phase := p }
  else m

/-- The code with which the test aborts (R182): the lowest cause of the first frame that had one. The present frame counts where it still
belongs to the test. -/
def Mach.abortCode (m : Mach) (now : List Nat) : Option Nat :=
  m.eng.test.cause.orElse (fun _ => if m.phaseNow = .done then none else now.head?)

/-- The causes of the frame that ends are those of the abort, whatever the next strike brings (R182). -/
def Mach.latchCause (m : Mach) : Mach :=
  if m.eng.test.running then { m with eng.test.cause := m.abortCode m.testCauses } else m

/-- LOOP_TEST_ABORT (R182). -/
def Mach.testAbortNow (m : Mach) : Mach :=
  match m.abortCode m.testCauses with
  | none => m
  | some c => m.testAbort c

/-- The loops this module excludes from comparison (R181): the test loop of the holder, and for 100 F after the end of a test that ran
on the holder. -/
def Mach.excludedLoops (m : Mach) : Nat :=
  let x := m.eng.test
  (if m.pair.holding && x.running then 1 <<< x.loop else 0)
    ||| natOfBits ((x.quiet.filter (fun q => decide (m.time.count < q.2))).map (·.1))

/-! ## The commands -/

/-- LOOP_TEST_PHASE. -/
def execLoopTestPhase (s : State) : Host.Outcome State Fault Refusal := s.on Mach.testPhase

/-- LOOP_TEST_ABORT. -/
def execLoopTestAbort (s : State) : Host.Outcome State Fault Refusal := s.on Mach.testAbortNow

end Sys2Proof.Machine
end

