-- ==== Sys2Proof/Machine/LoopEngine.lean ====
section
/-! DEFINITION. The loop engine (R121–R156, R165–R171): signals, arithmetic, the control law, anti-windup, swaps, temper
table, the forecast-to-loop bridge, starts, misses and following error. Every signal is an LQ value held as an integer. -/

namespace Sys2Proof.Machine

/-! ## Arithmetic (R128). The second component collects the sticky bits of `LE_FLAG_k`: 1 acc_sat, 2 narrow_sat. -/

/-- A running sum with its flags. -/
abbrev Acc := Int × Nat

/-- One accumulation. -/
def accAdd (a : Acc) (t : Int) : Acc :=
  let s := sat64 (a.1 + t)
  (s.1, a.2 ||| (if s.2 then 1 else 0))

/-- Terms accumulated in order. -/
def accAll (a : Acc) (ts : List Int) : Acc := ts.foldl accAdd a

/-- Narrowing. -/
def accNarrow (a : Acc) : Int × Nat :=
  let s := sat32 a.1
  (s.1, a.2 ||| (if s.2 then 2 else 0))

/-- The narrowed sum of terms in order. -/
def sumN (ts : List Int) : Int × Nat := accNarrow (accAll (0, 0) ts)

/-- The flags of several results. -/
def orFlags (l : List (Int × Nat)) : Nat := l.foldl (fun a x => a ||| x.2) 0

/-- A coefficient (R127): value and right shift. -/
structure Coef where
  c : Int
  s : Nat

/-- The coefficient product. -/
def Coef.mul (k : Coef) (x : Int) : Int := roundShift (k.c * x) k.s

/-- A coefficient entry. -/
def Mach.coef (m : Mach) (e : Nat) : Coef := ⟨(m.rd (.leCoefC e)).toInt, m.rdField (.leCoefSh e) 5 0⟩

/-- The products of consecutive entries with a vector. -/
def Mach.dot (m : Mach) (e : Nat) (xs : List Int) : List Int := xs.mapIdx (fun i x => (m.coef (e + i)).mul x)

/-! ## Configuration of a loop (R153, R154) -/

/-- The dimensions of `LE_CFG_k`. -/
structure Dims where
  ns : Nat
  ni : Nat
  no : Nat
  nbq : Nat
  trk : Nat
  seed : Bool

/-- The dimensions of a configuration word. -/
def dimsOf (w : Word) : Dims := ⟨field w 4 0, field w 11 8, field w 19 16, field w 22 20, field w 26 24, bit w 28⟩

/-- The dimensions of a loop. -/
def Mach.dims (m : Mach) (k : Nat) : Dims := dimsOf (m.rd (.leCfg k))

/-- M (R122). -/
def Dims.m (d : Dims) : Nat :=
  d.ni * d.ns + d.no * d.ns + 4 * d.no + d.ns * d.ns + d.ns * d.no + d.ns * d.ni + 5 * d.nbq

/-- The cycles of a loop (R122). -/
def Dims.cycles (d : Dims) : Nat := 16 + (d.m + 7) / 8

/-- A byte of a LO and HI register pair (R154). -/
def Mach.byteOf (m : Mach) (lo hi : Reg) (n : Nat) : Nat :=
  if n < 4 then m.rdField lo (8 * n + 7) (8 * n) else m.rdField hi (8 * (n - 4) + 7) (8 * (n - 4))

/-- in_sel of an input. -/
def Mach.inSel (m : Mach) (k i : Nat) : Nat := m.byteOf (.leInSelLo k) (.leInSelHi k) i

/-- out_map of an output. -/
def Mach.outMap (m : Mach) (k j : Nat) : Nat := m.byteOf (.leOutMapLo k) (.leOutMapHi k) j

/-- rb_sel of an output. -/
def Mach.rbSel (m : Mach) (k j : Nat) : Nat := m.byteOf (.leRbLo k) (.leRbHi k) j

/-- bq_place of a biquad: on an output, and its index. -/
def Mach.bqPlace (m : Mach) (k b : Nat) : Bool × Nat :=
  let v := m.rdField (.leBqPlace k) (8 * b + 7) (8 * b)
  (v.testBit 7, v % 8)

/-- ref_sel, ffd_sel, v0_sel and v1_sel, by field number 0 to 3. -/
def Mach.srcSel (m : Mach) (k n : Nat) : Nat := m.rdField (.leSrc k) (8 * n + 7) (8 * n)

/-- The base of a region's coefficient set. -/
def Mach.setBase (m : Mach) (k q : Nat) : Nat := m.rdField (.leTtSet k q) 16 0

/-! ## Signals (R125, R126, R162) -/

/-- Whether a feedback channel is usable in the present frame (R162); other signals always are. -/
def Mach.usable (m : Mach) (idx : Nat) : Bool :=
  if idx < 0xC0 then
    let l := m.eng.links.getD (idx / 16) StageLinkSt.reset
    l.inService && l.now.any (fun f => f.chValid.testBit (idx % 16))
  else true

/-- The published set-point value behind index 0xC0 + i (R125). -/
def Mach.spValue (m : Mach) (i : Nat) : Int :=
  let p := m.bel.spPub
  if i < 12 then p.stage.getD i 0
  else match i with
    | 16 => p.vref
    | 17 => p.s
    | 18 => p.g
    | 19 => p.d
    | _ => 0

/-- A signal by its index, with flags. -/
def Mach.sig (m : Mach) (idx : Nat) : Int × Nat :=
  if idx < 0xC0 then
    (((m.eng.links.getD (idx / 16) StageLinkSt.reset).now.elim 0 (fun f => (f.channels.getD (idx % 16) 0).toInt)), 0)
  else if idx < 0xE0 then
    let i := idx - 0xC0
    sumN [(Coef.mk (m.rd (.leSpsC i)).toInt (m.rdField (.leSpsSh i) 5 0)).mul (wordOfInt (m.spValue i)).toInt]
  else (0, 0)

/-- The signals a loop reads (R162). -/
def Mach.reads (m : Mach) (k : Nat) : List Nat :=
  (List.range (m.dims k).ni).map (m.inSel k) ++ (List.range 4).map (m.srcSel k)

/-- Whether every channel a loop reads is usable. -/
def Mach.readsOk (m : Mach) (k : Nat) : Bool := (m.reads k).all m.usable

/-- Whether every command readback of a loop is usable (R167). -/
def Mach.rbOk (m : Mach) (k : Nat) : Bool := ((List.range (m.dims k).no).map (m.rbSel k)).all m.usable

/-! ## Biquads (R131) -/

/-- One biquad step. -/
def Mach.biquad (m : Mach) (e : Nat) (x : Int) (h : BqHist) : (Int × Nat) × BqHist :=
  let y := sumN (m.dot e [x, h.x1, h.x2, h.y1, h.y2])
  (y, ⟨x, h.x1, y.1, h.y1⟩)

/-- The biquads placed on inputs, or on outputs, in ascending number: the points, the histories, the flags. -/
def Mach.runBiquads (m : Mach) (k e : Nat) (onOut : Bool) :
    List Nat → List Int × List BqHist × Nat → List Int × List BqHist × Nat
  | [], x => x
  | b :: bs, (xs, hs, fl) =>
    let p := m.bqPlace k b
    if p.1 == onOut then
      let r := m.biquad (e + 5 * b) (xs.getD p.2 0) (hs.getD b ⟨0, 0, 0, 0⟩)
      m.runBiquads k e onOut bs (xs.set p.2 r.1.1, hs.set b r.2, fl ||| r.1.2)
    else m.runBiquads k e onOut bs (xs, hs, fl)

/-! ## The temper table (R139–R141) -/

/-- Whether a value lies inside [lo − h, hi + h]; a variable without selection always does. -/
def within (sel : Nat) (lo hi h v : Int) : Bool := sel == 255 || (decide (lo - h ≤ v) && decide (v ≤ hi + h))

/-- Whether region q, widened by the hysteresis or not, contains the operating point. -/
def Mach.inRegion (m : Mach) (k q : Nat) (wide : Bool) (v0 v1 : Int) : Bool :=
  let h0 : Int := if wide then (m.rd (.leHyst0 k)).toInt else 0
  let h1 : Int := if wide then (m.rd (.leHyst1 k)).toInt else 0
  within (m.srcSel k 2) (m.rd (.leTtLo0 k q)).toInt (m.rd (.leTtHi0 k q)).toInt h0 v0
    && within (m.srcSel k 3) (m.rd (.leTtLo1 k q)).toInt (m.rd (.leTtHi1 k q)).toInt h1 v1

/-- The lowest-numbered valid region whose rectangle contains the operating point. -/
def Mach.regionAt (m : Mach) (k : Nat) (v0 v1 : Int) : Option Nat :=
  (List.range (m.rdField (.leSched k) 4 0)).find? (fun q => bit (m.rd (.leTtSet k q)) 31 && m.inRegion k q false v0 v1)

/-- Whether a loop reads no operating point, so that region 0 applies permanently (R139). -/
def Mach.fixedRegion (m : Mach) (k : Nat) : Bool := m.srcSel k 2 == 255 && m.srcSel k 3 == 255

/-- The temper table at the end of a computed frame (R140): the loop, with flag 16 for no_region. -/
def Mach.temper (m : Mach) (k : Nat) (v0 v1 : Int) (l : LoopSt) : LoopSt × Nat :=
  if m.fixedRegion k then
    ({ l with
      noRegion := false
      swap := l.swap || l.s.region != 0
      s.region := 0
      s.cand := none
      s.dwell := 0 }, 0)
  else if m.inRegion k l.s.region true v0 v1 then
    ({ l with
      noRegion := false
      s.cand := none
      s.dwell := 0 }, 0)
  else
    match m.regionAt k v0 v1 with
    | none => ({ l with
        noRegion := true
        s.cand := none
        s.dwell := 0 }, 16)
    | some q =>
      let n := if l.s.cand = some q then l.s.dwell + 1 else 1
      if m.rdField (.leSched k) 15 8 + 1 ≤ n then
        ({ l with
          noRegion := false
          swap := true
          s.region := q
          s.cand := some q
          s.dwell := n }, 0)
      else
        ({ l with
          noRegion := false
          s.cand := some q
          s.dwell := n }, 0)

/-! ## The bridge (R142–R145) -/

/-- The value a fraction m / len takes off (R128). -/
def fraction (a : Int) (mm len : Nat) : Int := if len = 0 then a else roundDiv (a * mm) len

/-- A bridge enters FADE from its last value (R143); flag 32 is ff_fade. -/
def LoopSt.enterFade (l : LoopSt) : LoopSt :=
  { l with
    s.mode := .fade
    s.last := l.fb
    s.ffM := 0 }

/-- Whether the slot in use has reached age 21 while the bridge still follows it. -/
def LoopSt.fadeDue (l : LoopSt) (now : Nat) : Bool :=
  decide (l.s.mode = .live ∨ l.s.mode = .blend) && l.slotPub.any (fun b => decide (b.pub + 21 ≤ now))

/-- The bridge in one frame: f_b, with the flags of narrowing and of an entry to FADE. The previous computed frame of an event (R144) is the
previous frame of the loop, a missed one included, since mode and generation go on there (DESIGN CHOICE, notes/assumptions/85). -/
def LoopSt.bridge (l : LoopSt) (now blend fade : Nat) : LoopSt × Nat :=
  let fresh := l.enabledAtPub && l.slotPub.any (fun b => b.pub == now)
  let gen := l.slotPub.elim l.prevGen (·.gen)
  let elem := l.slotPub.elim 0 (fun b => b.elems.getD (now - b.pub) 0)
  let event := fresh && (gen != l.prevGen || decide (l.s.mode = .fade ∨ l.s.mode = .off))
  if event then
    let o := sumN [l.fb, -elem]
    let f := sumN [elem, o.1]
    let l : LoopSt := { l with
      fb := f.1
      prevGen := gen
      s.mode := .blend
      s.ffM := 0
      s.off0 := o.1 }
    (l, o.2 ||| f.2)
  else
    let due := l.fadeDue now
    let l : LoopSt := if due then l.enterFade else l
    let base : Nat := if due then 32 else 0
    match l.s.mode with
    | .live => ({ l with fb := elem, prevGen := gen }, base)
    | .blend =>
      let mm := l.s.ffM + 1
      if blend ≤ mm then ({ l with fb := elem, prevGen := gen, s.ffM := mm, s.mode := .live }, base)
      else
        let f := sumN [elem, l.s.off0 - fraction l.s.off0 mm blend]
        ({ l with fb := f.1, prevGen := gen, s.ffM := mm }, base ||| f.2)
    | .fade =>
      let mm := l.s.ffM + 1
      if fade ≤ mm then ({ l with fb := 0, s.ffM := mm, s.mode := .off }, base)
      else ({ l with fb := l.s.last - fraction l.s.last mm fade, s.ffM := mm }, base)
    | .off => ({ l with fb := 0 }, base)

/-! ## One loop -/

/-- What a frame gives a loop besides its state: reference and dispatch feed-forward with any injection, the injection at
an output, and the operating point. -/
structure LoopIn where
  r : Int
  fd : Int
  out : Option (Nat × Int)
  v0 : Int
  v1 : Int
  flags : Nat

/-- The offsets of a set's parts (R132) from its base. -/
structure SetAt where
  k : Nat
  kr : Nat
  kf0 : Nat
  kf1 : Nat
  ki : Nat
  c : Nat
  a : Nat
  b : Nat
  l : Nat
  bq : Nat

/-- The parts of a set at a base. -/
def Dims.setAt (d : Dims) (e : Nat) : SetAt :=
  let kr := e + d.no * d.ns
  let c := kr + 4 * d.no
  let a := c + d.ni * d.ns
  let b := a + d.ns * d.ns
  let l := b + d.ns * d.no
  ⟨e, kr, kr + d.no, kr + 2 * d.no, kr + 3 * d.no, c, a, b, l, l + d.ns * d.ni⟩

/-- P[j] of every output (R130). -/
def Mach.lawP (m : Mach) (d : Dims) (p : SetAt) (xh : List Int) (r fb fd : Int) : List (Int × Nat) :=
  (List.range d.no).map (fun j =>
    sumN (m.dot (p.k + j * d.ns) xh ++ m.dot (p.kr + j) [r] ++ m.dot (p.kf0 + j) [fb] ++ m.dot (p.kf1 + j) [fd]))

/-- A loop start (R146): seeds, input histories, region, integrators, output histories. fe_count starts at 0 with every start, also one whose
fe_blank is 0, where R171 holds it at 0 for no frame (DESIGN CHOICE, notes/assumptions/85). -/
def Mach.startLoop (m : Mach) (k : Nat) (i : LoopIn) (l : LoopSt) : LoopSt × Nat :=
  let d := m.dims k
  let q := if m.fixedRegion k then some 0 else m.regionAt k i.v0 i.v1
  let region := q.getD 0
  let p := d.setAt (m.setBase k region)
  let seeds := (List.range d.ns).map (fun j => if d.seed && decide (j < d.ni) then m.sig (m.inSel k j) else (0, 0))
  let xh := seeds.map (·.1)
  let P := m.lawP d p xh i.r 0 i.fd
  let rb := (List.range d.no).map (fun j =>
    if m.rbSel k j = 255 then ((m.rd (.leOinit k j)).toInt, 0) else m.sig (m.rbSel k j))
  let b := rb.map (·.1)
  let I := (List.range d.no).map (fun j => sumN [b.getD j 0, -(P.getD j (0, 0)).1])
  let hist := (List.range d.nbq).map (fun n =>
    let w := m.bqPlace k n
    let x := if w.1 then b.getD w.2 0 else (m.sig (m.inSel k w.2)).1
    (⟨x, x, x, x⟩ : BqHist))
  let s : LoopSnap := { LoopSnap.reset with
    xh := xh
    integ := I.map (·.1)
    vPrev := b
    bq := hist
    region := region
    hold := List.replicate d.no none }
  ({ LoopSt.reset with
      started := true
      s := s
      feBlank := 10 * m.rdField (.leSup k) 23 16
      feActive := l.feActive
      noRegion := q.isNone
      slotPub := l.slotPub
      enabledAtPub := l.enabledAtPub
      prevGen := l.prevGen }, orFlags seeds ||| orFlags rb ||| orFlags P ||| orFlags I ||| (if q.isNone then 16 else 0))

/-- Whether the increment of an output is applied (R134): hold in force, saturated high or low, increment. -/
def applies (hold hi lo : Bool) (di : Int) : Bool :=
  !hold && !(hi && decide (0 < di)) && !(lo && decide (di < 0)) && di != 0

/-- What the law computes for one output: P, I in use, v, and the flags with 4 for swap_bump. -/
structure OutLaw where
  p : Int
  i : Int
  v : Int
  flags : Nat

/-- v of one output, with the rebalance of a swap frame (R133, R137). -/
def outLaw (p : Int × Nat) (integ vPrev : Int) (swap : Bool) : OutLaw :=
  let i : Int × Nat := if swap then sumN [vPrev, -p.1] else (integ, 0)
  let v := sumN [i.1, p.1]
  ⟨p.1, i.1, v.1, p.2 ||| i.2 ||| v.2 ||| (if swap && i.2 != 0 then 4 else 0)⟩

/-- The hold of one output after a frame (R138): whether it withholds the increment, and its count. A hold that has lasted
hold_max frames is over. -/
def holdStep (h : Option Nat) (max : Nat) (sat : Bool) : Bool × Option Nat :=
  match h with
  | none => (false, none)
  | some n => if max ≤ n || !sat then (false, none) else (true, some (n + 1))

/-- One computed frame of a loop that has started (R133). -/
def Mach.computeLoop (m : Mach) (k : Nat) (i : LoopIn) (l : LoopSt) (started : Bool) : LoopSt × Nat :=
  let d := m.dims k
  let p := d.setAt (m.setBase k l.s.region)
  let swap := l.swap && !started
  let xh := l.s.xh
  let ins := (List.range d.ni).map (fun n => m.sig (m.inSel k n))
  let bi := m.runBiquads k p.bq false (List.range d.nbq) (ins.map (·.1), l.s.bq, 0)
  let y := bi.1
  let e := (List.range d.ni).map (fun n =>
    sumN (y.getD n 0 :: (m.dot (p.c + n * d.ns) xh).map (fun x => -x)))
  let et := sumN [i.r, -(y.getD d.trk 0)]
  let P := m.lawP d p xh i.r l.fb i.fd
  let laws := (List.range d.no).map (fun j => outLaw (P.getD j (0, 0)) (l.s.integ.getD j 0) (l.s.vPrev.getD j 0) swap)
  let bo := m.runBiquads k p.bq true (List.range d.nbq) (laws.map (·.v), bi.2.1, 0)
  let w := (List.range d.no).map (fun j =>
    let x := bo.1.getD j 0
    match i.out with
    | some (n, t) => if n = j then sumN [x, t] else (x, 0)
    | none => (x, 0))
  let lo (j : Nat) : Int := (m.rd (.leOmin k j)).toInt
  let hi (j : Nat) : Int := (m.rd (.leOmax k j)).toInt
  let satHi (j : Nat) : Bool := decide (hi j < (w.getD j (0, 0)).1)
  let satLo (j : Nat) : Bool := decide ((w.getD j (0, 0)).1 < lo j)
  let u := (List.range d.no).map (fun j =>
    let x := (w.getD j (0, 0)).1
    if satHi j then hi j else if satLo j then lo j else x)
  let holds := (List.range d.no).map (fun j =>
    let sat0 := l.satHi.testBit j || l.satLo.testBit j
    let h : Option Nat := if swap then (if sat0 then some 0 else (l.s.hold.getD j none).map (fun _ => 0))
      else l.s.hold.getD j none
    holdStep h (m.rdField (.leSched k) 31 16) (satHi j || satLo j))
  let integ := (List.range d.no).map (fun j =>
    let di := (m.coef (p.ki + j)).mul et.1
    let i0 := (laws.getD j ⟨0, 0, 0, 0⟩).i
    if applies (holds.getD j (false, none)).1 (satHi j) (satLo j) di then sumN [i0, di] else (i0, 0))
  let ends := (List.range d.no).any (fun j =>
    (l.s.hold.getD j none).any (fun n => !swap && decide (m.rdField (.leSched k) 31 16 ≤ n)))
  let xn := (List.range d.ns).map (fun r =>
    sumN (m.dot (p.a + r * d.ns) xh ++ m.dot (p.b + r * d.no) u ++ m.dot (p.l + r * d.ni) (e.map (·.1))))
  let fl := i.flags ||| orFlags ins ||| bi.2.2 ||| orFlags e ||| et.2 ||| laws.foldl (fun a x => a ||| x.flags) 0 |||
    bo.2.2 ||| orFlags w ||| orFlags integ ||| orFlags xn ||| (if ends then 8 else 0)
  let l : LoopSt := { l with
    restart := false
    swap := false
    swapNow := swap
    out := u
    satHi := natOfBits ((List.range d.no).filter satHi)
    satLo := natOfBits ((List.range d.no).filter satLo)
    regionUse := l.s.region
    missed := false
    badEntry := none
    y := y
    v := laws.map (·.v)
    r := i.r
    et := et.1
    fd := i.fd
    iUse := laws.map (·.i)
    xUse := xh
    s := { l.s with
      xh := xn.map (·.1)
      integ := integ.map (·.1)
      vPrev := laws.map (·.v)
      bq := bo.2.1
      hold := holds.map (·.2)
      missRun := 0
      stopped := false
      startWait := false } }
  let t := m.temper k i.v0 i.v1 l
  (t.1, fl ||| t.2)

/-- The value that a missed frame captures where nothing was computed (R179). -/
abbrev noValue : Int := -2147483648

/-- A frame in which nothing was computed: state kept, outputs held, and what a capture then shows (R165, R179). A loop whose computation is
late is no missed loop (notes/assumptions/67), but it too shows the missed bit of `LE_STATE_k` and of the capture record as 1: R122 does not
say what they read then (DESIGN CHOICE, notes/assumptions/85). -/
def LoopSt.heldFrame (l : LoopSt) : LoopSt :=
  { l with
    missed := true
    swapNow := false
    regionUse := l.s.region
    y := List.replicate 8 noValue
    v := List.replicate 8 noValue
    r := noValue
    et := noValue
    fd := noValue
    iUse := l.s.integ
    xUse := l.s.xh }

/-- A missed frame (R165), with the coefficient entry that caused it. -/
def LoopSt.miss (l : LoopSt) (e : Option Nat) : LoopSt :=
  { l.heldFrame with
    badEntry := e
    s := { l.s with missRun := satAdd l.s.missRun 1 63 } }

/-- The following-error count after a frame (R169, R171): limit, time, whether a blanking or a test holds it at 0. -/
def feNext (count : Nat) (et lim : Int) (time : Nat) (held : Bool) : Nat :=
  if time = 0 || held then 0
  else if lim < (et.natAbs : Int) then satAdd count 1 65535 else 0

/-- Whether the test of the present frame runs on a loop. -/
def Mach.testOn (m : Mach) (k : Nat) : Bool := m.testLive && m.eng.test.loop == k

/-- What the present frame gives a loop (R178). -/
def Mach.loopIn (m : Mach) (k : Nat) : LoopIn :=
  let r := m.sig (m.srcSel k 0)
  let fd := m.sig (m.srcSel k 1)
  let t := m.eng.test.t
  let ctrl := m.rd .leTestCtrl
  let point := if m.testOn k then field ctrl 29 28 else 3
  let r' := if point = 0 then sumN [r.1, t] else r
  let fd' := if point = 2 then sumN [fd.1, t] else fd
  let v0 := m.sig (m.srcSel k 2)
  let v1 := m.sig (m.srcSel k 3)
  ⟨r'.1, fd'.1, if point = 1 then some (field ctrl 26 24, t) else none, v0.1, v1.1,
    r.2 ||| r'.2 ||| fd.2 ||| fd'.2 ||| v0.2 ||| v1.2⟩

/-- A loop of the engine. -/
def Mach.loop (m : Mach) (k : Nat) : LoopSt := m.eng.loops.getD k LoopSt.reset

/-- A loop of the engine changed. -/
def Mach.setLoop (m : Mach) (k : Nat) (l : LoopSt) : Mach := { m with eng.loops := m.eng.loops.set k l }

/-- Whether a loop is enabled and its engine ready (R146). -/
def Mach.loopOn (m : Mach) (k : Nat) : Bool := m.ready fnLoop && bit (m.rd .leLoopEn) k

/-- miss_lim of a loop (R172). -/
def Mach.missLim (m : Mach) (k : Nat) : Nat := m.rdField (.leSup k) 29 24

/-- A loop is stopped (R166): from the frame in which its run of misses reaches miss_lim. -/
def Mach.loopStopped (m : Mach) (k : Nat) (l : LoopSt) : Bool :=
  l.s.stopped || (l.missed && decide (m.missLim k ≤ l.s.missRun))

/-- The first entry of a loop's set that a list names. -/
def Mach.entryIn (m : Mach) (k region : Nat) (es : List Nat) : Option Nat :=
  let b := m.setBase k region
  es.find? (fun e => decide (b ≤ e) && decide (e < b + (m.dims k).m))

/-- FOLLOWING_ERROR_CLEAR (R170, R526 type 0x09): the record of a following error that ended. -/
def Mach.feCleared (m : Mach) (k : Nat) (old l : LoopSt) : Mach :=
  if old.feActive && !l.feActive then
    m.emit evLoop .info [3, BitVec.ofNat 32 k, 0,
      place (l.s.feCount % 65536) 16 ||| place (l.s.missRun % 64) 10 ||| flag l.s.stopped 9 ||| flag l.s.startWait 7]
  else m

/-- A loop disabled, or the engine stopped: its state is discarded (R27, R150). The bridge slot stays published. -/
def LoopSt.discard (l : LoopSt) : LoopSt := { LoopSt.reset with slotPub := l.slotPub }

/-- A loop's state discarded; a following error that stood is cleared with its record (R150, R170). -/
def Mach.discardLoop (m : Mach) (k : Nat) : Mach :=
  let l := m.loop k
  (m.setLoop k l.discard).feCleared k l l.discard

/-- The end of a loop's frame: flags, sticky saturation, which a missed frame keeps (R135, R155), and the events of following error and
rebalance. -/
def Mach.endLoop (m : Mach) (k : Nat) (old l : LoopSt) (fl : Nat) : Mach :=
  let m : Mach := m.setLoop k l
  let m : Mach := m.orReg (.leFlag k) (place (fl % 256) 0)
  let m : Mach := if l.satHi ||| l.satLo = 0 then m else m.orReg .leSatAny (flag true k)
  let m : Mach := if fl.testBit 2 then m.raise (srcLoop k) .info 0 else m
  m.feCleared k old l

/-- The loop of a running test. -/
def Mach.testLoop (m : Mach) (k : Nat) : Bool := m.eng.test.running && m.eng.test.loop == k

/-- One enabled loop in one frame (R133, R143–R147, R162–R171), with the entries whose error was corrected. A loop that has not finished
by its deadline holds its outputs and sets its flag; it is no missed loop, since R122 gives missed loops two reasons only and excludes
this case (DEDUCED, notes/assumptions/67). -/
def Mach.loopFrame (m : Mach) (k : Nat) (late : Bool) (corr : List Nat) : Mach :=
  let old := m.loop k
  let bcfg := m.rd .leBridgeCfg
  let br := if old.started then old.bridge m.time.count (field bcfg 31 16) (field bcfg 15 0) else (old, 0)
  let l := br.1
  let due := !l.started || l.restart || m.loopStopped k l
  let ok := m.readsOk k
  let point := m.loopIn k
  let region := if due && ok then (if m.fixedRegion k then 0 else (m.regionAt k point.v0 point.v1).getD 0) else l.s.region
  let bad := m.entryIn k region m.eng.badCoef
  let starting := !l.started || l.restart
  if due && ((starting && !ok) || (ok && !m.rbOk k)) then
    let l : LoopSt := { l with
      restart := true
      missed := false
      swapNow := false
      out := []
      s.startWait := true }
    m.endLoop k old l br.2
  else if late && ok && bad.isNone then
    m.endLoop k old { l.heldFrame with feBlank := l.feBlank - 1 } (br.2 ||| 64)
  else if !ok || bad.isSome then
    let miss := { l.miss bad with feBlank := l.feBlank - 1 }
    let m : Mach := m.bump (.leMissCnt k) 31 0 1
    let m : Mach := if m.testLoop k then { m with eng.test.loopMissed := true } else m
    let m : Mach := match bad with
      | some e => if l.badEntry = some e || l.s.stopped then m else m.raise (srcLoop k) .severe (place e 0)
      | none => m
    m.endLoop k old miss (br.2 ||| 64)
  else
    let m : Mach := if due && l.started && m.testLoop k then { m with eng.test.restarted := true } else m
    let ins := m.loopIn k
    let st := if due then m.startLoop k ins l else (l, 0)
    let c := m.computeLoop k ins st.1 due
    let sup := m.rd (.leSup k)
    let held := decide (0 < st.1.feBlank) || (m.testOn k && bit (m.rd .leTestCtrl) 30)
    let n := feNext c.1.s.feCount c.1.et (m.rd (.leFeLim k)).toInt (field sup 15 0) held
    let l' : LoopSt := { c.1 with
      feBlank := c.1.feBlank - 1
      feActive := c.1.feActive && n != 0
      s.feCount := n }
    let fixed := m.entryIn k region corr
    let m : Mach := match fixed with
      | some e => m.raise (srcLoop k) .corr (place e 0)
      | none => m
    m.endLoop k old l' (br.2 ||| st.2 ||| c.2 ||| (if fixed.isSome then 128 else 0))

/-- The loop window of a frame (R121, R148): every enabled loop in ascending number; none in quench. -/
def Mach.loopsFrame (m : Mach) (f : FrameIn) : Mach :=
  if !m.ready fnLoop then m
  else if m.fault.quench.active then { m with eng.cycles := 40 }
  else
    let bad := (f.coefEcc.filter (·.2)).map (·.1)
    let corr := (f.coefEcc.filter (fun x => !x.2)).map (·.1)
    let m : Mach := { m with
      eng.badCoef := bad.foldl addOnce m.eng.badCoef
      eng.test.capErr := m.eng.test.capErr || (f.capTimeout && m.eng.test.running)
      eng.test.held := m.eng.test.held || (m.eng.test.running && m.pair.holding) }
    let ks := (List.range 32).filter (fun k => bit (m.rd .leLoopEn) k)
    let m : Mach := ks.foldl (fun m k => m.loopFrame k (f.loopLate.testBit k) corr) m.testValue
    { m with eng.cycles := 40 + nsum (ks.map (fun k => (m.dims k).cycles)) }.capture

/-- What the RO registers of the block show from the strike on: the frame that ends (R156). -/
def Mach.showFrame (m : Mach) : Mach :=
  { m with
    eng.shown := m.eng.loops
    eng.shownLinks := m.eng.links
    eng.shownAt := m.time.count
    eng.shownTest := m.eng.test
    eng.shownDd := m.testDd
    eng.shownCycles := (List.range 32).map (fun k => (m.dims k).cycles) }

/-- A newly published bridge slot (R142, R144). -/
def Mach.publishBridge (m : Mach) (k : Nat) (b : BridgeSlot) : Mach :=
  m.setLoop k { m.loop k with slotPub := some b, enabledAtPub := m.loopOn k }

/-! ## Events of one loop -/

/-- SWAP_HOLD_TIMEOUT (R138): a hold that has lasted hold_max frames ends; in quench no loop changes (R148). -/
def Mach.holdTimeout (m : Mach) (k j : Nat) : Mach :=
  let l := m.loop k
  if !m.fault.quench.active && (l.s.hold.getD j none).any (fun n => decide (m.rdField (.leSched k) 31 16 ≤ n)) then
    (m.setLoop k { l with s.hold := l.s.hold.set j none }).orReg (.leFlag k) (flag true 3)
  else m

/-- BRIDGE_FADE (R143): a bridge whose slot has reached age 21 enters FADE; in quench no loop changes (R148). -/
def Mach.bridgeFade (m : Mach) (k : Nat) : Mach :=
  let l := m.loop k
  if !m.fault.quench.active && l.started && l.fadeDue m.time.count then
    (m.setLoop k l.enterFade).orReg (.leFlag k) (flag true 5)
  else m

/-- LOOP_STOP (R166): SEVERE, and stopped, once the run of misses has reached miss_lim; not in quench (R148, R168). -/
def Mach.stopLoop (m : Mach) (k : Nat) : Mach :=
  let l := m.loop k
  if !m.fault.quench.active && l.missed && !l.s.stopped && decide (m.missLim k ≤ l.s.missRun) then
    (m.setLoop k { l with s.stopped := true }).raise (srcLoop k) .severe 0
  else m

/-- FOLLOWING_ERROR_FAULT (R170); not in quench (R148). -/
def Mach.followingFault (m : Mach) (k : Nat) : Mach :=
  let l := m.loop k
  let sup := m.rd (.leSup k)
  if !m.fault.quench.active && l.started && !l.feActive && field sup 15 0 != 0 && decide (field sup 15 0 ≤ l.s.feCount) then
    (m.setLoop k { l with feActive := true }).raise (srcLoop k) (FCls.ofCode (field sup 31 30)) 0
  else m

/-! ## The commands -/

/-- SWAP_HOLD_TIMEOUT. -/
def execSwapHoldTimeout (k j : Nat) (s : State) : Host.Outcome State Fault Refusal := s.on (fun m => m.holdTimeout k j)

/-- BRIDGE_FADE. -/
def execBridgeFade (k : Nat) (s : State) : Host.Outcome State Fault Refusal := s.on (fun m => m.bridgeFade k)

/-- LOOP_STOP. -/
def execLoopStop (k : Nat) (s : State) : Host.Outcome State Fault Refusal := s.on (fun m => m.stopLoop k)

/-- FOLLOWING_ERROR_FAULT. -/
def execFollowingErrorFault (k : Nat) (s : State) : Host.Outcome State Fault Refusal := s.on (fun m => m.followingFault k)

end Sys2Proof.Machine
end

