-- ==== Sys2Proof/Machine/Forecast.lean ====
section
/-! DEFINITION. The forecaster (R254–R272, R277, R278, R289): schedule records and the planned draw, the telemetry history,
the run of an update, its publication with the bridge slots, the errors and the quality gate; and the completion of
anvil jobs, to which a run belongs. -/

namespace Sys2Proof.Machine

/-! ## Banks (R273) -/

/-- Base of a model bank (R273). -/
def bankBase (b : Nat) : Nat :=
  match b with
  | 0 => sramBase + 0x10000000
  | 1 => sramBase + 0x14000000
  | 2 => dramBase + 0x1800000000
  | _ => dramBase + 0x1A00000000

/-- The code and scratch area of a bank, behind its weights (R273). -/
def bankCode (b : Nat) : Nat := bankBase b + (if b < 2 then 0x3000000 else 0x180000000)

/-- Bytes of one weight copy of a forecaster bank (R273). -/
abbrev copyBytes : Nat := 0x1800000

/-- A bank's state. -/
def Mach.bank (m : Mach) (b : Nat) : BankSt := m.fc.banks.getD b BankSt.reset

/-- A bank's state changed. -/
def Mach.setBank (m : Mach) (b : Nat) (f : BankSt → BankSt) : Mach := { m with fc.banks := m.fc.banks.modify b f }

/-- The bank that fc_bank selects (R294). -/
def Mach.fcBank (m : Mach) : Nat := m.rdField .avFcCtrl 8 8

/-- The running weight copy of a forecaster bank (R273, R278). -/
def Mach.runningCopy (m : Mach) (b : Nat) : Nat := bankBase b + (if (m.bank b).copyB then copyBytes else 0)

/-- The receiving weight copy of a forecaster bank (R273, R287). -/
def Mach.receivingCopy (m : Mach) (b : Nat) : Nat := bankBase b + (if (m.bank b).copyB then 0 else copyBytes)

/-! ## Step schedules (R265–R272) -/

/-- The period of a plan (R267). -/
def SchedRec.period (r : SchedRec) : Nat := nsum (r.phases.map Prod.fst)

/-- The first frame a plan does not cover (R267). -/
def SchedRec.finish (r : SchedRec) : Nat := r.start + r.reps * r.period

/-- A record's sixteen words read (R267). -/
def schedOf (lane : Nat) (w : List Word) : SchedRec :=
  { lane := lane
    seq := (wordAt w 1).toNat
    plan := field (wordAt w 0) 7 0 == 1
    job := field (wordAt w 0) 31 16
    start := (join64 (wordAt w 2) (wordAt w 3)).toNat
    phases := (List.range 4).map (fun q => (field (wordAt w (4 + q)) 15 0, field (wordAt w (4 + q)) 31 16))
    reps := (wordAt w 8).toNat
    trays := (join64 (wordAt w 9) (wordAt w 10)).toNat
    eff := (join64 (wordAt w 12) (wordAt w 13)).toNat
    tol := field (wordAt w 11) 15 0
    usedFrom := 0 }

/-- The step at which a record fails R268 at update c: 1 the CRC, 2 any other check, 0 none. -/
def schedFails (c held : Nat) (w : List Word) : Nat :=
  let r := schedOf 0 w
  let w0 := wordAt w 0
  if crc32Words (w.take 15) != wordAt w 15 then 1
  else if (field w0 7 0 ≠ 1 ∧ field w0 7 0 ≠ 2) ∨ field w0 15 8 ≠ 1 ∨ field (wordAt w 11) 31 16 ≠ 0 ∨ wordAt w 14 ≠ 0 then 2
  else if r.plan && (r.period == 0 || r.reps == 0 || r.trays == 0) then 2
  else if r.start + 1048576 < c ∨ c + 100000000 < r.start then 2
  else if 1024 ≤ held then 2
  else 0

/-- One record of a lane read at update c (R268). -/
def Mach.takeRecord (m : Mach) (c lane : Nat) (w : List Word) : Mach :=
  match schedFails c (m.fc.recs.filter (fun r => decide (c < r.usedFrom))).length w with
  | 1 => m.bump .avFcSchedErr 7 0 1
  | 2 => m.bump .avFcSchedErr 31 24 1
  | _ =>
    let r := schedOf lane w
    let ln := m.fc.lanes.getD lane ⟨0, none⟩
    let m := if ln.last.any (fun q => r.seq != (q + 1) % 4294967296) then m.bump .avFcSchedErr 15 8 1 else m
    let m := if r.eff + 10 ≤ c then m.bump .avFcSchedErr 23 16 1 else m
    { m with fc.lanes := m.fc.lanes.modify lane (fun l => { l with last := some r.seq }),
             fc.recs := m.fc.recs ++ [{ r with usedFrom := max c ((r.eff + 9) / 10 * 10) }] }

/-- The schedule area's base (R265). -/
def Mach.schedBase (m : Mach) : Nat := addr48 (m.rd .avFcSchedBaseLo) (m.rd .avFcSchedBaseHi)

/-- The lanes in use (R265). -/
def Mach.laneCount (m : Mach) : Nat := m.rdField .avFcSchedCfg 6 0

/-- The addresses of the lines that a lane's reading touches: its header, and the records from its index up to head (R265). -/
def Mach.laneLines (m : Mach) (lane : Nat) : List Nat :=
  let base := m.schedBase + 0x4040 * lane
  let idx := (m.fc.lanes.getD lane ⟨0, none⟩).idx
  let n := ((m.word base).toNat % 256 + 256 - idx) % 256
  base :: (List.range n).map (fun i => base + 64 + 64 * ((idx + i) % 256))

/-- Whether an update meets a poisoned schedule line (R290). -/
def Mach.schedPoison (m : Mach) : Bool := (List.range m.laneCount).any (fun l => (m.laneLines l).any m.poisoned)

/-- One lane read from its index up to head (R265). A poisoned header gives no head, and a poisoned record no record (DEDUCED,
notes/assumptions/73). -/
def Mach.readLane (m : Mach) (c lane : Nat) : Mach :=
  let base := m.schedBase + 0x4040 * lane
  if m.poisoned base then m.checkRead base 64
  else
    let m' := ((m.laneLines lane).drop 1).foldl (fun n a =>
      if m.poisoned a then n.checkRead a 64 else n.takeRecord c lane (m.words a 16)) m
    { m' with fc.lanes := m'.fc.lanes.modify lane (fun l => { l with idx := (m.word base).toNat % 256 }) }

/-- Every lane read at update c, and records that have left use removed (R265, R268). -/
def Mach.readSchedules (m : Mach) (c : Nat) : Mach :=
  let m := (List.range m.laneCount).foldl (fun m l => m.readLane c l) m
  { m with fc.recs := m.fc.recs.filter (fun r => !r.plan || decide (c < r.finish + 1048576)), fc.lastUpdate := c }

/-- A change of the lane count takes effect (R265): every read index stands at its lane's head. A lane keeps its last accepted seq while it
is not in use (R268). -/
def Mach.setLanes (m : Mach) : Mach :=
  { m with fc.lanes := m.fc.lanes.mapIdx (fun l x =>
      if l < m.laneCount then { x with idx := (m.word (m.schedBase + 0x4040 * l)).toNat % 256 } else x) }

/-- The records in use at update c (R268). -/
def Mach.inUse (m : Mach) (c : Nat) : List SchedRec := m.fc.recs.filter (fun r => decide (r.usedFrom ≤ c))

/-- Whether a plan covers a tray in a frame, less what cancels remove (R269, R270). -/
def covers (use : List SchedRec) (tray n : Nat) (r : SchedRec) : Bool :=
  r.plan && r.trays.testBit (tray - 1) && decide (r.start ≤ n) && decide (n < r.finish)
    && !use.any (fun x => !x.plan && x.job == r.job && decide (x.start ≤ n) && decide (r.eff ≤ x.eff))

/-- Whether one plan stands before another: higher eff, then lane, then seq (R270). -/
def planBefore (a b : SchedRec) : Bool :=
  decide (b.eff < a.eff) || (a.eff == b.eff && (decide (b.lane < a.lane) || (a.lane == b.lane && decide (b.seq < a.seq))))

/-- The draw in units of 10 W at an offset into a plan's period (R270). -/
def phaseDraw : Nat → List (Nat × Nat) → Nat
  | _, [] => 0
  | o, (d, w) :: r => if o < d then w else phaseDraw (o - d) r

/-- The draw of one tray in a frame in W; none where no plan covers it (R270). -/
def trayDraw (use : List SchedRec) (tray n : Nat) : Option Nat :=
  match use.filter (covers use tray n) with
  | [] => none
  | r :: rs =>
    let b := rs.foldl (fun b x => if planBefore x b then x else b) r
    some (phaseDraw ((n - b.start) % b.period) b.phases * 10)

/-- The planned draw of a frame with the records in use at update c, in FP32 (R270). -/
def Mach.plannedDraw (m : Mach) (c n : Nat) : Word :=
  let use := m.inUse c
  let ds := (List.range 64).filterMap (fun t => trayDraw use (t + 1) n)
  let shelves := m.rdField .bdTrays 22 20
  if ds.isEmpty ∨ shelves = 0 then f32nan
  else
    let num := nsum ds * 2 ^ 60
    BitVec.ofNat 32 (roundFin fp32 false false (num / shelves) (-60) (num % shelves != 0)).1

/-- Whether a run at c is schedule-absent (R271). -/
def Mach.schedAbsentAt (m : Mach) (c : Nat) : Bool := !(m.inUse c).any (fun r => r.plan && decide (c < r.finish))

/-! ## Telemetry history (R261–R264) -/

/-- The history ring (R261). -/
abbrev histBase : Nat := sramBase + 0x18000000

/-- An integer in units of 1/d as FP32. -/
def f32ratio (v : Int) (d : Nat) : Word := (f32div false (f32ofInt v) (f32ofInt (d : Int))).1

/-- The module's own row of the present frame (R262, R263); the flags fb_late and disp_late are the frame's. -/
def Mach.ownRow (m : Mach) (fbLate dispLate : Bool) : List Word :=
  let did := m.bel.spIdle.isSome
  let q := fun (ok : Bool) (v : Int) => if ok then f32ofInt v else f32nan
  let soe := match m.shelfSoe with
    | some v => if did then f32ratio v 10 else f32nan
    | none => f32nan
  let flags : Nat := (if m.fault.quench.active then 1 else 0) + (if m.pair.holding then 2 else 0)
    + (if fbLate then 4 else 0) + (if dispLate then 8 else 0)
  let fresh := m.bel.spFresh
  [q did m.bel.d, q did m.bel.gm, q fresh m.bel.spPub.g, q fresh m.bel.spPub.s,
   m.plannedDraw m.fc.lastUpdate m.time.count, soe, q did m.disAvail, q did m.chgAvail, q did (m.capShelf : Int),
   if m.brakeLow then 0x3F800000 else 0, f32ratio m.phys.inlet 10, f32ratio (m.phys.flow : Int) 100,
   f32ofInt (nsum (m.served.map (fun t => (m.tray t).draw)) : Nat), q did m.bel.snap.effPolicy, f32ofInt (flags : Nat), 0]
  ++ (List.range 16).map (fun i =>
    let sel := m.rdField (.avFcTlmSel (i / 4)) (8 * (i % 4) + 7) (8 * (i % 4))
    if sel = 255 ∨ !m.usable sel then f32nan else lqToF32 (wordOfInt (m.sig sel).1))

/-- Rows kept of the last frames. -/
def keepRows (n : Nat) (l : List (Nat × List Word)) : List (Nat × List Word) := l.filter (fun r => decide (n ≤ r.1 + 4))

/-- The row of the present frame is formed at its end (R261): where the module captures history, for its history; on a module of any
variant that holds the claim, for the pair link, which it crosses in the two frames that follow (R440). -/
def Mach.captureRow (m : Mach) (fbLate dispLate : Bool) : Mach :=
  let row := (m.time.count, m.ownRow fbLate dispLate)
  let m : Mach := if m.fc.histOn then { m with fc.rows := keepRows m.time.count m.fc.rows ++ [row] } else m
  { m with pair.rowsOut := m.pair.rowsOut.filter (fun r => decide (m.time.count < r.1 + 2))
      ++ (if m.pair.holding && m.pair.pairUp then [row] else []) }

/-- The row of frame N is written at the strike that opens N + 3 (R261): the partner's where the partner held and its row
arrived, else the module's own. -/
def Mach.writeRow (m : Mach) : Mach :=
  let n := m.time.count - 3
  if !m.fc.histOn ∨ m.time.count < 3 ∨ (n : Int) < m.fc.anchor then m
  else
    let own := (m.fc.rows.find? (fun r => r.1 == n)).map Prod.snd
    let theirs := (m.fc.partnerRows.find? (fun r => r.1 == n)).map Prod.snd
    let row := if m.fc.partnerHeld.contains n then (match theirs with
        | some r => some r
        | none => own) else own
    match row with
    | none => m
    | some ws =>
      let m := (m.storeAll (histBase + 128 * (((n : Int) - m.fc.anchor) % 1048576).toNat) (wordsBytes ws)).1
      { m with fc.frames := min (m.fc.frames + 1) 1048576,
               fc.partnerRows := keepRows m.time.count m.fc.partnerRows,
               fc.partnerHeld := m.fc.partnerHeld.filter (fun k => decide (m.time.count ≤ k + 4)) }

/-- Capture begins at the strike at which the loop engine becomes ready (R261, R264). -/
def Mach.startHistory (m : Mach) : Mach :=
  if m.fc.histOn ∨ m.sys.tiles = 0 ∨ !m.ready fnLoop then m
  else { m with fc.histOn := true, fc.anchor := m.time.count, fc.frames := 0 }

/-- A history row of the partner (R440). -/
def Mach.partnerRow (m : Mach) (good : Bool) (n : Nat) (row : List Word) : Mach :=
  if good && !m.fc.partnerRows.any (fun r => r.1 == n) then { m with fc.partnerRows := m.fc.partnerRows ++ [(n, row)] } else m

/-! ## Errors and the quality gate (R259, R294) -/

/-- The mean of the last 100 matured errors of a horizon, in W. -/
def Mach.fcErr (m : Mach) (h : Nat) : Nat := let es := m.fc.errs.getD h []; nsum es / max es.length 1

/-- The forecasts that mature in the present frame, compared with D (R263, R294). -/
def Mach.matureForecasts (m : Mach) : Mach :=
  if m.bel.spIdle.isNone then m
  else
    let n := m.time.count
    let add := fun (h d : Nat) (f : FcOut → Int) (es : List (List Nat)) =>
      (m.fc.outs.filter (fun o => o.pub + d == n)).foldl (fun es o =>
        es.modify h (fun l => ((f o - m.bel.d).natAbs :: l).take 100)) es
    let es := add 2 5000 (·.p50) (add 1 1000 (·.p10) (add 0 100 (·.p1) m.fc.errs))
    { m with fc.errs := es, fc.outs := m.fc.outs.filter (fun o => decide (n < o.pub + 5000)) }

/-- The gate's state after an update (R259); it withholds while gate_held stands. -/
def Mach.gate (m : Mach) : Mach :=
  let ctrl := m.rd .avFcCtrl
  if !bit ctrl 28 then { m with fc.gateHeld := false, fc.gateGood := 0 }
  else if (m.fc.errs.getD 1 []).length < 100 then m
  else
    let e := m.fcErr 1
    let level := field ctrl 27 20 * (m.rd .bdRating).toNat
    if m.fc.gateHeld then
      if 100 ≤ m.fc.gateGood then { m with fc.gateHeld := false, fc.gateGood := 0 }
      else { m with fc.gateGood := if 2000 * e ≤ level then m.fc.gateGood + 1 else 0 }
    else if level < 1000 * e then { m with fc.gateHeld := true, fc.gateGood := 0 }
    else m

/-- The gate evaluated once at every update, a run finished for it or not (R259). -/
def Mach.gateUpdate (m : Mach) : Mach :=
  let c := m.time.count / 10 * 10
  if m.fc.gateAt = c then m else { m.gate with fc.gateAt := c }

/-! ## A run (R254, R257, R278) -/

/-- The planned draw rendered for a run at c (R270, R278). -/
def Mach.renderPlan (m : Mach) (c : Nat) : List Word :=
  (List.range (1048576 + 5031)).map (fun i =>
    if c + i < 1048576 then f32nan else m.plannedDraw c (c + i - 1048576))

/-- The job of a forecaster run: the inference block of the active bank, laid out as job record template, descriptor
table and bundles (R274, R278). -/
def Mach.fcJob (m : Mach) (c b : Nat) : Job :=
  let code := bankCode b
  let rec_ := m.bytes code 128
  { id := m.anvil.nextJob
    kind := .forecast
    op := none
    level := 0
    cls := .fw
    mode := 1
    save := 0
    prog := code + 128 + 64 * (m.bank b).descCount
    progLen := (m.bank b).progLen
    descTable := code + 128
    descCount := (m.bank b).descCount
    bases := [m.runningCopy b, code, histBase, Config.planBuffer]
    seed := BitVec.ofNat 64 (dwordAt rec_ 0x48)
    stepStart := BitVec.ofNat 64 c
    block := none
    digestReq := false
    incl := []
    stopOrd := none
    digest := none
    phase := .queued
    issued := false
    pc := 0
    loops := []
    sc := [0, BitVec.ofInt 64 m.fc.anchor, BitVec.ofNat 64 (Config.fcBuffer m.fc.buf)] ++ List.replicate 29 0
    step := BitVec.ofNat 64 c
    descs := []
    planes := List.replicate 4 .unset
    seq := none
    ordDone := 0
    cycles := 0
    flags := 0
    varUsed := false
    parkedOnce := false
    nonrepro := false
    stopped := false
    tFirst := 0
    tSave := 0
    saved := false
    bridges := []
    fin := none }

/-- A run that did not finish is abandoned (R254). -/
def Mach.abandonRun (m : Mach) : Mach :=
  match m.fc.run with
  | none => m
  | some r => { (m.dropJob r.job).bump .avFcMiss 15 0 1 with fc.run := none, fc.published := false }

/-- One element of a bridge slot: round(q · c · 2^−sh), narrowed (R257). -/
def epilogueElem (q c : Int) (sh : Nat) : Int := (sat32 (roundShift (q * c) sh)).1

/-- The elements of loop k's bridge slot from the points of a run (R257). -/
def Mach.epilogue (m : Mach) (k : Nat) (points : List Int) (g : Int) : List Int :=
  let br := m.rd (.avFcBr k)
  let c := (m.rd (.avFcBrc k)).toInt
  (List.range 21).map (fun a =>
    let p := points.getD a 0
    epilogueElem (if field br 29 28 = 1 then p - g else p) c (field br 5 0))

/-- The bridge slots that a run writes (R257): the epilogue's for every loop with en set, and those that its program wrote for the others
(BRWR of R230). -/
def Mach.runBridges (m : Mach) (r : FcRun) (wrote : List (Nat × Nat × List Int)) (points : List Int) : List (Nat × Nat × List Int) :=
  (List.range 32).filterMap (fun k =>
    if bit (m.rd (.avFcBr k)) 31 then some (k, r.modelGen, m.epilogue k points r.g) else wrote.find? (fun b => b.1 == k))

/-- The bridge slots of a run swapped in (R257). -/
def Mach.publishBridges (m : Mach) (r : FcRun) (pub : Nat) : Mach :=
  r.bridges.foldl (fun m b => m.publishBridge b.1 ⟨pub, b.2.1, b.2.2⟩) m

/-- The 5,021 points of a forecast buffer (R255). -/
def Mach.fcPoints (m : Mach) (buf : Bool) : List Int :=
  (m.words (Config.fcBuffer buf + 0x40) 5021).map (fun w => w.toInt)

/-- The header the epilogue writes (R255, R257). -/
def FcRun.header (r : FcRun) : List Byte :=
  wordBytes (flag true 0 ||| flag r.schedAbsent 1 ||| place r.modelGen 8) ++ List.replicate 4 0 ++ leBytes 8 r.c
    ++ leBytes 4 r.generation

/-- The end of the update that a run belongs to (R254, R259): published, withheld, or abandoned. -/
def Mach.publishForecast (m : Mach) : Mach :=
  match m.fc.run with
  | none => m
  | some r =>
    if m.time.count < r.c + 10 then m
    else
      let m := m.gateUpdate
      if !r.fin then m.abandonRun
      else
        let pub := r.c + 10
        let out : FcOut := ⟨pub, r.points.getD 100 0, r.points.getD 1000 0, r.points.getD 5000 0⟩
        let m : Mach := { m with fc.run := none, fc.outs := m.fc.outs ++ [out] }
        if m.fc.gateHeld then { m.bump .avFcMiss 31 16 1 with fc.published := false }
        else if !m.ready fnForecast then { m with fc.published := false }
        else
          let m : Mach := { m with
            fc.pub := some ⟨pub, r.c, true, r.schedAbsent, r.modelGen, r.generation, r.points⟩
            fc.buf := !m.fc.buf
            fc.published := true }
          ((m.countForecast).publishBridges r pub).reqLine 1

/-- An update begins (R254): the records are read; where the forecaster is ready, its run stands at level 0. A poisoned schedule line
discards the update's run (R211, R290). -/
def Mach.startUpdate (m : Mach) : Mach :=
  let c := m.time.count
  if c % 10 ≠ 0 ∨ m.fc.lastUpdate = c ∨ m.sys.tiles = 0 ∨ !m.time.powered then m
  else
    let m := m.publishForecast.gateUpdate
    let bad := m.forecastEn && m.schedPoison
    let m := if m.forecastEn then m.readSchedules c else { m with fc.lastUpdate := c }
    if !m.ready fnForecast ∨ !m.forecastEn then { m with fc.published := false }
    else if bad then { m.orReg .avArithStat fPoison with fc.published := false }
    else
      let b := m.fcBank
      let m : Mach := if m.fc.lastBank ≠ b then
          { m with fc.modelGen := (m.fc.modelGen + 1) % 256, fc.lastBank := b } else m
      let absent := m.schedAbsentAt c
      let m := (m.storeAll Config.planBuffer (wordsBytes (m.renderPlan c))).1
      let j := m.fcJob c b
      { m with
        anvil.jobs := m.anvil.jobs ++ [j]
        anvil.nextJob := m.anvil.nextJob + 1
        fc.schedAbsent := absent
        fc.run := some ⟨c, j.id, b, m.bel.spPub.g, false, absent, m.fc.modelGen, ((m.bank b).gen).getD 0xFFFFFFFF, [], []⟩ }

/-- Whether an update is an origin of its training window: 64 of them, every 1,500 counts (R281). -/
def isOrigin (c : Nat) : Bool := c % 100000 % 1500 == 0 && decide (c % 100000 ≤ 94500)

/-- The history rows of `n` frames from frame `from_` on, as they stand in the ring (R261). -/
def Mach.histRows (m : Mach) (from_ n : Nat) : List Byte :=
  (List.range n).flatMap (fun i => m.bytes (histBase + 128 * (((from_ + i : Nat) - m.fc.anchor) % 1048576).toNat) 128)

/-- The frames of a generation (R355). -/
def genFrames (g : GenHdr) : Nat := (g.len + 4095) / 4096

/-- The bytes of a generation's weights. -/
def GenSt.bytes (g : GenSt) : List Byte :=
  ((List.range (genFrames g.hdr)).flatMap (fun i => ((g.parts.find? (fun p => p.1 == i)).map Prod.snd).getD [])).take g.hdr.len

/-- The running weights of the active forecaster bank (R273). -/
def Mach.runningWeights (m : Mach) : List Byte := m.bytes (m.runningCopy m.fcBank) (m.bank m.fcBank).weights

/-- An encoder state that stands at frame `upto` advanced through frame c − 3. -/
def Mach.encodeTo (m : Mach) (enc : DWord) (upto c : Nat) (weights : List Byte) : DWord :=
  Config.encNext enc weights (m.histRows (upto + 1) (c - 3 - upto))

/-- The training state area (R273). -/
abbrev trainArea : Nat := dramBase + 0x1C00000000

/-- Bytes of the training state area (R273). -/
abbrev trainRoom : Nat := 0x400000000

/-- Bytes written into the training state area from an offset on (R273, R281), as far as it goes. -/
def Mach.putTrainArea (m : Mach) (off : Nat) (bs : List Byte) : Mach :=
  let x := (m.storeAll (trainArea + off) (bs.take (trainRoom - off))).1
  { m with mem := x.mem, poison := x.poison, flawed := x.flawed, cleanLines := x.cleanLines }

/-- The checkpoint of an origin (R281): which bytes of the training state area hold an encoder state the package decides
(notes/assumptions/5). -/
def Mach.putCheckpoint (m : Mach) (c : Nat) (enc : DWord) : Mach :=
  m.putTrainArea (Config.checkpointPlace (c % 100000 / 1500)) (Config.checkpointBytes enc)

/-- A finished run leaves its encoder states advanced through frame c − 3, that of a re-encoded generation too (R254, R284), and at an
origin a checkpoint (R281). -/
def Mach.advanceEncoders (m : Mach) (c : Nat) : Mach :=
  let enc := m.encodeTo m.fc.enc m.fc.encTo c m.runningWeights
  let saves := isOrigin c && m.sys.train
  { if saves then m.putCheckpoint c enc else m with
    fc.enc := enc
    fc.encTo := c - 3
    fc.gens := m.fc.gens.map (fun g =>
      if g.encoded then { g with enc := m.encodeTo g.enc g.encTo c g.bytes, encTo := c - 3 } else g)
    fc.origins := if saves then
        m.fc.origins.filter (fun o => decide (c ≤ o.1 + 1000000)) ++ [(c, enc)]
      else m.fc.origins }

/-- The whole history encoded with some weights, through the newest row written (R284, R289). -/
def Mach.encodeAll (m : Mach) (weights : List Byte) : DWord :=
  Config.encInit weights (m.histRows (m.time.count - 2 - m.fc.frames) m.fc.frames)

/-- A forecaster run's job ended (R254, R290): with ST_OK in time its epilogue runs (R257) and it waits for its publication; on poison or any
other end its run is discarded. -/
def Mach.runEnded (m : Mach) (j : Job) (e : JobEnd) : Mach :=
  let m := m.dropJob j.id
  match m.fc.run with
  | none => m
  | some r =>
    if r.job ≠ j.id then m
    else if e.status = stOk ∧ m.time.count ≤ r.c + 9 then
      let m := (m.storeAll (Config.fcBuffer m.fc.buf) r.header).1
      let points := m.fcPoints m.fc.buf
      { m.advanceEncoders r.c with
        fc.run := some { r with fin := true, points := points, bridges := m.runBridges r j.bridges points } }
    else if e.status = stOk then m
    else { m with fc.run := none, fc.published := false }

/-- The oldest ended job completes (R250); a job in a session waits for the partner's digest of its last bundle (R313). -/
def Mach.jobComplete (m : Mach) : Mach :=
  match m.anvil.jobs.find? (fun j => decide (j.phase = .ended) && !m.lockWaits j) with
  | none => m
  | some j =>
    match j.fin, j.kind with
    | some e, .user => m.completeJob j e
    | some e, .forecast => m.runEnded j e
    | none, _ => m

/-- forecast_en cleared (R27, R29, R291): the run under way is discarded, and what the initial encoding gave. -/
def Mach.forecastOff (m : Mach) : Mach :=
  match m.fc.run with
  | some r => { m.dropJob r.job with fc.run := none, fc.published := false, fc.encoded := false }
  | none => { m with fc.encoded := false }

/-- The readiness conditions of R289 but for the anvil's. warm_log2 counts only while the forecaster is not ready (R295). -/
def Mach.fcConditions (m : Mach) : Bool :=
  m.en fnForecast && (m.bank m.fcBank).valid
    && (m.ready fnForecast || decide (2 ^ m.rdField .avFcCtrl 4 0 ≤ m.fc.frames))

/-- What an encoding of the whole history reads: a weight copy of the active bank, and the ring (R284, R289). -/
def Mach.encodeReads (m : Mach) (copy : Nat) : List (Nat × Nat) := [(copy, (m.bank m.fcBank).weights), (histBase, 0x8000000)]

/-- Whether anvil work that reads some ranges meets a line with stored poison or with an uncorrectable pattern (R211). -/
def Mach.meetsPoison (m : Mach) (rs : List (Nat × Nat)) : Bool :=
  (m.poison ++ m.flawed.map Prod.fst).any (fun l => rs.any (fun r => overlap l 64 r.1 r.2))

/-- Anvil work that met a poisoned line is discarded (R211): poison_read, and the errors that its reads found. -/
def Mach.poisonWork (m : Mach) (rs : List (Nat × Nat)) : Mach := (m.checkReads rs).orReg .avArithStat fPoison

/-- The initial encoding ends (R289): the running encoder state stands at the newest row written (R254); one that met a poisoned line
is discarded (R211). -/
def Mach.initialEncoding (m : Mach) : Mach :=
  if m.ready fnAnvil && m.fcConditions then
    if m.meetsPoison (m.encodeReads (m.runningCopy m.fcBank)) then m.poisonWork (m.encodeReads (m.runningCopy m.fcBank)) else
    { m.otherBundles with fc.encoded := true, fc.encTo := m.time.count - 3, fc.enc := m.encodeAll m.runningWeights }
  else m

/-- FORECAST_RUN_START (R254, R268). -/
def execForecastRunStart (s : State) : Host.Outcome State Fault Refusal := s.on Mach.startUpdate

/-- FORECAST_PUBLISH (R254, R257, R259). -/
def execForecastPublish (s : State) : Host.Outcome State Fault Refusal := s.on Mach.publishForecast

/-- ANVIL_JOB_COMPLETE (R250). -/
def execAnvilJobComplete (s : State) : Host.Outcome State Fault Refusal := s.on Mach.jobComplete

/-- INITIAL_ENCODING_DONE (R289). -/
def execInitialEncodingDone (s : State) : Host.Outcome State Fault Refusal := s.on Mach.initialEncoding

/-- ROW_FRAME (R440). -/
def execRowFrame (good : Bool) (n : Nat) (row : List Word) (s : State) : Host.Outcome State Fault Refusal :=
  s.on (fun m => m.partnerRow good n row)

end Sys2Proof.Machine
end

