-- ==== Sys2Proof/Machine/Launch.lean ====
section
/-! DEFINITION. Launch slots (R42–R49, R65, R347–R349): arming, disarming, completing. -/

namespace Sys2Proof.Machine

/-- A launch slot. -/
def Mach.slot (m : Mach) (i : Nat) : LaunchSlot := m.slots.getD i LaunchSlot.reset

/-- Whether a slot is armed. -/
def LaunchSlot.armed (l : LaunchSlot) : Bool := decide (l.state = .armed)

/-- The lowest slot of a range whose state is not armed (R42). -/
def Mach.freeSlot (m : Mach) (lo n : Nat) : Option Nat :=
  ((List.range n).map (fun i => lo + i)).find? (fun i => !(m.slot i).armed)

/-- What R43 says of a launch count in frame N: none when it is accepted. -/
def launchWindow (n l : Nat) : Option Nat :=
  if l < n + 2 then some stLaunchLate else if n + 4294967296 < l then some stLaunchRange else none

/-- The origin field of a class (R42). -/
def originOf : Cls → Nat
  | .host => 0
  | .fw => 1
  | .peer => 2
  | .tk => 3

/-- A slot taken by an accepted arming: its status field reads ST_ARMED (R42). -/
def Mach.armIn (m : Mach) (i : Nat) (l : LaunchSlot) : Mach :=
  { m with slots := m.slots.set i { l with state := .armed, status := stArmed } }

/-- A launch completes: the slot's status and state, and the notification under the arming's tag, which carries the launch count
when the launch fires (R61, R65). -/
def Mach.finishSlot (m : Mach) (i status : Nat) (st : SlotState) (count : Option Nat) (result : List Word) : Mach :=
  let l := m.slot i
  let m : Mach := { m with slots := m.slots.set i { l with state := st, status := status, staged := [] } }
  match l.reply with
  | some rt => m.post ⟨rt, status, count, result, false, .launch m.time.count⟩
  | none => m

/-- The checks of a launch action and its argument (R65, R95, R96, R43 with R9, R311), in the order parameters, units: a hall step names the
tiles and stack 0, in which the dispatch banks lie (R273). -/
def Mach.actionCheck (m : Mach) (act : Nat) (arg : Word) (domain : Bool) : Option Nat :=
  if act != actPolicy && act != actHallStep && act != actLockstep then some stBadParam
  else if act == actPolicy && field arg 1 0 == 3 then some stBadParam
  else if act == actLockstep && (domain || field arg 31 11 != 0 || field arg 10 0 == 0) then some stBadParam
  else if act == actPolicy && field arg 1 0 == 0 && m.sys.tiles == 0 then some stUnitAbsent
  else if act == actHallStep && (m.sys.tiles == 0 || !m.sys.stks.testBit 0) then some stUnitAbsent
  else if act == actHallStep && (m.tilesShown == 0 || !(m.stackSt 0).inService) then some stUnitOut
  else if act == actLockstep && !m.sys.lockstep then some stUnitAbsent
  else if domain && !m.hall.isMaster then some stBadState
  else none

/-- LAUNCH_ARM (R43, R49, R65, R347): words 4–5 the count, word 6 the action with bit 31 for a domain launch, word 7 the
argument. A domain launch is armed here, and a message that repeats it arms it no second time (R348). -/
def Mach.opLaunchArm (m : Mach) (rt : RTo) (c : Cls) (l : Nat) (w6 arg : Word) : Mach :=
  let act := field w6 7 0
  let domain := bit w6 31
  match m.actionCheck act arg domain with
  | some st => m.reply rt st []
  | none =>
    let late := if domain && decide (l < m.time.count + 300) then some stLaunchLate else launchWindow m.time.count l
    match late with
    | some st => m.reply rt st []
    | none =>
      match m.freeSlot (if domain then 12 else 0) (if domain then 4 else 12) with
      | none => m.reply rt stLaunchFull []
      | some i =>
        if 2048 ≤ m.inFlight then m.reply rt stBusy []
        else
          let slot : LaunchSlot :=
            { LaunchSlot.reset with
              count := l
              action := act
              arg := arg
              origin := if domain then 2 else originOf c
              tag := rt.tag
              reply := some rt
              armedAt := m.time.count
              domain := if domain then some (m.sys.position, m.hall.term) else none }
          let m : Mach := if domain then { m with hall.seenLaunch := m.hall.seenLaunch ++ [(m.sys.position, m.hall.term, rt.tag)] } else m
          (m.armIn i slot).reply rt stArmed [place i 0]

/-- The slot that LAUNCH_DISARM of a tag may disarm (R65): 0–11, and on the master the domain launches it armed in its present term; one of
an earlier term has lost its master and fires (R349). -/
def Mach.disarmable (m : Mach) (tag : Nat) : Option Nat :=
  (List.range 16).find? (fun i =>
    let l := m.slot i
    l.armed && l.tag == tag && (decide (i < 12) || (m.hall.isMaster && l.domain == some (m.sys.position, m.hall.term))))

/-- LAUNCH_DISARM (R45, R65, R349). -/
def Mach.opLaunchDisarm (m : Mach) (rt : RTo) (tag : Nat) : Mach :=
  match m.disarmable tag with
  | none => m.reply rt stTagUnknown []
  | some i =>
    let l := m.slot i
    if l.count < m.time.count + 2 then m.reply rt stLaunchLate []
    else
      let m : Mach := m.reply rt stOk []
      let m : Mach := match l.domain with
        | some (p, t) => { m with hall.disarms := m.hall.disarms ++ [(p, t, l.tag)] }
        | none => m
      m.finishSlot i stCancelled .gone none []

/-- Every armed launch completes with a status, as at the adoption of a domain count (R48). -/
def Mach.cancelLaunches (m : Mach) (status : Nat) : Mach :=
  (List.range 16).foldl (fun m i => if (m.slot i).armed then m.finishSlot i status .gone none [] else m) m

/-- `SY_LAUNCH_ACT_n` (R42). -/
def LaunchSlot.word (l : LaunchSlot) : Word :=
  let st := match l.state with
    | .free => 0
    | .armed => 1
    | .fired => 2
    | .gone => 3
  (if l.state = .free then 0 else place (l.status % 256) 24) ||| place (l.action % 256) 16 ||| place st 14 |||
    place (l.origin % 4) 12 ||| place (l.tag % 2048) 0

end Sys2Proof.Machine
end

