-- ==== Sys2Proof/Machine/Lockstep.lean ====
section
/-! DEFINITION. Lock-step comparison (R311–R317): the session's checks, the exchange of digests, a divergence and its
search, the port. -/

namespace Sys2Proof.Machine

/-- The suspended job without an issued bundle that a tag names (R312 check 2). -/
def Mach.lockJob (m : Mach) (tag : Nat) : Option Job :=
  match m.opByTag tag with
  | some o => m.anvil.jobs.find? (fun j => j.op == some o.id && decide (o.state = .suspended) && !j.issued)
  | none => none

/-- Whether a session runs or is about to (R311, R312 check 1). -/
def Mach.sessionBusy (m : Mach) : Bool :=
  decide (m.anvil.lock.state = .running) || decide (m.anvil.lock.state = .searching) || m.anvil.lock.waiting.isSome

/-- A launch of action 0x04 fires (R312): checks 1 and 2, whose outcome goes to the partner; then the module waits for the partner's. -/
def Mach.lockStart (m : Mach) (i : Nat) : Mach :=
  let l := m.slot i
  let tag := field l.arg 10 0
  match if m.sessionBusy then none else m.lockJob tag with
  | none => ({ m with anvil.lock.sent := some (.checked false 0 m.tilesNow) } : Mach).finishSlot i stLsNotReady .fired (some l.count) []
  | some j =>
    let h := hash8 (m.digestHead j)
    { m with anvil.lock := { m.anvil.lock with waiting := some i, ownHash := h, sent := some (.checked true h m.tilesNow) } }

/-- The checks' outcome ends a waiting launch, which has fired (R61, R312). -/
def Mach.lockRefuse (m : Mach) (i status : Nat) : Mach :=
  ({ m with anvil.lock.waiting := none } : Mach).finishSlot i status .fired (some (m.slot i).count) []

/-- The partner's outcome of the checks (R312 checks 3 and 4); success starts the session and resumes the job. -/
def Mach.lockChecked (m : Mach) (i : Nat) (pass : Bool) (hash : DWord) (tiles : Nat) : Mach :=
  let tag := field (m.slot i).arg 10 0
  match m.lockJob tag with
  | none => m.lockRefuse i stLsNotReady
  | some j =>
    if !pass then m.lockRefuse i stLsPartner
    else if hash ≠ m.anvil.lock.ownHash ∨ (!j.repro ∧ tiles ≠ m.tilesNow) then m.lockRefuse i stLsMismatch
    else
      let m : Mach := { m with anvil.lock := { LockSt.reset with
        linkUp := m.anvil.lock.linkUp
        partnerM := m.anvil.lock.partnerM
        sent := m.anvil.lock.sent
        result := m.anvil.lock.result
        ord := m.anvil.lock.ord
        state := .running
        tag := tag
        job := some j.id } }
      let m := m.finishSlot i stOk .fired (some (m.slot i).count) []
      match j.op with
      | some o =>
        let m := m.setOp o .running
        let m : Mach := { m with ops := m.ops.map (fun p => if p.id == o then { p with resumeNote := some stResumed } else p) }
        m.requeueJob j
      | none => m

/-- LOCKSTEP_PARTNER_OUTCOME (R312, R315): the outcome of the partner's checks, its absence by the end of frame L + 10, or
how the partner's job ended, or its reset. -/
def Mach.lockOutcome (m : Mach) (o : LsOutcome) : Mach :=
  match o, m.anvil.lock.waiting with
  | .checked pass hash tiles, some i =>
    if m.time.count ≤ (m.slot i).count + 10 then m.lockChecked i pass hash tiles else m.lockRefuse i stLsPartner
  | .missing, some i => if (m.slot i).count + 10 ≤ m.time.count then m.lockRefuse i stLsPartner else m
  | .jobEnd st ord, none =>
    if m.anvil.lock.state ≠ .running ∧ m.anvil.lock.state ≠ .searching then m
    else if st = stResumedNonrepro then m.endSession stLsMismatch
    else if endsPartner st then m.endSession stLsPartner
    else if m.anvil.lock.state = .searching then m
    else ({ m with anvil.lock.theirEnd := some (st, ord) } : Mach).judgeEnds
  | .reset, none =>
    if m.anvil.lock.state = .running ∨ m.anvil.lock.state = .searching then m.endSession stLsPartner else m
  | .reset, some i => m.lockRefuse i stLsPartner
  | _, _ => m

/-- LOCKSTEP_DIGEST (R313): the partner's digests of one bundle; a frame that fails its check is counted (R316). -/
def Mach.lockDigestFrame (m : Mach) (good : Bool) (ord : Nat) (slots : List DWord) (scalar : DWord) : Mach :=
  if !good then m.bump .avLsPort 15 0 1
  else if m.anvil.lock.state ≠ .running then m
  else ({ m with anvil.lock.theirs := some (ord, slots, scalar) } : Mach).lockCompare

/-- The first slot in the effect order of R220 whose digests differ; 0 where none does. -/
def firstDiff (a b : List DWord) : Nat := ([1, 2, 3, 0].find? (fun k => a.getD k 0 != b.getD k 0)).getD 0

/-- LOCKSTEP_DIVERGENCE (R314): both digests of one ordinal are here and differ. `sc` is the partner's sc0 to sc31. -/
def Mach.lockDiverge (m : Mach) (sc : List DWord) : Mach :=
  match m.anvil.lock.digest, m.anvil.lock.theirs with
  | some d, some t =>
    if m.anvil.lock.state ≠ .running ∨ d.ord ≠ t.1 ∨ (d.slots = t.2.1 ∧ d.scalar = t.2.2) then m
    else
      let k := ((List.range 31).map (fun i => i + 1)).find? (fun i => d.sc.getD i 0 != sc.getD i 0)
      let scalar := d.scalar != t.2.2
      let m : Mach := { m with anvil.lock := { m.anvil.lock with
        state := .searching
        divSlot := firstDiff d.slots t.2.1
        scalarDiff := scalar
        scIdx := if scalar then k.getD 0 else 0 } }
      match m.anvil.jobs.find? (fun j => some j.id == m.anvil.lock.job) with
      | some j => if m.jobOpState j = .cancelling then m.cancelJob j else m.suspendJob j m.tilesNow
      | none => m
  | _, _ => m

/-- A number inserted into an ascending list without repeats. -/
def insertNat (x : Nat) : List Nat → List Nat
  | [] => [x]
  | y :: ys => if x < y then x :: y :: ys else if x = y then y :: ys else y :: insertNat x ys

/-- `AV_LS_STAT` (R316). -/
def Mach.lsStat (m : Mach) : Word :=
  let l := m.anvil.lock
  let st := match l.state with
    | .idle => 0
    | .running => 1
    | .searching => 2
    | .ended => 3
  place st 29 ||| place (l.scIdx % 32) 24 ||| place (l.result % 256) 16 ||| flag l.scalarDiff 15 ||| flag l.line.isSome 14
    ||| place (l.divSlot % 4) 12 ||| place (l.tag % 2048) 0

/-- LOCKSTEP_SEARCH_DONE (R314): the lowest line of the slot's destination footprints whose hashes differ; the session ends
DIVERGED with its record (R526 type 0x0A). `hashes` are the partner's, by line. -/
def Mach.lockSearched (m : Mach) (hashes : List (Nat × DWord)) : Mach :=
  if m.anvil.lock.state ≠ .searching then m
  else
    let feet := (m.anvil.lock.digest.map (fun d => d.feet.getD m.anvil.lock.divSlot [])).getD []
    let lines := (feet.flatMap (fun f => linesOf f.1 f.2)).foldl (fun l x => insertNat x l) []
    let line := lines.find? (fun a => hashes.any (fun h => h.1 == a && h.2 != lineHash m a))
    let m := ({ m with anvil.lock.line := line } : Mach).endSession stDiverged
    m.emit evLockstep .info [m.lsStat, BitVec.ofNat 32 m.anvil.lock.ord, BitVec.ofNat 32 (m.anvil.lock.ord / 4294967296),
      BitVec.ofNat 32 (line.getD 0), BitVec.ofNat 32 (line.getD 0 / 4294967296), 0, 0, 0]

/-- LOCKSTEP_PORT_UP (R316). -/
def Mach.lockPortUp (m : Mach) (partnerM : Bool) : Mach :=
  if m.sys.lockstep then { m with anvil.lock.linkUp := true, anvil.lock.partnerM := partnerM } else m

/-- LOCKSTEP_PORT_DOWN (R315): the port has been down for 10 consecutive frames. -/
def Mach.lockPortDown (m : Mach) : Mach :=
  let m : Mach := { m with anvil.lock.linkUp := false, anvil.lock.partnerM := false }
  if m.anvil.lock.state = .running ∨ m.anvil.lock.state = .searching then m.endSession stLsPartner else m

/-- LOCKSTEP_DIGEST. -/
def execLockstepDigest (good : Bool) (ord : Nat) (slots : List DWord) (scalar : DWord) (s : State) :
    Host.Outcome State Fault Refusal := s.on (fun m => m.lockDigestFrame good ord slots scalar)

/-- LOCKSTEP_DIVERGENCE. -/
def execLockstepDivergence (sc : List DWord) (s : State) : Host.Outcome State Fault Refusal :=
  s.on (fun m => m.lockDiverge sc)

/-- LOCKSTEP_SEARCH_DONE. -/
def execLockstepSearchDone (hashes : List (Nat × DWord)) (s : State) : Host.Outcome State Fault Refusal :=
  s.on (fun m => m.lockSearched hashes)

/-- LOCKSTEP_PORT_DOWN. -/
def execLockstepPortDown (s : State) : Host.Outcome State Fault Refusal := s.on Mach.lockPortDown

/-- LOCKSTEP_PORT_UP. -/
def execLockstepPortUp (partnerM : Bool) (s : State) : Host.Outcome State Fault Refusal := s.on (fun m => m.lockPortUp partnerM)

/-- LOCKSTEP_PARTNER_OUTCOME. -/
def execLockstepPartnerOutcome (o : LsOutcome) (s : State) : Host.Outcome State Fault Refusal := s.on (fun m => m.lockOutcome o)

end Sys2Proof.Machine
end

