-- ==== Sys2Proof/Machine/Txn.lean ====
section
/-! DEFINITION. Configuration transactions (R78–R87): staging, opening, committing, rolling back, and applying words. -/

namespace Sys2Proof.Machine

/-- What a register word adds to cfg_sum (R436): H over the 6-byte word address and the 4-byte applied value. -/
def sumTerm (addr : Nat) (v : Word) : DWord := hash8 (leBytes 6 addr ++ wordBytes v)

/-- The address of the 64-bit-aligned word of a register's applied value with ST bits replaced (R13, R80). -/
def stMerge (r : Reg) (old v : Word) : Word := (old &&& ~~~r.stMask) ||| (v &&& r.stMask)

/-- One staged word applied: the ST bits take the staged value, and cfg_sum follows (R83, R436). -/
def Mach.applyWord (m : Mach) (w : Staged) : Mach :=
  match Reg.ofAddr w.addr with
  | none => m
  | some r =>
    let new := stMerge r (m.rd r) w.value
    let d := m.pair.cfgDelta ^^^ sumTerm w.addr (m.rd r) ^^^ sumTerm w.addr new
    { m.wr r new with pair := { m.pair with cfgDelta := d } }

/-- All staged words applied at one strike (R83). -/
def Mach.applyWords (m : Mach) (ws : List Staged) : Mach := ws.foldl Mach.applyWord m

/-- An ST word written outside a transaction by the module itself (a launched policy, the trusted kernel). -/
def Mach.setSt (m : Mach) (r : Reg) (v : Word) : Mach := m.applyWord ⟨r.addr, v, 0⟩

/-- The configuration a register would hold with staged words laid over the applied ones (R82). -/
def Mach.stagedView (m : Mach) (ws : List Staged) (r : Reg) : Word :=
  match ws.find? (fun w => w.addr == r.addr) with
  | some w => stMerge r (m.rd r) w.value
  | none => m.rd r

/-- A write of ST fields (R13, R80): staged while the transaction is open and the writer owns it, else discarded with an
INFO fault that names the class; one word beyond 16,384 is discarded and sets overflow. -/
def Mach.stageWrite (m : Mach) (c : Cls) (r : Reg) (v : Word) : Mach :=
  let a := r.addr
  if m.txn.state != .opened || m.txn.owner != c then m.accessFault c a
  else if m.txn.staged.any (fun w => w.addr == a) then
    { m with txn := { m.txn with
        staged := m.txn.staged.map (fun w => if w.addr == a then { w with value := v } else w) } }
  else if 16384 ≤ m.txn.staged.length then { m with txn := { m.txn with overflow := true } }
  else { m with txn := { m.txn with staged := m.txn.staged ++ [⟨a, v, m.rd r⟩] } }

/-- The transaction ends: staged words discarded, IDLE, `CX_CFG_LAST` with its status and how it ended (R78). -/
def Mach.closeTxn (m : Mach) (status how : Nat) : Mach :=
  { m.wr .cxCfgLast (place status 0 ||| place how 8) with
    txn := { TxnSt.reset with timedOut := m.txn.timedOut } }

/-- CFG_BEGIN (R79). -/
def Mach.opCfgBegin (m : Mach) (rt : RTo) (c : Cls) : Mach :=
  if m.txn.state != .idle then
    m.reply rt stCfgOpen [place m.txn.owner.code 4 ||| place (m.txn.ring % 8) 0]
  else
    ({ m with txn := { TxnSt.reset with state := .opened, owner := c, ring := rt.ring, agePending := true } }).reply
      rt stOk []

/-- CFG_COMMIT (R81, R84): words 4 and 5 carry the launch count, 0 for none. The reply follows the validation. A launched commit
needs a place in the tracker (R62 check 7, R70). -/
def Mach.opCfgCommit (m : Mach) (rt : RTo) (c : Cls) (launch : Nat) : Mach :=
  match m.txn.state with
  | .idle => m.reply rt (if m.txn.timedOut = some c then stCfgTimeout else stCfgNone) []
  | .opened =>
    if launch ≠ 0 ∧ 2048 ≤ m.inFlight then m.reply rt stBusy []
    else { m with txn := { m.txn with state := .validating, commit := some (rt, launch), windows := 0 } }
  | .validating => m.reply rt stBadState []

/-- CFG_ROLLBACK (R85). -/
def Mach.opCfgRollback (m : Mach) (rt : RTo) : Mach :=
  match m.txn.state with
  | .idle => m.reply rt stCfgNone []
  | .opened => (m.closeTxn stOk 1).reply rt stOk []
  | .validating => m.reply rt stBadState []

/-- TRANSACTION_TIMEOUT (R86): at the strike at which an OPEN transaction reaches an age of 10,000 F. -/
def Mach.txnTimeout (m : Mach) : Mach :=
  if m.txn.state = .opened ∧ 10000 ≤ m.txn.age then
    let owner := m.txn.owner
    let ring := m.txn.ring
    let m : Mach := m.closeTxn stCfgTimeout 2
    { m with txn := { m.txn with timedOut := some owner } }.raise srcCxl .corr
      (place owner.code 0 ||| place ring 4)
  else m

/-- The age advances at each strike from 0 at the first one after CFG_BEGIN, saturating at 10,000 (R78, R79). -/
def TxnSt.tick (t : TxnSt) : TxnSt :=
  if t.state = .idle then t
  else if t.agePending then { t with agePending := false, age := 0 }
  else { t with age := satAdd t.age 1 10000 }

/-- TRANSACTION_TIMEOUT. -/
def execTransactionTimeout (s : State) : Host.Outcome State Fault Refusal := s.on Mach.txnTimeout

end Sys2Proof.Machine
end

