-- ==== Sys2Proof/Machine/Training.lean ====
section
/-! DEFINITION. Model loads (R274–R276) and online training with its generations (R280–R288): cycles, re-encoding,
adoption, the share of R245. -/

namespace Sys2Proof.Machine

/-! ## Model packages -/

/-- The largest weights and code areas of a slot's banks (R273). -/
def bankRoom (b : Nat) : Nat × Nat := if b < 2 then (copyBytes, 0x1000000) else (0x180000000, 0x80000000)

/-- A package header's fields (R274). -/
structure PkgHdr where
  trainable : Bool
  wOff : Nat
  wLen : Nat
  iOff : Nat
  iLen : Nat
  tOff : Nat
  tLen : Nat
  scratch : Nat
  lr : Word
  digest : List Byte

/-- The header of a package. -/
def pkgHdr (h : List Byte) : PkgHdr :=
  { trainable := bit (BitVec.ofNat 32 (word32At h 4)) 16
    wOff := word32At h 0x08
    wLen := word32At h 0x0C
    iOff := word32At h 0x10
    iLen := word32At h 0x14
    tOff := word32At h 0x18
    tLen := word32At h 0x1C
    scratch := word32At h 0x20
    lr := BitVec.ofNat 32 (word32At h 0x24)
    digest := (h.drop 0x40).take 32 }

/-- Check 4 of R275: magic, kind, version, reserved fields, offsets inside the length. -/
def pkgHeaderOk (h : List Byte) (slot len : Nat) : Bool :=
  let w1 := BitVec.ofNat 32 (word32At h 4)
  let p := pkgHdr h
  decide (256 ≤ len) && decide (word32At h 0 = 0x4D504B47) && field w1 7 0 == slot + 1 && field w1 15 8 == 1
    && field w1 31 17 == 0 && (h.drop 0x60).all (fun b => b == 0)
    && decide (p.wOff + p.wLen ≤ len) && decide (p.iOff + p.iLen ≤ len) && decide (p.tOff + p.tLen ≤ len)
    && decide (128 ≤ p.iLen)

/-- Bundles and descriptors of a program block: job record template, descriptor table, bundles (R274). -/
def blockShape (blk : List Byte) : Nat × Nat := (word32At blk 0x14 % 512, word32At blk 0x10 % 2097152)

/-- Whether a bundle of a program block holds BRWR in slot 0 (R275). -/
def blockHasBrwr (blk : List Byte) : Bool :=
  let s := blockShape blk
  (List.range s.2).any (fun b => (blk.getD (128 + 64 * s.1 + 64 * b) 0).toNat == 8)

/-- Whether a program block's template sets uses_variable (R275). -/
def blockVariable (blk : List Byte) : Bool := bit (BitVec.ofNat 32 (word32At blk 4)) 16

/-- A part of a package. -/
def partOf (bs : List Byte) (off len : Nat) : List Byte := (bs.drop off).take len

/-- Whether a bank is active (R293): selected by fc_bank, or run by the last hall step. -/
def Mach.bankActive (m : Mach) (b : Nat) : Bool := if b < 2 then m.fcBank == b else m.fc.hallRan == some b

/-- R9 for a model slot: anvil_service, tiles in service, and for the dispatch slot stack 0, in which its banks lie (R273). -/
def Mach.slotUnit (m : Mach) (slot : Nat) : Option Nat :=
  if m.sys.tiles = 0 ∨ (slot = 1 ∧ !m.sys.stks.testBit 0) then some stUnitAbsent
  else if m.tilesShown = 0 ∨ (slot = 1 ∧ !(m.stackSt 0).inService) then some stUnitOut
  else none

/-- The checks of R275 in order, then readiness (R523); reserved bits of word 4 come with the parameters, and R9's unit out of service
with check 1. -/
def Mach.modelCheck (m : Mach) (c : Cls) (w4 : Word) (pkg len : Nat) : Option Nat :=
  let slot := field w4 0 0
  let b := 2 * slot + field w4 1 1
  let h := m.bytes pkg 256
  let p := pkgHdr h
  let inf := m.bytes (pkg + p.iOff) p.iLen
  let tr := m.bytes (pkg + p.tOff) p.tLen
  let room := bankRoom b
  if field w4 31 2 ≠ 0 ∨ pkg % 4096 ≠ 0 then some stBadParam
  else if (m.slotUnit slot).isSome then m.slotUnit slot
  else if m.bankActive b || m.fc.loads.any (fun l => l.bank == b) then some stBadState
  else if len = 0 ∨ !m.anvilMay c false (pkg, len) then some stRegion
  else if !pkgHeaderOk h slot len then some stModelBad
  else if room.1 < p.wLen ∨ room.2 < p.iLen + p.tLen + p.scratch then some stModelFit
  else if blockVariable inf || (p.trainable && blockVariable tr) then some stVariableRefused
  else if slot == 0 && (blockHasBrwr inf || (p.trainable && blockHasBrwr tr)) then some stModelBad
  else if !m.ready fnAnvil then some stBadState
  else if 2048 ≤ m.inFlight then some stBusy
  else none

/-- MODEL_LOAD (R275). -/
def Mach.opModelLoad (m : Mach) (rt : RTo) (c : Cls) (w4 : Word) (pkg len : Nat) : Mach :=
  match m.modelCheck c w4 pkg len with
  | some st => m.reply rt st []
  | none =>
    let b := 2 * field w4 0 0 + field w4 1 1
    let r := m.addOp rt c
    let m : Mach := { r.1 with fc.loads := r.1.fc.loads ++ [⟨r.2, b, some pkg, len, []⟩] }
    let m := m.setBank b (fun k => { k with valid := false, loading := true })
    if rt.tag = 0 then m else m.reply rt stAccepted []

/-- A package placed in a bank (R273, R275): the weights in both copies of a forecaster bank, the inference block at the
head of the code area and the training block behind it. -/
def Mach.placePackage (m : Mach) (b : Nat) (pkg : List Byte) : Mach :=
  let p := pkgHdr pkg
  let ws := partOf pkg p.wOff p.wLen
  let inf := partOf pkg p.iOff p.iLen
  let m := (m.storeAll (bankBase b) ws).1
  let m := if b < 2 then (m.storeAll (bankBase b + copyBytes) ws).1 else m
  let m := (m.storeAll (bankCode b) inf).1
  let m := if p.trainable then (m.storeAll (bankCode b + p.iLen) (partOf pkg p.tOff p.tLen)).1 else m
  let s := blockShape inf
  m.setBank b (fun _ =>
    { valid := true, loading := false, trainable := p.trainable, weights := p.wLen, digest := p.digest,
      descCount := s.1, progLen := s.2, gen := none, copyB := false, lr := p.lr })

/-- A load ends (R275): the bank invalid unless the digest matched. -/
def Mach.endLoad (m : Mach) (l : LoadSt) (status : Nat) : Mach :=
  let m : Mach := { m with fc.loads := m.fc.loads.filter (fun x => x.bank != l.bank) }
  (m.setBank l.bank (fun k => { k with loading := false })).endOp l.op status []

/-- The end of a package's last block (R275, R276): the digest decides, but for the built-in package of the application image, which the
image's own signature covers; it is trainable, and fc_bank then selects it. -/
def Mach.loadEnds (m : Mach) (l : LoadSt) (data : List Byte) : Mach :=
  match l.addr with
  | some _ =>
    if sha3_256 (data.drop 256) != (pkgHdr data).digest then m.endLoad l stModelDigest
    else (m.placePackage l.bank data).endLoad l stOk
  | none =>
    (((m.placePackage l.bank data).setBank l.bank (fun k => { k with trainable := true })).setSt .avFcCtrl (putBit (m.rd .avFcCtrl) 8 false)).endLoad l stOk

/-- The safe point of a load whose package goes on (R72, R73): a standing suspension or cancellation takes hold. -/
def Mach.loadPoint (m : Mach) (l : LoadSt) : Mach :=
  match m.opById l.op with
  | none => m
  | some o =>
    match o.state with
    | .suspending => (m.setOp l.op .suspended).notify o.rt stSuspended []
    | .cancelling => m.endLoad l stCancelled
    | _ => m

/-- One 64 KiB block copied (R275), the safe point behind it (R72); after the last block the load ends, also one that was to be suspended or
cancelled (R73). -/
def Mach.loadBlock (m : Mach) (b : Nat) : Mach :=
  match m.fc.loads.find? (fun l => l.bank == b) with
  | none => m
  | some l =>
    if !(m.opById l.op).any (fun o => decide (o.state ≠ .suspended)) then m
    else
      let m := m.noteResumed l.op
      let n := min 65536 (l.len - l.data.length)
      let done := l.data.length
      if l.addr.any (fun a => m.poisonIn (a + done) n) then
        (l.addr.elim m (fun a => m.checkRead (a + done) n)).endLoad l stMemPoison
      else
        let data := l.data ++ (match l.addr with
          | some a => m.bytes (a + done) n
          | none => (Config.builtinPackage.drop done).take n)
        if data.length < l.len then
          ({ m with fc.loads := m.fc.loads.map (fun x => if x.bank == b then { x with data := data } else x) } : Mach).loadPoint l
        else m.loadEnds l data

/-- Where the commands of the application firmware itself come from: ring 9, under a tag of its class (R69). -/
def Mach.fwRt (m : Mach) (tag op : Nat) : RTo := ⟨9, (m.ring 9).epoch, tag, op, m.rd (.cxCmdSeq 9)⟩

/-- BUILTIN_PACKAGE_LOAD (R276): where application firmware runs, its MODEL_LOAD of the built-in package into bank 0 under tag 0x7EF. -/
def Mach.loadBuiltin (m : Mach) : Mach :=
  if !m.id.appRun || !m.ready fnAnvil || (m.bank 0).valid || (m.bank 0).loading || m.tagHeld 0x7EF || decide (2048 ≤ m.inFlight) then m
  else
    let rt := m.fwRt 0x7EF ocModelLoad
    let r := m.addOp rt .fw
    let m : Mach := { r.1 with fc.loads := r.1.fc.loads ++ [⟨r.2, 0, none, Config.builtinPackage.length, []⟩] }
    (m.setBank 0 (fun k => { k with loading := true })).reply rt stAccepted []

/-! ## Training (R280–R286) -/

/-- The rack of a position (R325). -/
def rackOf (pos : Nat) : Nat := pos / 32

/-- The trainers a plan lists for a rack, as rank and position (R329). -/
def Plan.trainers (p : Plan) (rack : Nat) : List (Nat × Nat) :=
  (p.shelves.filter (fun s => rackOf s.pos == rack)).flatMap (fun s =>
    (if s.trainerA = 0 then [] else [(s.trainerA, s.pos)]) ++ (if s.trainerB = 0 then [] else [(s.trainerB, s.pos + 1)]))

/-- Whether this module is the acting trainer (R280): its own outside a domain or in a rack without trainers; else listed,
with no module of a lower rank known to train. -/
def Mach.acting (m : Mach) : Bool :=
  let ts := ((m.plan.map (fun p => p.trainers (rackOf m.sys.position))).getD [])
  if !m.time.inDomain ∨ ts.isEmpty then true
  else
    match ts.find? (fun t => t.2 == m.sys.position) with
    | none => false
    | some own => !(m.fc.trainer.any (fun p => ts.any (fun t => t.2 == p && decide (t.1 < own.1))))

/-- Whether a word is a finite FP32 above 0 (R282). -/
def finitePositive (w : Word) : Bool :=
  match f32val w with
  | .fin neg k _ => !neg && decide (k ≠ 0)
  | _ => false

/-- The checks of R282 in order, then readiness (R523). -/
def Mach.trainCheck (m : Mach) (w4 lr : Word) : Option Nat :=
  let lag := field w4 11 8
  let bk := m.bank m.fcBank
  if !m.sys.train then some stUnitAbsent
  else if m.opcodeHeld ocTrainRun ∨ !bk.valid ∨ !bk.trainable then some stBadState
  else if field w4 7 0 = 0 ∨ 64 < field w4 7 0 ∨ lag < 2 ∨ 9 < lag ∨ field w4 31 12 ≠ 0 ∨ (lr ≠ 0 ∧ !finitePositive lr) then
    some stBadParam
  else if !m.ready fnTrain then some stBadState
  else if 2048 ≤ m.inFlight then some stBusy
  else none

/-- TRAIN_RUN (R282). -/
def Mach.opTrainRun (m : Mach) (rt : RTo) (c : Cls) (w4 lr cycles : Word) : Mach :=
  match m.trainCheck w4 lr with
  | some st => m.reply rt st []
  | none =>
    let r := m.addOp rt c
    let t : TrainSt := ⟨r.2, rt.tag, field w4 7 0, field w4 11 8, lr, if cycles = 0 then none else some cycles.toNat, none⟩
    let m : Mach := { r.1 with fc.train := some t }
    m.reply rt stAccepted []

/-- AUTO_TRAIN_RUN (R282): firmware's own run under tag 0x700. -/
def Mach.autoTrain (m : Mach) : Mach :=
  if m.id.appRun && bit (m.rd .avFcCtrl) 29 && m.ready fnForecast && m.trainEn && !m.opcodeHeld ocTrainRun && !m.tagHeld 0x700
      && (m.trainCheck 0x308 0).isNone then
    m.opTrainRun (m.fwRt 0x700 ocTrainRun) .fw 0x308 0 0
  else m

/-- The training run's operation runs. -/
def Mach.trainLive (m : Mach) (t : TrainSt) : Bool := (m.opById t.op).any (fun o => decide (o.state = .running))

/-- What a training cycle reads (R281): the active bank, the training state and the history. -/
def Mach.trainReads (m : Mach) : List (Nat × Nat) :=
  [(m.runningCopy m.fcBank, (m.bank m.fcBank).weights), (bankCode m.fcBank, 0x1000000), (trainArea, trainRoom), (histBase, 0x8000000)]

/-- Whether training would read a poisoned line (R211, R286): in the active bank, the training state or the history, or with stack 0, in which
the training state lies, out of service since the cycle's start. -/
def Mach.trainPoison (m : Mach) : Bool := m.meetsPoison m.trainReads || !(m.stackSt 0).inService || !m.fc.opt

/-- The optimizer state as it lies in the training state area (R281): FP32 master weights and moments, as many bytes as the package's
optimizer needs (notes/assumptions/5). -/
def Mach.optBytes (m : Mach) : List Byte := m.bytes trainArea (min (Config.trainLen (m.bank m.fcBank).digest) trainRoom)

/-- The optimizer state after some steps of cycle n (R281): on the origins of window n whose run completed, with the window's history; a
learning rate of 0 is the package's default (R282). -/
def Mach.trainSteps (m : Mach) (t : TrainSt) (n steps : Nat) : List Byte :=
  let b := m.fcBank
  let from_ := 100000 * (n - 1)
  Config.trainNext m.optBytes (m.fc.origins.filter (fun c => decide (from_ ≤ c.1) && decide (c.1 < from_ + 100000)))
    steps (if t.lr = 0 then (m.bank b).lr else t.lr) (m.bytes (bankCode b) 0x1000000) (m.histRows from_ 100000)

/-- The end of a cycle (R282): the last one ends the run. -/
def Mach.endCycle (m : Mach) : Mach :=
  match m.fc.train with
  | none => m
  | some t =>
    if t.cycle.isNone then m
    else
      let left := t.left.map (fun l => l - 1)
      if left = some 0 then { m with fc.train := none }.endOp t.op stOk []
      else { m with fc.train := some { t with cycle := none, left := left } }

/-- A poisoned line ends the cycle under way without a generation (R211, R286). -/
def Mach.poisonCycle (m : Mach) : Mach := (m.orReg .avArithStat fPoison).endCycle

/-- Another module is the acting trainer from now on (R280, R285): a cycle under way here ends without a generation, and a later one of this
module starts from the weights that it then runs. -/
def Mach.yieldTraining (m : Mach) : Mach :=
  { m with fc.opt := false, fc.train := m.fc.train.map (fun t => { t with cycle := none }) }

/-- A change of the forecaster bank ends the cycle under way without a generation, and the next one starts afresh (R285). -/
def Mach.bankCycle (m : Mach) : Mach := { m.endCycle with fc.opt := false }

/-- A suspension ends the cycle under way after its present optimizer step, of which the clock alone knows the number; the optimizer state
stays (R72, R282, R291). -/
def Mach.dropCycle (m : Mach) : Mach :=
  match m.fc.train with
  | none => m
  | some t =>
    match t.cycle with
    | none => m
    | some n =>
      let f := m.take
      { f.2.putTrainArea 0 (m.trainSteps t n (1 + f.1.toNat % t.steps)) with fc.train := some { t with cycle := none } }

/-- TRAINING_CYCLE_START (R281, R285): cycle n at count 100,000 · n, on the acting trainer; one that was not acting takes its master weights
from those that it runs. -/
def Mach.cycleStart (m : Mach) : Mach :=
  match m.fc.train with
  | none => m
  | some t =>
    if m.time.count % 100000 ≠ 0 ∨ m.time.count = 0 ∨ t.cycle.isSome ∨ !m.trainLive t ∨ !m.trainEn ∨ !m.anvilOn
        ∨ !(m.bank m.fcBank).trainable then m
    else if !m.acting then m.yieldTraining
    else
      let m := m.noteResumed t.op
      { if m.fc.opt then m else m.putTrainArea 0 (Config.trainInit m.runningWeights) with
        fc.train := some { t with cycle := some (m.time.count / 100000) }
        fc.opt := true
        anvil.trained := true }

/-- The modules that take this module's generations (R287): those of its rack. -/
def Mach.receivers (m : Mach) : List Nat :=
  match m.plan with
  | none => []
  | some p =>
    if (p.trainers (rackOf m.sys.position)).isEmpty then []
    else (p.shelves.filter (fun s => rackOf s.pos == rackOf m.sys.position)).flatMap (fun s => [s.pos, s.pos + 1])
      |>.filter (fun q => q != m.sys.position)

/-- A cycle's result becomes the generation in the receiving copy, and goes out to the receivers (R281, R287, R355). -/
def Mach.makeGeneration (m : Mach) (n lag : Nat) : Mach :=
  let b := m.fcBank
  let len := (m.bank b).weights
  let ws := (List.range len).map (Config.trainedByte m.optBytes)
  let m := (m.storeAll (m.receivingCopy b) ws).1
  let h : GenHdr := ⟨n, 100000 * (n + lag), (m.bank b).digest, sha3_256 ws, len, m.sys.position⟩
  let rs := m.receivers
  { m with
    fc.gens := m.fc.gens ++ [⟨h, (List.range (genFrames h)).map (fun i => (i, partOf ws (4096 * i) 4096)), true, false, 0, 0⟩]
    fc.due := m.fc.due ++ [(h.adopt, n)]
    fc.trainer := none
    fc.sending := if rs.isEmpty then none else some ⟨h, rs.map (fun r => (r, List.range (genFrames h)))⟩ }

/-- Whether training or a re-encoding has the anvil and comes to its end there (R241, R245). -/
def Mach.levelTwoRuns (m : Mach) : Bool := m.levelTwo && m.anvilFree 2

/-- Whether the last step of a run's last cycle is its natural end, which a suspension or cancellation under way does not take from it
(R73). -/
def Mach.trainLast (m : Mach) (t : TrainSt) : Bool :=
  t.left == some 1 && (m.opById t.op).any (fun o => decide (o.state = .suspending ∨ o.state = .cancelling))

/-- TRAINING_CYCLE_DONE (R281, R282, R286): the steps of the cycle are done, while its run goes on (R27, R280), or at its natural end (R73);
a generation if its adoption count still lies ahead and training is enabled. -/
def Mach.cycleDone (m : Mach) : Mach :=
  match m.fc.train with
  | none => m
  | some t =>
    match t.cycle with
    | none => m
    | some n =>
      if !((m.trainLive t && m.trainEn) || m.trainLast t) ∨ !m.acting ∨ !m.levelTwoRuns then m
      else if m.trainPoison then (m.checkReads m.trainReads).poisonCycle
      else
        let m : Mach := m.otherBundles.putTrainArea 0 (m.trainSteps t n t.steps)
        (if m.trainEn && decide (m.time.count < 100000 * (n + t.lag)) then m.makeGeneration n t.lag else m).endCycle

/-- The oldest generation of a list that awaits its re-encoding becomes encoded. -/
def encodeFirst (f : GenSt → GenSt) : List GenSt → List GenSt
  | [] => []
  | g :: gs => if g.kept && !g.encoded then f g :: gs else g :: encodeFirst f gs

/-- REENCODE_DONE (R284): work of level 2 that counts toward the training share. A re-encoding that met a poisoned line is discarded
(R211). -/
def Mach.reencoded (m : Mach) : Mach :=
  if !m.levelTwoRuns || !m.fc.gens.any (fun g => g.kept && !g.encoded) then m
  else if m.meetsPoison (m.encodeReads (m.receivingCopy m.fcBank)) then m.poisonWork (m.encodeReads (m.receivingCopy m.fcBank))
  else
    { m.otherBundles with
      anvil.trained := true
      fc.gens := encodeFirst (fun g => { g with encoded := true, encTo := m.time.count - 3, enc := m.encodeAll g.bytes }) m.fc.gens }

/-- Whether a generation is this module's own while training is not enabled, which keeps it from its own weights (R24, R27, R291). -/
def Mach.withheld (m : Mach) (g : GenSt) : Bool := g.hdr.trainer == m.sys.position && !m.trainEn

/-- Whether a generation held may be adopted at the present count (R283). -/
def Mach.adoptable (m : Mach) (g : GenSt) : Bool :=
  g.kept && g.encoded && decide (g.hdr.adopt ≤ m.time.count) && g.hdr.package == (m.bank m.fcBank).digest && !m.withheld g

/-- The newest of a list of generations. -/
def newestGen : List GenSt → Option GenSt
  | [] => none
  | g :: gs =>
    match newestGen gs with
    | some h => if g.hdr.n ≤ h.hdr.n then some h else some g
    | none => some g

/-- A generation becomes the running copy (R283). -/
def Mach.adopt (m : Mach) (g : GenSt) : Mach :=
  let b := m.fcBank
  let m := (m.storeAll (m.receivingCopy b) g.bytes).1
  let m := m.setBank b (fun k => { k with gen := some g.hdr.n, copyB := !k.copyB })
  { m with
    fc.gens := m.fc.gens.filter (fun h => decide (g.hdr.n < h.hdr.n))
    fc.modelGen := (m.fc.modelGen + 1) % 256
    fc.enc := g.enc
    fc.encTo := g.encTo
    fc.lagging := false }

/-- GENERATION_ADOPT (R283, R288): at an announced adoption count, the newest generation that may be adopted; where the
one announced for this count is not there, late_cnt counts it. -/
def Mach.adoptGeneration (m : Mach) : Mach :=
  match m.fc.due.find? (fun d => d.1 == m.time.count) with
  | none => m
  | some d =>
    let m : Mach := { m with fc.due := m.fc.due.filter (fun d => decide (m.time.count < d.1)) }
    match newestGen (m.fc.gens.filter m.adoptable) with
    | some g =>
      let m' := m.adopt g
      if g.hdr.n < d.2 then { m' with fc.late := satAdd m.fc.late 1 65535 } else m'
    | none =>
      if m.fc.gens.any (fun g => g.hdr.n == d.2 && m.withheld g) then m
      else { m with fc.lagging := true, fc.late := satAdd m.fc.late 1 65535 }

/-- TRAIN_CAP_PARK (R245): training has reached train_cap percent of its window, which it cannot before the window's end where train_cap is
100, and gives way for the rest of it while user work waits. -/
def Mach.trainPark (m : Mach) : Mach :=
  if m.trainWork && decide (m.rdField .avSchedCfg 6 0 < 100) && m.anvil.jobs.any (fun j => decide (3 ≤ j.level)
      && (decide (j.phase = .queued) || decide (j.phase = .parked))) then
    { m with anvil.capped := true }
  else m

/-- Whether the trainer that this module follows is known to train (R280): a generation that it announced still awaits its adoption count
(DESIGN CHOICE, notes/assumptions/74). -/
def Mach.trainerKnown (m : Mach) : Bool := m.fc.due.any (fun d => decide (m.time.count < d.1))

/-- The end of a share window of 100,000 F (R245): its share, which only the hardware's clock knows and which is at least train_cap where
training was parked at it, and a new window. -/
def Mach.shareWindow (m : Mach) : Mach :=
  if m.time.count % 100000 ≠ 0 then m
  else
    let t := m.take
    let least := if m.anvil.capped then min 100 (m.rdField .avSchedCfg 6 0) else 0
    let share := if m.anvil.trained then least + t.1.toNat % (101 - least) else 0
    let m' : Mach := if m.anvil.trained then t.2 else m
    { m'.wr .avTrainShare (place share 0) with
      anvil.capped := false, anvil.trained := m'.trainWork,
      fc.trainer := if m.trainerKnown then m.fc.trainer else none }

/-- train_en cleared (R291): the run goes to suspended after its present step. -/
def Mach.trainOff (m : Mach) : Mach :=
  match m.fc.train with
  | some t => if m.trainLive t then m.setOp t.op .suspending else m
  | none => m

/-- At a strike: a cycle under way on a module that is not the acting trainer any more is dropped (R280). -/
def Mach.trainerStrike (m : Mach) : Mach :=
  if m.fc.train.any (fun t => t.cycle.isSome) && !m.acting then m.yieldTraining else m

/-- A generation that has arrived is checked (R287). -/
def Mach.generationComplete (m : Mach) : Mach :=
  match m.fc.gens.find? (fun g => !g.kept && g.parts.length == genFrames g.hdr) with
  | none => m
  | some g =>
    let drop : Mach := { m with fc.gens := m.fc.gens.filter (fun h => h.hdr != g.hdr) }
    if sha3_256 g.bytes != g.hdr.digest then drop.raise srcForecast .corr (place g.hdr.trainer 0)
    else if g.hdr.package != (m.bank m.fcBank).digest then drop.raise srcForecast .info (place g.hdr.trainer 0)
    else { m with fc.gens := m.fc.gens.map (fun h => if h.hdr == g.hdr then { h with kept := true } else h) }

/-- `AV_TR_STAT` (R294). -/
def Mach.trStat (m : Mach) : Word :=
  let st := match m.fc.train with
    | none => 0
    | some t => if (m.opById t.op).any (fun o => decide (o.state = .suspended)) then 3 else if m.acting then 1 else 2
  place st 28 ||| flag m.fc.lagging 27 ||| flag (m.fc.trainer.isSome && !m.acting) 26 ||| place m.fc.modelGen 16 ||| place m.fc.late 0

/-- `AV_MDL_BANK_b` (R294). A bank that holds no package shows active 0: R293 resets the register of the bank that fc_bank selects at reset
to 0 (DEDUCED, notes/assumptions/77). -/
def Mach.bankWord (m : Mach) (b : Nat) : Word :=
  let k := m.bank b
  flag k.valid 31 ||| flag (k.valid && m.bankActive b) 30 ||| flag k.trainable 29 ||| flag k.loading 28
    ||| place (if k.valid then (k.weights + 0xFFFFF) / 0x100000 else 0) 0

/-- MODEL_LOAD_BLOCK (R275). -/
def execModelLoadBlock (bank : Nat) (s : State) : Host.Outcome State Fault Refusal := s.on (fun m => m.loadBlock bank)

/-- BUILTIN_PACKAGE_LOAD (R276). -/
def execBuiltinPackageLoad (s : State) : Host.Outcome State Fault Refusal := s.on Mach.loadBuiltin

/-- AUTO_TRAIN_RUN (R282). -/
def execAutoTrainRun (s : State) : Host.Outcome State Fault Refusal := s.on Mach.autoTrain

/-- TRAINING_CYCLE_START (R281). -/
def execTrainingCycleStart (s : State) : Host.Outcome State Fault Refusal := s.on Mach.cycleStart

/-- REENCODE_DONE (R284). -/
def execReencodeDone (s : State) : Host.Outcome State Fault Refusal := s.on Mach.reencoded

/-- GENERATION_ADOPT (R283). -/
def execGenerationAdopt (s : State) : Host.Outcome State Fault Refusal := s.on Mach.adoptGeneration

/-- TRAIN_CAP_PARK (R245). -/
def execTrainCapPark (s : State) : Host.Outcome State Fault Refusal := s.on Mach.trainPark

/-- GENERATION_COMPLETE (R287). -/
def execGenerationComplete (s : State) : Host.Outcome State Fault Refusal := s.on Mach.generationComplete

end Sys2Proof.Machine
end

