-- ==== Sys2Proof/Machine/PeerLinks.lean ====
section
/-! DEFINITION. Peer links (R318–R335, R356–R359): the retry buffer, identity and link states, the plan image and its
checks, connector health and maintenance. A frame leaves a mark in the retry buffer of its link until it is
acknowledged or declared lost. -/

namespace Sys2Proof.Machine

/-- A peer link. -/
def Mach.peer (m : Mach) (n : Nat) : PeerLinkSt := m.peers.getD n PeerLinkSt.reset

/-- A peer link changed. -/
def Mach.setPeer (m : Mach) (n : Nat) (f : PeerLinkSt → PeerLinkSt) : Mach := { m with peers := m.peers.modify n f }

/-- The links in service, ascending. -/
def Mach.serviceLinks (m : Mach) : List Nat := (List.range m.sys.links).filter (fun n => decide ((m.peer n).st = .service))

/-- This module's position, 0xFFFF with invalid straps (R325, R326). -/
def Mach.ownPos (m : Mach) : Nat := if m.sys.strapOk then m.sys.position else 0xFFFF

/-- Bits [15:0] of the active plan_id (R320). -/
def Mach.planTag (m : Mach) : Nat := (m.plan.map (fun p => p.id % 65536)).getD 0

/-! ## Sending, acknowledging, delivering (R320–R324) -/

/-- The code of a frame type (R321). -/
def FrameType.code : FrameType → Nat
  | .ident => 0x01
  | .leave => 0x02
  | .health => 0x03
  | .time => 0x10
  | .superframe => 0x11
  | .report => 0x12
  | .table => 0x13
  | .partialSum => 0x14
  | .claim => 0x15
  | .sliceCopy => 0x20
  | .gen => 0x21
  | .xferAck _ => 0x22

/-- The traffic class of a frame type (R321, R322). -/
def FrameType.cls : FrameType → Nat
  | .ident | .health => 1
  | .leave | .time | .superframe | .report | .table | .partialSum | .claim => 0
  | .sliceCopy | .xferAck true => 2
  | .gen | .xferAck false => 3

/-- The frame type of a code, none where it is unknown (R321); the class tells the two acknowledgements apart. -/
def frameType (c cls : Nat) : Option FrameType :=
  ([.ident, .leave, .health, .time, .superframe, .report, .table, .partialSum, .claim, .sliceCopy, .gen, .xferAck (cls == 2)] :
    List FrameType).find? (fun t => t.code == c)

/-- The header of a frame as words (R320). -/
def headerWords (h : PeerHdr) : List Word :=
  [place h.type 0 ||| place h.cls 8 ||| place h.length 16, place h.src 0 ||| place h.dst 16, place h.seq 0 ||| place h.ack 16,
   place h.term 0 ||| place h.planTag 16]

/-- Whether a received frame is one of a type (R320, R321): whole words and at most 4,096 bytes of payload, CRC and type. -/
def frameSound (h : PeerHdr) (t : FrameType) : Bool :=
  h.length == h.payload.length && h.length % 4 == 0 && decide (h.length ≤ 4096) && h.type == t.code
    && h.crc == crc32 (wordsBytes (headerWords h) ++ h.payload)

/-- The destination of a flooded or link-local frame (R320). -/
abbrev toAll : Nat := 0xFFFF

/-- A frame sent on a link and kept for retransmission (R320, R323); a frame sent on for another module keeps its sender. -/
def Mach.sendOn (m : Mach) (t : FrameType) (dst n : Nat) (src : Option Nat := none) : Mach :=
  m.setPeer n (fun l =>
    { l with
      tx := (l.tx + 1) % 65536
      retry := l.retry ++ [⟨(l.tx + 1) % 65536, 0, t, t.cls, src.getD m.ownPos, dst, l.rx, m.hall.term, m.planTag⟩] })

/-- Whether a link carries classes 0, 2 and 3 (R333). -/
def Mach.carries (m : Mach) (n : Nat) : Bool := decide ((m.peer n).st = .service) && (m.peer n).farOk

/-- Whether a link carries frames of a type now (R333, R334). -/
def Mach.carriesType (m : Mach) (n : Nat) (t : FrameType) : Bool :=
  let st := (m.peer n).st
  if t = .ident ∨ t = .health then decide (st = .ident ∨ st = .held ∨ st = .service) else m.carries n

/-- A frame on every link in service but one (R336). -/
def Mach.flood (m : Mach) (t : FrameType) (except : Option Nat) (src : Option Nat := none) : Mach :=
  (m.serviceLinks.filter (fun n => some n != except && m.carries n)).foldl (fun m n => m.sendOn t toAll n src) m

/-- Whether sequence number a lies above b (R320, modulo 2^16). -/
def seqAbove (a b : Nat) : Bool := let d := (a + 65536 - b % 65536) % 65536; decide (1 ≤ d) && decide (d ≤ 32767)

/-- The higher of two terms (R343). -/
def maxTerm (a b : Nat) : Nat := if seqAbove a b then a else b

/-- What the header of a sound frame tells its link (R320, R323, R324): frames it acknowledges leave the retry buffer and their skip markers
are done; and the numbers skipped ahead of it. -/
def PeerLinkSt.noted (l : PeerLinkSt) (h : PeerHdr) : PeerLinkSt :=
  { l with
    retry := l.retry.filter (fun r => seqAbove r.seq h.ack)
    skipOut := l.skipOut.filter (fun s => seqAbove s h.ack)
    skips := l.skips ++ h.skipped.filter (fun s => seqAbove s l.rx) }

/-- What the header of a sound frame tells the module: its link, and the highest term seen (R343). -/
def Mach.noteHeader (m : Mach) (h : PeerHdr) : Mach :=
  { m.setPeer h.link (fun l => l.noted h) with hall.high := maxTerm h.term m.hall.high }

/-- A frame that is neither delivered nor waiting yet waits for its turn (R323). -/
def PeerLinkSt.keep (l : PeerLinkSt) (seq : Nat) (i : Instr) : PeerLinkSt :=
  if seqAbove seq l.rx && !l.early.any (fun x => x.1 == seq) then { l with early := l.early ++ [(seq, i)] } else l

/-- The number that a link delivers next (R323). -/
def PeerLinkSt.due (l : PeerLinkSt) : Nat := (l.rx + 1) % 65536

/-- A link whose next number has been delivered or skipped. -/
def PeerLinkSt.passed (l : PeerLinkSt) : PeerLinkSt :=
  { l with rx := l.due, early := l.early.filter (fun x => x.1 != l.due), skips := l.skips.filter (fun s => s != l.due) }

/-- PEER_RETRANSMIT (R323): at most three times. -/
def Mach.retransmit (m : Mach) (n seq : Nat) : Mach :=
  if (m.peer n).retry.any (fun r => r.seq == seq && decide (r.tries < 3)) then
    (m.setPeer n (fun l => { l with retry := l.retry.map (fun r => if r.seq == seq then { r with tries := r.tries + 1 } else r) })).bump
      (.plLinkErr n) 31 24 1
  else m

/-! ## Leaving service (R324, R334) -/

/-- The detail word of a peer link's fault (R405). -/
def linkDetail (health hold : Nat) : Word := place health 0 ||| place hold 4

/-- The module leaves the domain (R97, R334, R39): it keeps no role (R352), follows no trainer (R280), and a SLICE_REPLACE of its ends,
as a master's that steps down (R354). A message that waits for its superframe start applies no more: the last band stays (R97). -/
def Mach.leaveDomain (m : Mach) : Mach :=
  let m : Mach := m.hall.roles.foldl (fun m r =>
    m.emit evPlacement .info [1, BitVec.ofNat 32 r.slice, 0, BitVec.ofNat 32 m.sys.position]) m
  let m : Mach := { m.staleBand with
    time.inDomain := false
    time.state := .free
    time.offset := 0
    time.adoptDelta := none
    fc.trainer := none
    hall.isMaster := false
    hall.msg := none
    hall.parts := []
    hall.stepDown := none
    hall.step := none
    hall.roles := []
    hall.oldCopies := [] }
  match m.hall.replace with
  | some r => ({ m with hall.replace := none } : Mach).endOp r.op stBadState []
  | none => m

/-- What follows when a link has left SERVICE: a module of a domain without any link leaves it, with a SEVERE fault. -/
def Mach.checkAlone (m : Mach) : Mach :=
  if m.time.inDomain && m.serviceLinks.isEmpty then (m.raise srcHall .severe (place m.ownPos 0)).leaveDomain else m

/-- A link has left SERVICE by a fault or for maintenance (R8): `SY_CAP1` counts one link less, those that only a disable or a reset
holds down still among them. -/
def Mach.linkOut (m : Mach) : Mach := { m with sys.keptLinks := max m.linksIn (m.sys.keptLinks - 1) }

/-- A link whose traffic starts anew: no frame sent or received on it counts any more (R324, R333). -/
def PeerLinkSt.restarted (l : PeerLinkSt) : PeerLinkSt :=
  { l with hold := 0, farOk := false, tx := 0, rx := 0, retry := [], early := [], skips := [], skipOut := [], noticed := false }

/-- A link goes down (R324): its retry buffer is discarded and it retrains; its health is failed (R356). -/
def Mach.linkFails (m : Mach) (n : Nat) : Mach :=
  let l := m.peer n
  if m.sys.links ≤ n ∨ l.st = .down ∨ l.st = .maint then m
  else
    let was := decide (l.st = .service)
    let m := m.setPeer n (fun l => { l.restarted with st := .training, lostAt := [], health := 3 })
    if was then ((m.linkOut.bump (.plLinkErr n) 7 0 1).raise (srcPeerLink n) .corr (linkDetail 3 0)).checkAlone
    else if l.health = 3 then m else m.raise (srcPeerLink n) .corr (linkDetail 3 0)

/-- PEER_FRAME_LOST (R324): after the third failed retransmission a skip marker goes out; three within 100 F take the link down. -/
def Mach.frameLost (m : Mach) (n seq : Nat) : Mach :=
  if (m.peer n).retry.any (fun r => r.seq == seq && decide (3 ≤ r.tries)) then
    let m := m.setPeer n (fun l =>
      { l with retry := l.retry.filter (fun r => r.seq != seq)
               skipOut := l.skipOut ++ [seq]
               lostAt := (m.time.count : Int) :: l.lostAt.filter (fun c => decide ((m.time.count : Int) < c + 100)) })
    let m := m.bump (.plLinkErr n) 23 16 1
    if 3 ≤ (m.peer n).lostAt.length then m.linkFails n else m
  else m

/-! ## Identity (R333, R334) -/

/-- The serial a plan gives a module; 0 any. -/
def Plan.serialOf (p : Plan) (pos : Nat) : Nat :=
  match p.shelves.find? (fun s => s.pos / 2 == pos / 2) with
  | some s => if pos % 2 = 0 then s.serialA else s.serialB
  | none => 0

/-- The far end the plan pairs with an own link: position and link. -/
def Plan.farOf (p : Plan) (pos link : Nat) : Option (Nat × Nat) :=
  p.links.findSome? (fun e =>
    if e.posA = pos ∧ e.linkA = link then some (e.posB, e.linkB)
    else if e.posB = pos ∧ e.linkB = link then some (e.posA, e.linkA) else none)

/-- The hold reason of a link under the active plan; 0 none (R333, R334). -/
def Mach.holdReason (m : Mach) (n : Nat) (l : PeerLinkSt) : Nat :=
  if !m.sys.strapOk then 7
  else
    match m.plan with
    | none => 1
    | some p =>
      match p.farOf m.sys.position n with
      | none => 2
      | some (q, k) =>
        let want := p.serialOf q
        if l.farPos ≠ some q then 3
        else if want ≠ 0 ∧ l.farSerial ≠ want then 4
        else if l.farLink ≠ k then 5
        else if l.farPlan ≠ p.id then 6
        else 0

/-- Whether a link is being verified after cleaning (R358). -/
def Mach.verifying (m : Mach) (n : Nat) : Bool := m.hall.maint == 2 && m.hall.maintLink == n

/-- The verdict on a link applied (R333, R334): service, or HELD with one INFO fault where the link enters it; leaving SERVICE records a CORR
fault. A link under verification waits for its result (R358). -/
def Mach.judgeLink (m : Mach) (n : Nat) : Mach :=
  let l := m.peer n
  let r := m.holdReason n l
  if r = 0 then
    if decide (l.st = .service) || m.verifying n then m else m.setPeer n (fun l => { l with st := .service, hold := 0 })
  else
    let was := decide (l.st = .service)
    let fresh := !decide (l.st = .held)
    let m := m.setPeer n (fun l => { l with st := .held, hold := r })
    let m := if was then m.linkOut.raise (srcPeerLink n) .corr (linkDetail l.health r) else m
    let m := if fresh then m.raise (srcPeerLink n) .info (linkDetail l.health r) else m
    if was then m.checkAlone else m

/-- IDENT (R333): the far end is known and the link judged; the measurement of a link under verification starts (R358). -/
def Mach.ident (m : Mach) (h : PeerHdr) (serial pos link plan : Nat) (verdict : Bool) : Mach :=
  let m := (m.setPeer h.link (fun l =>
    { l with farSerial := serial, farPos := some pos, farLink := link, farPlan := plan, farOk := verdict })).judgeLink h.link
  if m.verifying h.link && m.hall.maintSince.isNone then { m with hall.maintSince := some m.time.count } else m

/-- PEER_LINK_LOCK (R333): a training link that locks sends IDENT. -/
def Mach.peerLock (m : Mach) (n : Nat) : Mach :=
  if n < m.sys.links ∧ (m.peer n).st = .training then
    (m.setPeer n (fun l => { l.restarted with st := .ident, farPos := none })).sendOn .ident toAll n
  else m

/-- IDENT_REPEAT (R333): every 100,000 F on links in service and in HELD. -/
def Mach.identRepeat (m : Mach) : Mach :=
  if m.time.count % 100000 ≠ 0 then m
  else
    ((List.range m.sys.links).filter (fun n => decide ((m.peer n).st = .service ∨ (m.peer n).st = .held))).foldl
      (fun m n => m.sendOn .ident toAll n) m

/-- Links start to train while peer links are enabled (R334). -/
def Mach.trainPeers (m : Mach) : Mach :=
  if m.en fnPeer then
    (List.range m.sys.links).foldl (fun m n =>
      m.setPeer n (fun l => if l.st = .down then { l with st := .training } else l)) m
  else m

/-- peer_en cleared (R27, R360): a leave notice on every link in service, links down, each with its CORR fault where it leaves SERVICE or
its health becomes failed (R334, R356), out of the domain, without a claim. A module of a domain that is so left without a link records the
SEVERE fault of R334 (notes/assumptions/64). Only a fault takes a unit out of service and disabling changes no field of `SY_CAP1` (R28): the
count it showed is kept. -/
def Mach.peersOff (m : Mach) : Mach :=
  let served := m.serviceLinks
  let m : Mach := { m.flood .leave none with sys.keptLinks := m.linksShown }
  let m : Mach := (List.range m.sys.links).foldl (fun m n =>
    if served.contains n then (m.bump (.plLinkErr n) 7 0 1).raise (srcPeerLink n) .corr (linkDetail 3 0)
    else if (m.peer n).health = 3 then m else m.raise (srcPeerLink n) .corr (linkDetail 3 0)) m
  let m : Mach := { m with
    peers := m.peers.map (fun l => { PeerLinkSt.reset with noticed := decide (l.st = .service) })
    hall.maint := 0
    hall.maintRefused := false
    hall.maintSince := none
    hall.claim := none }
  if m.time.inDomain then
    (if served.isEmpty then m else m.raise srcHall .severe (place m.ownPos 0)).leaveDomain
  else { m with time.state := .free, time.offset := 0, hall.msg := none, hall.parts := [] }

/-! ## The plan (R327–R332) -/

/-- The 32-byte shelf entry. -/
def shelfOf (b : List Byte) : ShelfEnt :=
  let w0 := BitVec.ofNat 32 (word32At b 0)
  let w1 := BitVec.ofNat 32 (word32At b 4)
  ⟨field w0 15 0, field w0 31 16, bit w1 0, bit w1 1, field w1 15 8, field w1 23 16, dwordAt b 8, dwordAt b 16⟩

/-- The 32-byte link entry. -/
def linkOf (b : List Byte) : LinkEnt :=
  let w0 := BitVec.ofNat 32 (word32At b 0)
  let w1 := BitVec.ofNat 32 (word32At b 4)
  let c := fun o h => field (BitVec.ofNat 32 (word32At b o)) (16 * h + 15) (16 * h)
  ⟨field w0 15 0, field w0 21 16, field w1 15 0, field w1 21 16, [c 8 0, c 8 1, c 12 0, c 12 1], word32At b 16 % 256⟩

/-- The parts of a plan image (R328). -/
def planOf (b : List Byte) : Plan :=
  let w1 := BitVec.ofNat 32 (word32At b 4)
  let n := field w1 31 16
  let k := word32At b 8
  { id := dwordAt b 0x10
    succ := (List.range (field w1 15 8)).map (fun p => leNat (partOf b (0x20 + 2 * p) 2))
    slices := word32At b 0x0C % 65536
    bandHalf := word32At b 0x0C / 65536
    shelves := (List.range n).map (fun i => shelfOf (partOf b (0x40 + 32 * i) 32))
    links := (List.range k).map (fun j => linkOf (partOf b (0x40 + 32 * n + 32 * j) 32)) }

/-- Reserved bits of the header and of every entry of a plan image (R328–R330). -/
def planReserved (b : List Byte) (n k : Nat) : Bool :=
  decide (dwordAt b 0x18 = 0)
    && (List.range n).all (fun i =>
      let s := partOf b (0x40 + 32 * i) 32
      let w1 := BitVec.ofNat 32 (word32At s 4)
      field w1 7 2 == 0 && field w1 31 24 == 0 && decide (dwordAt s 0x18 = 0))
    && (List.range k).all (fun j =>
      let l := partOf b (0x40 + 32 * n + 32 * j) 32
      decide (word32At l 0 / 2 ^ 22 = 0) && decide (word32At l 4 / 2 ^ 22 = 0) && decide (word32At l 16 / 256 = 0)
        && (l.drop 20).all (fun x => x == 0))

/-- Whether a list of numbers repeats none. -/
def noRepeats : List Nat → Bool
  | [] => true
  | x :: xs => !xs.contains x && noRepeats xs

/-- The modules of a plan, slot A before slot B, in plan order (R350). -/
def Plan.modules (p : Plan) : List Nat := p.shelves.flatMap (fun s => [s.pos, s.pos + 1])

/-- The holders in plan order (R350). -/
def Plan.holders (p : Plan) : List Nat :=
  p.shelves.flatMap (fun s => (if s.holderA then [s.pos] else []) ++ (if s.holderB then [s.pos + 1] else []))

/-- The neighbours of a module over the planned links. -/
def Plan.neighbours (p : Plan) (q : Nat) : List Nat :=
  p.links.filterMap (fun e => if e.posA = q then some e.posB else if e.posB = q then some e.posA else none)

/-- The modules within a number of hops of a set, without passing a forbidden one. -/
def Plan.within (p : Plan) (avoid : List Nat) : Nat → List Nat → List Nat
  | 0, s => s
  | h + 1, s => p.within avoid h ((s.flatMap p.neighbours).foldl (fun a q => if avoid.contains q then a else addOnce a q) s)

/-- Check 2 and 3 of R331: counts, reserved fields, positions, link ends, succession, slices, 8 hops. -/
def planGood (b : List Byte) : Bool :=
  let p := planOf b
  let ms := p.modules
  let ends := p.links.flatMap (fun e => [e.posA * 64 + e.linkA, e.posB * 64 + e.linkB])
  decide (word32At b 4 % 256 = 1) && decide (1 ≤ p.succ.length) && decide (p.succ.length ≤ 16)
    && decide (1 ≤ p.shelves.length) && decide (p.shelves.length ≤ 2000)
    && decide (1 ≤ p.links.length) && decide (p.links.length ≤ 96000) && decide (p.slices ≤ 2048)
    && planReserved b p.shelves.length p.links.length
    && p.shelves.all (fun s => s.pos % 2 == 0 && s.pos / 8 % 4 == 0) && noRepeats (p.shelves.map (·.pos))
    && p.links.all (fun e => ms.contains e.posA && ms.contains e.posB && e.posA != e.posB
        && decide (e.linkA < 48) && decide (e.linkB < 48))
    && noRepeats ends && p.succ.all (fun q => ms.contains q) && decide (p.slices ≤ 4 * p.holders.length)
    && p.succ.all (fun q => (p.within [] 8 [q]).length == ms.length)

/-- The status of a plan image (R331); 0 when it passes. -/
def Mach.planCheck (m : Mach) (b : List Byte) : Nat :=
  let n := field (BitVec.ofNat 32 (word32At b 4)) 31 16
  let size := 0x40 + 32 * n + 32 * word32At b 8
  if b.length < 68 ∨ b.length ≠ size + 4 ∨ word32At b 0 ≠ 0x504C4E31
      ∨ crc32 (b.take size) ≠ BitVec.ofNat 32 (word32At b size) then 0x82
  else if !planGood b then 0x80
  else
    let p := planOf b
    let s := p.serialOf m.sys.position
    if !p.modules.contains m.ownPos ∨ (s ≠ 0 ∧ s ≠ m.id.serial)
        ∨ p.links.any (fun e => (e.posA == m.sys.position && decide (m.sys.links ≤ e.linkA))
            || (e.posB == m.sys.position && decide (m.sys.links ≤ e.linkB))) then 0x81
    else 0

/-- The buffer in use (R362 active_buf). -/
def Mach.planBuf (m : Mach) : Nat := m.rdField .plPlanSel 0 0

/-- A write of `PL_PLAN_CTRL` with load (R327). -/
def Mach.planCtrlWrite (m : Mach) (v : Word) : Mach :=
  if !bit v 31 then m
  else if m.hall.loading.isSome then { m with hall.loadStatus := 0x83 }
  else
    { m with hall.loading := some (addr48 (m.rd .plPlanBaseLo) (m.rd .plPlanBaseHi), m.rdField .plPlanLen 22 0),
             hall.bufState := 1 }

/-- The copied plan checked (R327, R331). -/
def Mach.planLoaded (m : Mach) : Mach :=
  match m.hall.loading with
  | none => m
  | some (a, n) =>
    let b := m.cleanBytes a n
    let m := m.checkRead a n
    let st := m.planCheck b
    let k := 1 - m.planBuf
    if st = 0 then
      { m with hall.loading := none, hall.bufState := 2, hall.loadStatus := 0, hall.bufs := m.hall.bufs.set k (some (planOf b)) }
    else { m with hall.loading := none, hall.bufState := 3, hall.loadStatus := st, hall.bufs := m.hall.bufs.set k none }

/-! ## Routes (R336) -/

/-- The plan with those of its links that are in service (R336): the module knows the state of its own links; that of the links between
other modules no frame tells it, and it is a free value (notes/assumptions/75). -/
def Mach.planNow (m : Mach) (p : Plan) : Plan :=
  let own := m.sys.position
  { p with links := (p.links.mapIdx (fun j e => (j, e))).filterMap (fun (j, e) =>
      let up := if e.posA = own then decide ((m.peer e.linkA).st = .service)
        else if e.posB = own then decide ((m.peer e.linkB).st = .service)
        else Config.farLink m.time.count j
      if up then some e else none) }

/-- Hops from a module to a target, up to 16. -/
def Plan.hops (p : Plan) (avoid : List Nat) (target q : Nat) : Option Nat :=
  (List.range 17).find? (fun h => (p.within avoid h [target]).contains q)

/-- The link toward a target (R336): the neighbour nearest to it over links in service, on a path that passes neither this module again nor
the modules to avoid, over another link than `but`; ties to the lower link; none without a path. -/
def Mach.linkToward (m : Mach) (p : Plan) (target : Nat) (avoid : List Nat) (but : Option Nat) : Option Nat :=
  let now := m.planNow p
  let cands := (m.serviceLinks.filter (fun n => some n != but)).filterMap (fun n =>
    (m.peer n).farPos.bind (fun q =>
      if avoid.contains q then none else (now.hops (m.sys.position :: avoid) target q).map (fun h => (h, n))))
  match cands with
  | [] => none
  | c :: cs => some (cs.foldl (fun b x => if x.1 < b.1 then x else b) c).2

/-- The parent link (R336). -/
def Mach.parentLink (m : Mach) : Option Nat :=
  match m.plan, m.hall.master with
  | some p, some q => if m.hall.isMaster then none else m.linkToward p q [] none
  | _, _ => none

/-- The alternate-parent link (R336): past the parent, or where the parent is the master, past its link. -/
def Mach.altLink (m : Mach) : Option Nat :=
  match m.plan, m.hall.master, m.parentLink with
  | some p, some q, some n =>
    let f := (m.peer n).farPos
    if f = some q then m.linkToward p q [] (some n) else m.linkToward p q f.toList (some n)
  | _, _, _ => none

/-- A frame on the way to a position (R336). -/
def Mach.sendTo (m : Mach) (t : FrameType) (target : Nat) (src : Option Nat := none) : Mach :=
  match m.plan.bind (fun p => m.linkToward p target [] none) with
  | some n => if m.carries n then m.sendOn t target n src else m
  | none => m

/-- A frame to the parent and the alternate parent (R336). -/
def Mach.sendUp (m : Mach) (t : FrameType) (src : Option Nat := none) : Mach :=
  let up := (m.parentLink.toList ++ m.altLink.toList).filter m.carries
  up.foldl (fun n k => n.sendOn t (m.hall.master.getD toAll) k src) m

/-- The time messages of a superframe (R36, R39, R336): the master's on every link in service, any other module's exchange with its parent. -/
def Mach.sendTime (m : Mach) : Mach :=
  if m.hall.isMaster then m.flood .time none
  else (m.parentLink.toList.filter m.carries).foldl (fun m n => m.sendOn .time toAll n) m

/-! ## Health and maintenance (R356–R358) -/

/-- The planned loss of an own link in 0.1 dB (R330). -/
def Mach.plannedLoss (m : Mach) (n : Nat) : Int :=
  match m.plan with
  | none => 0
  | some p => ((p.links.find? (fun e => (e.posA == m.sys.position && e.linkA == n)
      || (e.posB == m.sys.position && e.linkB == n))).map (fun e => (e.loss : Int))).getD 0

/-- One measurement as a sample: margin against −6.0 dBm, excess against the far transmit OMA and the planned loss. -/
def Mach.optSample (m : Mach) (r : OptRead) : OptSample :=
  let l := m.peer r.link
  let loss := m.plannedLoss r.link
  let ex := fun i (rx : Int) => match l.farTx[i]? with
    | some t => t - rx - loss
    | none => 0
  ⟨r.rx0 + 60, r.rx1 + 60, ex 0 r.rx0, ex 1 r.rx1, r.ber0, r.ber1⟩

/-- The health of one lane from averages over its samples (R356): 0 good, 1 warn, 2 degraded. -/
def laneHealth (ms : List Int) (bs : List Nat) : Nat :=
  let n : Int := (ms.length : Nat)
  let s := isum ms
  let b := nsum bs
  if s < 10 * n ∨ 1000000000 * bs.length < b then 2
  else if s < 20 * n ∨ 10000000 * bs.length < b then 1 else 0

/-- The health of a link: the worse of its lanes. -/
def linkHealth (ss : List OptSample) : Nat :=
  max (laneHealth (ss.map (·.m0)) (ss.map (·.b0))) (laneHealth (ss.map (·.m1)) (ss.map (·.b1)))

/-- The mean excess loss of the worse lane in 0.1 dB. -/
def meanExcess (ss : List OptSample) : Int :=
  let n : Int := (ss.length : Nat)
  if ss.isEmpty then 0 else max (isum (ss.map (·.e0)) / n) (isum (ss.map (·.e1)) / n)

/-- One link measured: OMA, samples and health with its fault (R356). -/
def Mach.measureLink (m : Mach) (r : OptRead) : Mach :=
  let l := m.peer r.link
  if m.sys.links ≤ r.link ∨ l.st = .down ∨ l.st = .training ∨ l.st = .maint then m
  else
    let ss := (m.optSample r :: l.samples).take 60
    let h := linkHealth ss
    let m := m.setPeer r.link (fun l => { l with rx0 := r.rx0, rx1 := r.rx1, samples := ss, back := r.back, health := h })
    let m := if h = l.health then m else m.raise (srcPeerLink r.link) (if h = 2 then .corr else .info) (linkDetail h 0)
    m.sendOn .health toAll r.link

/-- The connectors of an own link from this module's end (R330). -/
def Mach.connectors (m : Mach) (n : Nat) : List Nat :=
  match m.plan with
  | none => []
  | some p =>
    match p.links.find? (fun e => (e.posA == m.sys.position && e.linkA == n) || (e.posB == m.sys.position && e.linkB == n)) with
    | none => []
    | some e => (if e.posA == m.sys.position && e.linkA == n then e.conns else e.conns.reverse).filter (fun c => c != 0xFFFF)

/-- The suspect connector (R357): connector, link, row, excess. -/
def Mach.suspectNow (m : Mach) : Option (Nat × Nat × Nat × Int) :=
  let bad := (List.range m.sys.links).filter (fun n => decide (10 ≤ meanExcess (m.peer n).samples))
  let conns := bad.flatMap m.connectors
  let count := fun c => (conns.filter (fun x => x == c)).length
  let shared := conns.filter (fun c => decide (2 ≤ count c))
  let ex := fun n => meanExcess (m.peer n).samples
  match shared with
  | c :: cs =>
    let best := cs.foldl (fun b x => if count b < count x ∨ (count x = count b ∧ x < b) then x else b) c
    match bad.find? (fun n => (m.connectors n).contains best) with
    | some n => some (best, n, 1, ex n)
    | none => none
  | [] =>
    match bad with
    | n :: _ =>
      match (m.connectors n).head? with
      | some c => some (c, n, if 10 ≤ (m.peer n).back then 3 else 2, ex n)
      | none => none
    | [] => none

/-- `PL_SUSPECT` (R362). -/
def suspectWord : Option (Nat × Nat × Nat × Int) → Word
  | none => 0xFFFF0000
  | some (c, n, r, e) => place (c % 65536) 16 ||| place n 10 ||| place r 8 ||| place (min e.toNat 255) 0

/-- LINK_HEALTH_MEASURE (R356, R357). The INFO fault names the connector in bits [31:16] of the detail word, of which R405 lists health and
hold reason only (DESIGN CHOICE, notes/assumptions/88). -/
def Mach.measure (m : Mach) (rs : List OptRead) : Mach :=
  if m.time.count % 100000 ≠ 0 then m
  else
    let m := rs.foldl Mach.measureLink m
    let now := m.suspectNow
    let w := suspectWord now
    let m' : Mach := { m with hall.suspect := w }
    match now with
    | some (c, n, _, _) =>
      if field w 31 16 = field m.hall.suspect 31 16 then m'
      else m'.raise (srcPeerLink n) .info (linkDetail (m.peer n).health 0 ||| place (c % 65536) 16)
    | none => m'

/-- Whether a maintenance action is under way (R358). -/
def Mach.maintBusy (m : Mach) : Bool := m.peers.any (fun l => decide (l.st = .maint)) || m.hall.maint == 2

/-- maint_state as it reads: refused from a refused request until the next accepted one or the result of a verification (R358, R362). -/
def Mach.maintShown (m : Mach) : Nat := if m.hall.maintRefused then 5 else m.hall.maint

/-- A write of `PL_MAINT` (R358). -/
def Mach.maintWrite (m : Mach) (v : Word) : Mach :=
  let act := field v 31 30
  let n := field v 29 24
  let m := m.wrField .plMaint 29 24 n
  let refused : Mach := { m with hall.maintRefused := true }
  if act = 1 then
    let p := m.parentLink
    let a := m.altLink
    let only := (p == some n && !a.any (fun k => k != n)) || (a == some n && !p.any (fun k => k != n))
    if only || m.maintBusy || decide (m.sys.links ≤ n) then refused
    else
      let was := decide ((m.peer n).st = .service)
      let m := if was then m.sendOn .leave toAll n else m
      let m := ({ m with hall.maint := 1, hall.maintLink := n, hall.maintRefused := false } : Mach).setPeer n (fun l =>
        { l with st := .maint, retry := [], farOk := false, noticed := was })
      (if was then m.linkOut else m).checkAlone
  else if act = 2 then
    if (m.peer n).st = .maint then
      let up := m.en fnPeer
      { m.setPeer n (fun l => { l with st := if up then .training else .down, samples := [], noticed := false }) with
        hall.maint := 2, hall.maintLink := n, hall.maintRefused := false, hall.maintSince := none }
    else refused
  else m

/-- MAINT_VERIFY_DONE (R358): 1,000 F after the link came up, pass or fail; the link enters service unless it is held. -/
def Mach.maintDone (m : Mach) (r : OptRead) : Mach :=
  if m.hall.maint ≠ 2 ∨ m.hall.maintSince.all (fun c => decide (m.time.count < c + 1000)) then m
  else
    let n := m.hall.maintLink
    let ss := [m.optSample { r with link := n }]
    let pass := linkHealth ss == 0 && decide (meanExcess ss < 5) && decide ((m.peer n).st ≠ .training)
    let m : Mach := { m with hall.maint := if pass then 3 else 4, hall.maintRefused := false, hall.maintSince := none }
    if (m.peer n).st = .ident ∧ (m.peer n).farPos.isSome then m.judgeLink n else m

/-- HEALTH (R356). -/
def Mach.healthFrame (m : Mach) (h : PeerHdr) (o0 o1 : Int) : Mach := m.setPeer h.link (fun l => { l with farTx := [o0, o1] })

/-! ## Registers (R362) -/

/-- The state code of R362. -/
def LinkState.code : LinkState → Nat
  | .down => 0
  | .training => 1
  | .ident => 2
  | .held => 3
  | .service => 4
  | .maint => 5

/-- `PL_LINK_STAT_n`. -/
def Mach.linkStat (m : Mach) (n : Nat) : Word :=
  let l := m.peer n
  place l.st.code 29 ||| place l.hold 25 ||| flag (m.parentLink == some n) 24 ||| flag (m.altLink == some n) 23
    ||| place (l.farLink % 64) 16 ||| place (l.farPos.getD 0xFFFF % 65536) 0

/-- −log10 of an error ratio in 10^−15, 0 to 15 (R362 ber_exp). -/
def berExp (b : Nat) : Nat := ((List.range 16).filter (fun e => decide (b ≤ 10 ^ (15 - e)))).length - 1

/-- `PL_LINK_OPT_n`. -/
def Mach.linkOpt (m : Mach) (n : Nat) : Word :=
  let l := m.peer n
  match l.samples with
  | [] => place l.health 0
  | s :: _ => place (l.rx0 % 256).toNat 24 ||| place (l.rx1 % 256).toNat 16 ||| place (min (min s.m0 s.m1).toNat 255) 8
      ||| place (berExp (max s.b0 s.b1)) 4 ||| place l.health 0

/-- PEER_RETRANSMIT (R323). -/
def execPeerRetransmit (n seq : Nat) (s : State) : Host.Outcome State Fault Refusal := s.on (fun m => m.retransmit n seq)

/-- PEER_FRAME_LOST (R324). -/
def execPeerFrameLost (n seq : Nat) (s : State) : Host.Outcome State Fault Refusal := s.on (fun m => m.frameLost n seq)

/-- PEER_LINK_DOWN (R324). -/
def execPeerLinkDown (n : Nat) (s : State) : Host.Outcome State Fault Refusal := s.on (fun m => m.linkFails n)

/-- PEER_LINK_LOCK (R333). -/
def execPeerLinkLock (n : Nat) (s : State) : Host.Outcome State Fault Refusal := s.on (fun m => m.peerLock n)

/-- IDENT_REPEAT (R333). -/
def execIdentRepeat (s : State) : Host.Outcome State Fault Refusal := s.on Mach.identRepeat

/-- LINK_HEALTH_MEASURE (R356). -/
def execLinkHealthMeasure (ms : List OptRead) (s : State) : Host.Outcome State Fault Refusal := s.on (fun m => m.measure ms)

/-- PLAN_LOAD_DONE (R331). -/
def execPlanLoadDone (s : State) : Host.Outcome State Fault Refusal := s.on Mach.planLoaded

/-- MAINT_VERIFY_DONE (R358). -/
def execMaintVerifyDone (r : OptRead) (s : State) : Host.Outcome State Fault Refusal := s.on (fun m => m.maintDone r)

end Sys2Proof.Machine
end

