-- ==== Sys2Proof/Machine/HallSlices.lean ====
section
/-! DEFINITION. The slices of the hall model (R340, R350–R354): placement, steps over the tree, copies, SLICE_REPLACE; and
generations over the fabric (R355). -/

namespace Sys2Proof.Machine

/-- A routed frame: delivered here, or sent on toward its destination (R321, R336). -/
def Mach.deliver (m : Mach) (h : PeerHdr) (t : FrameType) (f : Mach → Mach) : Mach :=
  if h.dst = m.ownPos then f m else m.sendTo t h.dst (some h.src)

/-! ## Placement (R332, R350) -/

/-- The mirror of slice i under R350, from the holders in plan order. -/
def planMirror (hs : List Nat) (i : Nat) : Option Nat :=
  let h := hs.length
  if h ≤ 1 then none
  else
    let rack := rackOf (hs.getD (i % h) 0)
    let cands := (List.range h).map (fun d => hs.getD ((i + (h + 1) / 2 + d) % h) 0)
    if hs.any (fun q => rackOf q != rack) then cands.find? (fun q => rackOf q != rack) else cands.head?

/-- Where the slices live after a plan has been applied (R350). -/
def Plan.placement (p : Plan) : List SlicePlace :=
  let hs := p.holders
  if hs.isEmpty then []
  else (List.range p.slices).map (fun i => ⟨i, some (hs.getD (i % hs.length) 0), planMirror hs i, none⟩)

/-- The digest of the dispatch package in use, which names its model. -/
def Mach.hallModel (m : Mach) : List Byte := (m.bank m.fc.hallBank).digest

/-- The slice_count of the active plan (R328). -/
def Mach.sliceCount (m : Mach) : Nat := (m.plan.map (·.slices)).getD 0

/-- The package's initial state of a slice on this module (R332). -/
def Mach.initialSlice (m : Mach) (slice : Nat) : List Byte := Config.sliceInit m.hallModel slice

/-- The state of a slice after a step with these inputs and this reduced sum (R340). -/
def Mach.sliceAfter (m : Mach) (state : List Byte) (slice : Nat) (inputs : List Int) (sum : List Word) : List Byte :=
  Config.sliceNext m.hallModel state slice m.sliceCount inputs sum

/-- The record of a slice placement (R23, R526 type 0x07): subtype 1, the slice, 1 primary, 2 mirror or 0 no role any more, the
position. -/
def Mach.placementRecord (m : Mach) (slice role pos : Nat) : Mach :=
  m.emit evPlacement .info [1, BitVec.ofNat 32 slice, BitVec.ofNat 32 role, BitVec.ofNat 32 pos]

/-- The records of one role of a slice that has passed from one position to another (R23). -/
def Mach.roleRecords (m : Mach) (slice role : Nat) (old new : Option Nat) : Mach :=
  if old = new then m
  else match old, new with
    | _, some q => m.placementRecord slice role q
    | some q, none => m.placementRecord slice 0 q
    | none, none => m

/-- A role change in a placement: the module that lost the role it leaves open is noted. -/
def placeAfter (ps : List SlicePlace) (c : RoleChange) : List SlicePlace :=
  ps.map (fun x =>
    if x.slice != c.slice then x
    else ⟨x.slice, c.primary, c.mirror,
      if c.mirror.isSome then x.lostBy else if x.primary != c.primary then x.primary else if x.mirror.isSome then x.mirror else x.lostBy⟩)

/-- A slice stands at other positions, with the records of what changed (R23). -/
def Mach.movePlace (m : Mach) (c : RoleChange) : Mach :=
  match m.hall.places.find? (fun x => x.slice == c.slice) with
  | none => m
  | some x =>
    let m := (m.roleRecords c.slice 1 x.primary c.primary).roleRecords c.slice 2 x.mirror c.mirror
    { m with hall.places := placeAfter m.hall.places c }

/-- The placement once the role changes have applied that wait for the next superframe start (R337, R353). -/
def Mach.nextPlaces (m : Mach) : List SlicePlace :=
  ((m.hall.msg.map (·.changes)).getD [] ++ m.hall.changes).foldl placeAfter m.hall.places

/-- A state reset counted in `PL_STEP_STAT`. -/
def Mach.countReset (m : Mach) : Mach := m.bump .plStepStat 7 0 1

/-- The snapshot of a primary's state after one step goes to the new mirror (R354). -/
def Mach.sendSnapshots (m : Mach) : Mach :=
  let m : Mach := (m.hall.roles.filter (fun r => r.primary && r.copying.isSome && !r.snap)).foldl (fun m r =>
    match (m.hall.places.find? (fun x => x.slice == r.slice)).bind (·.mirror) with
    | some q => (List.range (Config.sliceBlocks m.hallModel)).foldl (fun m _ => m.sendTo .sliceCopy q) m
    | none => m) m
  { m with hall.roles := m.hall.roles.map (fun r => if r.primary && r.copying.isSome then { r with snap := true } else r) }

/-- The slices placed afresh, and every state at the package's initial state (R332, R350); at most 8 roles. A copy under way goes on to
its end (R22): a snapshot that is still to leave does so before the states are discarded, and what the copy brings is discarded with the old
states. -/
def Mach.placeAll (m : Mach) (p : Plan) : Mach :=
  let m := m.sendSnapshots
  let places := p.placement
  let own := m.sys.position
  let roles := (places.filterMap (fun x =>
    if x.primary = some own then some ⟨x.slice, true, m.initialSlice x.slice, none, [], [], false⟩
    else if x.mirror = some own then some ⟨x.slice, false, m.initialSlice x.slice, none, [], [], false⟩ else none)).take 8
  let m : Mach := { m with
    hall.places := places
    hall.roles := roles
    hall.step := none
    hall.proposals := none
    hall.degraded := false
    hall.oldCopies := m.hall.oldCopies ++ m.hall.roles.filterMap (fun r =>
      if r.primary then none else r.copying.map (fun k => (r.slice, k, r.blocks.map Prod.fst)))
    hall.replace := m.hall.replace.map (fun r =>
      { r with todo := (places.filter (fun x => x.mirror.isNone)).map (·.slice) }) }
  places.foldl (fun m x => (m.roleRecords x.slice 1 none x.primary).roleRecords x.slice 2 none x.mirror) m.countReset

/-- The slices in which a module has a role in a placement, ascending. -/
def slicesOf (places : List SlicePlace) (q : Nat) : List Nat :=
  (places.filter (fun x => x.primary == some q || x.mirror == some q)).map (·.slice)

/-- The roles a module holds in a placement. -/
def rolesOf (places : List SlicePlace) (q : Nat) : Nat := (slicesOf places q).length

/-- A frame of a slice to a module that has a role in it; beyond the module's 8 roles it is discarded here and counted as lost (R359). -/
def Mach.sendRole (m : Mach) (t : FrameType) (slice q : Nat) : Mach :=
  if ((slicesOf m.hall.places q).take 8).contains slice then m.sendTo t q
  else
    match m.plan.bind (fun p => m.linkToward p q [] none) with
    | some n => m.bump (.plLinkErr n) 23 16 1
    | none => m

/-- The holder that takes a slice's open role (R353, R354): in the domain, not the primary, with fewer than 8 roles; of those one in another
rack when one exists, the fewest roles, first in plan order. -/
def Mach.chooseHolder (m : Mach) (p : Plan) (primary : Option Nat) : Option Nat :=
  let places := m.nextPlaces
  let able := p.holders.filter (fun q => (q == m.sys.position || m.hall.members.any (fun x => x.1 == q)) && some q != primary
    && decide (rolesOf places q < 8))
  let far := able.filter (fun q => primary.any (fun r => rackOf r != rackOf q))
  match if far.isEmpty then able else far with
  | [] => none
  | c :: cs => some (cs.foldl (fun b x => if rolesOf places x < rolesOf places b then x else b) c)

/-- A role change takes effect on this module (R337, R353, R354); a ninth role is not taken (R350). A state that starts anew counts here, but
on the master, which counted it when it chose. -/
def Mach.applyChange (m : Mach) (c : RoleChange) : Mach :=
  let own := m.sys.position
  let k := m.time.count / 100
  let had := m.hall.roles.find? (fun r => r.slice == c.slice)
  let rest := m.hall.roles.filter (fun r => r.slice != c.slice)
  let m := m.movePlace c
  let copy := if c.mirror.isSome then some k else none
  let count := fun (n : Mach) => if n.hall.isMaster then n else n.countReset
  let full := decide (8 ≤ rest.length)
  if c.primary = some own then
    match had with
    | some r =>
      if c.restart then
        count { m with hall.roles := rest ++ [⟨c.slice, true, m.initialSlice c.slice, none, [], [], false⟩] }
      else { m with hall.roles := rest ++ [{ r with primary := true, copying := copy, blocks := [], snap := false }] }
    | none =>
      if full then m
      else count { m with hall.roles := rest ++ [⟨c.slice, true, m.initialSlice c.slice, copy, [], [], false⟩] }
  else if c.mirror = some own then
    match had with
    | some _ => m
    | none => if full then m else { m with hall.roles := rest ++ [⟨c.slice, false, [], some k, [], [], false⟩] }
  else { m with hall.roles := rest }

/-! ## A step (R340) -/

/-- Two partial sums added element by element in FP32, ties to even. -/
def addSums (a b : List Word) : List Word := List.zipWith (fun x y => (f32add true x y).1) a b

/-- A slice's sum taken up the tree as far as its partials allow: the next level and the sum. `fuel` bounds the levels. -/
def climb (n layer : Nat) (held : List HeldPart) (i : Nat) : Nat → Nat × List Word → Nat × List Word
  | 0, x => x
  | fuel + 1, (l, s) =>
    if i % 2 ^ (l + 1) ≠ 0 ∨ n ≤ 2 ^ l then (l, s)
    else if n ≤ i + 2 ^ l then climb n layer held i fuel (l + 1, s)
    else
      match held.find? (fun p => p.layer == layer && p.level == l && p.slice == i + 2 ^ l) with
      | some p => climb n layer held i fuel (l + 1, addSums s p.sum)
      | none => (l, s)

/-- Whether a slice's sum is complete at a level: what remains is to send it, or, for slice 0, to return it. -/
def atTop (n i l : Nat) : Bool := decide (i % 2 ^ (l + 1) ≠ 0) || decide (n ≤ 2 ^ l)

/-- The level that marks a sum as sent. -/
abbrev sentLevel : Nat := 255

/-- The inputs of a step (R340): the values of the reports used. -/
def stepInputs (rs : List Report) : List Int :=
  rs.flatMap (fun r => [(r.pos : Int), r.d, r.mean, r.want, r.g, r.dis, r.chg, (r.capSafety : Int), (r.soe : Int)])

/-- The partials of the own primaries at the start of a layer, slices descending. -/
def Mach.layerSums (m : Mach) (layer : Nat) (inputs : List Int) : List (Nat × Nat × List Word) :=
  ((List.range 2048).reverse).filterMap (fun i =>
    (m.hall.roles.find? (fun r => r.slice == i && r.primary)).map (fun r =>
      (i, 0, Config.slicePartial m.hallModel r.state i m.sliceCount layer inputs)))

/-- The module that holds a slice's primary. -/
def Mach.primaryOf (m : Mach) (slice : Nat) : Option Nat :=
  (m.hall.places.find? (fun x => x.slice == slice)).bind (·.primary)

/-- One pass up the tree over the own slices, descending: sums that reach their top leave for their parent, or answer the
reduced sum at slice 0. -/
def Mach.passUp (m : Mach) (n : Nat) (st : StepSt) : Mach × StepSt × Option (List Word) :=
  st.sums.foldl (fun acc x =>
    let m := acc.1
    let st := acc.2.1
    if x.2.1 = sentLevel then (m, { st with sums := st.sums ++ [x] }, acc.2.2)
    else
      let y := climb n st.layer st.held x.1 12 x.2
      if !atTop n x.1 y.1 then (m, { st with sums := st.sums ++ [(x.1, y)] }, acc.2.2)
      else
        let st := { st with sums := st.sums ++ [(x.1, sentLevel, y.2)] }
        if x.1 = 0 then (m, st, some y.2)
        else
          match m.primaryOf (x.1 - 2 ^ y.1) with
          | none => (m, st, acc.2.2)
          | some q =>
            if q = m.sys.position then (m, { st with held := st.held ++ [⟨st.layer, y.1, x.1, y.2⟩] }, acc.2.2)
            else (m.sendRole .partialSum (x.1 - 2 ^ y.1) q, st, acc.2.2)) (m, { st with sums := [] }, none)

/-- The reduced sum on its way down (R340): to the holders of the slices below the own ones, and to the own mirrors. -/
def Mach.passDown (m : Mach) : Mach :=
  let own := m.sys.position
  let below := (m.hall.roles.filter (·.primary)).flatMap (fun r =>
    ((List.range 12).filter (fun l => r.slice % 2 ^ (l + 1) == 0)).map (fun l => r.slice + 2 ^ l))
  let mine := (m.hall.roles.filter (·.primary)).map (·.slice)
  let targets := m.hall.places.flatMap (fun x =>
    ((if below.contains x.slice then x.primary.toList else [])
      ++ (if below.contains x.slice || mine.contains x.slice then x.mirror.toList else [])).map (fun q => (x.slice, q)))
  ((targets.filter (fun x => x.2 != own)).foldl (fun a x => if a.any (fun y => y.2 == x.2) then a else a ++ [x]) []).foldl
    (fun m x => m.sendRole .partialSum x.1 x.2) m

/-- The digest of a slice state that primary and mirror exchange (R351). -/
def stateDigest (d : List Byte) : DWord := hash8 d

/-- The level of a PARTIAL frame that carries the band proposals (notes/assumptions/45). -/
abbrev levelProposals : Nat := 255
/-- The level of a PARTIAL frame that carries a state digest (notes/assumptions/45). -/
abbrev levelDigest : Nat := 254
/-- The level of a PARTIAL frame in which a primary tells the master that its mirror is lost (notes/assumptions/45). -/
abbrev levelLost : Nat := 253

/-- A mirror whose digest differs is lost (R351): its state goes, and the master leaves the mirror's role open from the next superframe start.
The primary tells the master. -/
def Mach.mirrorLost (m : Mach) (slice : Nat) : Mach :=
  let primary := m.hall.roles.any (fun r => r.slice == slice && r.primary)
  let m : Mach := { m with hall.roles := m.hall.roles.filter (fun r => r.slice != slice || r.primary) }
  if m.hall.isMaster then
    match m.nextPlaces.find? (fun x => x.slice == slice && x.mirror.isSome) with
    | some x => { m with hall.changes := m.hall.changes ++ [⟨slice, x.primary, none, false⟩] }
    | none => m
  else if primary then m.hall.master.elim m (fun q => m.sendTo .partialSum q)
  else m

/-- The far role's digest of a slice after a step meets the own state (R351, R354): a copy joins at the first that matches; any other
mismatch loses the mirror. A copy whose snapshot is not in yet compares nothing. -/
def Mach.compareDigest (m : Mach) (slice : Nat) (sum : List Word) : Mach :=
  match m.hall.roles.find? (fun r => r.slice == slice) with
  | none => m
  | some r =>
    let same := decide (join64 (wordAt sum 0) (wordAt sum 1) = stateDigest r.state)
    if r.copying.isNone then (if same then m else m.mirrorLost slice)
    else if !r.primary && r.snap && same then
      { m with hall.roles := m.hall.roles.map (fun x => if x.slice == slice then { x with copying := none, snap := false } else x) }
    else m

/-- The step completes on this module (R340, R351, R354): every role's state moves on; a copy without its snapshot keeps the step to replay;
the primary of slice 0 sends the proposals, which a master uses up to frame 86 (R341); primary and mirror send each other their digests, and those that came before are compared. -/
def Mach.stepDone (m : Mach) (st : StepSt) (sum : List Word) : Mach :=
  let lead := m.hall.roles.any (fun r => r.primary && r.slice == 0)
  let shelves := (m.plan.map (fun p => p.shelves.length)).getD 0
  let m : Mach := { m with
    hall.step := none
    hall.roles := m.hall.roles.map (fun r =>
      if !r.primary && r.copying.isSome && !r.snap then { r with replay := r.replay ++ [(st.inputs, sum)] }
      else { r with state := m.sliceAfter r.state r.slice st.inputs sum }) }
  let m : Mach := m.hall.roles.foldl (fun m r =>
    match (m.hall.places.find? (fun x => x.slice == r.slice)).bind (fun x => if r.primary then x.mirror else x.primary) with
    | some q => m.sendRole .partialSum r.slice q
    | none => m) m
  let m := ((st.held.filter (fun p => p.level == levelDigest)).foldl (fun m p => m.compareDigest p.slice p.sum) m).sendSnapshots
  if !lead then m
  else if m.hall.isMaster then
    if m.time.count % 100 ≤ 86 then { m with hall.proposals := some (st.k, Config.bandProposals m.hallModel sum shelves) } else m
  else match m.hall.master with
    | some q => m.sendTo .partialSum q
    | none => m

/-- The reduced sum of a layer is known here: the next layer starts, or the step completes. -/
def Mach.layerDone (m : Mach) (st : StepSt) (sum : List Word) : Mach × Option StepSt :=
  let m := m.passDown
  let layer := st.layer + 1
  if Config.hallLayers m.hallModel ≤ layer then (m.stepDone st sum, none)
  else
    let inputs := st.inputs ++ sum.map (fun w => (w.toNat : Int))
    (m, some { st with layer := layer, inputs := inputs, todo := true, down := none, sums := []
                       held := st.held.filter (fun p => decide (layer ≤ p.layer) || p.level == levelDigest) })

/-- What a layer of a hall step reads in its dispatch bank (R279, R211): weights and program. -/
def Mach.hallReads (m : Mach) : List (Nat × Nat) :=
  [(bankBase m.fc.hallBank, (m.bank m.fc.hallBank).weights), (bankCode m.fc.hallBank, 0x1000000)]

/-- What the step does next: its layer is computed once the anvil is free for level 1 (R241, R243); then the reduced sum is awaited, and the
own sums go up the tree as far as the partials at hand allow. The reduced sum where it is known. -/
def Mach.stepOn (m : Mach) (st : StepSt) : Mach × StepSt × Option (List Word) :=
  if st.todo then
    if m.anvilFree 1 then (m.otherBundles, { st with todo := false, sums := m.layerSums st.layer st.inputs }, none) else (m, st, none)
  else
    match st.down with
    | some sum => (m, st, some sum)
    | none => m.passUp m.sliceCount st

/-- The step goes on as far as it can; `fuel` bounds the layers. A layer that would read a poisoned line ends the step, which is not completed
(R211). -/
def Mach.advanceStep (m : Mach) : Nat → Mach
  | 0 => m
  | fuel + 1 =>
    match m.hall.step with
    | none => m
    | some st =>
      if st.todo && m.anvilFree 1 && m.meetsPoison m.hallReads then (m.poisonWork m.hallReads).endStep else
      let r := m.stepOn st
      match r.2.2 with
      | none =>
        let n : Mach := { r.1 with hall.step := some r.2.1 }
        if st.todo && !r.2.1.todo then n.advanceStep fuel else n
      | some sum =>
        match r.1.layerDone r.2.1 sum with
        | (m, none) => m
        | (m, some st) => ({ m with hall.step := some st } : Mach).advanceStep fuel

/-- The layers of the dispatch model in use. -/
def Mach.layers (m : Mach) : Nat := Config.hallLayers m.hallModel

/-- The step of hall_step, if one is under way, goes on. -/
def Mach.stepForward (m : Mach) : Mach := m.advanceStep (2 * m.layers + 2)

/-- ANVIL_BUNDLE_ISSUE (R222, R241): a layer of a hall step that waits for the anvil, else the next bundle of a job. -/
def Mach.anvilIssue (m : Mach) : Mach := if m.levelOne && m.anvilFree 1 then m.stepForward else m.issueBundle

/-- HALL_STEP (R340, R279): at 100·k + 64, a holder with the table runs the step for its roles; without the table, or
with an invalid bank, it completes none. -/
def Mach.hallStep (m : Mach) : Mach :=
  let k := m.time.count / 100
  if m.time.count % 100 ≠ 64 ∨ !m.time.inDomain ∨ m.hall.roles.isEmpty then m
  else
    match m.hall.table with
    | none => m.bump .plStepStat 15 8 1
    | some (j, rs) =>
      if j ≠ k ∨ !(m.bank m.fc.hallBank).valid ∨ !m.anvilOn then m.bump .plStepStat 15 8 1
      else
        ({ m with
          fc.hallRan := some m.fc.hallBank
          hall.step := some ⟨k, 0, stepInputs rs, true, none, [], []⟩ } : Mach).stepForward

/-- The band pairs that the proposals' words spell: lo and hi per shelf. -/
def pairsOf : List Word → List (Nat × Nat)
  | lo :: hi :: ws => (lo.toNat, hi.toNat) :: pairsOf ws
  | _ => []

/-- PARTIAL (R340, R351): a digest of the present superframe's step waits for the own step where that goes on. -/
def Mach.partialFrame (m : Mach) (h : PeerHdr) (k layer level slice : Nat) (down : Bool) (sum : List Word) : Mach :=
  m.deliver h .partialSum (fun m =>
    if level = levelProposals then
      if m.hall.isMaster && decide (k = m.time.count / 100) && decide (m.time.count % 100 ≤ 86) then
        { m with hall.proposals := some (k, pairsOf sum) }
      else m
    else if level = levelLost then if m.hall.isMaster then m.mirrorLost slice else m
    else if level = levelDigest then
      if k ≠ m.time.count / 100 then m
      else match m.hall.step with
        | some st => { m with hall.step := some { st with held := st.held ++ [⟨layer, levelDigest, slice, sum⟩] } }
        | none => m.compareDigest slice sum
    else
      match m.hall.step with
      | none => m
      | some st =>
        if st.k ≠ k then m
        else if down then
          if st.layer ≠ layer then m else ({ m with hall.step := some { st with down := some sum } } : Mach).stepForward
        else ({ m with hall.step := some { st with held := st.held ++ [⟨layer, level, slice, sum⟩] } } : Mach).stepForward)

/-! ## SLICE_REPLACE and copies (R354) -/

/-- The slices the master has to mirror. -/
def Mach.unmirrored (m : Mach) : List Nat := (m.hall.places.filter (fun x => x.mirror.isNone)).map (·.slice)

/-- SLICE_REPLACE goes on with its next slice; with none left it ends (R354). A slice no holder can take is left. -/
def Mach.replaceNext (m : Mach) (p : Plan) : Nat → Mach
  | 0 => m
  | fuel + 1 =>
    match m.hall.replace with
    | none => m
    | some r =>
      match r.todo with
      | [] => ({ m with hall.replace := none } : Mach).endOp r.op stOk []
      | i :: todo =>
        let prim := (m.nextPlaces.find? (fun x => x.slice == i)).bind (·.primary)
        match if prim.isSome then m.chooseHolder p prim else none with
        | none => ({ m with hall.replace := some { r with todo := todo } } : Mach).replaceNext p fuel
        | some q =>
          { m with
            hall.replace := some { r with todo := todo, copy := some (i, q), since := m.time.count / 100 }
            hall.changes := m.hall.changes ++ [⟨i, prim, some q, false⟩] }

/-- SLICE_REPLACE (0x35, R354). -/
def Mach.opSliceReplace (m : Mach) (rt : RTo) (c : Cls) (w4 : Word) : Mach :=
  let pos := field w4 15 0
  if field w4 31 16 ≠ 0 then m.reply rt stBadParam []
  else if m.sys.links = 0 then m.reply rt stUnitAbsent []
  else if !m.hall.isMaster || m.hall.replace.isSome then m.reply rt stBadState []
  else if 2048 ≤ m.inFlight then m.reply rt stBusy []
  else
    match m.plan with
    | none => m.reply rt stBadState []
    | some p =>
      let todo := (m.nextPlaces.filter (fun x => x.mirror.isNone && (pos == 0xFFFF || x.lostBy == some pos))).map (·.slice)
      let r := m.addOp rt c
      let m : Mach := r.1.reply rt stAccepted []
      ({ m with hall.replace := some ⟨r.2, todo, none, 0⟩ } : Mach).replaceNext p (todo.length + 1)

/-- The end of a slice copy at the master, SLICE_REPLACE's safe point (R72–R74, R354). -/
def Mach.copyEnded (m : Mach) (slice : Nat) : Mach :=
  match m.hall.replace with
  | none => m
  | some r =>
    if !r.copy.any (fun c => c.1 == slice) then m
    else
      let m : Mach := { m with hall.replace := some { r with copy := none } }
      if !m.hall.isMaster then ({ m with hall.replace := none } : Mach).endOp r.op stBadState []
      else
        match (m.opById r.op).map (·.state), m.plan with
        | some OpState.running, some p => m.replaceNext p (r.todo.length + 1)
        | some OpState.suspending, _ =>
          if r.todo.isEmpty then ({ m with hall.replace := none } : Mach).endOp r.op stOk []
          else
            let m := m.setOp r.op .suspended
            match m.opById r.op with
            | some o => m.notify o.rt stSuspended []
            | none => m
        | some OpState.cancelling, _ =>
          ({ m with hall.replace := none } : Mach).endOp r.op (if r.todo.isEmpty then stOk else stCancelled) []
        | _, _ => m

/-- The end of a copy, acknowledged to its sender and, where that is another module, told to the master, whose SLICE_REPLACE waits for it
(R354; notes/assumptions/45). -/
def Mach.copyTaken (m : Mach) (src slice : Nat) : Mach :=
  let tell := m.hall.master.filter (fun q => q != src && !m.hall.isMaster)
  (tell.elim m (fun q => m.sendTo (.xferAck true) q)).copyEnded slice

/-- A block of a copy that a new plan found under way (R22): with the last one the copy is over. -/
def Mach.oldCopyBlock (m : Mach) (src slice block blocks : Nat) (c : Nat × Nat × List Nat) : Mach :=
  let bs := if block < blocks then addOnce c.2.2 block else c.2.2
  let rest := m.hall.oldCopies.filter (fun x => x.1 != slice)
  let done := decide (bs.length = blocks)
  let m := ({ m with hall.oldCopies := if done then rest else rest ++ [(slice, c.2.1, bs)] } : Mach).sendTo (.xferAck true) src
  if done then m.copyTaken src slice else m

/-- The blocks of a snapshot joined in their order. -/
def joinBlocks (bs : List (Nat × List Byte)) (n : Nat) : List Byte :=
  (List.range n).flatMap (fun i => ((bs.find? (fun b => b.1 == i)).map Prod.snd).getD [])

/-- SLICE_COPY (R354): a block of the snapshot reaches the new mirror; with the last one it takes the state and replays the
steps since, and it joins with the first digest that matches. Each block is acknowledged. -/
def Mach.sliceCopyFrame (m : Mach) (h : PeerHdr) (slice block blocks : Nat) (data : List Byte) : Mach :=
  m.deliver h .sliceCopy (fun m =>
    match m.hall.oldCopies.find? (fun x => x.1 == slice) with
    | some c => m.oldCopyBlock h.src slice block blocks c
    | none =>
    match m.hall.roles.find? (fun r => r.slice == slice && !r.primary && r.copying.isSome && !r.snap) with
    | none => m
    | some r =>
      let bs := if block < blocks ∧ !r.blocks.any (fun b => b.1 == block) then r.blocks ++ [(block, data)] else r.blocks
      let replay := if r.blocks.isEmpty then [] else r.replay
      let r' : Role :=
        if bs.length = blocks then
          { r with
            state := replay.foldl (fun s x => m.sliceAfter s slice x.1 x.2) (joinBlocks bs blocks)
            blocks := []
            replay := []
            snap := true }
        else { r with blocks := bs, replay := replay }
      let m : Mach := { m with hall.roles := m.hall.roles.map (fun x => if x.slice == slice && !x.primary then r' else x) }
      let m := m.sendTo (.xferAck true) h.src
      if r'.snap then m.copyTaken h.src slice else m)

/-- SLICE_COPY_RESTART (R354): a copy not finished within 1,000 superframes starts again. -/
def Mach.copyRestart (m : Mach) : Mach :=
  let k := m.time.count / 100
  let old := fun (s : Nat) => decide (s + 1000 ≤ k)
  { m with
    hall.roles := m.hall.roles.map (fun r =>
      if r.copying.any old then { r with copying := some k, blocks := [], replay := [], snap := false } else r)
    hall.oldCopies := m.hall.oldCopies.map (fun x => if old x.2.1 then (x.1, k, []) else x)
    hall.replace := m.hall.replace.map (fun r => if r.copy.isSome && old r.since then { r with since := k } else r) }

/-! ## Generations over the fabric (R355, R287) -/

/-- GEN (R355): a frame of a generation is kept and written into the receiving copy. Older generations than the newest held
are discarded (R287). -/
def Mach.genFrame (m : Mach) (h : PeerHdr) (g : GenHdr) (index : Nat) (data : List Byte) : Mach :=
  m.deliver h .gen (fun m =>
    let held := m.fc.gens.any (fun x => x.hdr == g)
    let older := m.fc.gens.any (fun x => decide (g.n < x.hdr.n)) || (m.bank m.fcBank).gen.any (fun n => decide (g.n ≤ n))
    if older && !held then m
    else
      let m : Mach := if held then m else
        { m with
          fc.gens := m.fc.gens ++ [⟨g, [], false, false, 0, 0⟩]
          fc.trainer := some g.trainer
          fc.due := m.fc.due ++ [(g.adopt, g.n)] }
      let m := if m.acting && m.fc.train.any m.trainLive then m else m.yieldTraining
      if genFrames g ≤ index then m
      else
        let m := (m.storeAll (m.receivingCopy m.fcBank + 4096 * index) (data.take 4096)).1
        { m with fc.gens := m.fc.gens.map (fun x =>
            if x.hdr == g && !x.kept && !x.parts.any (fun p => p.1 == index) then
              { x with parts := x.parts ++ [(index, data.take 4096)] }
            else x) })

/-- The frames that a generation's receivers lack go out to them (R355), while train_en is 1 (R27). -/
def Mach.sendGeneration (m : Mach) (t : GenTx) : Mach :=
  t.missing.foldl (fun m x => x.2.foldl (fun m _ => m.sendTo .gen x.1) m) m

/-- TRAINING_CYCLE_DONE (R281, R287): a new generation goes out to its receivers. -/
def Mach.cycleEnds (m : Mach) : Mach :=
  let n := m.cycleDone
  match n.fc.sending with
  | some t => if m.fc.sending = some t then n else n.sendGeneration t
  | none => n

/-- XFER_ACK (R354, R355): a sender's view of what a receiver holds. For a generation, missing frames go out again until
A − 100 F; for a slice, the last block ends the copy. -/
def Mach.xferAckFrame (m : Mach) (h : PeerHdr) (slice : Option Nat) (n : Nat) (held : List Nat) : Mach :=
  m.deliver h (.xferAck slice.isSome) (fun m =>
    match slice with
    | some i =>
      if held.length < n then ((List.range n).filter (fun b => !held.contains b)).foldl (fun m _ => m.sendTo .sliceCopy h.src) m
      else
        ({ m with hall.roles := m.hall.roles.map (fun r =>
            if r.slice == i && r.primary then { r with copying := none, snap := false } else r) } : Mach).copyEnded i
    | none =>
      match m.fc.sending with
      | none => m
      | some t =>
        if !m.trainEn ∨ t.hdr.n ≠ n ∨ !t.missing.any (fun x => x.1 == h.src) then m
        else
          let lacks := (List.range (genFrames t.hdr)).filter (fun i => !held.contains i)
          let m : Mach := { m with fc.sending := some { t with
            missing := t.missing.map (fun x => if x.1 = h.src then (x.1, lacks) else x) } }
          if m.time.count + 100 < t.hdr.adopt then lacks.foldl (fun m _ => m.sendTo .gen h.src) m else m)

/-- Each superframe, a receiver returns the bitmap of the frames it holds (R355). -/
def Mach.ackGenerations (m : Mach) : Mach :=
  (m.fc.gens.filter (fun g => g.hdr.trainer != m.sys.position && decide (m.time.count < g.hdr.adopt))).foldl
    (fun m g => m.sendTo (.xferAck false) g.hdr.trainer) m

/-- HALL_STEP (R340). -/
def execHallStep (s : State) : Host.Outcome State Fault Refusal := s.on Mach.hallStep

/-- ANVIL_BUNDLE_ISSUE (R222, R241). -/
def execAnvilBundleIssue (s : State) : Host.Outcome State Fault Refusal := s.on Mach.anvilIssue

/-- TRAINING_CYCLE_DONE (R281, R287). -/
def execTrainingCycleDone (s : State) : Host.Outcome State Fault Refusal := s.on Mach.cycleEnds

/-- SLICE_COPY_RESTART (R354). -/
def execSliceCopyRestart (s : State) : Host.Outcome State Fault Refusal := s.on Mach.copyRestart

end Sys2Proof.Machine
end

