-- ==== Sys2Proof/Machine/Hall.lean ====
section
/-! DEFINITION. Domain time (R38–R41), the cascade's messages (R336–R342), mastership and succession (R343–R346), domain
launches at the follower (R347–R349), leaving (R352), and the applying of a plan (R332). -/

namespace Sys2Proof.Machine

/-! ## The domain count (R38, R48, R264) -/

/-- A count moved by a step of the counter; one that would fall below 0 stands at 0. -/
def moved (d : Int) (n : Nat) : Nat := ((n : Int) + d).toNat

/-- Everything that measures an age from a count moves with the counter, so that ages and intervals stay as they are
(notes/assumptions/41); hist_anchor by R264. -/
def Mach.moveCounts (m : Mach) (d : Int) : Mach :=
  let f := moved d
  { m with
    bel.startAt := m.bel.startAt + d
    bel.sched := m.bel.sched.map (fun x => (x.1 + d, x.2))
    bel.trays := m.bel.trays.map (fun t => { t with heardAt := t.heardAt.map (· + d) })
    fc.anchor := m.fc.anchor + d
    bel.snap.lastRepeat := m.bel.snap.lastRepeat + d
    fc.rows := m.fc.rows.map (fun r => (f r.1, r.2))
    fc.partnerRows := m.fc.partnerRows.map (fun r => (f r.1, r.2))
    fc.partnerHeld := m.fc.partnerHeld.map f
    fc.gateAt := f m.fc.gateAt
    fc.encTo := f m.fc.encTo
    fc.gens := m.fc.gens.map (fun g => { g with encTo := f g.encTo })
    fc.origins := m.fc.origins.map (fun o => (f o.1, o.2))
    pair.rowsOut := m.pair.rowsOut.map (fun r => (f r.1, r.2))
    fc.pub := m.fc.pub.map (fun r => { r with pub := f r.pub, run := f r.run })
    fc.outs := m.fc.outs.map (fun o => { o with pub := f o.pub })
    fc.run := m.fc.run.map (fun r => { r with c := f r.c })
    fc.lastUpdate := f m.fc.lastUpdate
    eng.test := { m.eng.test with start := f m.eng.test.start, quiet := m.eng.test.quiet.map (fun q => (q.1, f q.2)) }
    eng.loops := m.eng.loops.map (fun l => { l with slotPub := l.slotPub.map (fun b => { b with pub := f b.pub }) })
    cell.pubAt := m.cell.pubAt.map (· + d)
    cell.ports := m.cell.ports.map (fun p => { p with
      sweep := p.sweep.map f
      outA := p.outA.map (fun r => { r with sent := f r.sent })
      outB := p.outB.map (fun r => { r with sent := f r.sent })
      freeA := f p.freeA
      freeB := f p.freeB
      entry := { p.entry with pub := p.entry.pub.map (· + d) } })
    fault.recs := m.fault.recs.map (fun r => { r with dueAt := r.dueAt + d })
    fault.pushed := m.fault.pushed.map (fun r => { r with dueAt := r.dueAt + d })
    fault.parity := m.fault.parity.map (fun r => { r with dueAt := r.dueAt + d })
    fault.quenchCmds := m.fault.quenchCmds.map (fun c => (c.1, { c.2 with dueAt := c.2.dueAt + d }))
    dma.lines := m.dma.lines.map (fun l => { l with since := f l.since })
    stks := m.stks.map (fun s => { s with lastTry := s.lastTry + d })
    peers := m.peers.map (fun p => { p with lostAt := p.lostAt.map (· + d) })
    hall.maintSince := m.hall.maintSince.map f
    ev.freezeStart := m.ev.freezeStart + d
    txn.applyAt := m.txn.applyAt.map f
    pair.alignRetryAt := f m.pair.alignRetryAt
    sys.modReset := m.sys.modReset.map (fun r =>
      { r with releaseAt := r.releaseAt.map f, postAt := r.postAt.map f, resetAt := r.resetAt.map f }) }

/-- The counter adopts another count at one strike (R38), which may equal its own: armed launches end with ST_LAUNCH_EPOCH (R48). -/
def Mach.adoptCount (m : Mach) (d : Int) : Mach :=
  let m : Mach := if d = 0 then m else ({ m with time.count := moved d m.time.count } : Mach).moveCounts d
  m.cancelLaunches stLaunchEpoch

/-! ## Domain time (R39–R41) -/

/-- The state an offset in ns belongs to (R39). -/
def timeStateOf (offset : Int) : TimeState :=
  if offset.natAbs ≤ 20 then .locked else if offset.natAbs ≤ 1000 then .slewing else .joining

/-- The strike phase moved toward the master's by at most a step. -/
def slewBy (step o : Int) : Int := if step < o then o - step else if o < -step then o + step else 0

/-- A time message from the master (R39): the measured offset, a frequency correction whose value the spec does not give,
and the state it leads to. The count is the master's present one. A module that fell into HOLDOVER out of JOINING leaves it by its offset
as any other; where that leads past JOINING it adopts no count, since R38 adopts at the end of JOINING only (DESIGN CHOICE,
notes/assumptions/68). -/
def Mach.timeMessage (m : Mach) (offset : Int) (count : Nat) : Mach :=
  let t := m.take
  let m : Mach := { t.2 with time.sinceMsg := 1, time.offset := offset, time.freqCorr := t.1.toInt }
  match m.time.state with
  | .free | .joining =>
    { m with time.state := .joining,
             time.adoptDelta := if m.time.inDomain then none else some ((count : Int) - (m.time.count : Int)) }
  | _ => { m with time.state := timeStateOf offset }

/-- TIME (R39, R336): the exchange with the parent, once per superframe; the master takes none. -/
def Mach.timeFrame (m : Mach) (h : PeerHdr) (offset : Int) (count : Nat) : Mach :=
  if m.hall.isMaster ∨ m.parentLink ≠ some h.link then m else m.timeMessage offset count

/-- The module is in the domain from this strike on (R335). -/
def Mach.joinDomain (m : Mach) : Mach :=
  { m with time.inDomain := true, hall.joined := m.time.count / 100 }

/-- The slew toward the partner's strike phase (R450), at the rate of the state of R39 that the offset belongs to. In a domain, and once the
master's time messages steer the phase, the pair link adds nothing. -/
def Mach.slewPair (m : Mach) : Mach :=
  if m.time.inDomain then { m with time.pairPhase := 0 }
  else { m with time.pairPhase := slewBy (if timeStateOf m.time.pairPhase = .joining then 100 else 1) m.time.pairPhase }

/-- What a strike does to count and phase (R38, R39): a count taken over the pair link (R450) by a module in no domain, the slew of the state, and at the end of JOINING the adoption of the
domain count. -/
def Mach.timeStrike (m : Mach) : Mach :=
  let m : Mach := match m.time.pairAdopt with
    | some d =>
      let m : Mach := { m with time.pairAdopt := none }
      if m.time.inDomain then m
      else { m with time.adoptDelta := m.time.adoptDelta.map (fun x => x - d) }.adoptCount d
    | none => m
  match m.time.state with
  | .free | .holdover => m.slewPair
  | .joining =>
    let o := slewBy 100 m.time.offset
    let m : Mach := { m with time.offset := o }
    if 20 < o.natAbs then m
    else
      let m : Mach := { m with time.state := .locked }
      match m.time.adoptDelta with
      | some d => ({ m with time.adoptDelta := none } : Mach).adoptCount d |>.joinDomain
      | none => m
  | .locked | .slewing =>
    let o := slewBy 1 m.time.offset
    { m with time.offset := o, time.state := if o.natAbs ≤ 20 then .locked else .slewing }

/-- The master is LOCKED with offset 0, and counts no superframe without a time message (R36, R39). -/
def Mach.masterTime (m : Mach) : Mach :=
  { m with time.state := .locked, time.offset := 0, time.sfSince := 0, time.adoptDelta := none }

/-- sf_since_time at a superframe start (R36). -/
def Mach.countSince (m : Mach) : Mach :=
  if m.time.count % 100 ≠ 0 then m
  else
    { m with
      time.sfSince := if m.hall.isMaster || m.time.sinceMsg == 1 then 0 else satAdd m.time.sfSince 1 255
      time.sinceMsg := 0 }

/-- HOLDOVER_ENTRY (R39): no time message accepted for one superframe. -/
def Mach.holdover (m : Mach) : Mach :=
  let st := m.time.state
  if !m.hall.isMaster && decide (1 ≤ m.time.sfSince) && m.time.sinceMsg == 0
      && (decide (st = .joining) || decide (st = .locked) || decide (st = .slewing)) then
    { m with time.state := .holdover }
  else m

/-! ## Domain launches at a module (R48, R49, R348, R349) -/

/-- A domain launch entry of a message (R348, R49): armed once, or refused with the status of R43, reported in the next
superframe report and as a CORR fault. -/
def Mach.armDomain (m : Mach) (e : DomLaunch) : Mach :=
  if m.hall.seenLaunch.contains (e.master, e.term, e.tag) then m
  else
    let m : Mach := { m with hall.seenLaunch := m.hall.seenLaunch ++ [(e.master, e.term, e.tag)] }
    let refuse (st : Nat) : Mach :=
      { m with hall.refusals := m.hall.refusals ++ [(e.tag, st)] }.raise srcHall .corr (place m.ownPos 0)
    match m.actionCheck e.action e.arg false, launchWindow m.time.count e.count, m.freeSlot 12 4 with
    | some st, _, _ => refuse st
    | none, some st, _ => refuse st
    | none, none, none => refuse stLaunchFull
    | none, none, some i =>
      m.armIn i { LaunchSlot.reset with
        count := e.count, action := e.action, arg := e.arg, origin := 2, tag := e.tag, armedAt := m.time.count,
        domain := some (e.master, e.term) }

/-- A disarm entry (R349): R45 in the frame in which it is received. -/
def Mach.disarmDomain (m : Mach) (d : Nat × Nat × Nat) : Mach :=
  match (List.range 4).find? (fun i =>
      let l := m.slot (12 + i)
      l.armed && l.tag == d.2.2 && l.domain == some (d.1, d.2.1)) with
  | some i => if m.time.count + 2 ≤ (m.slot (12 + i)).count then m.finishSlot (12 + i) stCancelled .gone none [] else m
  | none => m

/-- The domain launches a message carries (R347, R348): the master's armed slots 12–15. -/
def Mach.domainLaunches (m : Mach) : List DomLaunch :=
  (List.range 4).filterMap (fun i =>
    let l := m.slot (12 + i)
    if l.armed then l.domain.map (fun d => ⟨d.1, d.2, l.tag, l.count, l.action, l.arg⟩) else none)

/-! ## Mastership (R343–R346) -/

/-- The succession position of a module in the active plan (R343). -/
def Mach.succPos (m : Mach) (q : Nat) : Option Nat := m.plan.bind (fun p => p.succ.findIdx? (fun x => x == q))

/-- Whether one module stands before another in the succession. -/
def Mach.before (m : Mach) (a b : Nat) : Bool :=
  match m.succPos a, m.succPos b with
  | some i, some j => decide (i < j)
  | some _, none => true
  | none, _ => false

/-- A term at or above another (R343). -/
def atOrAbove (a b : Nat) : Bool := a % 65536 == b % 65536 || seqAbove a b

/-- The master gives way (R346): it follows as any other; its SLICE_REPLACE ends at the next safe point (R354). -/
def Mach.stepDownNow (m : Mach) (term pos : Nat) : Mach :=
  let m : Mach := { m with
    hall.isMaster := false
    hall.stepDown := none
    hall.term := term
    hall.master := some pos
    hall.disarms := []
    hall.changes := []
    hall.leftNow := [] }
  match m.hall.replace with
  | some r => if r.copy.isNone then { m with hall.replace := none }.endOp r.op stBadState [] else m
  | none => m

/-- MASTER_STEP_DOWN (R346): at the next superframe start. -/
def Mach.masterStepDown (m : Mach) : Mach :=
  match m.hall.stepDown with
  | some (t, q) => if m.hall.isMaster && m.time.count % 100 == 0 then m.stepDownNow t q else m
  | none => m

/-- MASTERSHIP_CLAIM (R343): at a superframe start; with peer_en 0 the module is out of the domain (R27) and claims nothing. -/
def Mach.claimMastership (m : Mach) : Mach :=
  match m.succPos m.sys.position with
  | none => m
  | some p =>
    let due := decide ((if p ≤ 1 then 3 else 2 + p) ≤ m.time.sfSince) && m.en fnPeer
    if !due || m.time.count % 100 != 0 || !m.sys.master || !m.sys.strapOk || m.hall.isMaster || m.hall.claim.isSome then m
    else
      let t := (m.hall.high + 1) % 65536
      { m with hall.claim := some ⟨t, m.sys.position, m.time.count + 100⟩, hall.high := t }.flood .claim none

/-- CLAIM (R344, R346): accepted and forwarded, or discarded. A term held is the term in force or of the claim held. -/
def Mach.claimFrame (m : Mach) (h : PeerHdr) (term pos takeover : Nat) : Mach :=
    let above := seqAbove term m.hall.term && m.hall.claim.all (fun c => seqAbove term c.term)
    let better := match m.hall.claim with
      | some c => c.term == term && m.before pos c.pos
      | none => false
    let sameTerm := m.hall.isMaster && term == m.hall.term && m.before pos m.sys.position
    if !above && !better && !sameTerm then m
    else
      let m : Mach := { m with
        hall.claim := some ⟨term, pos, takeover⟩
        hall.high := maxTerm term m.hall.high
        hall.stepDown := if m.hall.isMaster then some (term, pos) else m.hall.stepDown }
      m.flood .claim (some h.link) (some h.src)

/-- CLAIM_EXPIRY (R344): no message of its term by T + 100 F. -/
def Mach.claimExpiry (m : Mach) : Mach :=
  match m.hall.claim with
  | some c => if c.pos ≠ m.sys.position ∧ c.takeover + 100 ≤ m.time.count then { m with hall.claim := none } else m
  | none => m

/-! ## Leaving (R352, R353) -/

/-- The master declares a module left (R352): from the next superframe start its primaries pass to their mirrors, or restart (R353). -/
def Mach.declareLeft (m : Mach) (p : Plan) (q : Nat) : Mach :=
  let m : Mach := { m with
    hall.members := m.hall.members.filter (fun x => x.1 != q)
    hall.leftNow := addOnce m.hall.leftNow q }
  m.nextPlaces.foldl (fun m x =>
    let open_ := m.hall.replace.any (fun r => r.copy.any (fun c => c.1 == x.slice))
    let put (c : RoleChange) : Mach := { m with hall.changes := m.hall.changes ++ [c] }
    if x.primary = some q then
      match x.mirror with
      | some r =>
        if open_ then { put ⟨x.slice, m.chooseHolder p none, none, true⟩ with hall.degraded := true }.countReset
        else put ⟨x.slice, some r, none, false⟩
      | none => { put ⟨x.slice, m.chooseHolder p none, none, true⟩ with hall.degraded := true }.countReset
    else if x.mirror = some q then put ⟨x.slice, x.primary, none, false⟩
    else m) m

/-- LEAVE (R336, R352): sent on toward the master, which declares the module left. -/
def Mach.leaveFrame (m : Mach) (h : PeerHdr) (pos : Nat) : Mach :=
  if m.hall.isMaster then match m.plan with
    | some p => m.declareLeft p pos
    | none => m
  else m.sendUp .leave (some h.src)

/-- MODULE_DECLARED_LEFT (R352): reports missing for 3 consecutive superframes. -/
def Mach.declareMissing (m : Mach) : Mach :=
  match m.plan with
  | some p => if m.hall.isMaster then
      ((m.hall.members.filter (fun x => decide (3 ≤ x.2))).map Prod.fst).foldl (fun m q => m.declareLeft p q) m
    else m
  | none => m

/-! ## The superframe message (R337, R339, R341, R342) -/

/-- What a message says beside term and master takes effect (R337): the own band, role changes, and modules declared left, of which none trains
for this one any more (R280). -/
def Mach.applyItems (m : Mach) (s : SfMsg) : Mach :=
  let m : Mach := match s.bands, m.plan with
    | some bs, some p =>
      let m : Mach := { m with hall.bands := bs }
      match p.shelves.findIdx? (fun e => e.pos / 2 == m.sys.position / 2) with
      | some i => match bs[i]? with
        | some b => m.applyBand b.1 b.2
        | none => m
      | none => m
    | _, _ => m
  let m := s.changes.foldl Mach.applyChange m
  let m : Mach := { m with
    hall.members := m.hall.members.filter (fun x => !s.left.contains x.1)
    fc.trainer := m.fc.trainer.filter (fun q => !s.left.contains q) }
  if s.left.contains m.sys.position && m.time.inDomain then m.leaveDomain else m

/-- A message takes effect at a superframe start (R337, R346). -/
def Mach.applyMessage (m : Mach) (s : SfMsg) : Mach :=
  let m : Mach := if m.hall.isMaster && s.master != m.sys.position then m.stepDownNow s.term s.master else m
  ({ m with
    hall.msg := none
    hall.term := s.term
    hall.high := maxTerm s.term m.hall.high
    hall.master := some s.master } : Mach).applyItems s

/-- The fragments of a message joined in their order (R337). -/
def joinParts (ps : List SfMsg) (s : SfMsg) : SfMsg :=
  let fs := (List.range s.frags).filterMap (fun i => ps.find? (fun p => p.frag == i))
  { s with
    frag := 0
    bands := s.bands.map (fun _ => fs.flatMap (fun p => p.bands.getD []))
    changes := fs.flatMap (·.changes)
    left := fs.flatMap (·.left)
    launches := fs.flatMap (·.launches)
    disarms := fs.flatMap (·.disarms) }

/-- A complete message accepted (R337, R345, R346, R348, R349): its launches and disarms act at once. A message without bands of the present
superframe, by which a new master starts, takes effect on arrival; a master that it replaces follows from the next superframe start. -/
def Mach.acceptMessage (m : Mach) (s : SfMsg) : Mach :=
  let k := m.time.count / 100
  let m : Mach := { m with
    hall.phaseRef := s.phase
    hall.high := maxTerm s.term m.hall.high
    hall.claim := m.hall.claim.filter (fun c => seqAbove c.term s.term)
    time.sinceMsg := 1 }
  if !m.time.inDomain then { m with hall.term := s.term, hall.master := some s.master }
  else
    let m : Mach := { m with hall.stepDown := if m.hall.isMaster then some (s.term, s.master) else m.hall.stepDown }
    let m := s.disarms.foldl Mach.disarmDomain (s.launches.foldl Mach.armDomain m)
    if s.k = k ∧ s.bands.isNone then
      if m.hall.isMaster then m.applyItems s else m.applyMessage s
    else { m with hall.msg := some s }

/-- The key of the message a fragment belongs to. -/
def msgKey (s : SfMsg) : Nat := (2 * s.k + (if s.bands.isSome then 1 else 0)) * 65536 + s.term % 65536

/-- SUPERFRAME (R337, R346): a fragment with a term at or above the own one, in its superframe, is kept and forwarded once; the message is
accepted when all its fragments have arrived. -/
def Mach.superframeFrame (m : Mach) (h : PeerHdr) (s : SfMsg) : Mach :=
  let k := m.time.count / 100
  let rival := decide (s.master ≠ m.sys.position) && (seqAbove s.term m.hall.term || m.before s.master m.sys.position)
  let inTime := s.k == k + 1 || (s.k == k && s.bands.isNone) || !m.time.inDomain
  if !atOrAbove s.term m.hall.term || (m.hall.isMaster && !rival) || !inTime then m
  else
    let held := if m.hall.lastMsg = some (msgKey s) then m.hall.parts else []
    if held.any (fun p => p.frag == s.frag) ∨ s.frags ≤ s.frag then m
    else
      let parts := held ++ [s]
      let m : Mach := { m with hall.lastMsg := some (msgKey s), hall.parts := parts }
      let m := if parts.length = s.frags then m.acceptMessage (joinParts parts s) else m
      m.flood .superframe (some h.link) (some h.src)

/-- The strike that opens a superframe (R337, R340, R355): the message that waits for it applies; without one a module of
the domain counts a miss, and fragments of an incomplete message are discarded; an unfinished step ends; the time messages go out. -/
def Mach.superframeStrike (m : Mach) : Mach :=
  if m.time.count % 100 ≠ 0 then m
  else
    let m := m.endStep.sendTime
    let m := if m.time.inDomain then m.ackGenerations else m
    match m.hall.msg with
    | some s =>
      if s.k * 100 = m.time.count then m.applyMessage s
      else { m with hall.msg := none }
    | none => if m.time.inDomain && !m.hall.isMaster then m.bump .plMsgStat 15 0 1 else m

/-- The reports the master used for a shelf: the holder's; when both or neither hold, slot A's (R338). -/
def shelfReport (rs : List Report) (e : ShelfEnt) : Option Report :=
  let a := rs.find? (fun r => r.pos == e.pos)
  let b := rs.find? (fun r => r.pos == e.pos + 1)
  match a, b with
  | some x, some y => if y.holder && !x.holder then some y else some x
  | some x, none => some x
  | none, y => y

/-- A shelf counts as failed (R341): no report, its holder in quench, or no report with a holder. -/
def shelfFailed (rs : List Report) (e : ShelfEnt) : Bool :=
  let mine := rs.filter (fun r => r.pos / 2 == e.pos / 2)
  mine.isEmpty || mine.any (fun r => r.holder && r.quench) || mine.all (fun r => !r.holder)

/-- limit_s (R341): the lower of the plan limit and the reported cap_safety, in W. -/
def limitOf (e : ShelfEnt) (r : Report) : Nat := min (1000 * e.limit) r.capSafety

/-- The fallback band of a shelf (R342): H and W in W. -/
def fallbackBand (half : Nat) (hw w : Nat) (e : ShelfEnt) (r : Report) : Nat × Nat :=
  let lim := limitOf e r
  if hw = 0 ∨ w = 0 then (0, lim)
  else
    let ws := (clampInt r.want 0 (lim : Nat)).toNat
    let c := min (ws * hw / w) lim
    (c - half * 1000, min lim (c + half * 1000))

/-- The bands of the message for the next superframe (R339, R341, R342), each with whether it is the fallback band of R342. -/
def Mach.formBands (m : Mach) (p : Plan) (props : Option (List (Nat × Nat))) : List ((Nat × Nat) × Bool) :=
  let rs := m.hall.reports.filter (fun r => r.k == m.time.count / 100)
  let hw := 1000 * (m.rd .bdSchedApplied).toNat
  let w := nsum (p.shelves.map (fun e => (shelfReport rs e).elim 0 (fun r => (clampInt r.want 0 (limitOf e r : Nat)).toNat)))
  p.shelves.mapIdx (fun i e =>
    match shelfReport rs e with
    | none => (m.hall.bands.getD i (0, 1000 * e.limit), false)
    | some r =>
      let lim := limitOf e r
      let fb := (fallbackBand p.bandHalf hw w e r, true)
      let b := match props.bind (fun l => l[i]?) with
        | some (lo, hi) => if min hi lim < lo then fb else ((lo, min hi lim), false)
        | none => fb
      let lost := p.shelves.any (fun f => rackOf f.pos == rackOf e.pos && f.pos != e.pos && shelfFailed rs f)
      if lost then ((b.1.1, max b.1.2 (min r.d.toNat lim)), b.2) else b)

/-- The SUPERFRAME frames that a message takes (R337), for whose items the spec gives no layout: one for every 500 shelves of its bands, of
4,000 bytes (DESIGN CHOICE, notes/assumptions/45). -/
def sfFrames (bands : Option (List (Nat × Nat))) : Nat := max 1 ((bands.elim 0 List.length + 499) / 500)

/-- The message for a superframe, as the master forms it. Its strike phase reference is a free value (notes/assumptions/45). -/
def Mach.message (m : Mach) (k : Nat) (phase : Int) (bands : Option (List (Nat × Nat))) : SfMsg :=
  { k := k, term := m.hall.term, master := m.sys.position, frag := 0, frags := sfFrames bands, phase := phase, bands := bands,
    changes := m.hall.changes, left := m.hall.leftNow, launches := m.domainLaunches, disarms := m.hall.disarms }

/-- A message goes out on every link in service. -/
def Mach.floodMessage (m : Mach) (s : SfMsg) : Mach := (List.range s.frags).foldl (fun m _ => m.flood .superframe none) m

/-- SUPERFRAME_SEND (R337, R341, R342): the master's message for superframe k + 1, between frames 86 and 90, once. A superframe counts as one
with fallback bands where no proposals came or a bound put one in. -/
def Mach.superframeSend (m : Mach) : Mach :=
  let k := m.time.count / 100
  let at_ := m.time.count % 100
  match m.plan with
  | none => m
  | some p =>
    if !m.hall.isMaster ∨ at_ < 86 ∨ 90 < at_ ∨ m.hall.msg.isSome then m
    else
      let props := m.hall.proposals.bind (fun x => if x.1 = k then some x.2 else none)
      let bands := m.formBands p props
      let m : Mach := if props.isSome && !bands.any (·.2) then m else m.bump .plStepStat 31 16 1
      let t := m.take
      let s := t.2.message (k + 1) t.1.toInt (some (bands.map (·.1)))
      ({ t.2 with hall.msg := some s, hall.changes := [], hall.leftNow := [] } : Mach).floodMessage s

/-- The message without bands by which a new master starts (R345): it carries the slice promotions for the master it replaces, which apply
at once. -/
def Mach.startTerm (m : Mach) : Mach :=
  let t := m.take
  let s := t.2.message (m.time.count / 100) t.1.toInt none
  let m := s.changes.foldl Mach.applyChange { t.2 with hall.changes := [], hall.leftNow := [] }
  m.floodMessage s

/-- BECOME_MASTER (R345): at T, a claimant that still holds its own claim. The modules it knows of the domain owe it reports from now on (R352). -/
def Mach.becomeMaster (m : Mach) : Mach :=
  match m.hall.claim, m.plan with
  | some c, some p =>
    if c.pos ≠ m.sys.position ∨ c.takeover ≠ m.time.count ∨ m.hall.isMaster ∨ !m.en fnPeer then m
    else
      let old := m.hall.master
      let m := if m.time.inDomain then m else m.joinDomain
      let m : Mach := { m.masterTime with
        hall.isMaster := true
        hall.term := c.term
        hall.master := some m.sys.position
        hall.claim := none
        hall.members := m.hall.members.map (fun x => (x.1, 0))
        hall.reports := []
        hall.proposals := none
        hall.changes := []
        hall.leftNow := [] }
      let m := match old with
        | some q => if q = m.sys.position then m else m.declareLeft p q
        | none => m
      m.startTerm
  | _, _ => m

/-! ## Reports and the table (R338, R340) -/

/-- A register as a signed number. -/
def Mach.rdInt (m : Mach) (r : Reg) : Int := (m.rd r).toInt

/-- This module's report for superframe k (R338): the values of frame 100·k + 49, as the strike after it shows them. -/
def Mach.ownReport (m : Mach) (k : Nat) : Report :=
  { pos := m.sys.position
    k := k
    holder := m.pair.holding
    quench := m.fault.quench.active
    anvilReady := m.ready fnAnvil
    bandViolation := bit (m.rd .bdStat) 9
    effPolicy := m.bel.snap.effPolicy
    schedAbsent := m.fc.schedAbsent
    d := m.rdInt .bdDemand
    mean := tdiv m.bel.demandSum (max 1 m.bel.demand.length : Nat)
    want := m.bel.want
    g := m.rdInt .bdGrid
    dis := m.rdInt .bdDisAvail
    chg := m.rdInt .bdChgAvail
    capSafety := m.capSafety
    soe := m.rdField .bdSoe 9 0
    refusals := m.hall.refusals.take 2 }

/-- A report at the master: one per module and superframe (R336, R338). -/
def Mach.takeReport (m : Mach) (r : Report) : Mach :=
  if m.hall.reports.any (fun x => x.pos == r.pos && x.k == r.k) then m
  else { m with hall.reports := (m.hall.reports.filter (fun x => x.k == r.k)) ++ [r] }

/-- REPORT (R336, R338): used when it reaches the master by 100·k + 58, a second copy discarded; later it counts as late, once, a member's with
the table (R362); elsewhere it goes on toward the master. -/
def Mach.reportFrame (m : Mach) (h : PeerHdr) (r : Report) : Mach :=
  if !m.hall.isMaster then m.sendUp .report (some h.src)
  else if m.hall.reports.any (fun x => x.pos == r.pos && x.k == r.k) then m
  else if r.k = m.time.count / 100 ∧ m.time.count % 100 ≤ 58 then m.takeReport r
  else if m.hall.members.any (fun x => x.1 == r.pos) || m.hall.late.contains (r.pos, r.k) then m
  else { m.bump .plMsgStat 31 16 1 with hall.late := m.hall.late.filter (fun x => x.2 + 2 > m.time.count / 100) ++ [(r.pos, r.k)] }

/-- REPORT_SEND (R335, R338, R344): at 100·k + 50, from the first superframe after joining; while a claim is held, to the
claimant. -/
def Mach.reportSend (m : Mach) : Mach :=
  let k := m.time.count / 100
  if m.time.count % 100 ≠ 50 ∨ !m.time.inDomain ∨ k ≤ m.hall.joined then m
  else
    let r := m.ownReport k
    let m : Mach := { m with hall.refusals := m.hall.refusals.drop 2 }
    if m.hall.isMaster then m.takeReport r
    else
      match m.hall.claim with
      | some c => m.sendTo .report c.pos
      | none => m.sendUp .report

/-- TABLE_SEND (R340, R352): after the last usable report, by 100·k + 60; members without a report are counted. -/
def Mach.tableSend (m : Mach) : Mach :=
  let k := m.time.count / 100
  let at_ := m.time.count % 100
  match m.plan with
  | none => m
  | some p =>
    if !m.hall.isMaster ∨ at_ < 59 ∨ 60 < at_ ∨ m.hall.table.any (fun t => t.1 == k) then m
    else
      let rs := m.hall.reports.filter (fun r => r.k == k)
      let used := p.shelves.filterMap (shelfReport rs)
      let known := m.hall.members.map (fun x => if rs.any (fun r => r.pos == x.1) then (x.1, 0) else (x.1, x.2 + 1))
      let new := (rs.filter (fun r => r.pos != m.sys.position && !m.hall.members.any (fun x => x.1 == r.pos))).map (fun r => (r.pos, 0))
      let lost := (known.filter (fun x => x.2 != 0)).length
      let m : Mach := m.bump .plMsgStat 31 16 lost
      { m with hall.reports := rs, hall.members := known ++ new, hall.table := some (k, used) }.flood .table none

/-- TABLE (R336, R340): received by the holders and forwarded once. -/
def Mach.tableFrame (m : Mach) (h : PeerHdr) (k : Nat) (rs : List Report) : Mach :=
  if m.hall.isMaster || k != m.time.count / 100 || m.hall.table.any (fun t => t.1 == k) then m
  else { m with hall.table := some (k, rs) }.flood .table (some h.link) (some h.src)

/-! ## A plan applies (R332, R327) -/

/-- The buffer of `PL_PLAN_SEL` becomes active at an applied commit (R332). Every other module of the plan counts as a member until it is
declared left (R352). A copy that SLICE_REPLACE chose and that no module has begun is placed again under the new plan (R22). -/
def Mach.applyPlan (m : Mach) (sel : Nat) : Mach :=
  if m.hall.active = some sel then m
  else
    match m.hall.bufs.getD sel none with
    | none => m
    | some p =>
      let first := p.succ.head?
      let started := fun (c : Nat × Nat) => !((m.hall.msg.map (·.changes)).getD [] ++ m.hall.changes).any (fun x => x.slice == c.1)
      let idle := (m.hall.replace.bind (·.copy)).filter (fun c => !started c)
      let m : Mach := { m with
        hall.active := some sel
        hall.bufState := if (m.hall.bufs.getD (1 - sel) none).isSome then 2 else 0
        hall.planSaved := some p
        hall.term := 0
        hall.high := 0
        hall.master := first
        hall.isMaster := m.time.inDomain && first == some m.sys.position
        hall.claim := none
        hall.stepDown := none
        hall.msg := none
        hall.lastMsg := none
        hall.parts := []
        hall.late := []
        hall.members := (p.modules.filter (fun q => q != m.sys.position)).map (fun q => (q, 0))
        hall.reports := []
        hall.table := none
        hall.bands := []
        hall.changes := []
        hall.leftNow := []
        hall.disarms := []
        fc.hallBank := 2 }
      let m := if m.hall.isMaster then m.masterTime else m
      let m := (List.range m.sys.links).foldl (fun m n =>
        let st := (m.peer n).st
        if decide (st = .held) || decide (st = .service) || (decide (st = .ident) && (m.peer n).farPos.isSome) then m.judgeLink n
        else m) m
      let m := m.placeAll p
      idle.elim m (fun c => m.copyEnded c.1)

/-- Peer-link readiness (R335). -/
def Mach.peerConditions (m : Mach) : Bool := m.plan.isSome && !m.serviceLinks.isEmpty

/-! ## Registers (R362) -/

/-- `PL_STAT`. -/
def Mach.plStat (m : Mach) : Word :=
  flag (m.ready fnPeer) 31 ||| flag m.time.inDomain 30 ||| flag m.hall.isMaster 29
    ||| flag (m.time.powered && !m.sys.strapOk) 28 ||| flag m.hall.degraded 27
    ||| (if m.time.powered then place m.ownPos 0 else 0)

/-- `PL_MASTER`. -/
def Mach.plMaster (m : Mach) : Word := place m.hall.term 16 ||| place (m.hall.master.getD 0xFFFF % 65536) 0

/-- `PL_PLAN_CTRL`, as it reads. -/
def Mach.plPlanCtrl (m : Mach) : Word :=
  place m.hall.bufState 24 ||| place m.hall.loadStatus 16 ||| place (m.hall.active.getD 0) 0

/-- `PL_SLICE_STAT`. -/
def Mach.plSliceStat (m : Mach) : Word :=
  let ps := (m.hall.roles.filter (·.primary)).length
  let copies := (m.hall.roles.filter (fun r => r.copying.isSome)).length + m.hall.oldCopies.length
  place ps 24 ||| place (m.hall.roles.length - ps) 16 ||| place (min copies 15) 12 ||| place (min m.unmirrored.length 4095) 0

/-- `SY_TIME_STAT` (R36). -/
def Mach.timeStat (m : Mach) : Word :=
  let st := match m.time.state with
    | .free => 0
    | .joining => 1
    | .locked => 2
    | .slewing => 3
    | .holdover => 4
  place (if m.hall.isMaster then 0 else m.time.sfSince) 24 ||| flag m.hall.isMaster 7 ||| place st 0

/-- HOLDOVER_ENTRY (R39). -/
def execHoldoverEntry (s : State) : Host.Outcome State Fault Refusal := s.on Mach.holdover

/-- SUPERFRAME_SEND (R337). -/
def execSuperframeSend (s : State) : Host.Outcome State Fault Refusal := s.on Mach.superframeSend

/-- REPORT_SEND (R338). -/
def execReportSend (s : State) : Host.Outcome State Fault Refusal := s.on Mach.reportSend

/-- TABLE_SEND (R340). -/
def execTableSend (s : State) : Host.Outcome State Fault Refusal := s.on Mach.tableSend

/-- MASTERSHIP_CLAIM (R343). -/
def execMastershipClaim (s : State) : Host.Outcome State Fault Refusal := s.on Mach.claimMastership

/-- BECOME_MASTER (R345). -/
def execBecomeMaster (s : State) : Host.Outcome State Fault Refusal := s.on Mach.becomeMaster

/-- CLAIM_EXPIRY (R344). -/
def execClaimExpiry (s : State) : Host.Outcome State Fault Refusal := s.on Mach.claimExpiry

/-- MASTER_STEP_DOWN (R346). -/
def execMasterStepDown (s : State) : Host.Outcome State Fault Refusal := s.on Mach.masterStepDown

/-- MODULE_DECLARED_LEFT (R352). -/
def execModuleDeclaredLeft (s : State) : Host.Outcome State Fault Refusal := s.on Mach.declareMissing

end Sys2Proof.Machine
end

