-- ==== Sys2Proof/Machine/Readiness.lean ====
section
/-! DEFINITION. Readiness (R521, R522): the conditions of every bit, the change at a strike with its record, and the limits. -/

namespace Sys2Proof.Machine

/-- The bits whose conditions hold at present (R522): those of functions, then lpddr, cfg_loaded and cfg_failed. -/
def Mach.readyBits (m : Mach) : List Nat :=
  let cap := m.sys.capValid
  let loop := cap && m.sys.cfgLoaded && m.en fnLoop
  let anvil := cap && m.en fnAnvil && m.sys.tiles != 0 && m.anvil.bist && m.tilesIn != 0 && m.stacksSettled
    && !m.phys.stopped
  let forecast := anvil && m.fcConditions && m.fc.encoded
  let all : List (Nat × Bool) :=
    [(fnLoop, loop), (fnBellows, loop && m.en fnBellows), (fnAnvil, anvil), (fnForecast, forecast),
     (fnTrain, forecast && m.sys.train && m.en fnTrain && (m.stackSt 0).inService),
     (fnCellring, cap && m.en fnCellring && m.cell.ready),
     (fnPeer, cap && m.en fnPeer && m.sys.links != 0 && m.peerConditions),
     (fnDma, cap && m.en fnDma), (8, cap && m.en fnRecorder && m.ev.mounted && m.ev.powerGoodQueued), (9, cap),
     (10, cap && m.sys.stks != 0 && m.stacksSettled), (11, m.sys.cfgLoaded), (12, m.sys.cfgFailed)]
  (all.filter (·.2)).map (·.1)

/-- A function that stops being ready ends what R27 and R118 end with it: loops and dispatch start afresh. -/
def Mach.lostReady (m : Mach) (fell : Nat) : Mach :=
  let m : Mach := if fell.testBit fnLoop then
      { (List.range 32).foldl Mach.discardLoop m with eng.cycles := 0 } else m
  if fell.testBit fnBellows then m.dispatchOff else m

/-- A pair that an injection holds non-complementary when its unit sets its readiness bit is monitored from then on, and recorded
(R401, R402, R422). -/
def Mach.wireForced (m : Mach) : Mach :=
  (m.fault.forced.filter (fun f => f.mode == 3)).foldl (fun m f => m.wirePair (f.source, f.cls)) m

/-- READINESS_CHANGE (R522): at a strike, the bits follow their conditions; a change is marked in `SY_READY_CHG` and written as one
record with the register before and after. History capture starts with the loop engine (R261), and a module whose loop engine becomes ready is
unaligned (R439). -/
def Mach.readiness (m : Mach) : Mach :=
  let old := m.rd .syReady
  let new := BitVec.ofNat 32 (natOfBits m.readyBits)
  if old = new then m
  else
    let m : Mach := (m.wr .syReady new).orReg .syReadyChg (old ^^^ new)
    let m : Mach := { m with sys.limitDone := m.sys.limitDone ||| new.toNat,
                             fault.readySeen := m.fault.readySeen ||| new.toNat,
                             pair.aligned := m.pair.aligned && !bit (new &&& ~~~old) fnLoop }
    let m := (m.lostReady (old &&& ~~~new).toNat).startHistory.wireForced
    m.emit evReadiness .info [old, new, m.cap1, 0]

/-- The bits that have a limit, with the limit in frames (R522). -/
def readyLimits : List (Nat × Nat) :=
  [(fnLoop, 20000), (fnBellows, 20000), (fnAnvil, 500000), (fnCellring, 30000), (fnDma, 10000), (8, 20000), (9, 10000),
   (10, 200000)]

/-- Whether the function behind a bit is present and enabled (R522, R24). -/
def Mach.readyOwed (m : Mach) (n : Nat) : Bool :=
  if n = fnAnvil then m.sys.tiles != 0 && m.en fnAnvil
  else if n = 10 then m.sys.stks != 0
  else if n < 9 then m.en n
  else true

/-- The frames each function has had since power-good, a reset, or its re-enable (R522, R523). -/
def Mach.ageReadiness (m : Mach) : Mach :=
  { m with sys.readyAge := m.sys.readyAge.mapIdx (fun n a => if m.readyOwed n then satAdd a 1 500000 else a) }

/-- READINESS_LIMIT_FAULT (R522): a present and enabled function whose bit has not set by its limit; once. -/
def Mach.readinessLimit (m : Mach) (n : Nat) : Mach :=
  match readyLimits.find? (fun x => x.1 == n) with
  | none => m
  | some (_, limit) =>
    if m.time.powered && m.readyOwed n && !m.ready n && !m.sys.limitDone.testBit n
        && decide (limit ≤ m.sys.readyAge.getD n 0) then
      { m with sys.limitDone := m.sys.limitDone ||| (1 <<< n) }.raise srcKernel .severe (place n 0)
    else m

/-- A function enabled again counts its time anew (R523). -/
def Mach.restartAge (m : Mach) (n : Nat) : Mach :=
  { m with
    sys.readyAge := m.sys.readyAge.set n 0
    sys.limitDone := natOfBits ((bitsOf 13 m.sys.limitDone).filter (fun k => k != n)) }

/-- READINESS_LIMIT_FAULT. -/
def execReadinessLimitFault (n : Nat) (s : State) : Host.Outcome State Fault Refusal := s.on (fun m => m.readinessLimit n)

end Sys2Proof.Machine
end

