-- ==== Sys2Proof/Machine/StageLinks.lean ====
section
/-! DEFINITION. Stage-link frames (R157–R164, R430, R431): feedback reception and its checks, link service, and the command
frames of each frame. -/

namespace Sys2Proof.Machine

/-- A stage link. -/
def Mach.link (m : Mach) (n : Nat) : StageLinkSt := m.eng.links.getD n StageLinkSt.reset

/-- A stage link changed. -/
def Mach.setLink (m : Mach) (n : Nat) (f : StageLinkSt → StageLinkSt) : Mach :=
  { m with eng.links := m.eng.links.modify n f }

/-! ## Feedback -/

/-- The first failing check of R161, as the field of `LE_SL_ERR_n` that counts it. -/
def feedbackFails (f : FeedbackIn) (n count : Nat) : Option (Nat × Nat) :=
  if f.late then some (15, 8)
  else if !f.crcOk then some (31, 24)
  else if f.type ≠ 0xC3 then some (23, 16)
  else if f.seq ≠ count % 256 then some (23, 16)
  else if f.link ≠ n then some (7, 0)
  else none

/-- STAGE_FEEDBACK_FRAME (R161, R163): one frame per link and frame, on a link with a role and lock. The link enters
service at the third consecutive arrived frame. -/
def Mach.feedback (m : Mach) (n : Nat) (f : FeedbackIn) : Mach :=
  let l := m.link n
  if 12 ≤ n || m.role n = 0 || !l.lock || l.now.isSome || l.failed then m
  else
    match feedbackFails f n m.time.count with
    | some x => (m.bump (.leSlErr n) x.1 x.2 1).setLink n (fun l => { l with failed := true })
    | none => m.setLink n (fun l => { l with
        now := some f
        last := f
        goodRun := satAdd l.goodRun 1 3
        inService := l.inService || decide (2 ≤ l.goodRun)
        missRun := 0
        missFault := false })

/-- STAGE_LINK_LOCK (R163). -/
def Mach.linkLock (m : Mach) (n : Nat) : Mach := m.setLink n (fun l => { l with lock := true, goodRun := 0 })

/-- STAGE_LINK_LOCK_LOSS (R163): the link leaves service, with a SEVERE fault where it has a role; a frame that had arrived stays
arrived. -/
def Mach.linkLoss (m : Mach) (n : Nat) : Mach :=
  if !(m.link n).lock then m
  else
    let m : Mach := m.setLink n (fun l => { l with lock := false, inService := false, goodRun := 0 })
    if m.role n = 0 then m else m.raise (srcStageLink n) .severe (place ((m.link n).last.fault % 256) 0)

/-- STAGE_LINK_MISS_FAULT (R163): three frames not arrived, once per run. -/
def Mach.linkMissFault (m : Mach) (n : Nat) : Mach :=
  let l := m.link n
  if m.role n ≠ 0 ∧ 3 ≤ l.missRun ∧ l.missFault = false then
    (m.setLink n (fun l => { l with missFault := true })).raise (srcStageLink n) .corr (place (l.last.fault % 256) 0)
  else m

/-- OUTPUT_LATE_FAULT (R32): three outputs missed in a row, once per run. -/
def Mach.outputLateFault (m : Mach) (n : Nat) : Mach :=
  let l := m.link n
  if m.role n ≠ 0 ∧ 3 ≤ l.lateRun ∧ l.lateFault = false then
    (m.setLink n (fun l => { l with lateFault := true })).raise (srcStageLink n) .severe (place (l.last.fault % 256) 0)
  else m

/-- The end of one link's frame (R163): a frame that did not arrive counts once the loop engine is ready. -/
def Mach.endLink (m : Mach) (n : Nat) : Mach :=
  let l := m.link n
  if m.role n = 0 ∨ l.now.isSome = true then m
  else
    let m : Mach := m.setLink n (fun l => { l with goodRun := 0 })
    if m.ready fnLoop then
      let m : Mach := if l.failed then m else m.bump (.leSlErr n) 15 8 1
      (m.setLink n (fun l => { l with missRun := satAdd l.missRun 1 255 })).orReg .syBudget (flag true 0)
    else m

/-- A link whose role became 0b00 (R163). -/
def Mach.dropRoles (m : Mach) : Mach :=
  (List.range 12).foldl (fun m n =>
    if m.role n = 0 then m.setLink n (fun l => { l with
      inService := false
      goodRun := 0
      missRun := 0
      missFault := false
      now := none
      lateRun := 0
      lateFault := false }) else m) m

/-- The feedback of the present frame is over: links await the next one. -/
def Mach.clearFeedback (m : Mach) : Mach :=
  { m with eng.links := m.eng.links.map (fun l => { l with now := none, failed := false }) }

/-! ## Command frames -/

/-- What the loops send on a link (R154, R159, R165, R166): channel, value, held, loop. -/
def Mach.outputsOn (m : Mach) (n : Nat) : List (Nat × Int × Bool × Nat) :=
  ((List.range 32).filter m.loopOn).flatMap (fun k =>
    let l := m.loop k
    if m.loopStopped k l then []
    else ((List.range (min (m.dims k).no l.out.length)).filter (fun j =>
        m.outMap k j != 255 && m.outMap k j / 8 == n)).map (fun j => (m.outMap k j % 8, l.out.getD j 0, l.missed, k)))

/-- Words 2 to 10 of the command frame for a link, with the channels of some loops at 0 (R159, R436). -/
def Mach.commandBody (m : Mach) (n excl : Nat) : Nat × List Word :=
  let outs := m.outputsOn n
  let ch (c : Nat) : Word :=
    match outs.find? (fun o => o.1 == c && !excl.testBit o.2.2.2) with
    | some o => wordOfInt o.2.1
    | none => 0
  let held := natOfBits ((outs.filter (fun o => o.2.2.1 && !excl.testBit o.2.2.2)).map (·.1))
  (natOfBits (outs.map (·.1)), (List.range 8).map ch ++ [place held 0])

/-- The command frame sent on a link (R159, R431): without the claim it carries valid 0. -/
def Mach.commandFrame (m : Mach) (n : Nat) : List Word :=
  let b := if m.pair.holding then m.commandBody n 0 else (0, List.replicate 9 0)
  sealFrame (place 0x3C 24 ||| place (m.time.count % 256) 16 ||| place n 12 ||| place b.1 0) m.claimWord (b.2.take 8)
    (wordAt b.2 8)

/-- The frames of the output window (R31, R431, R32): quench frames in quench, else command frames while the loop engine
is ready; a frame that has not left by its deadline is not sent. -/
def Mach.outputFrames (m : Mach) (late : Nat) : Mach :=
  let send := m.fault.quench.active || m.ready fnLoop
  if !send then m
  else
    m.roleLinks.foldl (fun m n =>
      if late.testBit n then (m.setLink n (fun l => { l with lateRun := satAdd l.lateRun 1 3 })).orReg .syBudget (flag true 3)
      else
        let ws := if m.fault.quench.active then m.quenchFrame n else m.commandFrame n
        m.setLink n (fun l => { l with tx := ws, lateRun := 0, lateFault := false })) m

/-- `LE_SL_TX_n` (R164). -/
def StageLinkSt.txWord (l : StageLinkSt) : Word :=
  place (field (wordAt l.tx 0) 31 24) 24 ||| place (field (wordAt l.tx 10) 7 0) 8 ||| place (field (wordAt l.tx 0) 7 0) 0

/-- `LE_SL_STAT_n` (R164). -/
def StageLinkSt.statWord (l : StageLinkSt) : Word :=
  flag l.lock 31 ||| flag l.inService 30 ||| place (l.last.fault % 256) 16 ||| place (l.missRun % 256) 8 |||
    place (l.last.seq % 256) 0

/-! ## The commands -/

/-- STAGE_FEEDBACK_FRAME. -/
def execStageFeedbackFrame (n : Nat) (f : FeedbackIn) (s : State) : Host.Outcome State Fault Refusal :=
  s.on (fun m => m.feedback n f)

/-- STAGE_LINK_LOCK. -/
def execStageLinkLock (n : Nat) (s : State) : Host.Outcome State Fault Refusal := s.on (fun m => m.linkLock n)

/-- STAGE_LINK_LOCK_LOSS. -/
def execStageLinkLockLoss (n : Nat) (s : State) : Host.Outcome State Fault Refusal := s.on (fun m => m.linkLoss n)

/-- STAGE_LINK_MISS_FAULT. -/
def execStageLinkMissFault (n : Nat) (s : State) : Host.Outcome State Fault Refusal := s.on (fun m => m.linkMissFault n)

/-- OUTPUT_LATE_FAULT. -/
def execOutputLateFault (n : Nat) (s : State) : Host.Outcome State Fault Refusal := s.on (fun m => m.outputLateFault n)

end Sys2Proof.Machine
end

