-- ==== Sys2Proof/Machine/CellRing.lean ====
section
/-! DEFINITION. The cell ring's sweep (R364–R385, R391–R394): samples, reads, data, wire tests, and the frames that
answer them. Publication stands in CellPublish. Voltages are in 100 µV. -/

namespace Sys2Proof.Machine

/-- A port. -/
def Mach.port (m : Mach) (p : Nat) : PortSt := m.cell.ports.getD p PortSt.reset

/-- A port changed. -/
def Mach.setPort (m : Mach) (p : Nat) (f : PortSt → PortSt) : Mach := { m with cell.ports := m.cell.ports.modify p f }

/-- units of `CR_PCFG_p`. -/
def Mach.unitsOf (m : Mach) (p : Nat) : Nat := m.rdField (.crPcfg p) 13 8

/-- Whether a port is enabled, with the ring's own enable. -/
def Mach.portEn (m : Mach) (p : Nat) : Bool := bit (m.rd .crCtrl) p && m.en fnCellring

/-- The enabled ports. -/
def Mach.portsEn (m : Mach) : List Nat := (List.range 4).filter m.portEn

/-- The conversion time of a port's corner in frames (R369). -/
def Mach.conv (m : Mach) (p : Nat) : Nat :=
  match m.rdField (.crPcfg p) 15 14 with
  | 0 => 80
  | 1 => 160
  | 2 => 320
  | _ => 640

/-- The ring driver (R367): the holder, or slot A while neither module holds the claim. -/
def Mach.ringDriver (m : Mach) : Bool :=
  m.pair.holding || (!m.pair.side && !(m.pair.partnerLast.any (fun f => f.holding)))

/-! ## Frames of the ring (R365, R366) -/

/-- A ring frame: header, payload, CRC with its high byte first. The sweep field and the masks stand least significant byte first
(DESIGN CHOICE, notes/assumptions/89). -/
def ringFrame (type hop count flags sweep : Nat) (payload : List Byte) : List Byte :=
  let b := [type, hop, count, flags].map (BitVec.ofNat 8) ++ leBytes 4 sweep ++ payload
  b ++ [BitVec.ofNat 8 ((crc16 b).toNat / 256), BitVec.ofNat 8 (crc16 b).toNat]

/-- The hop field of a unit as an end sees it (R365). -/
def hopOf (n : Nat) (fromB : Bool) (u : Nat) : Nat := if fromB then n + 1 - u else u

/-- The sweep field of a port's present sweep (R366). -/
def Mach.sweepField (m : Mach) (p : Nat) : Nat := ((m.port p).sweep.getD 0) / 1000 % 4294967296

/-- Frames leave the two ends of a port, from the ring driver alone (R367). -/
def Mach.ringSend (m : Mach) (p : Nat) (a b : List (List Byte)) : Mach :=
  if m.ringDriver then m.setPort p (fun pt => { pt with txA := a, txB := b }) else m

/-- One frame to a unit from one end. -/
def Mach.ringSendTo (m : Mach) (p type : Nat) (fromB : Bool) (u : Nat) (payload : List Byte) : Mach :=
  let f := ringFrame type (hopOf (m.unitsOf p) fromB u) 0 (if fromB then 1 else 0) (m.sweepField p) payload
  if fromB then m.ringSend p [] [f] else m.ringSend p [f] []

/-- A broadcast from both ends. -/
def Mach.ringBroadcast (m : Mach) (p type : Nat) (payload : List Byte) : Mach :=
  m.ringSend p [ringFrame type 0 0 0 (m.sweepField p) payload] [ringFrame type 0 0 1 (m.sweepField p) payload]

/-- A fault of a port (R383, R405): unit position, cell or tap; the condition field is a free value
(notes/assumptions/5). -/
def Mach.cellFault (m : Mach) (p : Nat) (cls : FCls) (kind unit item : Nat) : Mach :=
  let t := m.take
  t.2.raiseKind (srcPort p) cls kind (place (unit % 64) 0 ||| place (item % 32) 8 ||| place (t.1.toNat % 65536) 16)

/-- Whether ports may start (R391). -/
def Mach.ringMayStart (m : Mach) : Bool :=
  m.sys.capValid && m.sys.cfgLoaded && (!m.en fnLoop || m.ready fnLoop)

/-- A unit at the start of a sweep: nothing read yet, the taps due are under test, converters stopped by SAMPLE. -/
def UnitSt.startSweep (u : UnitSt) : UnitSt :=
  { u with
    got := false
    viaB := false
    testing := u.toTest
    giveOut := 0
    takeOut := 0 }

/-- Whether a port starts a sweep at this boundary (R391): one that runs goes on; one that has not started waits for the first boundary
after a strike at which the conditions held. -/
def Mach.portStarts (m : Mach) (p : Nat) : Bool :=
  let pt := m.port p
  m.portEn p && pt.sweep.isNone && !pt.fresh && (pt.ring != 0 || m.cell.mayBefore && m.ringMayStart)

/-- The conditions of R391 at the end of a strike, and what the strike before showed. -/
def Mach.noteRing (m : Mach) : Mach := { m with cell.mayAt := m.ringMayStart }

/-- CELL_SWEEP_START on one port (R368, R372, R391): SAMPLE leaves both ends with the filter corner. -/
def Mach.startSweep (m : Mach) (p : Nat) : Mach :=
  if !m.portStarts p then m
  else
    let m := m.setPort p (fun pt => { pt with
      sweep := some m.time.count
      ring := if pt.ring = 0 then 1 else pt.ring
      void := false
      wireTest := (pt.units.take (m.unitsOf p)).any (fun u => !u.toTest.isEmpty)
      a := 0
      b := 0
      breakAt := none
      endedB := false
      outA := none
      outB := none
      freeA := 0
      freeB := 0
      balDone := false
      balLeft := []
      units := pt.units.map UnitSt.startSweep })
    m.ringBroadcast p 0x01 [BitVec.ofNat 8 (m.rdField (.crPcfg p) 15 14)]

/-- CELL_SWEEP_START: at a multiple of 1,000, the enabled ports start; a campaign with target 0 adopts the default
spread (R22, R386). A resumed operation of the ring reports it at this step (R73). -/
def Mach.sweepStart (m : Mach) : Mach :=
  if m.time.count % 1000 ≠ 0 then m
  else
    let spread := m.rdField .crBalCfg 31 16
    let m : Mach := { m with cell.camp := m.cell.camp.map (fun c => { c with now := if c.target = 0 then spread else c.target }) }
    let m := (List.range 4).foldl Mach.startSweep m
    ((m.cell.camp.map (·.op)).toList ++ (m.cell.caps.map (·.op)).toList).foldl Mach.noteResumed m

/-- The ring state the SAMPLE frames show (R372): 2 INTACT, 5 MISMATCH, 3 BROKEN_ONE, 4 BROKEN_TWO. -/
def ringFinding (n : Nat) (returned : Option Nat) (a b : Nat) : Option Nat :=
  match returned with
  | some c => if c = n then some 2 else some 5
  | none => if a + b = n then some 3 else if a + b < n then some 4 else none

/-- The last unit read from end A (R372, R373): all of an INTACT ring, else those before the break, and none from a unit on that was
silent twice. -/
def Mach.lastFromA (m : Mach) (p : Nat) : Nat :=
  let pt := m.port p
  let most := match pt.ring with
    | 2 => m.unitsOf p
    | 3 => pt.a
    | 4 => pt.a
    | _ => 0
  match pt.breakAt with
  | some h => min most (h - 1)
  | none => most

/-- The last unit read from end B, counting down; above N when none is. -/
def Mach.lastFromB (m : Mach) (p : Nat) : Nat :=
  let pt := m.port p
  let n := m.unitsOf p
  if pt.endedB || pt.void then n + 1
  else match pt.ring with
    | 2 => match pt.breakAt with
      | some h => h
      | none => n + 1
    | 3 => pt.a + 1
    | 4 => n + 1 - pt.b
    | _ => n + 1

/-- WIRETEST to the units with taps to test (R378): one frame for each tap, or one that names them all, from the end that reads the unit. -/
def Mach.sendWiretest (m : Mach) (p : Nat) : Mach :=
  let pt := m.port p
  let n := m.unitsOf p
  let frames (fromB : Bool) (us : List Nat) : List (List Byte) := us.flatMap (fun u =>
    let taps := (pt.units.getD (u - 1) UnitSt.reset).testing
    (if (List.range 17).all taps.contains then [0x1F] else taps).map (fun k =>
      ringFrame 0x06 (hopOf n fromB u) 0 (if fromB then 1 else 0) (m.sweepField p) [BitVec.ofNat 8 k]))
  let us := (List.range n).map (· + 1)
  if pt.wireTest then
    m.ringSend p (frames false (us.filter (fun u => decide (u ≤ m.lastFromA p))))
      (frames true (us.filter (fun u => decide (m.lastFromA p < u) && decide (m.lastFromB p ≤ u))))
  else m

/-- RING_SAMPLE_RETURN (R372); WIRETEST follows where a test is due. -/
def Mach.sampleReturn (m : Mach) (p : Nat) (returned : Option Nat) (a b : Nat) : Mach :=
  let pt := m.port p
  if pt.sweep.isNone then m
  else match ringFinding (m.unitsOf p) returned a b with
    | none => m
    | some st =>
      let old := pt.ring
      let m : Mach := m.setPort p (fun pt => { pt with
        ring := st
        a := a
        b := b
        entered := pt.entered || decide (st = 4 ∨ st = 5) })
      let m := m.sendWiretest p
      if st = old then m
      else match st with
        | 2 => if 3 ≤ old then m.cellFault p .info kindRing 0 0 else m
        | 5 => m.cellFault p .severe kindRing 0 0
        | 3 => (m.bump (.crPerr p) 7 0 1).cellFault p .corr kindRing a 0
        | _ => (m.bump (.crPerr p) 7 0 1).cellFault p .severe kindRing a 0

/-- The unit a READ from an end names next: ascending from A, descending from B. -/
def Mach.nextRead (m : Mach) (p : Nat) (fromB : Bool) : Option Nat :=
  let pt := m.port p
  let unread := ((List.range (m.unitsOf p)).map (· + 1)).filter (fun u => !((pt.units.getD (u - 1) UnitSt.reset).got))
  if fromB then (unread.filter (fun u => decide (m.lastFromB p ≤ u))).getLast?
  else (unread.filter (fun u => decide (u ≤ m.lastFromA p))).head?

/-- The count from which READs go out (R368). -/
def Mach.readFrom (m : Mach) (p s : Nat) : Nat := s + 22 + m.conv p + (if (m.port p).wireTest then 80 else 0)

/-- A READ goes to a unit from an end, or is heard to go there (R367): its answer is awaited, and the next unit's READ from that end comes
5 F after the first one to this unit (R368). -/
def Mach.openRead (m : Mach) (p : Nat) (fromB : Bool) (r : PendingRead) : Mach :=
  let free := if r.tries = 1 then r.sent + 5 else if fromB then (m.port p).freeB else (m.port p).freeA
  (m.setPort p (fun pt =>
    if fromB then { pt with outB := some r, freeB := free } else { pt with outA := some r, freeA := free })).ringSendTo p 0x02 fromB r.unit []

/-- RING_READ (R368): the next unit of an end, once conversion is over, no READ of that end is open and the time of the unit before is over. -/
def Mach.ringRead (m : Mach) (p : Nat) (fromB : Bool) : Mach :=
  let pt := m.port p
  match pt.sweep, m.nextRead p fromB with
  | some s, some u =>
    if pt.void || m.time.count < m.readFrom p s || m.time.count < (if fromB then pt.freeB else pt.freeA)
        || (if fromB then pt.outB.isSome else pt.outA.isSome) then m
    else m.openRead p fromB ⟨u, m.time.count, 1⟩
  | _, _ => m

/-- RING_READ_TIMEOUT (R368, R373): 2 F without an answer; the READ is sent again, and a second silence ends the reads
of that end: of an INTACT ring read from A, with the rest read from B. -/
def Mach.readTimeout (m : Mach) (p : Nat) (fromB : Bool) : Mach :=
  let pt := m.port p
  match (if fromB then pt.outB else pt.outA) with
  | none => m
  | some r =>
    if m.time.count < r.sent + 2 then m
    else if r.tries = 1 then (m.bump (.crPerr p) 23 16 1).openRead p fromB ⟨r.unit, m.time.count, 2⟩
    else if fromB then m.setPort p (fun pt => { pt with
      outB := none
      endedB := true })
    else m.setPort p (fun pt => { pt with
      outA := none
      breakAt := some r.unit })

/-- A primary reading of cell `i`, 1–16. -/
def UnitSt.v (u : UnitSt) (i : Nat) : Int := (u.prim.getD (i - 1) 0 : Nat)

/-- A coarse group reading in 100 µV (R374). -/
def UnitSt.c (u : UnitSt) (g : Nat) : Int := ((u.coarse.getD g 0 * 125 : Nat) : Int)

/-- The cells next to a tap (R374). -/
def tapCells (k : Nat) : List Nat := (if 1 ≤ k then [k] else []) ++ (if k ≤ 15 then [k + 1] else [])

/-- The moves of the cells next to a tested tap, in 100 µV (R378). -/
def UnitSt.moves (u : UnitSt) (d : CellData) (k : Nat) : List Nat :=
  (tapCells k).map (fun i => ((if k % 2 = 0 then d.even else d.odd).getD (i - 1) 0 * 10 - u.v i).natAbs)

/-- A tap is open: some move above 200 mV. -/
def UnitSt.tapOpen (u : UnitSt) (d : CellData) (k : Nat) : Bool := (u.moves d k).any (fun x => decide (2000 < x))

/-- A tap is connected: every move below 5 mV. -/
def UnitSt.tapConnected (u : UnitSt) (d : CellData) (k : Nat) : Bool := (u.moves d k).all (fun x => decide (x < 50))

/-- A unit's wire state set. -/
def UnitSt.setWire (u : UnitSt) (state tap : Nat) : UnitSt :=
  { u with snap := { u.snap with wireState := state, openTap := tap } }

/-- The confirmed open taps of a unit (R378): the one that `CR_UNIT_STAT` names first. -/
def UnitSt.opens (u : UnitSt) : List Nat := (if u.snap.wireState = 2 then [u.snap.openTap] else []) ++ u.more

/-- The taps whose cells are substituted (R379): those confirmed, and those under suspicion. -/
def UnitSt.badTaps (u : UnitSt) : List Nat := u.opens ++ u.susp

/-- The outcome of a unit's wire test (R378): the unit, and the faults and records as class and tap. A tap that tests open is confirmed;
a suspected one that tests connected loses its suspicion, a confirmed one with its second such result in a row; one that is neither is
tested again. -/
def UnitSt.judgeTest (u : UnitSt) (d : CellData) : UnitSt × List (FCls × Nat) :=
  let con := u.testing.filter (u.tapConnected d)
  let found := u.testing.filter (fun k => u.tapOpen d k && !u.opens.contains k)
  let cleared := u.opens.filter (fun k => con.contains k && u.conOnce.contains k)
  let opens := u.opens.filter (fun k => !cleared.contains k) ++ found
  let vague := u.testing.filter (fun k => !con.contains k && !opens.contains k)
  let w := match opens, vague with
    | k :: _, _ => u.setWire 2 k
    | [], [] => u.setWire 0 31
    | [], v => u.setWire 3 (((u.susp.filter v.contains).head?).getD 31)
  ({ w with
      more := opens.drop 1
      conOnce := opens.filter con.contains
      susp := u.susp.filter vague.contains
      toTest := opens ++ vague
      realTaps := (con.filter (fun k => !u.opens.contains k)).foldl addOnce u.realTaps },
    found.map (fun k => (.severe, k)) ++ cleared.map (fun k => (.info, k)))

/-- The charge that a port's DATA reports as given: the magnitudes of the negative charges (R387). -/
def chargeGiven (l : List Int) : Nat := nsum (l.map (fun x => if x < 0 then x.natAbs else 0))

/-- The charge counts of one unit changed by what it reports (R380); the counts are in mC / (100 · 2^24). -/
def addCharges (counts : List Int) (u : Nat) (charges : List Int) : List Int :=
  (List.range 16).foldl (fun l i => l.modify (16 * (u - 1) + i) (fun x => x + charges.getD i 0 * 1677721600)) counts

/-- The unit with a DATA frame's readings. -/
def UnitSt.take1 (u : UnitSt) (d : CellData) : UnitSt :=
  { u with
    got := true
    viaB := d.fromB
    prim := d.prim.take 16
    coarse := d.coarse.take 4
    temps := d.temps.take 4
    ref := d.ref
    ofs := d.ofs
    status := d.status }

/-- The bytes of a received frame before its CRC (R366). -/
def dataBytes (d : CellData) : List Byte :=
  [d.type, d.hop, d.count, d.flags].map (BitVec.ofNat 8) ++ leBytes 4 d.sweep ++ d.payload

/-- RING_DATA (R366, R370, R373, R378, R380): a frame with a wrong CRC is counted; a DATA frame of the present sweep that answers the open READ
of its end gives that unit's readings, its balancing charges and the outcome of its wire test. -/
def Mach.ringData (m : Mach) (p : Nat) (d : CellData) : Mach :=
  let pt := m.port p
  if crc16 (dataBytes d) ≠ d.crc then m.bump (.crPerr p) 31 24 1
  else
    match pt.sweep, (if d.fromB then pt.outB else pt.outA) with
    | some s, some r =>
      if pt.void = true ∨ d.type ≠ 0x03 ∨ d.sweep ≠ s / 1000 % 4294967296 then m
      else
        let u := (pt.units.getD (r.unit - 1) UnitSt.reset).take1 d
        let j := if u.testing.isEmpty then (u, []) else u.judgeTest d
        let m : Mach := m.setPort p (fun pt => { pt with
          units := pt.units.set (r.unit - 1) j.1
          outA := if d.fromB then pt.outA else none
          outB := if d.fromB then none else pt.outB
          stampA := if d.fromB then pt.stampA else m.time.count
          stampB := if d.fromB then m.time.count else pt.stampB
          counts := if pt.counted then addCharges pt.counts r.unit d.charges else pt.counts })
        let m : Mach := { m with cell.camp := m.cell.camp.map (fun c =>
          if c.strings.testBit p then { c with charge := c.charge + chargeGiven d.charges } else c) }
        j.2.foldl (fun m f => m.cellFault p f.1 kindSense r.unit f.2) m
    | _, _ => m

/-- Whether every unit that can be read has been: nothing more goes out from either end. -/
def Mach.readsOver (m : Mach) (p : Nat) : Bool :=
  let pt := m.port p
  pt.outA.isNone && pt.outB.isNone && (m.nextRead p false).isNone && (m.nextRead p true).isNone

/-- Whether a capacity sweep drives a port's string (R389). -/
def Mach.capsOn (m : Mach) (p : Nat) : Bool :=
  m.cell.caps.any (fun c => c.port == p && (m.opById c.op).any (fun o => decide (o.state ≠ .suspended)))

/-- The target spread in mV of the campaign whose selections the ring's driver makes on a port now (R384, R386): of a running campaign of this
module that covers the string, while no capacity sweep drives it; on the module that does not drive, of the other module's, which no frame
names (notes/assumptions/46). -/
def Mach.balTarget (m : Mach) (p : Nat) : Option Nat :=
  if !m.ringDriver then Config.driverTarget m.time.count p
  else (m.cell.camp.filter (fun c => c.strings.testBit p && (m.opById c.op).any (fun o => decide (o.state = .running))
    && !m.capsOn p)).map (·.now)

/-- BAL to the next unit that answered, from the end that read it (R368, R384): the masks of the last selection; 0 without a campaign. -/
def Mach.balNext (m : Mach) (p : Nat) : Mach :=
  match (m.port p).balLeft with
  | [] => m
  | k :: rest =>
    let u := (m.port p).units.getD (k - 1) UnitSt.reset
    let on := (m.balTarget p).isSome
    let give := if on then u.give else 0
    let take := if on then u.take else 0
    (m.setPort p (fun pt => { pt with
      balLeft := rest
      units := pt.units.modify (k - 1) (fun u => { u with giveOut := give, takeOut := take }) })).ringSendTo p 0x04 u.viaB k
      (leBytes 2 give ++ leBytes 2 take)

/-- BAL_SEND (R368): after the last DATA, BAL leaves for the first unit that answered; one more in each frame after it. -/
def Mach.balSend (m : Mach) (p : Nat) : Mach :=
  let pt := m.port p
  if pt.sweep.isNone || pt.balDone || !m.readsOver p then m
  else
    (m.setPort p (fun pt => { pt with
      balDone := true
      balLeft := ((List.range (m.unitsOf p)).map (· + 1)).filter (fun k => (pt.units.getD (k - 1) UnitSt.reset).got) })).balNext p

/-- The next strike: no port is fresh any more, and the BAL frames that are left go on, one in a frame (R368). -/
def Mach.ringStrike (m : Mach) : Mach :=
  (List.range 4).foldl Mach.balNext { m with
    cell.mayBefore := m.cell.mayAt
    cell.ports := m.cell.ports.map (fun pt => { pt with fresh := false }) }

/-- STOPBAL (R385): from the ring driver alone, the broadcast leaves both ends of every ring that awaits it, and its units stop. -/
def Mach.sendStopbal (m : Mach) : Mach :=
  let mask := m.cell.stopbal
  let m : Mach := { m with cell.stopbal := 0 }
  if !m.ringDriver then m
  else (bitsOf 4 mask).foldl (fun m p => (m.setPort p (fun pt => { pt with
    balLeft := []
    units := pt.units.map (fun u => { u with
      giveOut := 0
      takeOut := 0 }) })).ringBroadcast p 0x05 []) m

/-- A sweep abandoned (R27, R393, R394): its partial data is discarded, and so is the selection that waits for its BAL (R384). -/
def PortSt.abandon (pt : PortSt) : PortSt :=
  { pt with
    sweep := none
    outA := none
    outB := none
    balLeft := []
    units := pt.units.map (fun u => { u with got := false, give := 0, take := 0 }) }

/-- A sweep under way that a claim change makes incomplete (R393): nothing more of it is read, and its publication finds no unit. -/
def PortSt.spoil (pt : PortSt) : PortSt :=
  { pt with
    void := true
    outA := none
    outB := none
    balLeft := []
    units := pt.units.map (fun u => { u with got := false }) }

/-- A change of ring driver (R385, R393): the sweep under way is incomplete on both modules, STOPBAL goes out, campaign
and capacity sweep are suspended. -/
def Mach.driverChange (m : Mach) : Mach :=
  let now := m.ringDriver
  if now = m.cell.drove then m
  else
    let m : Mach := { m with
      cell.drove := now
      cell.stopbal := 15
      cell.ports := m.cell.ports.map PortSt.spoil }
    m.suspendCellOps

/-- `CR_PSTAT_p` (R397). -/
def Mach.pstatWord (m : Mach) (p : Nat) : Word :=
  let pt := m.port p
  let seen := ((pt.units.take (m.unitsOf p)).filter (fun u => u.got)).length
  place pt.ring 29 ||| flag pt.split 28 ||| flag pt.incomplete 27 ||| flag pt.degraded 26 ||| flag pt.socEst 25 |||
    flag (m.capsOn p) 24 ||| place (if pt.ring = 3 ∨ pt.ring = 4 then pt.a % 64 else 0) 16 ||| place (seen % 64) 8

/-- A port disabled by a commit (R394); its limits become zero at the next publication. -/
def Mach.portOff (m : Mach) (p : Nat) : Mach :=
  let m : Mach := m.setPort p (fun pt => { pt.abandon with
    ring := 0
    done := false
    entered := false })
  let m := (m.wr (.crPstat p) (m.pstatWord p)).setActive (srcPort p, .fatal) false
  { m with cell.stopbal := m.cell.stopbal ||| (1 <<< p) }

/-- A port enabled or restarted by a commit (R391, R398): its state is unknown and its string has zero limits until its first completed sweep
publishes; with another number of units its cells have no charge count yet (R380). -/
def Mach.portRestart (m : Mach) (p : Nat) (units : Bool) : Mach :=
  m.setPort p (fun pt => { pt.abandon with
    ring := 0
    fresh := true
    done := false
    entered := false
    entry := { pt.entry with dis := 0, chg := 0, pub := none }
    counted := pt.counted && !units })

/-- `cellring_en` cleared (R27, R394): sweeps abandoned, STOPBAL on every ring, limits 0 A. What the ports have learned goes, since a
re-enabled ring starts as after power-good (R29). -/
def Mach.cellringOff (m : Mach) : Mach :=
  let m : Mach := { m with
    cell.ready := false
    cell.pubAt := none
    bel.limFault := false
    cell.stopbal := 15
    cell.ports := m.cell.ports.map (fun pt => { PortSt.reset with lastCur := pt.lastCur }) }
  (List.range 4).foldl (fun m p => ((m.wr (.crPstat p) (m.pstatWord p)).wr (.crPlim p) 0).setActive (srcPort p, .fatal) false) m

/-- The charge counts follow the string current of a frame (R380): the current is an LQ signal scaled by cur_base; none
means the channel is unusable, and the last usable value stands. A phase DISCHARGE counts its charge (R389). -/
def Mach.chargeTick (m : Mach) (p : Nat) (signal : Option Int) : Mach :=
  let pt := m.port p
  let base : Int := (m.rdField (.crPcfg p) 31 16 : Nat)
  let q := match signal with
    | some x => x * base
    | none => pt.lastCur
  let within := decide (q.natAbs ≤ 16777216)
  let m : Mach := m.setPort p (fun pt => { pt with
    lastCur := q
    restOk := pt.restOk && within
    socEst := pt.socEst || (pt.counted && signal.isNone)
    counts := if pt.counted then pt.counts.mapIdx (fun i x => if i < 16 * m.unitsOf p then x - q else x) else pt.counts })
  { m with cell.caps := m.cell.caps.map (fun c =>
      if c.port = p ∧ c.phase = 2 ∧ (m.opById c.op).any (fun o => decide (o.state ≠ .suspended))
      then { c with charge := c.charge + q } else c) }

/-! ## The commands -/

/-- CELL_SWEEP_START. -/
def execCellSweepStart (s : State) : Host.Outcome State Fault Refusal := s.on Mach.sweepStart

/-- RING_SAMPLE_RETURN. -/
def execRingSampleReturn (p : Nat) (returned : Option Nat) (a b : Nat) (s : State) :
    Host.Outcome State Fault Refusal := s.on (fun m => m.sampleReturn p returned a b)

/-- RING_READ. -/
def execRingRead (p : Nat) (fromB : Bool) (s : State) : Host.Outcome State Fault Refusal :=
  s.on (fun m => m.ringRead p fromB)

/-- RING_READ_TIMEOUT. -/
def execRingReadTimeout (p : Nat) (fromB : Bool) (s : State) : Host.Outcome State Fault Refusal :=
  s.on (fun m => m.readTimeout p fromB)

/-- RING_DATA. -/
def execRingData (p : Nat) (d : CellData) (s : State) : Host.Outcome State Fault Refusal :=
  s.on (fun m => m.ringData p d)

/-- BAL_SEND. -/
def execBalSend (p : Nat) (s : State) : Host.Outcome State Fault Refusal := s.on (fun m => m.balSend p)

/-- STOPBAL. -/
def execStopbal (s : State) : Host.Outcome State Fault Refusal := s.on Mach.sendStopbal

end Sys2Proof.Machine
end

