-- ==== Sys2Proof/Machine/CellPublish.lean ====
section
/-! DEFINITION. The cell ring's publication (R370, R371, R375–R390): classification, substitution, charge counts,
limits, faults, balancing selections, campaigns and capacity sweeps. Voltages are in 100 µV. -/

namespace Sys2Proof.Machine

/-- A number put into an ascending list. -/
def insertInt (x : Int) : List Int → List Int
  | [] => [x]
  | y :: ys => if x ≤ y then x :: y :: ys else y :: insertInt x ys

/-- A list in ascending order. -/
def sortInts (l : List Int) : List Int := l.foldr insertInt []

/-- The lower middle value of a list (R376). -/
def medianLow (l : List Int) : Int := (sortInts l).getD ((l.length - 1) / 2) 0

/-- The thresholds of `CR_WIRE_CFG` in 100 µV (R376). -/
structure WireCfg where
  dev : Int
  sum : Int
  res : Int
  margin : Int

/-- `CR_WIRE_CFG` (R397). -/
def Mach.wireCfg (m : Mach) : WireCfg :=
  let w := m.rd .crWireCfg
  ⟨field w 31 24 * 10, field w 23 16 * 10, field w 15 8 * 10, field w 7 0 * 10⟩

/-- Whether the second reference reads outside 1.2485 V to 1.2515 V (R375). -/
def UnitSt.refBad (u : UnitSt) : Bool := decide (u.ref < 12485) || decide (12515 < u.ref)

/-- The cells of a unit that an open tap or a channel fault substitutes (R379). -/
def UnitSt.tapCovered (u : UnitSt) : List Nat :=
  ((List.range 16).map (· + 1)).filter (fun i =>
    u.badTaps.any (fun k => (tapCells k).contains i) || u.snap.chanFault.testBit (i - 1))

/-- The cells of a unit that the substitution of the present state covers (R379). -/
def UnitSt.covered (u : UnitSt) : List Nat := if u.snap.refFail then (List.range 16).map (· + 1) else u.tapCovered

/-- Vmed (R376): over the readings of the string's units without ref_fail that are not substituted. -/
def stringMedian (us : List UnitSt) : Int :=
  medianLow (us.flatMap (fun u => if u.refBad then [] else
    (((List.range 16).map (· + 1)).filter (fun i => !u.tapCovered.contains i)).map u.v))

/-- The cells of a coarse group (R374). -/
def groupCells (g : Nat) : List Nat := [4 * g + 1, 4 * g + 2, 4 * g + 3, 4 * g + 4]

/-- The group of a cell. -/
def groupOf (i : Nat) : Nat := (i - 1) / 4

/-- Coarse residual (R376). -/
def UnitSt.r (u : UnitSt) (g : Nat) : Int := u.c g - isum ((groupCells g).map u.v)

/-- Coarse deviation (R376). -/
def UnitSt.cdev (u : UnitSt) (vmed : Int) (g : Nat) : Int := u.c g - 4 * vmed

/-- The verdicts of R377; a tap whose suspicion a test cleared is judged a real deviation. -/
inductive Verdict where
  | normal
  | coarse (groups : Nat)
  | openTap (k : Nat)
  | real
  | channel (i : Nat)
  | ambiguous
  deriving DecidableEq, Repr

/-- The first matching row of R377. -/
def UnitSt.classify (u : UnitSt) (w : WireCfg) (vmed : Int) : Verdict :=
  let d (i : Nat) : Int := u.v i - vmed
  let within (x : Int) : Bool := decide ((x.natAbs : Int) ≤ w.res)
  let dev := ((List.range 16).map (· + 1)).filter (fun i => decide (w.dev < ((d i).natAbs : Int)))
  let suspect (k : Nat) : Verdict := if u.realTaps.contains k then .real else .openTap k
  let other : Verdict := if (List.range 17).all u.realTaps.contains then .real else .ambiguous
  match dev with
  | [] =>
    let bad := (List.range 4).filter (fun g => !within (u.r g))
    if bad.isEmpty then .normal else .coarse (natOfBits bad)
  | [i] =>
    let g := groupOf i
    let c := u.cdev vmed g
    if (i = 1 ∨ i = 16) ∧ u.v i < 5000 ∧ within c = true then suspect (if i = 1 then 0 else 16)
    else if within (c - d i) then .real
    else if within c then .channel i
    else other
  | [k, l] =>
    if l = k + 1 ∧ d k * d l < 0 ∧ ((d k + d l).natAbs : Int) ≤ w.sum then
      (if within (u.cdev vmed (groupOf k)) && within (u.cdev vmed (groupOf l)) then suspect k else .real)
    else other
  | _ => other

/-- The unit after classification (R375, R377), and the sense faults to record: class and cell or tap. A substitution lasts until its cause
clears (R379): an ambiguous pattern ends none, and a tap whose test was not decided is tested again (R378). -/
def UnitSt.judge (u : UnitSt) (w : WireCfg) (vmed : Int) : UnitSt × List (FCls × Nat) :=
  let s := u.snap
  if u.refBad then
    ({ u with snap := { s with refFail := true } }, if s.refFail then [] else [(.severe, 0)])
  else
    let s : UnitSnap := { s with refFail := false }
    let quiet := u.opens.isEmpty
    let clear := quiet && s.wireState != 3
    match u.classify w vmed with
    | .normal => ({ u with
        snap := { s with cgFault := 0, chanFault := 0, wireState := if clear then 0 else s.wireState, openTap := if clear then 31 else s.openTap }
        toTest := if clear then [] else u.toTest
        susp := if clear then [] else u.susp
        realTaps := [] }, [])
    | .coarse g => ({ u with
        snap := { s with cgFault := g, chanFault := 0, wireState := if clear then 0 else s.wireState, openTap := if clear then 31 else s.openTap }
        toTest := if clear then [] else u.toTest
        susp := if clear then [] else u.susp
        realTaps := [] }, if s.cgFault = g then [] else [(.corr, 0)])
    | .openTap k =>
      if quiet then
        ({ u with
          snap := { s with cgFault := 0, chanFault := 0, wireState := if s.wireState = 3 ∧ s.openTap = k then 3 else 1, openTap := k }
          susp := addOnce u.susp k
          toTest := addOnce u.toTest k }, [])
      else ({ u with
        snap := { s with cgFault := 0, chanFault := 0 }
        susp := if u.opens.contains k then u.susp else addOnce u.susp k
        toTest := addOnce u.toTest k }, [])
    | .real => ({ u with snap := { s with cgFault := 0, chanFault := 0 } }, [])
    | .channel i =>
      ({ u with snap := { s with cgFault := 0, chanFault := 1 <<< (i - 1) } },
        if s.chanFault.testBit (i - 1) then [] else [(.severe, i)])
    | .ambiguous =>
      if quiet then
        ({ u with
          snap := { s with cgFault := 0, wireState := 3, openTap := (u.susp.head?).getD 31 }
          toTest := List.range 17 }, [])
      else ({ u with
        snap := { s with cgFault := 0 }
        toTest := List.range 17 }, [])

/-- The value a cell takes (R379): its reading, or its substitute; a quarter of a coarse reading is truncated. -/
def UnitSt.value (u : UnitSt) (i : Nat) : Int :=
  let s := u.snap
  let g := groupOf i
  let rest := u.c g - isum (((groupCells g).filter (fun j => j != i)).map u.v)
  if s.refFail then tdiv (u.c g) 4
  else match u.badTaps.find? (fun k => (tapCells k).contains i) with
    | some k => if k = 0 ∨ k = 16 then rest else (u.v k + u.v (k + 1)) / 2
    | none => if s.chanFault.testBit (i - 1) then rest else u.v i

/-- The margin that widens a substituted value (R379). -/
def UnitSt.marginOf (u : UnitSt) (w : WireCfg) (i : Nat) : Int :=
  if u.snap.refFail then w.margin + w.res else if u.covered.contains i then w.margin else 0

/-- The hottest or coldest value of a nonempty list. -/
def maxInt : List Int → Int
  | [] => 0
  | [x] => x
  | x :: xs => max x (maxInt xs)

/-- The least value of a nonempty list. -/
def minInt : List Int → Int
  | [] => 0
  | [x] => x
  | x :: xs => min x (minInt xs)

/-- Linear interpolation on the OCV table (R380): the charge count in mC / (100 · 2^24) of a voltage; none outside the
table's range, where no value is stated. -/
def ocvCount (cap : Int) (v : Int) : List (Int × Int) → Option Int
  | (v0, s0) :: (v1, s1) :: rest =>
    if v0 ≤ v ∧ v ≤ v1 ∧ v0 < v1 then
      some (tdiv (cap * 1677721600 * (s0 * (v1 - v0) + (s1 - s0) * (v - v0))) (1000 * (v1 - v0)))
    else ocvCount cap v ((v1, s1) :: rest)
  | _ => none

/-- The points of the OCV table: up to the first one with voltage 0 (R397, R398). -/
def Mach.ocvTable (m : Mach) : List (Int × Int) :=
  (((List.range 48).map (fun n => m.rd (.crOcv n))).takeWhile (fun w => field w 15 0 != 0)).map
    (fun w => ((field w 15 0 : Nat), (field w 31 16 : Nat)))

/-- The capacity of a port's cells in mC (R380). -/
def Mach.capacity (m : Mach) (p : Nat) : Int := ((m.rdField (.crPcap p) 15 0 * 36000 : Nat) : Int)

/-- One cell's count from the table; a voltage outside it gets a free value (notes/assumptions/5). -/
def Mach.countFromTable (m : Mach) (p : Nat) (v : Int) : Int × Mach :=
  match ocvCount (m.capacity p) v m.ocvTable with
  | some x => (x, m)
  | none =>
    let t := m.take
    (((t.1.toNat : Nat) : Int) * 1677721600, t.2)

/-- The counts of a list of cell voltages from the table. -/
def Mach.countsFromTable (m : Mach) (p : Nat) : List Int → List Int × Mach
  | [] => ([], m)
  | v :: vs =>
    let a := m.countFromTable p v
    let r := a.2.countsFromTable p vs
    (a.1 :: r.1, r.2)

/-- A cell's SoC in 0.1 % (R380). -/
def socOf (cap count : Int) : Nat := if cap = 0 then 0 else (clampInt (count * 1000 / (cap * 1677721600)) 0 1000).toNat

/-- The charge counts of a completed sweep (R380): first set from the table, or to 50.0 % without one; set again at
rest. -/
def Mach.refreshCounts (m : Mach) (p : Nat) (volts : List Int) : Mach :=
  let pt := m.port p
  let empty := m.ocvTable.isEmpty
  if !pt.counted then
    if empty then
      m.setPort p (fun pt => { pt with
        counted := true
        socEst := true
        counts := volts.map (fun _ => m.capacity p * 1677721600 / 2) ++ List.replicate (512 - volts.length) 0 })
    else
      let r := m.countsFromTable p volts
      r.2.setPort p (fun pt => { pt with
        counted := true
        counts := r.1 ++ List.replicate (512 - volts.length) 0 })
  else if 6000 ≤ pt.restRun ∧ empty = false then
    let r := m.countsFromTable p volts
    r.2.setPort p (fun pt => { pt with
      socEst := false
      counts := r.1 ++ List.replicate (512 - volts.length) 0 })
  else m

/-- The limits of R382 in 0.1 A: discharge, charge. -/
def Mach.cellLimits (m : Mach) (vlo vhi thot tcold : Int) (degraded : Bool) : Nat × Nat :=
  let vl := m.rd .crVlim
  let vt := m.rd .crVtaper
  let te := m.rd .crTemp
  let vmin : Int := (field vl 15 0 : Nat)
  let vmax : Int := (field vl 31 16 : Nat)
  let dt : Int := (field vt 15 0 : Nat)
  let ct : Int := (field vt 31 16 : Nat)
  let tmax := sfield te 23 16
  let tder := sfield te 15 8
  let fdv := clampInt (tdiv ((vlo - 10 * vmin) * 1000) (10 * (dt - vmin))) 0 1000
  let fcv := clampInt (tdiv ((10 * vmax - vhi) * 1000) (10 * (vmax - ct))) 0 1000
  let ft := clampInt (tdiv ((tmax - thot) * 1000) (tmax - tder)) 0 1000
  let fc : Int := if tcold < sfield te 7 0 then 0 else 1000
  let fm : Int := if degraded then 500 else 1000
  let disRate : Int := (m.rdField .crIcell 15 0 : Nat)
  let chgRate : Int := (m.rdField .crIcell 31 16 : Nat)
  ((tdiv (tdiv (tdiv (disRate * fdv) 1000 * ft) 1000 * fm) 1000).toNat,
   (tdiv (tdiv (tdiv (tdiv (chgRate * fcv) 1000 * ft) 1000 * fc) 1000 * fm) 1000).toNat)

/-- The consecutive-sweep counts of R383 of one unit, cells then sensors. -/
def Mach.hardRuns (m : Mach) (w : WireCfg) (u : UnitSt) : List Nat :=
  let h := m.rd .crVhard
  let hot := sfield (m.rd .crTemp) 31 24
  let top : Int := (field h 31 16 * 10 : Nat)
  let bottom : Int := (field h 15 0 * 10 : Nat)
  let old := u.snap.hardRuns
  let cell (i : Nat) : Nat :=
    if top < u.value i + u.marginOf w i ∨ u.value i - u.marginOf w i < bottom then min (old.getD (i - 1) 0 + 1) 2 else 0
  let sensor (n : Nat) : Nat := if hot < u.temps.getD n 0 then min (old.getD (16 + n) 0 + 1) 2 else 0
  ((List.range 16).map (fun i => cell (i + 1))) ++ (List.range 4).map sensor

/-- The hard-limit faults of one unit (R383): FATAL where a count reaches 2, on a pair that stays
in fault for as long as some count does (R403) and reports nothing while it is non-complementary or forced (R401, R422), CORR where a
single reading was not repeated. The second value says whether one was recorded. -/
def Mach.hardFaults (m : Mach) (p u : Nat) (old new : List Nat) : Mach × Bool :=
  (List.range 20).foldl (fun (acc : Mach × Bool) i =>
    let o := old.getD i 0
    let n := new.getD i 0
    if n = 2 ∧ o ≠ 2 then
      let k := acc.1
      (if k.pairQuiet (srcPort p) .fatal then k
        else (k.cellFault p .fatal kindCell u (if i < 16 then i + 1 else 0)).setActive (srcPort p, .fatal) true, true)
    else if o = 1 ∧ n = 0 then (acc.1.cellFault p .corr kindCell u (if i < 16 then i + 1 else 0), true)
    else acc) (m, false)

/-- Cells of a unit in a given order of value: `hi` true for the highest first; ties to the lower cell (R384). -/
def insertCell (key : Nat → Int) (i : Nat) : List Nat → List Nat
  | [] => [i]
  | j :: js => if key j ≤ key i then j :: insertCell key i js else i :: j :: js

/-- Up to `n` of the cells with the least key, in key order, ties to the lower number. -/
def leastCells (key : Nat → Int) (n : Nat) (cells : List Nat) : List Nat :=
  (cells.foldl (fun acc i => insertCell key i acc) []).take n

/-- The mask of a list of cells 1–16. -/
def cellMask (l : List Nat) : Nat := natOfBits (l.map (fun i => i - 1))

/-- The selection of one unit (R384): givers above `hi`, takers below `lo`. -/
def Mach.select (m : Mach) (u : UnitSt) (lo hi : Int) : Nat × Nat :=
  let pairs := m.rdField .crBalCfg 1 0
  let hot := u.temps.any (fun t => decide (sfield (m.rd .crTemp) 15 8 < t))
  if u.snap.refFail || hot then (0, 0)
  else
    let ok := ((List.range 16).map (· + 1)).filter (fun i => !u.covered.contains i)
    (cellMask (leastCells (fun i => - u.v i) pairs (ok.filter (fun i => decide (hi < u.v i)))),
     cellMask (leastCells u.v pairs (ok.filter (fun i => decide (u.v i < lo)))))

/-- The highest minus the lowest valid cell of a string (R387, R397): every cell of a completed sweep is valid, a substituted one with its
substitute. -/
def stringSpread (us : List UnitSt) : Int :=
  let l := us.flatMap (fun u => ((List.range 16).map (· + 1)).map u.value)
  maxInt l - minInt l

/-- `CR_UNIT_STAT_p_u` (R397); of a unit that did not answer it reports no reading. -/
def UnitSt.statWord (u : UnitSt) (tder : Int) : Word :=
  flag u.got 31 ||| flag (u.got && u.viaB) 30 ||| flag u.snap.refFail 29 ||| place (u.snap.wireState % 4) 27 |||
    place (u.snap.openTap % 32) 22 ||| place (u.snap.cgFault % 16) 18 ||| flag (u.snap.chanFault != 0) 17 |||
    flag (u.got && u.temps.any (fun t => decide (tder < t))) 16 ||| place (if u.got then u.ofs % 65536 else 0) 0

/-- The registers of one unit at the publication strike of any sweep (R396): status, and what an answer brought. -/
def Mach.unitHead (m : Mach) (p : Nat) (k : Nat) : Mach :=
  let u := (m.port p).units.getD k UnitSt.reset
  let t (n : Nat) : Nat := (BitVec.ofInt 8 (u.temps.getD n 0)).toNat
  let m : Mach := m.wr (.crUnitStat p k) (u.statWord (sfield (m.rd .crTemp) 15 8))
  if !u.got then m
  else
    let m : Mach := m.wr (.crUnitT p k) (place (t 0) 0 ||| place (t 1) 8 ||| place (t 2) 16 ||| place (t 3) 24)
    let m : Mach := m.wr (.crUnitCg01 p k) (place (u.coarse.getD 0 0 % 1024) 0 ||| place (u.coarse.getD 1 0 % 1024) 16)
    m.wr (.crUnitCg23 p k) (place (u.coarse.getD 2 0 % 1024) 0 ||| place (u.coarse.getD 3 0 % 1024) 16)

/-- The registers of one unit of a completed sweep (R396): status, temperatures, groups, cells. -/
def Mach.unitRegs (m : Mach) (p : Nat) (k : Nat) : Mach :=
  let pt := m.port p
  let u := pt.units.getD k UnitSt.reset
  let cap := m.capacity p
  let m := m.unitHead p k
  (List.range 16).foldl (fun m i =>
    m.wr (.crCell (512 * p + 16 * k + i)) (flag u.got 31 ||| flag (u.covered.contains (i + 1)) 30 |||
      flag (u.give.testBit i) 29 ||| flag (u.take.testBit i) 28 |||
      place (socOf cap (pt.counts.getD (16 * k + i) 0)) 16 ||| place (u.value (i + 1)).toNat 0)) m

/-- The registers of a port at its publication strike (R396); the stamps are those of its last split sweep (R373). -/
def Mach.portRegs (m : Mach) (p : Nat) (spread : Int) (mv : Nat) : Mach :=
  let pt := m.port p
  let m : Mach := m.wr (.crPstat p) (m.pstatWord p)
  let m : Mach := m.wr (.crPlim p) (place pt.entry.chg 16 ||| place pt.entry.dis 0)
  let m : Mach := m.wr (.crPvolt p) (BitVec.ofNat 32 mv)
  let m : Mach := m.wr (.crPsoe p) (place (min spread.toNat 65535) 16 ||| place pt.entry.soe 0)
  let m : Mach := if pt.split
    then (m.wr (.crPstampA p) (BitVec.ofNat 32 pt.stampA)).wr (.crPstampB p) (BitVec.ofNat 32 pt.stampB)
    else m
  (List.range (m.unitsOf p)).foldl (fun m k => m.unitRegs p k) m

/-- The selections of a port's units where a running campaign covers the string and no capacity sweep drives it
(R384, R386), on both modules alike (R367). -/
def Mach.selectAll (m : Mach) (p : Nat) (vmed : Int) (us : List UnitSt) : List UnitSt :=
  us.map (fun u =>
    let x := (m.balTarget p).elim (0, 0) (fun t => m.select u (vmed - 5 * t) (vmed + 5 * t))
    { u with
      give := x.1
      take := x.2 })

/-- The index of the extreme cell of a string: the lowest, or the highest. -/
def extremeCell (us : List UnitSt) (lowest : Bool) : Nat :=
  let cells := (List.range (16 * us.length))
  let v (c : Nat) : Int := (us.getD (c / 16) UnitSt.reset).value (c % 16 + 1)
  (leastCells (fun c => if lowest then v c else - v c) 1 cells).headD 0

/-- A completed sweep of a port (R370, R375–R384). -/
def Mach.publishGood (m : Mach) (p s : Nat) : Mach :=
  let n := m.unitsOf p
  let w := m.wireCfg
  let us := (m.port p).units.take n
  let vmed := stringMedian us
  let judged := us.map (fun u => u.judge w vmed)
  let m : Mach := (List.range n).foldl (fun m k =>
    ((judged.getD k (UnitSt.reset, [])).2).foldl (fun m f => m.cellFault p f.1 kindSense (k + 1) f.2) m) m
  let us := judged.map (·.1)
  let runs := us.map (m.hardRuns w)
  let hard : Mach × Bool := (List.range n).foldl (fun acc k =>
    let r := acc.1.hardFaults p (k + 1) (us.getD k UnitSt.reset).snap.hardRuns (runs.getD k [])
    (r.1, acc.2 || r.2)) (m, false)
  let m := if runs.any (fun l => l.contains 2) || hard.1.isForced (srcPort p) .fatal then hard.1 else hard.1.setActive (srcPort p, .fatal) false
  let us := us.mapIdx (fun k u => { u with snap := { u.snap with
    hardRuns := runs.getD k []
    substituted := cellMask u.covered } })
  let volts := us.flatMap (fun u => ((List.range 16).map (· + 1)).map u.value)
  let degraded := us.any (fun u => u.snap.refFail)
  let m := m.refreshCounts p volts
  let cap := m.capacity p
  let counts := (m.port p).counts.take (16 * n)
  let soe := nsum (counts.map (socOf cap)) / (16 * n)
  let vlo := minInt (us.flatMap (fun u => ((List.range 16).map (· + 1)).map (fun i => u.value i - u.marginOf w i)))
  let vhi := maxInt (us.flatMap (fun u => ((List.range 16).map (· + 1)).map (fun i => u.value i + u.marginOf w i)))
  let temps := us.flatMap (fun u => u.temps)
  let lim := m.cellLimits vlo vhi (maxInt temps) (minInt temps) degraded
  let mv := (isum volts / 10).toNat
  let pt := m.port p
  let fall := (if lim.1 = 0 ∧ pt.zeroDis = false then [()] else []) ++ (if lim.2 = 0 ∧ pt.zeroChg = false then [()] else [])
  let m : Mach := fall.foldl (fun m _ => m.cellFault p .info kindCell 0 0) m
  let us := m.selectAll p vmed us
  let m : Mach := m.setPort p (fun pt => { pt with
    sweep := none
    units := us ++ pt.units.drop n
    done := true
    entered := true
    incomplete := false
    split := us.any (fun u => u.viaB) || decide (pt.ring = 3)
    degraded := degraded
    restRun := if pt.restOk then pt.restRun + 1 else 0
    restOk := true
    entry := ⟨lim.1, lim.2, mv / 1000, soe, 16 * n * (m.rd (.crPenergy p)).toNat, some (s + 1000)⟩
    staleRun := false
    zeroDis := decide (lim.1 = 0)
    zeroChg := decide (lim.2 = 0) })
  let m : Mach := if hard.2 || !fall.isEmpty then { m with cell.caps := m.cell.caps.map (fun c =>
      if m.capsOn p then { c with alone := 1000 } else c) } else m
  m.portRegs p (stringSpread us) mv

/-- An incomplete sweep of a port (R370, R383, R384): the entry stays, no selection is made. -/
def Mach.publishBad (m : Mach) (p : Nat) : Mach :=
  let pt := m.port p
  let m : Mach := m.bump (.crPerr p) 15 8 1
  let m : Mach := if pt.ring = 2 ∨ pt.ring = 3 then m.cellFault p .corr kindRing 0 0 else m
  let m : Mach := m.setPort p (fun pt => { pt with
    sweep := none
    incomplete := true
    units := pt.units.map (fun u => { u with
      give := 0
      take := 0 })
    restRun := if pt.restOk then pt.restRun + 1 else 0
    restOk := true })
  let m : Mach := m.wr (.crPstat p) (m.pstatWord p)
  (List.range (m.unitsOf p)).foldl (fun m k =>
    (List.range 16).foldl (fun m i => m.wrField (.crCell (512 * p + 16 * k + i)) 29 28 0) (m.unitHead p k)) m

/-- The entry of a port in MISMATCH or disabled is published with limits of 0 A (R372, R394). -/
def Mach.zeroEntry (m : Mach) (p : Nat) : Mach :=
  if (m.port p).ring = 5 ∨ m.portEn p = false then
    (m.setPort p (fun pt => { pt with entry := { pt.entry with dis := 0, chg := 0 } })).wr (.crPlim p) 0
  else m

/-- A published entry that is 2,000 F old carries limits of 0 A, with a SEVERE fault once per run (R371). -/
def Mach.staleEntry (m : Mach) (now p : Nat) : Mach :=
  let pt := m.port p
  match pt.entry.pub with
  | none => m
  | some c =>
    if now < c + 2000 then m
    else
      let m : Mach := m.setPort p (fun pt => { pt with
        entry := { pt.entry with dis := 0, chg := 0 }
        staleRun := true })
      let m : Mach := m.wr (.crPlim p) 0
      if pt.staleRun then m else m.cellFault p .severe kindRing 0 0

/-! ## Campaigns and capacity sweeps -/

/-- The spread of a port's string in 100 µV. -/
def Mach.spreadOf (m : Mach) (p : Nat) : Int := stringSpread ((m.port p).units.take (m.unitsOf p))

/-- The spread of a port's string in mV. -/
def Mach.spreadMv (m : Mach) (p : Nat) : Nat := (m.spreadOf p / 10).toNat

/-- The largest spread over a campaign's strings. -/
def Mach.campSpread (m : Mach) (strings : Nat) : Nat := (bitsOf 4 strings).foldl (fun a p => max a (m.spreadMv p)) 0

/-- The result words of a campaign (R387). -/
def Mach.campWords (m : Mach) (c : CampSt) : List Word :=
  [place (min c.spread0 65535) 0 ||| place (min (m.campSpread c.strings) 65535) 16, BitVec.ofNat 32 c.sweeps,
   BitVec.ofNat 32 (c.charge / 1000), 0]

/-- The record of a campaign's start or end (R23, R526 type 0x08). -/
def Mach.campRecord (m : Mach) (c : CampSt) : Mach :=
  let w := m.campWords c
  m.emit evCampaign .info [BitVec.ofNat 32 c.tag, BitVec.ofNat 32 c.strings, wordAt w 0, wordAt w 1, wordAt w 2, 0, 0, 0]

/-- A campaign ends with a status (R385, R387). -/
def Mach.endCampaign (m : Mach) (status : Nat) : Mach :=
  match m.cell.camp with
  | none => m
  | some c =>
    let w := m.campWords c
    let m := (m.campRecord c).endOp c.op status w
    { m with
      cell.camp := none
      cell.stopbal := m.cell.stopbal ||| c.strings }

/-- A campaign's share of a publication (R387): a string that completed its sweep goes on or ends its run; a sweep that some string
of the campaign completed counts toward the limit (notes/assumptions/46). -/
def Mach.campaignStep (m : Mach) (good : List Nat) : Mach :=
  match m.cell.camp with
  | none => m
  | some c =>
    let mine := bitsOf 4 c.strings
    if !(m.opById c.op).any (fun o => decide (o.state ≠ .suspended)) then m
    else if !(mine.any good.contains) then m
    else
      let runs := c.runs.mapIdx (fun p r =>
        if mine.contains p && good.contains p then (if m.spreadOf p ≤ 10 * c.now then min (r + 1) 255 else 0) else r)
      let c : CampSt := { c with
        runs := runs
        sweeps := c.sweeps + 1 }
      let m : Mach := { m with cell.camp := some c }
      if mine.all (fun p => decide (10 ≤ runs.getD p 0)) then m.endCampaign stOk
      else if c.limit ≠ 0 ∧ c.limit ≤ c.sweeps then m.endCampaign 0x90
      else m

/-- A port leaves a campaign at the strike of its disable; the last one ends it (R387). -/
def Mach.campLeave (m : Mach) (p : Nat) : Mach :=
  match m.cell.camp with
  | none => m
  | some c =>
    let s := c.strings &&& (15 - (1 <<< p))
    if !c.strings.testBit p then m
    else if s = 0 then m.endCampaign 0x90
    else { m with cell.camp := some { c with strings := s } }

/-- Charge in 0.01 Ah of a count of mC / (100 · 2^24). -/
def centiAh (q : Int) : Word := wordOfInt (tdiv q (1677721600 * 36000))

/-- A capacity sweep ends (R390). -/
def Mach.endCaps (m : Mach) (status : Nat) : Mach :=
  match m.cell.caps with
  | none => m
  | some c =>
    let res := if status = stOk then [centiAh c.charge, place c.low 0 ||| place c.high 16] else []
    let m : Mach := { m with cell.caps := none }
    let m := m.endOp c.op status res
    if status = stOk then m.setPort c.port (fun pt => { pt with socEst := false }) else m

/-- A capacity sweep's share of a publication (R389, R390); `alone` at 1,000 asks for the abort. -/
def Mach.capsStep (m : Mach) (good : List Nat) (others : Bool) : Mach :=
  match m.cell.caps with
  | none => m
  | some c =>
    let pt := m.port c.port
    let us := pt.units.take (m.unitsOf c.port)
    if !(m.opById c.op).any (fun o => decide (o.state ≠ .suspended)) then m
    else
      let alone := if others then (if 1000 ≤ c.alone then c.alone else 0) else c.alone + 1
      if 1000 ≤ alone ∨ pt.ring = 5 ∨ pt.ring = 4 then m.endCaps 0x91
      else
        let c : CapsSt := { c with alone := alone }
        let c : CapsSt := if c.phase = 1 then { c with rest := min (c.rest + 1) 6000 } else c
        if !good.contains c.port then { m with cell.caps := some c }
        else
          let m := m.wr .crCapsRes (centiAh c.charge)
          match c.phase with
          | 0 => { m with cell.caps := some (if pt.entry.chg < c.cur then
              { c with
                phase := 1
                rest := 0
                high := extremeCell us false } else c) }
          | 1 => { m with cell.caps := some (if 6000 ≤ c.rest then { c with phase := 2 } else c) }
          | 2 => { m with cell.caps := some (if pt.entry.dis < c.cur then
              { c with
                phase := 3
                low := extremeCell us true } else c) }
          | _ =>
            let m : Mach := { m with cell.caps := some c }
            if c.soe0 ≤ pt.entry.soe then m.endCaps stOk else m

/-- CELL_RING_PUBLISH (R370, R371, R387, R389, R391): the ports whose sweep started 1,000 F ago are decided; the slot is
published when one of them completed; request line 3 rises (R461). -/
def Mach.cellPublish (m : Mach) : Mach :=
  let now := m.time.count
  let due := (List.range 4).filter (fun p => (m.port p).sweep.any (fun s => decide (s + 1000 ≤ now)))
  if due.isEmpty then m
  else
    let good := due.filter (fun p => decide ((m.port p).ring ≠ 5) &&
      ((m.port p).units.take (m.unitsOf p)).all (fun u => u.got))
    let m : Mach := due.foldl (fun m p =>
      if good.contains p then m.publishGood p (now - 1000) else m.publishBad p) m
    let m : Mach := if good.isEmpty then m
      else Mach.reqLine { (m.portsEn.foldl (fun m p => m.staleEntry now p) ((List.range 4).foldl Mach.zeroEntry m)) with cell.pubAt := some now, bel.limFault := false } 3
    let ready := m.cell.ready || (!good.isEmpty || due.any (fun p => (m.port p).entered)) &&
      m.portsEn.all (fun p => (m.port p).done || (m.port p).entered)
    let m : Mach := { m with cell.ready := ready }
    let others := (List.range 4).any (fun p => !m.cell.caps.any (fun c => c.port == p) && bit (m.rd (.bdString p)) 10)
    (m.campaignStep good).capsStep good others

/-! ## The packets -/

/-- The checks of BALANCE_CAMPAIGN (R386). -/
def Mach.campCheck (m : Mach) (w4 : Word) : Option Nat :=
  let strings := field w4 3 0
  if m.opcodeHeld ocBalanceCampaign then some stBadState
  else if strings = 0 ∨ (bitsOf 4 strings).any (fun p => !m.portEn p) ∨ field w4 15 4 ≠ 0 ∨ 500 < field w4 31 16 then
    some stBadParam
  else if !m.ready fnCellring then some stBadState
  else if 2048 ≤ m.inFlight then some stBusy
  else none

/-- BALANCE_CAMPAIGN accepted (R23, R386). -/
def Mach.startCampaign (m : Mach) (rt : RTo) (cls : Cls) (w4 w5 : Word) : Mach :=
  let t := field w4 31 16
  let strings := field w4 3 0
  let o := m.addOp rt cls
  let c : CampSt := ⟨o.2, rt.tag, strings, t, if t = 0 then m.rdField .crBalCfg 31 16 else t, w5.toNat, 0,
    [0, 0, 0, 0], m.campSpread strings, 0⟩
  let m : Mach := { o.1 with cell.camp := some c }
  ((m.reply rt stAccepted []).campRecord c).quenchCellOps

/-- The checks of CAPACITY_SWEEP (R388). -/
def Mach.capsCheck (m : Mach) (w4 w5 : Word) : Option Nat :=
  let p := field w4 1 0
  let cur := field w5 15 0
  let ring := (m.port p).ring
  if m.opcodeHeld ocCapacitySweep then some stBadState
  else if m.portEn p = false ∨ (ring ≠ 2 ∧ ring ≠ 3) ∨ field w4 31 2 ≠ 0 ∨ cur < 10 ∨ 4000 < cur ∨ field w5 31 16 ≠ 0 then
    some stBadParam
  else if !((List.range 4).any (fun q => q != p && bit (m.rd (.bdString q)) 10)) then some 0x92
  else if !m.ready fnCellring then some stBadState
  else if 2048 ≤ m.inFlight then some stBusy
  else none

/-- CAPACITY_SWEEP accepted (R388, R389). -/
def Mach.startCaps (m : Mach) (rt : RTo) (cls : Cls) (w4 w5 : Word) : Mach :=
  let p := field w4 1 0
  let o := m.addOp rt cls
  let c : CapsSt := ⟨o.2, rt.tag, p, field w5 15 0, 0, 0, (m.port p).entry.soe, 0, 0, 0, 0⟩
  ((({ o.1 with cell.caps := some c } : Mach).wr .crCapsRes 0).reply rt stAccepted []).quenchCellOps

/-! ## The command -/

/-- CELL_RING_PUBLISH. -/
def execCellRingPublish (s : State) : Host.Outcome State Fault Refusal := s.on (fun m => m.cellPublish)

end Sys2Proof.Machine
end

