-- ==== Sys2Proof/Machine/Validate.lean ====
section
/-! DEFINITION. The validation of a commit (R82–R84): the configuration that would result, checked against the rules of every
block's chapter. -/

namespace Sys2Proof.Machine

/-- The module with staged words laid over the applied ones, for the checks alone (R82). -/
def Mach.overlay (m : Mach) (ws : List Staged) : Mach :=
  ws.foldl (fun m w => match Reg.ofAddr w.addr with
    | some r => m.wr r (stMerge r (m.rd r) w.value)
    | none => m) m

/-- A failing word: its address and the mask of the failing field (R83). -/
abbrev Failing := Nat × Word

/-- A failing word where a condition holds. -/
def failIf (c : Bool) (r : Reg) (hi lo : Nat) : List Failing := if c then [(r.addr, maskBits hi lo)] else []

/-- Whether a signal index is reserved (R125). -/
def reservedSel (i : Nat) : Bool :=
  (decide (0xCC ≤ i) && decide (i ≤ 0xCF)) || (decide (0xD4 ≤ i) && decide (i ≤ 0xFE))

/-- A signed byte. -/
def sbyte (n : Nat) : Int := if n < 128 then n else (n : Int) - 256

/-! ## Dispatch (R95, R120) -/

/-- The cases of the `BD_` block; a value outside the range its field names fails (notes/assumptions/46). -/
def Mach.badDispatch (v : Mach) : List Failing :=
  let fl := v.rdField .bdReserve 9 0
  let ce := v.rdField .bdReserve 25 16
  let first := v.rdField .bdTrays 6 0
  let count := v.rdField .bdTrays 14 8
  let shelves := v.rdField .bdTrays 22 20
  failIf (v.rdField .bdRamp 31 16 == 0) .bdRamp 31 16
    ++ failIf (v.rdField .bdRamp 15 0 == 0) .bdRamp 15 0
    ++ failIf (decide (1000 < ce)) .bdReserve 25 16 ++ failIf (decide (ce < fl + 40)) .bdReserve 9 0
    ++ failIf ((List.range 12).all (fun n => v.role n != 1)) .bdStageRole 23 0
    ++ (List.range 4).flatMap (fun s =>
        let st := v.rdField .bdStringMap (4 * s + 3) (4 * s)
        failIf (st != 15 && !(decide (st < 12) && v.role st == 2)) .bdStringMap (4 * s + 3) (4 * s))
    ++ failIf (shelves == 0 || decide (4 < shelves)) .bdTrays 22 20
    ++ failIf (count == 0 || decide (16 < count) || decide (65 < first + count)) .bdTrays 14 8
    ++ failIf (first == 0 || decide (64 < first)) .bdTrays 6 0

/-! ## The loop engine (R125, R127, R139, R151, R172) -/

/-- The outputs of enabled loops that are mapped: loop, output, out_map. -/
def Mach.mappedOuts (v : Mach) (loops : List Nat) : List (Nat × Nat × Nat) :=
  loops.flatMap (fun k =>
    ((List.range (min (v.dims k).no 8)).map (fun j => (k, j, v.outMap k j))).filter (fun x => x.2.2 != 255))

/-- The register and place of an out_map byte. -/
def outMapFail (c : Bool) (k j : Nat) : List Failing :=
  failIf c (if j < 4 then .leOutMapLo k else .leOutMapHi k) (8 * (j % 4) + 7) (8 * (j % 4))

/-- The cases of one enabled loop. -/
def Mach.badLoop (v : Mach) (k : Nat) : List Failing :=
  let d := v.dims k
  let nreg := v.rdField (.leSched k) 4 0
  let regions := (List.range (min nreg 16)).filter (fun q => bit (v.rd (.leTtSet k q)) 31)
  let lt (a b : Reg) : Bool := decide ((v.rd b).toInt < (v.rd a).toInt)
  failIf (decide (16 < d.ns)) (.leCfg k) 4 0
    ++ failIf (d.ni == 0 || decide (8 < d.ni)) (.leCfg k) 11 8
    ++ failIf (d.no == 0 || decide (8 < d.no)) (.leCfg k) 19 16
    ++ failIf (decide (4 < d.nbq)) (.leCfg k) 22 20
    ++ failIf (decide (d.ni ≤ d.trk)) (.leCfg k) 26 24
    ++ (List.range 4).flatMap (fun n => failIf (reservedSel (v.srcSel k n)) (.leSrc k) (8 * n + 7) (8 * n))
    ++ (List.range (min d.ni 8)).flatMap (fun i =>
        let s := v.inSel k i
        failIf (reservedSel s || s == 255) (if i < 4 then .leInSelLo k else .leInSelHi k) (8 * (i % 4) + 7) (8 * (i % 4)))
    ++ (List.range (min d.no 8)).flatMap (fun j =>
        let o := v.outMap k j
        outMapFail (o != 255 && (decide (128 ≤ o) || decide (11 < o / 8))) k j
          ++ outMapFail (o != 255 && decide (o < 96) && v.role (o / 8) == 0) k j
          ++ failIf (reservedSel (v.rbSel k j)) (if j < 4 then .leRbLo k else .leRbHi k) (8 * (j % 4) + 7) (8 * (j % 4)))
    ++ (List.range 8).flatMap (fun j =>
        failIf (decide ((v.rd (.leOmax k j)).toInt ≤ (v.rd (.leOmin k j)).toInt)) (.leOmin k j) 31 0)
    ++ (List.range (min d.nbq 4)).flatMap (fun b =>
        let p := v.bqPlace k b
        failIf (decide ((if p.1 then d.no else d.ni) ≤ p.2)) (.leBqPlace k) (8 * b + 7) (8 * b))
    ++ failIf (nreg == 0 || decide (16 < nreg)) (.leSched k) 4 0
    ++ failIf (!regions.contains 0) (.leTtSet k 0) 31 31
    ++ regions.flatMap (fun q =>
        failIf (v.srcSel k 2 != 255 && lt (.leTtLo0 k q) (.leTtHi0 k q)) (.leTtLo0 k q) 31 0
          ++ failIf (v.srcSel k 3 != 255 && lt (.leTtLo1 k q) (.leTtHi1 k q)) (.leTtLo1 k q) 31 0
          ++ failIf (decide (131072 < v.setBase k q + d.m)) (.leTtSet k q) 16 0)

/-- Out_map bytes that name a stage command channel another output of an enabled loop maps too. -/
def repeatedMaps : List (Nat × Nat × Nat) → List Failing
  | [] => []
  | (_, _, o) :: rest => (rest.filter (fun x => x.2.2 == o)).flatMap (fun x => outMapFail true x.1 x.2.1) ++ repeatedMaps rest

/-- The cases of the `LE_` block: shifts and supervision words among the staged ones, the loops enabled after the commit. -/
def Mach.badLoops (v : Mach) (ws : List Staged) : List Failing :=
  let bl := v.rdField .leBridgeCfg 31 16
  let fa := v.rdField .leBridgeCfg 15 0
  let loops := (List.range 32).filter (fun k => bit (v.rd .leLoopEn) k)
  failIf (bl == 0 || decide (10000 < bl)) .leBridgeCfg 31 16
    ++ failIf (fa == 0 || decide (10000 < fa)) .leBridgeCfg 15 0
    ++ ws.flatMap (fun w => match Reg.ofAddr w.addr with
        | some (.leSpsSh i) => failIf (field w.value 5 0 == 63) (.leSpsSh i) 5 0
        | some (.leCoefSh e) => failIf (field w.value 5 0 == 63) (.leCoefSh e) 5 0
        | some (.leSup k) => failIf (field w.value 29 24 == 0) (.leSup k) 29 24
        | some (.leFeLim k) => failIf (decide (w.value.toInt ≤ (0 : Int))) (.leFeLim k) 31 0
        | _ => [])
    ++ loops.flatMap v.badLoop
    ++ repeatedMaps (v.mappedOuts loops)

/-! ## The loop test (R176, R180) -/

/-- Whether a capture selector is reserved or names an index beyond the loop's dimensions. -/
def badSelector (d : Dims) (sel : Nat) : Bool :=
  let i := sel % 32
  match sel / 32 with
  | 0 => decide (d.ni ≤ i)
  | 1 => decide (d.no ≤ i)
  | 2 => decide (d.no ≤ i)
  | 3 => decide (d.no ≤ i)
  | 4 => decide (d.ns ≤ i)
  | 5 => decide (4 < i)
  | 7 => i != 31
  | _ => true

/-- Whether an address is one of the `LE_TEST_` and `LE_CAP_` configuration registers (R183). -/
def isTestReg (a : Nat) : Bool := decide (Reg.addr .leTestCtrl ≤ a) && decide (a ≤ Reg.addr .leCapLen)

/-- The cases of a commit that starts a test (R180). -/
def Mach.badStart (v : Mach) (owner : Cls) : List Failing :=
  let k := v.rdField .leTestCtrl 4 0
  let d := v.dims k
  let order := v.rdField .leTestCtrl 7 5
  let wave := v.rdField .leTestCtrl 19 16
  let len := v.rdField .leTestLen 20 0
  let dec := v.rdField .leCapCfg 9 0
  let sels := v.capSelectors
  let frames := v.testPre + len + v.testPost
  let records := if dec = 0 then 0 else (frames + dec - 1) / dec
  let buf := addr48 (v.rd .leCapBaseLo) (v.rd .leCapBaseHi)
  let room := v.rdField .leCapLen 20 0
  let used := sels.any (fun s => s != 255)
  failIf (!bit (v.rd .leLoopEn) k) .leTestCtrl 4 0
    ++ failIf (decide (d.no ≤ v.rdField .leTestCtrl 26 24)) .leTestCtrl 26 24
    ++ failIf (v.rdField .leTestCtrl 29 28 == 3) .leTestCtrl 29 28
    ++ failIf (decide (3 < wave)) .leTestCtrl 19 16
    ++ failIf (decide (5 < order)) .leTestCtrl 7 5
    ++ failIf (v.rdField .leTestCtrl 15 8 == 0) .leTestCtrl 15 8
    ++ failIf (len == 0 || decide (1048576 < len)) .leTestLen 20 0
    ++ failIf (dec == 0 || decide (1000 < dec)) .leCapCfg 9 0
    ++ failIf (wave == 3 && decide (order ≤ 5) && (v.rd .leTestSeed).toNat % 2 ^ (prbsTaps order).1 == 0) .leTestSeed 30 0
    ++ failIf (decide (0x80000000 < (v.rd .leTestInc0).toNat)) .leTestInc0 31 0
    ++ failIf (decide (0x80000000 < (v.rd .leTestInc1).toNat)) .leTestInc1 31 0
    ++ (List.range 12).flatMap (fun s =>
        failIf (badSelector d (sels.getD s 255))
          (if s < 4 then .leCapSelLo else if s < 8 then .leCapSelMid else .leCapSelHi) (8 * (s % 4) + 7) (8 * (s % 4)))
    ++ failIf (used && decide (room < records)) .leCapLen 20 0
    ++ failIf (used && decide (0 < room) && decide (v.judge owner buf (64 * room) true ≠ .ok)) .leCapBaseLo 31 6

/-- The cases of a test: a commit that writes its registers while one runs, unless it clears test_en; a start. -/
def Mach.badTest (m v : Mach) (ws : List Staged) (owner : Cls) : List Failing :=
  let ctrl := ws.find? (fun w => w.addr == Reg.addr .leTestCtrl)
  let stops := ctrl.any (fun w => !bit w.value 31)
  if m.eng.test.running then
    if stops then [] else (ws.filter (fun w => isTestReg w.addr)).map (fun w => (w.addr, 0xFFFFFFFF))
  else if ctrl.any (fun w => bit w.value 31) then v.badStart owner
  else []

/-! ## The anvil and the forecaster (R218, R252, R277, R294, R295) -/

/-- Whether a schedule area lies wholly inside SRAM or wholly inside the populated stacks (R295). -/
def Mach.areaOk (v : Mach) (a n : Nat) : Bool :=
  v.decoded a n && (match v.space a with
    | .sram _ => true
    | .stack _ _ => true
    | _ => false)

/-- The cases of the `AV_` block. -/
def Mach.badAnvil (m v : Mach) (staged : Bool) : List Failing :=
  let lanes := v.rdField .avFcSchedCfg 6 0
  let area := addr48 (v.rd .avFcSchedBaseLo) (v.rd .avFcSchedBaseHi)
  let warm := v.rdField .avFcCtrl 4 0
  let bank := v.rdField .avFcCtrl 8 8
  failIf (v.rdField .avEccCfg 31 16 == 0) .avEccCfg 31 16
    ++ failIf (v.rdField .avEccCfg 15 8 == 0) .avEccCfg 15 8
    ++ failIf (v.rdField .avEccCfg 7 0 == 0) .avEccCfg 7 0
    ++ failIf (decide (100 < v.rdField .avSchedCfg 6 0)) .avSchedCfg 6 0
    ++ failIf (v.rdField .avFcCtrl 27 20 == 0) .avFcCtrl 27 20
    ++ failIf (decide (warm < 10) || decide (20 < warm)) .avFcCtrl 4 0
    ++ failIf ((staged || bank != m.rdField .avFcCtrl 8 8) && !(m.fc.banks.getD bank BankSt.reset).valid) .avFcCtrl 8 8
    ++ (List.range 16).flatMap (fun n =>
        failIf (reservedSel (v.rdField (.avFcTlmSel (n / 4)) (8 * (n % 4) + 7) (8 * (n % 4)))) (.avFcTlmSel (n / 4))
          (8 * (n % 4) + 7) (8 * (n % 4)))
    ++ failIf (decide (64 < lanes)) .avFcSchedCfg 6 0
    ++ failIf (decide (0 < lanes) && decide (lanes ≤ 64) && !v.areaOk area (0x4040 * lanes)) .avFcSchedBaseLo 31 6
    ++ (List.range 32).flatMap (fun k =>
        let w := v.rd (.avFcBr k)
        failIf (bit w 31 && decide (2 ≤ field w 29 28)) (.avFcBr k) 29 28
          ++ failIf (bit w 31 && field w 5 0 == 63) (.avFcBr k) 5 0)

/-! ## Cell ring, collector, pair, peer links, windows (R398, R426, R453, R327, R495) -/

/-- Whether two lists of points ascend strictly in both values. -/
def pointsAscend : List (Int × Int) → Bool
  | (v0, s0) :: (v1, s1) :: rest => decide (v0 < v1) && decide (s0 < s1) && pointsAscend ((v1, s1) :: rest)
  | _ => true

/-- The first OCV point that does not ascend over the one before it. -/
def Mach.badOcv (v : Mach) : List Failing :=
  if pointsAscend v.ocvTable then []
  else match (List.range v.ocvTable.length).find? (fun n => !pointsAscend ((v.ocvTable.drop n).take 2)) with
    | some n => failIf true (.crOcv (n + 1)) 31 0
    | none => []

/-- The cases of the `CR_` block (R398). -/
def Mach.badCells (v : Mach) : List Failing :=
  let vmax := v.rdField .crVlim 31 16
  let vmin := v.rdField .crVlim 15 0
  let ct := v.rdField .crVtaper 31 16
  let dt := v.rdField .crVtaper 15 0
  let hmax := v.rdField .crVhard 31 16
  let hmin := v.rdField .crVhard 15 0
  let th := sbyte (v.rdField .crTemp 31 24)
  let tm := sbyte (v.rdField .crTemp 23 16)
  let td := sbyte (v.rdField .crTemp 15 8)
  let spread := v.rdField .crBalCfg 31 16
  let pairs := v.rdField .crBalCfg 1 0
  failIf (!(decide (vmin < dt) && decide (ct < vmax))) .crVlim 31 0
    ++ failIf (decide (ct ≤ dt)) .crVtaper 31 0
    ++ failIf (!(decide (hmin < vmin) && decide (vmax < hmax))) .crVhard 31 0
    ++ failIf (!(decide (td < tm) && decide (tm < th))) .crTemp 31 8
    ++ failIf (spread == 0 || decide (500 < spread)) .crBalCfg 31 16
    ++ failIf (pairs == 0 || pairs == 3) .crBalCfg 1 0
    ++ (List.range 4).flatMap (fun p =>
        let w := v.rd (.crPcfg p)
        let on := bit (v.rd .crCtrl) p
        failIf (on && (field w 13 8 == 0 || decide (32 < field w 13 8))) (.crPcfg p) 13 8
          ++ failIf (on && decide (0xBF < field w 7 0)) (.crPcfg p) 7 0
          ++ failIf (field w 31 16 == 0) (.crPcfg p) 31 16
          ++ failIf (v.rdField (.crPcap p) 15 0 == 0) (.crPcap p) 15 0
          ++ failIf (v.rd (.crPenergy p) == 0) (.crPenergy p) 31 0)
    ++ v.badOcv

/-- The windows whose base plus size exceeds 2^48 (R495). -/
def Mach.badWindows (v : Mach) : List Failing :=
  (List.range 3).flatMap (fun q => (List.range 8).flatMap (fun w =>
    let x := v.window q w
    failIf (decide (281474976710656 < x.1 + x.2.1)) (.cxRwSize q w) 31 0))

/-- The cases of the remaining blocks. -/
def Mach.badRest (m v : Mach) (ws : List Staged) : List Failing :=
  failIf (v.rdField .fcTimer 31 16 == 0) .fcTimer 31 16
    ++ failIf (v.rdField .fcTimerCorr 15 0 == 0) .fcTimerCorr 15 0
    ++ failIf (v.rdField .prCfg 7 0 == 0) .prCfg 7 0
    ++ failIf (v.planBuf != m.planBuf && m.hall.bufState != 2) .plPlanSel 0 0
    ++ failIf (m.fault.testMode && (ws.any (fun w => w.addr == Reg.addr .syFuncEn && (w.value &&& 0x63) != 0))) .syFuncEn 6 0

/-! ## The whole check (R83) -/

/-- What a commit fails with: the status and its result words. -/
structure CfgFail where
  status : Nat
  result : List Word
  deriving DecidableEq, Repr

/-- The failing word with the lowest address (R83). -/
def firstFailing : List Failing → Option Failing
  | [] => none
  | f :: fs => match firstFailing fs with
    | some g => if g.1 < f.1 then some g else some f
    | none => some f

/-- Result words 4 to 6 of a failing word (R83). -/
def failWords (f : Failing) : List Word := [BitVec.ofNat 32 f.1, BitVec.ofNat 32 (f.1 / 4294967296), f.2]

/-- A field of `SY_FUNC_EN` of an absent unit that a commit sets (R25). -/
def Mach.setsAbsent (m v : Mach) (ws : List Staged) : Bool :=
  ws.any (fun w => w.addr == Reg.addr .syFuncEn) &&
    ((m.sys.tiles == 0 && (v.en fnAnvil || v.en fnForecast)) || (!m.sys.train && v.en fnTrain)
      || (m.sys.links == 0 && v.en fnPeer))

/-- Functions a commit clears although the module's role needs them (R26). -/
def Mach.clearsHeld (m v : Mach) : Bool :=
  let off (n : Nat) : Bool := m.en n && !v.en n
  (m.pair.holding && (off fnLoop || off fnBellows)) || (m.hall.isMaster && off fnPeer)

/-- Of two fields, the one whose low bit lies lower. -/
def lowerField (f : Nat × Nat) : Option (Nat × Nat) → Option (Nat × Nat)
  | none => some f
  | some g => some (if g.2 < f.2 then g else f)

/-- The mask of the staged field of a register that differs in a word (R83). Where several fields differ, R83 does not say which is
the failing one: the model names the one at the lowest bits (DESIGN CHOICE, notes/assumptions/81). -/
def Reg.failMask (r : Reg) (d : Word) : Word :=
  match (r.stFields.filter (fun f => (d &&& maskBits f.1 f.2) != 0)).foldr lowerField none with
  | some f => maskBits f.1 f.2
  | none => r.stMask

/-- The staged words whose base no longer equals the applied value, each with its failing field (R82, R83). -/
def Mach.staleWords (m : Mach) (ws : List Staged) : List Failing :=
  ws.flatMap (fun w => match Reg.ofAddr w.addr with
    | some r => let d := (m.rd r ^^^ w.base) &&& r.stMask; if d != 0 then [(w.addr, r.failMask d)] else []
    | none => [])

/-- Whether a commit wrote a register's word. -/
def wrote (ws : List Staged) (r : Reg) : Bool := ws.any (fun w => w.addr == r.addr)

/-- Every case of ST_CFG_INVALID. -/
def Mach.invalidWords (m v : Mach) (ws : List Staged) (owner : Cls) : List Failing :=
  v.badDispatch ++ v.badLoops ws ++ m.badTest v ws owner ++ m.badAnvil v (wrote ws .avFcCtrl) ++ v.badCells ++ v.badWindows ++ m.badRest v ws

/-- The validation of staged words (R82, R83): none when it passes. The order is that of R83, with the two statuses of R95 and
R96 beside the check of units (notes/assumptions/46). -/
def Mach.validate (m : Mach) (ws : List Staged) (owner : Cls) (overflow : Bool) : Option CfgFail :=
  let v := m.overlay ws
  let policy := ws.any (fun w => w.addr == Reg.addr .bdPolicy)
  if m.setsAbsent v ws then some ⟨stUnitAbsent, []⟩
  else if policy && v.rdField .bdPolicy 1 0 == 0 && m.sys.tiles == 0 then some ⟨stUnitAbsent, []⟩
  else if m.clearsHeld v then some ⟨stRoleHeld, []⟩
  else if policy && v.rdField .bdPolicy 1 0 == 3 then some ⟨stBadParam, []⟩
  else if overflow then some ⟨stCfgOverflow, []⟩
  else match firstFailing (m.staleWords ws) with
    | some f => some ⟨stCfgStale, failWords f⟩
    | none => match firstFailing (m.invalidWords v ws owner) with
      | some f => some ⟨stCfgInvalid, failWords f⟩
      | none => none

/-! ## The window of a frame (R82–R84) -/

/-- The windows a transaction of `n` words needs (R82). -/
def windowsFor (n : Nat) : Nat := if 8192 < n then 2 else 1

/-- A commit with a launch count has passed: it arms a slot, or is refused under R43 (R84). -/
def Mach.armCommit (m : Mach) (rt : RTo) (l : Nat) : Mach :=
  let t := m.txn
  let refuse (st : Nat) : Mach := (m.closeTxn st 3).reply rt st []
  match launchWindow m.time.count l with
  | some st => refuse st
  | none =>
    match m.freeSlot 0 12 with
    | none => refuse stLaunchFull
    | some i =>
      let slot : LaunchSlot :=
        { LaunchSlot.reset with
          count := l
          action := actCommit
          origin := originOf t.owner
          tag := rt.tag
          reply := some rt
          staged := t.staged
          armedAt := m.time.count }
      ((m.closeTxn stArmed 0).armIn i slot).reply rt stArmed [place i 0]

/-- COMMIT_VALIDATION: the window of the present frame validates up to 8,192 words; after the last one the commit fails, arms,
or is due at the next strike (R33, R82–R84). A failure of a commit that needs two windows is posted in the second, also where the
failing word is among the first 8,192: the rules leave open which window finds it (DESIGN CHOICE, notes/assumptions/46). -/
def Mach.commitWindow (m : Mach) : Mach :=
  let t := m.txn
  match t.state, t.commit, t.applyAt with
  | .validating, some (rt, l), none =>
    if t.winAt = some m.time.count then m
    else
      let m : Mach := { m with txn.windows := t.windows + 1, txn.winAt := some m.time.count }
      if t.windows + 1 < windowsFor t.staged.length then m
      else match m.validate t.staged t.owner t.overflow with
        | some f => (m.closeTxn f.status 3).reply rt f.status f.result
        | none =>
          if l ≠ 0 then m.armCommit rt l
          else { m with txn.applyAt := some (m.time.count + 1), txn.deferred := decide (1 < t.windows + 1) }
  | _, _, _ => m

/-- LAUNCH_REVALIDATE (R44): in frame L − 1 a launched commit is validated again, base check included; the verdict stands in its
slot. -/
def Mach.revalidate (m : Mach) : Mach :=
  { m with slots := m.slots.map (fun l =>
      if l.armed && l.action == actCommit && l.count == m.time.count + 1 then
        let owner := if l.origin = 0 then .host else if l.origin = 1 then .fw else .tk
        { l with
          valid := (m.validate l.staged owner false).elim 0 CfgFail.status
          result := (m.validate l.staged owner false).elim [] CfgFail.result }
      else l) }

/-- COMMIT_VALIDATION. -/
def execCommitValidation (s : State) : Host.Outcome State Fault Refusal := s.on Mach.commitWindow

/-- LAUNCH_REVALIDATE. -/
def execLaunchRevalidate (s : State) : Host.Outcome State Fault Refusal := s.on Mach.revalidate

end Sys2Proof.Machine
end

