-- ==== Sys2Proof/Machine/Apply.lean ====
section
/-! DEFINITION. A configuration applied at a strike (R27, R83): the words, and what their change does to work in flight; commits
due and launches fired (R46, R47). -/

namespace Sys2Proof.Machine

/-- The coefficient entries a commit wrote (R136). -/
def entriesOf (ws : List Staged) : List Nat :=
  ws.filterMap (fun w => match Reg.ofAddr w.addr with
    | some (.leCoefC e) => some e
    | some (.leCoefSh e) => some e
    | _ => none)

/-! ## Function disable and enable (R27, R29, R215, R291, R360, R394, R472) -/

/-- Every bridge that follows a slot fades from this strike on (R18, R27). -/
def Mach.fadeAll (m : Mach) : Mach :=
  (List.range 32).foldl (fun m k =>
    let l := m.loop k
    if !m.fault.quench.active && l.started && decide (l.s.mode = .live ∨ l.s.mode = .blend) then
      (m.setLoop k l.enterFade).orReg (.leFlag k) (flag true 5)
    else m) m

/-- FUNCTION_DISABLE (R27): what the fields of `SY_FUNC_EN` that a commit cleared or set do to work in flight. The loop engine and
dispatch stop with their readiness bits. -/
def Mach.applyEnables (old m : Mach) : Mach :=
  let rose (n : Nat) : Bool := !old.en n && m.en n
  let fell (n : Nat) : Bool := old.en n && !m.en n
  let up := (List.range 9).filter rose
  let m := up.foldl Mach.restartAge m
  let m := if fell fnAnvil then m.anvilOff else m
  let m := if old.forecastEn && !m.forecastEn then m.forecastOff.fadeAll else m
  let m := if old.trainEn && !m.trainEn then m.trainOff else m
  let m := if fell fnCellring then m.cellringOff else m
  let m := if rose fnCellring then { m with cell.ports := m.cell.ports.map (fun pt => { pt with fresh := true }) } else m
  let m := if fell fnPeer then m.peersOff else m
  let m := if fell fnDma then m.dmaOff else if rose fnDma then m.dmaOn else m
  if rose fnAnvil then { m with anvil.bist := false } else m

/-! ## Loops (R136, R147, R150, R163, R171, R176) -/

/-- The registers whose writing restarts an enabled loop (R147). -/
def restartRegs (k : Nat) : List Reg :=
  [.leCfg k, .leInSelLo k, .leInSelHi k, .leOutMapLo k, .leOutMapHi k, .leBqPlace k, .leRbLo k, .leRbHi k]

/-- Whether a commit makes a loop swap its coefficient set (R136). -/
def Mach.swapHit (m : Mach) (k : Nat) (ws : List Staged) (es : List Nat) : Bool :=
  let q := (m.loop k).s.region
  wrote ws (.leTtSet k q) || wrote ws (.leSrc k) || (m.entryIn k q es).isSome

/-- One loop after a commit: stopped, restarted, due to swap, moved to region 0 where it reads no operating point any more (R139), or with
its following-error count at 0. -/
def Mach.applyLoop (old : Mach) (ws : List Staged) (es : List Nat) (m : Mach) (k : Nat) : Mach :=
  let l := m.loop k
  if !bit (m.rd .leLoopEn) k then
    (if bit (old.rd .leLoopEn) k && m.testLoop k then { m with eng.test.restarted := true } else m : Mach).discardLoop k
  else
    let fe := wrote ws (.leSup k) || wrote ws (.leFeLim k)
    let again := l.started && (restartRegs k).any (wrote ws)
    let moves := l.started && m.fixedRegion k && l.s.region != 0
    let m : Mach := if again && m.testLoop k then { m with eng.test.restarted := true } else m
    let l' : LoopSt := { l with
      restart := l.restart || again
      swap := l.swap || moves || (l.started && m.swapHit k ws es)
      feActive := l.feActive && !fe
      s.region := if moves then 0 else l.s.region
      s.feCount := if fe then 0 else l.s.feCount }
    (m.setLoop k l').feCleared k l l'

/-- Every loop after a commit. A rewritten coefficient entry carries a fresh code (R123). -/
def Mach.applyLoops (old m : Mach) (ws : List Staged) : Mach :=
  let es := entriesOf ws
  let m : Mach := { m with eng.badCoef := m.eng.badCoef.filter (fun e => !es.contains e) }
  (List.range 32).foldl (Mach.applyLoop old ws es) m

/-- LOOP_TEST_START, or the abort of R182 code 1: a commit that wrote `LE_TEST_CTRL`. -/
def Mach.applyTest (m : Mach) (ws : List Staged) (owner : Cls) : Mach :=
  if !wrote ws .leTestCtrl then m
  else if bit (m.rd .leTestCtrl) 31 then m.testStart owner
  else match m.abortCode [1] with
    | some c => m.testAbort c
    | none => m.testPhase

/-! ## The other units (R265, R285, R332, R387, R390, R394, R398) -/

/-- One cell-ring port after a commit. -/
def Mach.applyPort (old m : Mach) (p : Nat) : Mach :=
  let was := bit (old.rd .crCtrl) p
  let is := bit (m.rd .crCtrl) p
  let same := old.rdField (.crPcfg p) 15 0 == m.rdField (.crPcfg p) 15 0
  if was && !is then
    let m := (m.portOff p).campLeave p
    if m.cell.caps.any (fun c => c.port == p) then m.endCaps 0x91 else m
  else if is && !(was && same) then m.portRestart p (old.unitsOf p != m.unitsOf p)
  else m

/-- The ports, the lanes, the forecaster's bank and the plan after a commit. -/
def Mach.applyUnits (old m : Mach) (ws : List Staged) : Mach :=
  let m := (List.range 4).foldl (fun m p => old.applyPort m p) m
  let m := if wrote ws .bdStageRole then m.dropRoles else m
  let m := if old.rdField .avFcSchedCfg 6 0 != m.rdField .avFcSchedCfg 6 0 then m.setLanes else m
  let m := if old.fcBank != m.fcBank then m.bankCycle else m
  if wrote ws .plPlanSel then m.applyPlan m.planBuf else m

/-- A set of words applied at one strike, with everything their change does; application firmware then saves them (R83, R524). -/
def Mach.applyConfig (m : Mach) (ws : List Staged) (owner : Cls) : Mach :=
  let n := m.applyWords ws
  let n := m.applyLoops (m.applyEnables n) ws
  let n := (m.applyUnits n ws).applyTest ws owner
  { n with sys.savePending := some n.time.count }

/-! ## Commits due and launches (R46, R47, R83) -/

/-- A validated commit applied at its strike: ST_OK with the applying count (R33, R83). -/
def Mach.applyCommit (m : Mach) : Mach :=
  match m.txn.commit, m.txn.applyAt with
  | some (rt, _), some a =>
    if m.txn.state != .validating || decide (m.time.count < a) then m
    else
      let t := m.txn
      let m := if t.deferred then m.orReg .syBudget (flag true 4) else m
      let m := (m.applyConfig t.staged t.owner).closeTxn stOk 0
      m.post ⟨rt, stOk, some a, [], true, .nothing⟩
  | _, _ => m

/-- The class behind a slot's origin (R42). -/
def LaunchSlot.owner (l : LaunchSlot) : Cls := if l.origin = 0 then .host else if l.origin = 1 then .fw else .tk

/-- One due launch (R46, R47, R95, R279, R312). -/
def Mach.fireLaunch (m : Mach) (i : Nat) : Mach :=
  let l := m.slot i
  let quench := m.fault.quench.active
  if l.action == actCommit then
    if quench then m.finishSlot i stLaunchQuench .gone none []
    else if l.valid != 0 then m.finishSlot i l.valid .gone none l.result
    else (m.applyConfig l.staged l.owner).finishSlot i stOk .fired (some l.count) []
  else if l.action == actPolicy then
    if quench then m.finishSlot i stLaunchQuench .gone none []
    else (m.setSt .bdPolicy (setField (m.rd .bdPolicy) 1 0 (field l.arg 1 0))).finishSlot i stOk .fired (some l.count) []
  else if l.action == actHallStep then
    let b := 2 + field l.arg 0 0
    let m : Mach := { m with fc.hallBank := b }
    if (m.bank b).valid then m.finishSlot i stOk .fired (some l.count) []
    else
      ({ m with hall.refusals := m.hall.refusals ++ [(l.tag, stBadState)] } : Mach).finishSlot i stBadState .gone none []
  else m.lockStart i

/-- The launches due at the present count, by action, then by slot (R46). -/
def Mach.fireDue (m : Mach) : Mach :=
  let due := (List.range 16).filter (fun i => (m.slot i).armed && (m.slot i).count == m.time.count)
  ([actCommit, actPolicy, actHallStep, actLockstep].flatMap (fun a => due.filter (fun i => (m.slot i).action == a))).foldl
    Mach.fireLaunch m

/-- COMMIT_APPLY: the commit due at the present strike, where it has not applied yet. -/
def execCommitApply (s : State) : Host.Outcome State Fault Refusal := s.on (fun m => m.applyCommit.readiness)

end Sys2Proof.Machine
end

