-- ==== Sys2Proof/Machine/Firmware.lean ====
section
/-! DEFINITION. Firmware slots, boots, trials, update actions and the test token (R421, R514–R519). Kind false is the
trusted kernel, true the application. -/

namespace Sys2Proof.Machine

/-- The slot of a pair by number: false slot 0, true slot 1. -/
def SlotPair.at (p : SlotPair) (i : Bool) : Option Image := if i then p.slot1 else p.slot0

/-- A slot written. -/
def SlotPair.put (p : SlotPair) (i : Bool) (x : Option Image) : SlotPair :=
  if i then { p with slot1 := x } else { p with slot0 := x }

/-- The slot that runs: the boot record's, or the other when that one does not verify (R515). -/
def SlotPair.runSlot (p : SlotPair) : Bool := if (p.at p.boot).isSome then p.boot else !p.boot

/-- A kind's slots. -/
def Mach.slots2 (m : Mach) (app : Bool) : SlotPair := if app then m.id.app else m.id.tk

/-- A kind's slots changed. -/
def Mach.setSlots2 (m : Mach) (app : Bool) (p : SlotPair) : Mach :=
  if app then { m with id.app := p } else { m with id.tk := p }

/-- A firmware record (R526 type 0x0B): kind, slot, version, status; a boot and a revert carry ST_OK (DESIGN CHOICE,
notes/assumptions/91). -/
def Mach.fwRecord (m : Mach) (app slot : Bool) (version : Word) (status : Nat) : Mach :=
  m.emit evFirmware .info [flag app 0, flag slot 0, version, BitVec.ofNat 32 status]

/-- The version a kind's trial runs, 0 without one. -/
def SlotPair.trialVersion (p : SlotPair) : Word := if p.trial then (p.running.map (·.version)).getD 0 else 0

/-- A trial without a COMMIT reverts (R515, R517): the boot record returns to the previous image, with a SEVERE fault and a record. -/
def Mach.trialReverts (m : Mach) (app : Bool) : Mach :=
  let p := m.slots2 app
  let m := m.setSlots2 app { p with boot := !p.boot, trial := false }
  (m.raise srcKernel .severe 0).fwRecord app p.boot (((p.at p.boot).map (·.version)).getD 0) stOk

/-- The start of one kind (R515, R517): an uncommitted trial reverts with a SEVERE fault; where this start takes a staged image, that image
runs in trial; a boot slot that does not verify gives way to the other with a SEVERE fault. -/
def Mach.bootKind (m : Mach) (app takes : Bool) : Mach :=
  let trial := (m.slots2 app).trial
  let m := if trial then m.trialReverts app else m
  let p := m.slots2 app
  let p : SlotPair :=
    if takes && !trial && p.staged then { p with boot := !p.boot, staged := false, trial := true }
    else p
  let p : SlotPair := { p with running := p.at p.runSlot }
  let m := m.setSlots2 app p
  let m : Mach := if p.runSlot != p.boot then m.raise srcKernel .severe 0 else m
  match p.running with
  | some img => m.fwRecord app p.runSlot img.version stOk
  | none => m

/-- Whether an image of either kind is staged. -/
def Mach.anyStaged (m : Mach) : Bool := m.id.tk.staged || m.id.app.staged

/-- The update state after a start: an action in BUSY has ended, a staged image that now runs no longer stands staged, and one that persists
shows its kind (R516, R519). -/
def Mach.updAfterStart (m : Mach) : Mach :=
  { m with
    id.job := none
    id.updKind := if m.anyStaged then m.id.app.staged else m.id.updKind
    id.updState := if m.anyStaged then 2 else 0 }

/-- The status of an action reported (R516). -/
def Mach.updReport (m : Mach) (state status : Nat) : Mach :=
  { m with
    id.updState := state
    id.updStatus := status }

/-- An action that ends with a status of its own and no image is reported, with its record (R516, R526): the kind last named, slot and
version 0 (DESIGN CHOICE, notes/assumptions/91). -/
def Mach.updEnds (m : Mach) (state status : Nat) : Mach := (m.updReport state status).fwRecord m.id.updKind false 0 status

/-- The update address (R519). -/
def Mach.updAddr (m : Mach) : Nat := addr48 (m.rd .idUpdAddrLo) (m.rd .idUpdAddrHi)

/-- The kind an image's header names (R514): none for another value. -/
def Mach.imageKind (m : Mach) (a : Nat) : Option Bool :=
  match (m.byte (a + 4)).toNat with
  | 1 => some false
  | 2 => some true
  | _ => none

/-- Action 1, STAGE (R516): the checks that need no copy, then BUSY with the inactive slot of the kind empty. -/
def Mach.updStage (m : Mach) : Mach :=
  let a := m.updAddr
  let len := (m.rd .idUpdLen).toNat
  let kind := m.imageKind a
  if !m.id.pufOk then m.updEnds 3 stUpdKey
  else if kind.any (fun k => (m.slots2 k).trial) then m.updEnds 3 stBadState
  else if m.judge .host a len false != .ok then
    (if m.judge .host a len false = .denied then m.deny .host a false false else m).updEnds 3 stRegion
  else
    let m : Mach := match kind with
      | some k =>
        let p := m.slots2 k
        m.setSlots2 k { p.put (!p.runSlot) none with staged := false }
      | none => m
    { m with
      id.job := some ⟨a, len⟩
      id.updState := 1
      id.updKind := kind.getD false }

/-- Whether a header's reserved bytes are 0 (R514): bits above the fields at 0x04, 0x0C and 0x10, offsets 0x18–0x1F and
0x40–0x7F. -/
def headerClean (h : List Byte) : Bool :=
  let z (i n : Nat) : Bool := ((h.drop i).take n).all (fun b => b == 0)
  z 6 2 && z 0x0D 3 && decide ((h.getD 0x10 0).toNat < 8) && z 0x11 3 && z 0x18 8 && z 0x40 0x40

/-- The verification of a copied image (R514, R516), in order: FORMAT, SIG, VARIANT, ROLLBACK. -/
def Mach.verifyImage (m : Mach) (bs : List Byte) (len : Nat) : Except Nat (Bool × Image) :=
  let h := bs.take 128
  let kind := (h.getD 4 0).toNat
  let bodyLen := leNat ((h.drop 0x14).take 4)
  let limit := if kind = 1 then 229376 else 62914560
  let body := (bs.drop 128).take bodyLen
  let sig := bs.drop (128 + bodyLen)
  let svn := (h.getD 0x0C 0).toNat
  let variants := (h.getD 0x10 0).toNat
  let app := decide (kind = 2)
  if leNat (h.take 4) ≠ 0x4657494D ∨ (kind ≠ 1 ∧ kind ≠ 2) ∨ (h.getD 5 0).toNat ≠ 1 ∨ headerClean h = false
      ∨ len ≠ 128 + bodyLen + 2420 ∨ limit < bodyLen then .error stUpdFormat
  else if Config.mlDsaVerify 1 (h ++ body) sig = false ∨ (h.drop 0x20).take 32 ≠ sha3_256 body then .error stUpdSig
  else if !variants.testBit m.sys.variant then .error stUpdVariant
  else if svn < (m.slots2 app).floor then .error stUpdRollback
  else .ok (app, ⟨BitVec.ofNat 32 (leNat ((h.drop 8).take 4)), svn, variants, sha3_256 (h ++ body)⟩)

/-- STAGE_DONE (R516): the copy ends and its verification decides between STAGED and FAILED. An image with a poisoned line cannot be read, so it
fails as one without the magic (DESIGN CHOICE, notes/assumptions/92). -/
def Mach.stageDone (m : Mach) : Mach :=
  match m.id.job with
  | none => m
  | some j =>
    let bs := m.cleanBytes j.addr j.len
    let m : Mach := { m.checkRead j.addr j.len with id.job := none }
    match m.verifyImage bs j.len with
    | .error st => m.updEnds 3 st
    | .ok (app, img) =>
      let p := m.slots2 app
      let slot := !p.runSlot
      let m := m.setSlots2 app { p.put slot (some img) with staged := true }
      ({ m with id.updKind := app }.updReport 2 stOk).fwRecord app slot img.version stOk

/-- A trial ended by COMMIT (R516): the boot record keeps the image and the floor rises to its svn. -/
def SlotPair.commit (p : SlotPair) : SlotPair :=
  if p.trial then { p with trial := false, floor := max p.floor ((p.running.map (·.svn)).getD 0) } else p

/-- Action 2, COMMIT (R516). -/
def Mach.updCommit (m : Mach) : Mach :=
  if !m.id.pufOk then m.updEnds m.id.updState stUpdKey
  else if !m.id.tk.trial && !m.id.app.trial then m.updEnds m.id.updState stBadState
  else
    let tk := m.id.tk
    let app := m.id.app
    let m : Mach := { m with
      id.tk := tk.commit
      id.app := app.commit }
    let m := m.updReport m.id.updState stOk
    let m := if tk.trial then m.fwRecord false tk.runSlot tk.trialVersion stOk else m
    if app.trial then m.fwRecord true app.runSlot app.trialVersion stOk else m

/-- Action 3, DISCARD (R506, R516): the staged image is erased. -/
def Mach.updDiscard (m : Mach) : Mach :=
  if !m.id.pufOk then m.updEnds m.id.updState stUpdKey
  else if !m.anyStaged then m.updEnds m.id.updState stBadState
  else
    let app := if (m.slots2 m.id.updKind).staged then m.id.updKind else !m.id.updKind
    let p := m.slots2 app
    let slot := !p.runSlot
    let v := ((p.at slot).map (·.version)).getD 0
    let m := m.setSlots2 app { p.put slot none with staged := false }
    (m.updReport 0 stOk).fwRecord app slot v stOk

/-- Whether the module is out of service for factory test (R421). -/
def Mach.outOfService (m : Mach) : Bool :=
  !m.pair.holding && !m.en fnLoop && !m.en fnBellows && !m.en fnCellring && !m.en fnPeer

/-- Whether the bytes at the update address are a valid token of this module and power cycle (R518). -/
def Mach.tokenOk (m : Mach) : Bool :=
  let body := m.cleanBytes m.updAddr 32
  let sig := m.cleanBytes (m.updAddr + 32) 2420
  decide (body = leBytes 4 0x54544B4E ++ leBytes 4 0 ++ leBytes 8 m.id.serial ++ leBytes 4 m.ev.pwrCyc ++ leBytes 12 0)
    && Config.mlDsaVerify 2 body sig

/-- Action 4, TOKEN (R506, R518, R421). -/
def Mach.updToken (m : Mach) : Mach :=
  if !m.id.pufOk then m.updEnds m.id.updState stUpdKey
  else
    let r := m.checkRead m.updAddr 2452
    if !m.tokenOk then r.updEnds m.id.updState stUpdSig
    else if !m.outOfService then r.updEnds m.id.updState stBadState
    else { r with fault.testMode := true }.updEnds m.id.updState stOk

/-- Action 5, END_TEST (R506, R516). -/
def Mach.updEndTest (m : Mach) : Mach :=
  if !m.id.pufOk then m.updEnds m.id.updState stUpdKey
  else if !m.fault.testMode then m.updEnds m.id.updState stBadState
  else m.endTestMode.updEnds m.id.updState stOk

/-- A write of `ID_UPD_CTRL` (R516, R519): FW and PEER are discarded with an INFO fault; an action written while BUSY is
discarded with ST_UPD_BUSY. -/
def Mach.updWrite (m : Mach) (c : Cls) (action : Nat) : Mach :=
  if c = .fw ∨ c = .peer then m.accessFault c (Reg.addr .idUpdCtrl)
  else if action = 0 ∨ 5 < action then m
  else if m.id.updState = 1 then { m with id.updStatus := stUpdBusy }
  else match action with
    | 1 => m.updStage
    | 2 => m.updCommit
    | 3 => m.updDiscard
    | 4 => m.updToken
    | _ => m.updEndTest

/-! ## The commands -/

/-- STAGE_DONE. -/
def execStageDone (s : State) : Host.Outcome State Fault Refusal := s.on Mach.stageDone

end Sys2Proof.Machine
end

