-- ==== Sys2Proof/Machine/Recorder.lean ====
section
/-! DEFINITION. The event recorder (R525–R535): mounting, storing, freezing, thawing, reading, flash failures. -/

namespace Sys2Proof.Machine

/-- Length of a record in bytes (R525). -/
def EvRec.length (r : EvRec) : Nat := 32 + 4 * r.payload.length

/-- Words 0–6 of a stored record's header (R525). -/
def StoredRec.header (r : StoredRec) : List Word :=
  [place 1 24 ||| place (r.body.type % 256) 16 ||| place (r.body.length % 65536) 0, BitVec.ofNat 32 r.seq,
   BitVec.ofNat 32 r.body.opSec, BitVec.ofNat 32 r.body.pwrCyc, BitVec.ofNat 32 r.body.count,
   BitVec.ofNat 32 (r.body.count / 4294967296),
   place r.body.cls.code 0 ||| flag r.body.quench 2 ||| flag r.body.holder 3 ||| flag r.body.held 4]

/-- The words of a stored record with its CRC-32 over words 0–6 and the payload (R525). -/
def StoredRec.words (r : StoredRec) : List Word :=
  r.header ++ [crc32Words (r.header ++ r.body.payload)] ++ r.body.payload

/-- Bytes of the recorder's area that retired blocks leave (R525, R533). -/
def Mach.areaBytes (m : Mach) : Nat := 0x10000000 - m.ev.retired * (0x10000000 / (Config.flashBlocks + 1))

/-- The newest stored records that leave room for one of `len` bytes: at most 1,048,575 of them (R528). -/
def keepStored (room : Nat) : Nat → List StoredRec → List StoredRec
  | 0, _ => []
  | _, [] => []
  | n + 1, r :: rs => if r.body.length ≤ room then r :: keepStored (room - r.body.length) n rs else []

/-- EVENT_RECORD_STORE (R525, R528): the oldest queued record goes to flash under the next rec_seq, the oldest stored
records making room, and request line 5 rises. -/
def Mach.storeRecord (m : Mach) : Mach :=
  match m.ev.mounted && !m.ev.frozen, m.ev.queue with
  | true, r :: rest =>
    let kept := keepStored (m.areaBytes - r.length) 1048575 m.ev.stored
    let m : Mach := { m with
      ev.queue := rest
      ev.stored := ⟨m.ev.nextSeq, r⟩ :: kept
      ev.nextSeq := (m.ev.nextSeq + 1) % 4294967296 }
    m.reqLine 5
  | _, _ => m

/-- RECORDER_MOUNT (R524 step 3, R527, R533): the flash mounts, the power-cycle count grows at a power-good and never
at a reset, and the power-good record is queued; or code 5. -/
def Mach.mountRecorder (m : Mach) (ok : Bool) : Mach :=
  if !m.sys.capValid || m.ev.mounted || m.ev.mountFailed then m
  else if !ok then { m with ev.mountFailed := true }.raise srcRecorder .severe 5
  else
    let m : Mach := { m with
      ev.mounted := true
      ev.pwrCyc := if m.ev.fromReset then m.ev.pwrCyc else m.ev.pwrCyc + 1
      ev.powerGoodQueued := true }
    if m.ev.fromReset then m
    else m.emit evPowerGood .info [BitVec.ofNat 32 m.sys.variant, (m.id.tk.running.map (·.version)).getD 0,
      (m.id.app.running.map (·.version)).getD 0, BitVec.ofNat 32 m.ev.lastDownSec]

/-- FREEZE_EFFECT (R529): a served freeze takes effect at the strike after it is served. -/
def Mach.freezeEffect (m : Mach) : Mach :=
  if m.ev.freezePending && !m.ev.freezeNew then
    { m with
      ev.freezePending := false
      ev.frozen := true
      ev.freezeStart := m.time.count
      ev.idle := 0
      ev.lostInFreeze := 0 }
  else m

/-- A thaw (R531): the queue, then the holding buffer, then the thaw summary go out; the strike at which a thaw takes
effect is the one of its frame (notes/assumptions/31). -/
def Mach.thaw (m : Mach) : Mach :=
  let len := min (m.time.count - m.ev.freezeStart).toNat 0xFFFFFFFF
  let m : Mach := { m with ev.frozen := false }
  let summary := m.evRec evThaw .info [BitVec.ofNat 32 m.ev.lostInFreeze, BitVec.ofNat 32 len, 0, 0]
  let m : Mach := { m with
    ev.queue := m.ev.queue ++ m.ev.hold
    ev.hold := [] }
  if m.en fnRecorder then { m with ev.queue := m.ev.queue ++ [summary] } else m.bump .evLost 31 16 1

/-- REC_FREEZE with word 4 bit 0 set (R529). -/
def Mach.opRecFreeze (m : Mach) (rt : RTo) : Mach :=
  let fill := [BitVec.ofNat 32 m.holdFill, BitVec.ofNat 32 (min m.queueFill 1024)]
  let m : Mach := if m.ev.frozen || m.ev.freezePending then { m with ev.idle := 0 }
    else { m with ev.freezePending := true, ev.freezeNew := true }
  m.reply rt stOk fill

/-- REC_FREEZE with word 4 bit 0 clear: a thaw (R529, R531). -/
def Mach.opRecThaw (m : Mach) (rt : RTo) : Mach :=
  if m.ev.frozen then
    let fill := [BitVec.ofNat 32 m.holdFill, BitVec.ofNat 32 (min m.queueFill 1024)]
    m.thaw.reply rt stOk fill
  else if m.ev.freezePending then
    { m with ev.freezePending := false }.reply rt stOk
      [BitVec.ofNat 32 m.holdFill, BitVec.ofNat 32 (min m.queueFill 1024)]
  else m.reply rt stBadState []

/-- REC_READ (R66, R532, R533): 16 bytes of the record at an index, 0 newest. -/
def Mach.opRecRead (m : Mach) (rt : RTo) (index offset : Nat) : Mach :=
  let m : Mach := { m with ev.idle := 0 }
  if !m.ev.mounted then m.reply rt stBadState []
  else match m.ev.stored[index]? with
    | none => m.reply rt stBadParam []
    | some r =>
      if offset % 16 ≠ 0 ∨ r.body.length ≤ offset then m.reply rt stBadParam []
      else m.reply rt stOk ((r.words.drop (offset / 4)).take 4)

/-- AUTO_THAW (R531, R533): 1,000,000 F frozen without a freeze or a read; code 3. -/
def Mach.autoThaw (m : Mach) : Mach :=
  if m.ev.frozen && decide (1000000 ≤ m.ev.idle) then m.thaw.raise srcRecorder .info 3 else m

/-- OPERATING_TIME_SAVE (R527): due 60 s of operating time after the last save. -/
def Mach.saveOpSec (m : Mach) : Mach :=
  if m.time.powered && decide (m.ev.opSaved + 60 ≤ m.ev.opSec) then { m with ev.opSaved := m.ev.opSec } else m

/-- The strike's share: a second of operating time each 100,000 strikes, and the frozen recorder's idle time (R527,
R531). -/
def Mach.tickRecorder (m : Mach) : Mach :=
  let wrap := decide (99999 ≤ m.ev.opTick)
  { m with
    ev.opTick := if wrap then 0 else m.ev.opTick + 1
    ev.opSec := if wrap then m.ev.opSec + 1 else m.ev.opSec
    ev.idle := if m.ev.frozen then m.ev.idle + 1 else m.ev.idle }

/-- FLASH_WRITE_FAIL (R533): the block is retired, code 1; beyond 5 % of the area, code 2 once per run. -/
def Mach.flashFail (m : Mach) : Mach :=
  let m : Mach := { m with ev.retired := m.ev.retired + 1 }.raise srcRecorder .corr 1
  if m.ev.retired * 20 > Config.flashBlocks + 1 ∧ !m.ev.retiredFault then
    { m with ev.retiredFault := true }.raise srcRecorder .severe 2
  else m

/-! ## The commands -/

/-- RECORDER_MOUNT. -/
def execRecorderMount (ok : Bool) (s : State) : Host.Outcome State Fault Refusal := s.on (fun m => m.mountRecorder ok)

/-- EVENT_RECORD_STORE. -/
def execEventRecordStore (s : State) : Host.Outcome State Fault Refusal := s.on Mach.storeRecord

/-- FREEZE_EFFECT. -/
def execFreezeEffect (s : State) : Host.Outcome State Fault Refusal := s.on Mach.freezeEffect

/-- AUTO_THAW. -/
def execAutoThaw (s : State) : Host.Outcome State Fault Refusal := s.on Mach.autoThaw

/-- OPERATING_TIME_SAVE. -/
def execOperatingTimeSave (s : State) : Host.Outcome State Fault Refusal := s.on Mach.saveOpSec

/-- FLASH_WRITE_FAIL. -/
def execFlashWriteFail (s : State) : Host.Outcome State Fault Refusal := s.on Mach.flashFail

end Sys2Proof.Machine
end

