-- ==== Sys2Proof/Machine/Spdm.lean ====
section
/-! DEFINITION. SPDM over the port's DOE mailbox (R509–R513). The message layouts are those of DSP0274, which the spec
names and does not print (PRESUMED, notes/assumptions/20). -/

namespace Sys2Proof.Machine

/-- A message: version, code, two parameters, payload. -/
def spdmMsg (version code p1 p2 : Nat) (payload : List Byte) : List Byte :=
  leBytes 1 version ++ leBytes 1 code ++ leBytes 1 p1 ++ leBytes 1 p2 ++ payload

/-- The bytes of a request with its code. -/
def reqBytes (r : SpdmReq) (code : Nat) : List Byte := spdmMsg r.version code r.param1 r.param2 r.body

/-- A response leaves. -/
def Mach.spdmSend (m : Mach) (bs : List Byte) : Mach := { m with id.response := bs }

/-- An ERROR response; an error ends nothing but what its caller says. -/
def Mach.spdmError (m : Mach) (version code data : Nat) : Mach := m.spdmSend (spdmMsg version 0x7F code data [])

/-- The connection ends (R511, R513). -/
def Mach.spdmEnd (m : Mach) : Mach :=
  { m with
    id.spdm := .start
    id.vca := []
    id.transcript := []
    id.mTranscript := [] }

/-- `n` fresh words as bytes: a nonce. -/
def Mach.nonce (m : Mach) : Nat → List Byte × Mach
  | 0 => ([], m)
  | n + 1 =>
    let t := m.take
    let r := t.2.nonce n
    (wordBytes t.1 ++ r.1, r.2)

/-- The certificate chain of slot 0 (R505, R511). -/
def Mach.chain (m : Mach) : List Byte := Config.certChain m.id.serial

/-- Whether a later request fits the connection: its phase reached and its version the negotiated one. -/
def Mach.spdmFits (m : Mach) (r : SpdmReq) (phase : SpdmPhase) : Bool :=
  decide (m.id.spdm = phase) && r.version == m.id.spdmVer

/-- The requests a wrong phase or version answers: UnexpectedRequest or VersionMismatch. -/
def Mach.spdmUnfit (m : Mach) (r : SpdmReq) (phase : SpdmPhase) : Mach :=
  if m.id.spdm ≠ phase then m.spdmError r.version 0x04 0 else m.spdmError r.version 0x41 0

/-- The mailbox answers only over a trained link of a powered module. -/
def Mach.doe (m : Mach) (f : Mach → Mach) : Mach := if m.time.powered && m.cxl.linkUp then f m else m

/-- GET_VERSION (R510): versions 1.2 and 1.3; the connection starts anew. -/
def Mach.spdmVersion (m : Mach) (r : SpdmReq) : Mach :=
  if r.version ≠ 0x10 then m.spdmError 0x10 0x41 0
  else
    let resp := spdmMsg 0x10 0x04 0 0 ([0, 2] ++ leBytes 2 0x1200 ++ leBytes 2 0x1300)
    let m := m.spdmEnd
    { m with
      id.spdm := .version
      id.vca := reqBytes r 0x84 ++ resp }.spdmSend resp

/-- GET_CAPABILITIES (R511): CERT_CAP, CHAL_CAP, MEAS_CAP signed; CTExponent 17. -/
def Mach.spdmCapabilities (m : Mach) (r : SpdmReq) : Mach :=
  if m.id.spdm ≠ .version then m.spdmError r.version 0x04 0
  else if r.version ≠ 0x12 ∧ r.version ≠ 0x13 then m.spdmError 0x10 0x41 0
  else
    let resp := spdmMsg r.version 0x61 0 0 ([0, 17] ++ leBytes 2 0 ++ leBytes 4 0x16 ++ Config.spdmSizes)
    { m with
      id.spdm := .capabilities
      id.spdmVer := r.version
      id.vca := m.id.vca ++ reqBytes r 0xE1 ++ resp }.spdmSend resp

/-- Whether NEGOTIATE_ALGORITHMS offers SHA3-256 and the ML-DSA-44 entry of R511. -/
def algorithmsCommon (body : List Byte) : Bool :=
  let hash := leNat ((body.drop 8).take 4)
  let n := (body.getD 24 0).toNat
  let entries := (List.range n).map (fun i => (body.drop (28 + 4 * i)).take 4)
  hash.testBit 3 && entries.any (fun e => decide (e = [0x04, 0x00, 0x44, 0x00]))

/-- NEGOTIATE_ALGORITHMS (R511): without a common algorithm the connection ends. -/
def Mach.spdmNegotiate (m : Mach) (r : SpdmReq) : Mach :=
  if !m.spdmFits r .capabilities then m.spdmUnfit r .capabilities
  else if !algorithmsCommon r.body then (m.spdmError r.version 0x07 0xE3).spdmEnd
  else
    let resp := spdmMsg r.version 0x63 0 0
      (leBytes 2 40 ++ [1, 0] ++ leBytes 4 0x10 ++ leBytes 4 0 ++ leBytes 4 8 ++ leBytes 12 0 ++ [1, 0] ++ leBytes 2 0
        ++ [0x04, 0x00, 0x44, 0x00])
    let vca := m.id.vca ++ reqBytes r 0xE3 ++ resp
    { m with
      id.spdm := .negotiated
      id.vca := vca
      id.transcript := vca
      id.mTranscript := vca }.spdmSend resp

/-- GET_DIGESTS (R510): slot 0 only. -/
def Mach.spdmDigests (m : Mach) (r : SpdmReq) : Mach :=
  if !m.spdmFits r .negotiated then m.spdmUnfit r .negotiated
  else
    let resp := spdmMsg r.version 0x01 0 1 (sha3_256 m.chain)
    { m with id.transcript := m.id.transcript ++ reqBytes r 0x81 ++ resp }.spdmSend resp

/-- GET_CERTIFICATE (R512): a portion of the chain of slot 0. -/
def Mach.spdmCertificate (m : Mach) (r : SpdmReq) : Mach :=
  if !m.spdmFits r .negotiated then m.spdmUnfit r .negotiated
  else if !m.id.certOk then m.spdmError r.version 0x05 0
  else
    let off := leNat (r.body.take 2)
    let want := leNat ((r.body.drop 2).take 2)
    if r.param1 ≠ 0 ∨ m.chain.length ≤ off then m.spdmError r.version 0x01 0
    else
      let part := (m.chain.drop off).take want
      let resp := spdmMsg r.version 0x02 0 0
        (leBytes 2 part.length ++ leBytes 2 (m.chain.length - off - part.length) ++ part)
      { m with id.transcript := m.id.transcript ++ reqBytes r 0x82 ++ resp }.spdmSend resp

/-- The value of a measurement (R509): its DMTF type and its bytes; types 0x05 and 0x07 are raw bit streams. -/
def Mach.measurement (m : Mach) (i : Nat) : Option (Nat × List Byte) :=
  let digest (p : SlotPair) (k : Nat) : List Byte := match p.running with
    | some img => img.digest
    | none => Config.absentDigest k
  let svn (p : SlotPair) : List Byte := [BitVec.ofNat 8 ((p.running.map (·.svn)).getD 0), BitVec.ofNat 8 p.floor]
  match i with
  | 1 => some (0x00, Config.romDigest)
  | 2 => some (0x01, digest m.id.tk 2)
  | 3 => some (0x07, svn m.id.tk)
  | 4 => some (0x01, digest m.id.app 4)
  | 5 => some (0x07, svn m.id.app)
  | 6 => some (0x02, if m.id.variantOk then sha3_256 m.id.variantBody else List.replicate 32 0)
  | 7 => some (0x05, [BitVec.ofNat 8 ((if m.fault.testMode then 1 else 0) + (if m.id.tk.trial then 2 else 0) +
      (if m.id.app.trial then 4 else 0))])
  | _ => none

/-- A measurement block. -/
def measBlock (i : Nat) (x : Nat × List Byte) : List Byte :=
  let ty := if x.1 = 0x05 ∨ x.1 = 0x07 then x.1 + 0x80 else x.1
  leBytes 1 i ++ [1] ++ leBytes 2 (3 + x.2.length) ++ leBytes 1 ty ++ leBytes 2 x.2.length ++ x.2

/-- The blocks of a list of indices. -/
def Mach.measBlocks (m : Mach) : List Nat → List Byte
  | [] => []
  | i :: is => ((m.measurement i).map (measBlock i)).getD [] ++ m.measBlocks is

/-- The text that DSP0274 puts before a signed hash: the version prefix four times, zeros, the context. -/
def signPrefix (version : Nat) (context : String) : List Byte :=
  let ascii (t : String) : List Byte := t.toList.map (fun ch => BitVec.ofNat 8 ch.toNat)
  let v := ascii (if version = 0x13 then "dmtf-spdm-v1.3.*" else "dmtf-spdm-v1.2.*")
  let ctx := ascii context
  v ++ v ++ v ++ v ++ List.replicate (36 - ctx.length) 0 ++ ctx

/-- The device's signature over a transcript (R512). -/
def Mach.spdmSign (m : Mach) (version : Nat) (context : String) (transcript : List Byte) : List Byte :=
  Config.mlDsaSign m.id.serial (signPrefix version context ++ sha3_256 transcript)

/-- The RequesterContext that version 1.3 repeats. -/
def reqContext (r : SpdmReq) (skip : Nat) : List Byte := if r.version = 0x13 then (r.body.drop skip).take 8 else []

/-- CHALLENGE (R512): CHALLENGE_AUTH over the whole transcript. -/
def Mach.spdmChallenge (m : Mach) (r : SpdmReq) : Mach :=
  if !m.spdmFits r .negotiated then m.spdmUnfit r .negotiated
  else if !m.id.certOk then m.spdmError r.version 0x05 0
  else if r.param1 ≠ 0 then m.spdmError r.version 0x01 0
  else
    let n := m.nonce 8
    let m := n.2
    let summary := if r.param2 = 0 then [] else
      sha3_256 (m.measBlocks (if r.param2 = 1 then [1, 2] else [1, 2, 3, 4, 5, 6, 7]))
    let body := spdmMsg r.version 0x03 0 1 (sha3_256 m.chain ++ n.1 ++ summary ++ leBytes 2 0 ++ reqContext r 32)
    let t := m.id.transcript ++ reqBytes r 0x83 ++ body
    let resp := body ++ m.spdmSign r.version "responder-challenge_auth signing" t
    { m with id.transcript := m.id.vca }.spdmSend resp

/-- GET_MEASUREMENTS (R509, R512): operation 0 the number, 255 all, else one index; attribute bit 0 asks a signature. -/
def Mach.spdmMeasurements (m : Mach) (r : SpdmReq) : Mach :=
  if !m.spdmFits r .negotiated then m.spdmUnfit r .negotiated
  else
    let signed := r.param1 % 2 = 1
    let op := r.param2
    if signed ∧ m.id.certOk = false then m.spdmError r.version 0x05 0
    else if op ≠ 0 ∧ op ≠ 255 ∧ (m.measurement op).isNone then m.spdmError r.version 0x01 0
    else
      let ids := if op = 0 then [] else if op = 255 then [1, 2, 3, 4, 5, 6, 7] else [op]
      let n := m.nonce 8
      let m := n.2
      let rec_ := m.measBlocks ids
      let body := spdmMsg r.version 0x60 (if op = 0 then 7 else 0) 0
        (leBytes 1 ids.length ++ leBytes 3 rec_.length ++ rec_ ++ n.1 ++ leBytes 2 0 ++
          reqContext r (if signed then 33 else 0))
      let t := m.id.mTranscript ++ reqBytes r 0xE0 ++ body
      if signed then
        { m with id.mTranscript := m.id.vca }.spdmSend (body ++ m.spdmSign r.version "responder-measurements signing" t)
      else { m with id.mTranscript := t }.spdmSend body

/-! ## The commands -/

/-- GET_VERSION. -/
def execGetVersion (r : SpdmReq) (s : State) : Host.Outcome State Fault Refusal :=
  s.on (fun m => m.doe (fun m => m.spdmVersion r))

/-- GET_CAPABILITIES. -/
def execGetCapabilities (r : SpdmReq) (s : State) : Host.Outcome State Fault Refusal :=
  s.on (fun m => m.doe (fun m => m.spdmCapabilities r))

/-- NEGOTIATE_ALGORITHMS. -/
def execNegotiateAlgorithms (r : SpdmReq) (s : State) : Host.Outcome State Fault Refusal :=
  s.on (fun m => m.doe (fun m => m.spdmNegotiate r))

/-- GET_DIGESTS. -/
def execGetDigests (r : SpdmReq) (s : State) : Host.Outcome State Fault Refusal :=
  s.on (fun m => m.doe (fun m => m.spdmDigests r))

/-- GET_CERTIFICATE. -/
def execGetCertificate (r : SpdmReq) (s : State) : Host.Outcome State Fault Refusal :=
  s.on (fun m => m.doe (fun m => m.spdmCertificate r))

/-- CHALLENGE. -/
def execChallenge (r : SpdmReq) (s : State) : Host.Outcome State Fault Refusal :=
  s.on (fun m => m.doe (fun m => m.spdmChallenge r))

/-- GET_MEASUREMENTS. -/
def execGetMeasurements (r : SpdmReq) (s : State) : Host.Outcome State Fault Refusal :=
  s.on (fun m => m.doe (fun m => m.spdmMeasurements r))

/-- SPDM_UNSUPPORTED_REQUEST (R510): any other request is answered with ERROR UnsupportedRequest. -/
def execSpdmUnsupportedRequest (code : Nat) (r : SpdmReq) (s : State) : Host.Outcome State Fault Refusal :=
  s.on (fun m => m.doe (fun m =>
    if code ∈ [0x81, 0x82, 0x83, 0x84, 0xE0, 0xE1, 0xE3] then m else m.spdmError r.version 0x07 code))

end Sys2Proof.Machine
end

