-- ==== Sys2Proof/Machine/Bringup.lean ====
section
/-! DEFINITION. Power-good, bring-up and resets (R3, R25, R67, R68, R96, R192, R216, R326, R493, R504–R508, R515–R517, R524,
R534, R537, R556). -/

namespace Sys2Proof.Machine

/-! ## What the trusted kernel loads -/

/-- `cfg_sum`'s difference from its value over the reset values, from the words as they stand (R436). -/
def Mach.sumDelta (m : Mach) : DWord :=
  m.regs.foldl (fun d x => match Reg.ofAddr x.1 with
    | some r => if r.stMask = 0 then d else d ^^^ sumTerm x.1 r.reset ^^^ sumTerm x.1 (m.rd r)
    | none => d) 0

/-- A region window loaded: class, number, base, size in bytes, permission to write (R493, R501). -/
def Mach.loadWindow (m : Mach) (q w base size : Nat) (write : Bool) : Mach :=
  let m := m.setSt (.cxRwBaseLo q w) (BitVec.ofNat 32 (base / 0x10000 % 0x10000 * 0x10000) ||| flag true 0 ||| flag write 1)
  let m := m.setSt (.cxRwBaseHi q w) (BitVec.ofNat 32 (base / 0x100000000))
  m.setSt (.cxRwSize q w) (BitVec.ofNat 32 (size / 0x10000))

/-- The top of the enabled LPDDR5 stacks, from their base. -/
def SysSt.dramSpan (y : SysSt) : Nat := (bitsOf 8 y.stks).foldl (fun a s => max a ((s + 1) * stackSize)) 0

/-- The windows of R493. -/
def Mach.loadWindows (m : Mach) : Mach :=
  let dram := m.sys.dramSpan
  let m := (m.loadWindow 0 0 0 regSize true).loadWindow 0 1 sramBase sramSize true
  let m := (m.loadWindow 0 3 hostBase hostBase true).loadWindow 0 4 peerBase 0x3000000 false
  let m := (m.loadWindow 1 0 sramBase sramSize true).loadWindow 1 1 peerBase 0x3000000 false
  let m := (m.loadWindow 2 0 0 (sramBase + sramSize) true).loadWindow 2 2 hostBase hostBase true
  if dram = 0 then m else (m.loadWindow 0 2 dramBase dram true).loadWindow 2 1 dramBase dram true

/-- `SY_FUNC_EN` without the fields of absent units, the host window, the policy of a module without an anvil, and the windows (R25,
R96, R493, R524 step 2). -/
def Mach.loadInitial (m : Mach) : Mach :=
  let off := (if m.sys.tiles = 0 then 0xC else 0) ||| (if m.sys.train then 0 else 0x10) ||| (if m.sys.links = 0 then 0x40 else 0)
  let m := m.setSt .syFuncEn (BitVec.ofNat 32 (0x1FF - off))
  let m := (m.setSt .cxHostwin 1).loadWindows
  if m.sys.tiles = 0 then m.setSt .bdPolicy 1 else m

/-- The anvil tiles, stacks, links and flags of R1 for a variant code. -/
def variantUnits : Nat → Option (Nat × Nat × Nat × Bool × Bool × Bool)
  | 0 => some (64, 8, 48, true, true, true)
  | 1 => some (48, 4, 24, false, false, true)
  | 2 => some (0, 0, 8, false, false, false)
  | _ => none

/-- Whether a variant record is valid (R507, R508): magic and version, the signature, the serial, reserved fields 0, and the
grants of R1 for its variant. -/
def recordValid (body sig : List Byte) (serial : Nat) : Bool :=
  let w1 := BitVec.ofNat 32 (word32At body 4)
  let w6 := BitVec.ofNat 32 (word32At body 0x18)
  let tiles := dwordAt body 0x10
  Config.mlDsaVerify 0 body sig && decide (body.length = 64) && word32At body 0 == 0x56524543 && field w1 7 0 == 1
    && field w1 31 10 == 0 && dwordAt body 8 == serial && field w6 31 19 == 0 && field w6 15 14 == 0
    && (body.drop 0x1C).all (fun b => b == 0)
    && (match variantUnits (field w1 9 8) with
        | none => false
        | some u => popcount 64 tiles == u.1 && popcount 8 (field w6 7 0) == u.2.1 && field w6 13 8 == u.2.2.1
            && bit w6 16 == u.2.2.2.1 && bit w6 17 == u.2.2.2.2.1 && bit w6 18 == u.2.2.2.2.2)

/-- The name of a unit in the fault of R3: kind in bits 10:8 (1 tile, 2 stack, 3 link, 4 training unit, 5 lock-step port), index in
bits 23:16. R3 asks that each unit be named and gives no encoding (DESIGN CHOICE, notes/assumptions/63). -/
def unitName (kind i : Nat) : Nat := i * 0x10000 + kind * 0x100

/-- The units on which a record and the population disagree (R3). Links are a number in the record: the disagreement is on those
from the smaller number up. -/
def disagreements (p : PowerInputs) (tiles stks links : Nat) (train lockstep : Bool) : List Nat :=
  (bitsOf 64 (tiles ^^^ p.popTiles)).map (unitName 1) ++ (bitsOf 8 (stks ^^^ p.popStacks)).map (unitName 2)
    ++ ((List.range (max links p.popLinks)).filter (fun i => decide (min links p.popLinks ≤ i))).map (unitName 3)
    ++ (if train = p.popTrain then [] else [unitName 4 0]) ++ (if lockstep = p.popLockstep then [] else [unitName 5 0])

/-- What a valid record and the population enable (R3), with the units on which they disagree. -/
def grantUnits (p : PowerInputs) (y : SysSt) : SysSt :=
  let w1 := BitVec.ofNat 32 (word32At p.record 4)
  let w6 := BitVec.ofNat 32 (word32At p.record 0x18)
  let tiles := dwordAt p.record 0x10
  let stks := field w6 7 0
  let links := field w6 13 8
  { y with
    variant := field w1 9 8
    tiles := tiles &&& p.popTiles
    stks := stks &&& p.popStacks
    links := min links p.popLinks
    train := bit w6 16 && p.popTrain
    lockstep := bit w6 17 && p.popLockstep
    master := bit w6 18
    capDiff := disagreements p tiles stks links (bit w6 16) (bit w6 17) }

/-! ## A start (R524 steps 1, 2 and 4) -/

/-- STRAP_READ (R326, R547): bits 14–4 rack, 3–2 shelf, 1 side, 0 parity; the position, and a SEVERE fault on an even count. -/
def Mach.readStraps (m : Mach) : Mach :=
  let s := m.sys.straps
  let ok := popcount 15 s % 2 == 1
  let m : Mach := { m with
    sys.strapOk := ok
    sys.position := s / 16 % 2048 * 32 + s / 4 % 4 * 2 + s / 2 % 2
    pair.side := s.testBit 1 }
  if ok then m else m.raise srcHall .severe 0xFFFF

/-- PUF_KEY_DERIVATION (R504, R506): the keys, and a SEVERE fault where the certificate is unreadable or does not match. -/
def Mach.deriveKeys (m : Mach) (puf cert : Bool) : Mach :=
  let seed := shake256 32 ("WS96-DEVID".toList.map (fun c => BitVec.ofNat 8 c.toNat) ++ leBytes 8 m.id.serial)
  let m : Mach := { m with
    id.pufOk := puf
    id.certOk := puf && cert
    id.publicKey := if puf then Config.mlDsaPublicKey seed else []
    id.flashKey := if puf then shake256 32 ("WS96-FLASH".toList.map (fun c => BitVec.ofNat 8 c.toNat) ++ Config.pufSecret m.id.serial)
      else [] }
  if puf && cert then m else m.raise srcKernel .severe 0

/-- CAP_VALID_SET (R7, R192): the capabilities, the initial configuration and zeroed SRAM; each unit on
which record and population disagree has its SEVERE record (R3). -/
def Mach.setCaps (m : Mach) : Mach :=
  let m := m.loadInitial
  let m : Mach := { m with sys.capValid := true }
  m.sys.capDiff.foldl (fun m u => m.raise srcKernel .severe (BitVec.ofNat 32 u)) m

/-- The trusted kernel's part of a start: its image, the variant record, the capabilities, and the application image (R508, R515,
R524). A staged kernel image starts to run at any such start, a staged application image at a reset only (R517). Without a kernel image nothing
else starts. -/
def Mach.startKernel (m : Mach) (reset : Bool) : Mach :=
  let m := m.bootKind false true
  if m.id.tk.running.isNone then m
  else
    let m : Mach := { m with id.tkRun := true }
    let m := if m.id.variantOk then m.setCaps else m.raise srcKernel .severe 0
    let m := m.bootKind true reset
    { m with id.appRun := m.id.app.running.isSome }.updAfterStart

/-! ## POWER_GOOD -/

/-- A slot pair that manufacture filled: an empty flash takes the image it was given. -/
def SlotPair.factory (p : SlotPair) (i : Option Image) : SlotPair :=
  if p.slot0.isNone && p.slot1.isNone then { p with slot0 := i } else p

/-- POWER_GOOD (R524, R537): only with the lever latched and a feed present, above 46.0 V (R448). The counter runs from 0, the
recorder resumes its counts from flash (R527). -/
def Mach.powerUp (m : Mach) (p : PowerInputs) : Mach :=
  let a := decide (184 < p.feedA)
  let b := decide (184 < p.feedB)
  if m.time.powered || !p.leverLatched || !(a || b) then m
  else
    let m : Mach := { m with
      time.powered := true
      sys.straps := p.straps
      sys.leverLatched := true
      pair.feedA := a
      pair.feedB := b
      pair.voltA := p.feedA
      pair.voltB := p.feedB
      ev.opSec := m.ev.opSaved
      ev.lastDownSec := m.ev.opSaved
      id.serial := p.certSerial
      id.tk := m.id.tk.factory p.tkImage
      id.app := m.id.app.factory p.appImage
      id.variantOk := recordValid p.record p.signature p.certSerial
      id.variantBody := p.record }
    let m : Mach := if m.id.variantOk then { m with sys := grantUnits p m.sys } else m
    (m.readStraps.deriveKeys p.pufOk p.certReadable).startKernel false

/-! ## The saved configuration (R524) -/

/-- CONFIG_SAVE (R524): the applied value of every word with an ST field goes to the older of two copies, with the count of the
last applied commit; words at their reset value are left unlisted. -/
def Mach.saveConfig (m : Mach) : Mach :=
  match m.sys.savePending with
  | none => m
  | some n =>
    if !m.id.appRun then m
    else
      let ws := m.regs.filterMap (fun x => match Reg.ofAddr x.1 with
        | some r => if r.stMask = 0 then none else some (x.1, m.rd r)
        | none => none)
      { m with sys.savePending := none, sys.saved := (⟨n, ws, true⟩ :: m.sys.saved).take 2 }

/-- The copy with the higher applying count among those whose CRC matches. -/
def newestCopy : List SavedCfg → Option SavedCfg
  | [] => none
  | c :: cs => match newestCopy cs with
    | none => if c.crcOk then some c else none
    | some d => if c.crcOk && decide (d.count ≤ c.count) then some c else some d

/-- The words a saved copy sets: those it lists, and the reset value of every other word with an ST field that differs from it. -/
def Mach.loadWords (m : Mach) (c : SavedCfg) : List Staged :=
  let listed := c.words.map (·.1)
  let others := m.regs.filterMap (fun x => match Reg.ofAddr x.1 with
    | some r => if r.stMask = 0 || listed.contains x.1 then none else some (x.1, r.reset)
    | none => none)
  (c.words ++ others).map (fun x => ⟨x.1, x.2, m.rdAddr x.1⟩)

/-- The plan of the flash placed in the buffer that the configuration names (R327). -/
def Mach.placePlan (m : Mach) (sel : Nat) : Mach :=
  match m.hall.planSaved with
  | none => m
  | some p => { m with hall.bufs := m.hall.bufs.set sel (some p), hall.bufState := 2 }

/-- The end of a bring-up load that applied nothing (R524). -/
def Mach.loadFails (m : Mach) : Mach :=
  { m with sys.cfgLoaded := true, sys.cfgFailed := true }.raise srcFirmware .severe 0

/-- BRINGUP_LOAD (R524): the newest good copy, validated without the base check and applied at one strike; else cfg_failed. The
plan from flash becomes active then. A load that ends after the time limit applies nothing but the plan, whose step follows it. -/
def Mach.bringupLoad (m : Mach) : Mach :=
  if !m.sys.capValid || !m.id.appRun then m
  else if m.sys.cfgLoaded then
    if m.sys.loadLate then
      let m : Mach := { m with sys.loadLate := false }
      let m := m.placePlan m.planBuf
      m.applyPlan m.planBuf
    else m
  else match newestCopy m.sys.saved with
    | none => let m := m.loadFails.placePlan m.planBuf; m.applyPlan m.planBuf
    | some c =>
      let ws := m.loadWords c
      let n := m.placePlan ((m.overlay ws).planBuf)
      match n.validate ws .fw false with
      | some _ => let m := m.loadFails.placePlan m.planBuf; m.applyPlan m.planBuf
      | none =>
        let old := n
        let n := n.applyWords ws
        let n := ((n.applyLoops (old.applyEnables n) ws).applyUnits old ws)
        let n := n.applyPlan n.planBuf
        { n with sys.cfgLoaded := true }

/-- BRINGUP_LOAD_TIMEOUT (R524): no end of the load by 10,000 F. -/
def Mach.bringupTimeout (m : Mach) : Mach :=
  if m.sys.capValid && !m.sys.cfgLoaded && decide (10000 ≤ m.time.upFrames) then
    { m.loadFails with sys.loadLate := true } else m

/-! ## TILE_SELF_TEST (R186, R216) -/

/-- The self-test of the granted and populated tiles that are not marked; `failed` are those that do not pass. -/
def Mach.tileSelfTest (m : Mach) (failed : Nat) : Mach :=
  if !m.sys.capValid || m.sys.tiles == 0 || m.anvil.bist || m.phys.stopped then m
  else
    let marked := (m.rd .avTileFailLo).toNat ||| ((m.rd .avTileFailHi).toNat <<< 32)
    let fails := (bitsOf 64 m.sys.tiles).filter (fun t => marked.testBit t || failed.testBit t)
    let bad := natOfBits fails
    let good := natOfBits ((bitsOf 64 m.sys.tiles).filter (fun t => !fails.contains t))
    let m := (m.wr .avTileFailLo (BitVec.ofNat 32 bad)).wr .avTileFailHi (BitVec.ofNat 32 (bad / 4294967296))
    let m := (m.wr .avTileMapLo (BitVec.ofNat 32 good)).wr .avTileMapHi (BitVec.ofNat 32 (good / 4294967296))
    { m with anvil.bist := true, sys.keptTiles := 0 }

/-! ## Resets (R67, R68, R420, R513, R516, R517, R534, R556) -/

/-- Whether an address belongs to a register whose word an application reset keeps (R556): the `FC_`, `PR_`, `ID_` and `EV_` blocks,
the ring registers of I0 and I1, and the latched `SY_STRIKE_HI`. -/
def keptReg (a : Nat) : Bool :=
  a == Reg.addr .syStrikeHi ||
  (decide (0x20000 ≤ a) && decide (a < 0x60000)) || (decide (0x10600 ≤ a) && decide (a < 0x10680))

/-- What outlives every reset and power loss in the flash (R327, R514, R524, R527, R534). -/
def Mach.flashOnly (m : Mach) : Mach :=
  let r : Mach := Mach.reset
  { r with
    free := m.free
    nextOp := m.nextOp
    sys := { r.sys with saved := m.sys.saved }
    hall := { r.hall with planSaved := m.hall.planSaved }
    id := { r.id with serial := m.id.serial, tk := { m.id.tk with running := none }, app := { m.id.app with running := none } }
    ev := { r.ev with stored := m.ev.stored, nextSeq := m.ev.nextSeq, opSaved := m.ev.opSaved, opSec := m.ev.opSaved,
                      pwrCyc := m.ev.pwrCyc, retired := m.ev.retired, retiredFault := m.ev.retiredFault } }

/-- The stacks at a reset (R67, R213): untrained, and those that were out of service marked, so that their training is a return. -/
def Mach.stacksAtReset (m : Mach) : List StackSt :=
  Mach.reset.stks.mapIdx (fun s x =>
    let old := m.stackSt s
    { x with wasOut := decide (old.outBy ≠ 0) || (old.wasOut && !old.inService) })

/-- A full reset (R67, R556): every register at its reset value, the island too, and the start of R524. The straps, feeds and
population are as they were, and the operating time goes on (R534). -/
def Mach.fullReset (m : Mach) : Mach :=
  let r := m.flashOnly
  let y := m.sys
  let r : Mach := { r with
    time.powered := true
    sys := { r.sys with variant := y.variant, tiles := y.tiles, stks := y.stks, links := y.links, train := y.train,
                        lockstep := y.lockstep, master := y.master, capDiff := y.capDiff, straps := y.straps,
                        leverLatched := y.leverLatched }
    id.variantOk := m.id.variantOk
    id.variantBody := m.id.variantBody
    ev.fromReset := true
    ev.opSec := m.ev.opSec
    ev.opTick := m.ev.opTick
    stks := m.stacksAtReset
    pair := { r.pair with feedA := m.pair.feedA, feedB := m.pair.feedB, voltA := m.pair.voltA, voltB := m.pair.voltB }
    bel.brakeNet := m.bel.brakeNet }
  (r.readStraps.deriveKeys m.id.pufOk m.id.certOk).startKernel true

/-- The state an application reset leaves before the trusted kernel loads the configuration anew: the island's state stays, all
else returns to power-good (R67, R68, R395, R420, R556). -/
def Mach.appCleared (m : Mach) : Mach :=
  let r : Mach := Mach.reset
  let ready := (m.rd .syReady) &&& flag true 8
  let changed := m.rd .syReady ^^^ ready
  let t : Mach := { r with
    regs := m.regs.filter (fun x => keptReg x.1)
    mem := m.mem.filter (fun x => decide (mailBase ≤ x.1) && decide (x.1 < mailBase + 0x10000))
    stks := m.stacksAtReset
    free := m.free
    nextOp := m.nextOp
    sys := { m.sys with cfgLoaded := false, cfgFailed := false, loadLate := false, savePending := none, readyAge := r.sys.readyAge, limitDone := 0,
                        modReset := none, keptTiles := m.tilesShown, keptStks := m.stksShown, keptLinks := m.linksShown }
    time := { m.time with upFrames := 0, state := .free, offset := 0, sfSince := 255, inDomain := false, adoptDelta := none }
    rings := m.rings.mapIdx (fun n x => if n < 8 then { RingSt.reset with epoch := x.epoch + 1 } else x)
    fault := { m.fault with active := m.fault.active.filter (fun p => !(decide (p.2 = .fatal) && (List.range 4).any (fun n => srcPort n == p.1))) }
    ev := m.ev
    pair := { m.pair with suspect := false, aligned := false, alignRecv := none, alignPending := [], alignSend := none,
                          alignReq := false, standbyReady := false }
    id := m.id
    hall := { r.hall with planSaved := m.hall.planSaved }
    bel := { r.bel with brakeNet := m.bel.brakeNet } }
  let t := (t.wr .syReady ready).wr .syReadyChg (m.rd .syReadyChg ||| changed)
  { t with pair.cfgDelta := t.sumDelta }

/-- An application reset is a further reset for a trusted kernel in trial (R517): without a COMMIT the boot record returns to the
previous image, which the trusted kernel's next start runs. -/
def Mach.kernelTrialEnds (m : Mach) : Mach := if m.id.tk.trial then m.trialReverts false else m

/-- An application reset (R67, R68, R556): the application image starts anew, the cell ring's pairs fall back to no fault, an update action in BUSY ends, the SPDM connection and
test mode end, and the trusted kernel loads its initial configuration. -/
def Mach.appReset (m : Mach) : Mach :=
  let before := m.rd .syReady
  let t := m.appCleared.endTestMode.spdmEnd.kernelTrialEnds
  let t := if t.sys.capValid then t.loadInitial else t
  let t := t.bootKind true true
  let t := { t with id.appRun := t.id.app.running.isSome }.updAfterStart
  if before = t.rd .syReady then t else t.emit evReadiness .info [before, t.rd .syReady, t.cap1, 0]

/-- RESET_EXECUTE (R67): the reset at the second strike after ST_OK. -/
def Mach.resetExecute (m : Mach) : Mach :=
  match m.sys.modReset with
  | some r => if r.resetAt.any (fun n => decide (n ≤ m.time.count)) then (if r.full then m.fullReset else m.appReset) else m
  | none => m

/-- HOLD_UP_END (R448, R534): at least 10 F after dying set, the module loses power; only the flash keeps anything. -/
def Mach.holdUpEnd (m : Mach) : Mach :=
  if m.time.powered && m.pair.dying && decide (10 ≤ m.pair.dyingFrames) then m.flashOnly else m

/-! ## The commands -/

/-- POWER_GOOD. -/
def execPowerGood (p : PowerInputs) (s : State) : Host.Outcome State Fault Refusal := s.on (fun m => m.powerUp p)

/-- BRINGUP_LOAD. -/
def execBringupLoad (s : State) : Host.Outcome State Fault Refusal := s.on Mach.bringupLoad

/-- BRINGUP_LOAD_TIMEOUT. -/
def execBringupLoadTimeout (s : State) : Host.Outcome State Fault Refusal := s.on Mach.bringupTimeout

/-- CONFIG_SAVE. -/
def execConfigSave (s : State) : Host.Outcome State Fault Refusal := s.on Mach.saveConfig

/-- TILE_SELF_TEST. -/
def execTileSelfTest (failed : Nat) (s : State) : Host.Outcome State Fault Refusal := s.on (fun m => m.tileSelfTest failed)

/-- RESET_EXECUTE. -/
def execResetExecute (s : State) : Host.Outcome State Fault Refusal := s.on Mach.resetExecute

/-- HOLD_UP_END. -/
def execHoldUpEnd (s : State) : Host.Outcome State Fault Refusal := s.on Mach.holdUpEnd

end Sys2Proof.Machine
end

