-- ==== Sys2Proof/Machine/MemEvents.lean ====
section
/-! DEFINITION. Events of SRAM and LPDDR5 (R192, R209–R213, R51): errors found by reads and by the patrol scrubber, the
counting windows, and the service of the stacks. -/

namespace Sys2Proof.Machine

/-- What holds a line that the patrol scrubber reads: SRAM, or a stack in service below its watermark (R212). -/
def Mach.scrubHome (m : Mach) (line : Nat) : Option (Option Nat) :=
  match m.space line with
  | .sram _ => some none
  | .stack s off => if (m.stackSt s).inService && decide (off < (m.stackSt s).watermark) then some (some s) else none
  | _ => none

/-- The 65 information symbols of a line (R208): its bytes, then the metadata with the poison bit. -/
def Mach.lineInfo (m : Mach) (line : Nat) : List Byte :=
  m.bytes line 64 ++ [if m.poison.contains line then 1 else 0]

/-- The differences of a line's stored symbols from its code word. -/
def Mach.flawOf (m : Mach) (line : Nat) : List (Nat × Byte) := (m.flawed.find? (fun x => x.1 == line)).elim [] (·.2)

/-- The 68 symbols as they are read: the line's code word, with the differences it held and those that came (R208). -/
def Mach.symbolsRead (m : Mach) (line : Nat) (errs : List (Nat × Byte)) : List Byte :=
  let info := m.lineInfo line
  addErrors (addErrors (info ++ checkSymbols info) (m.flawOf line)) errs

/-- The line as its symbols give it: 64 bytes and the poison bit. -/
def Mach.putSymbols (m : Mach) (line : Nat) (syms : List Byte) : Mach :=
  let m : Mach := { m.setBytes line (syms.take 64) with flawed := m.flawed.filter (fun x => x.1 != line) }
  { m with poison := if (syms.getD 64 0).getLsbD 0 then addOnce m.poison line else m.poison.filter (fun l => l != line) }

/-- A stack changed. -/
def Mach.setStack (m : Mach) (s : Nat) (f : StackSt → StackSt) : Mach := { m with stks := m.stks.modify s f }

/-- Bytes of an SRAM slice (R187): 64 slices. -/
abbrev sliceBytes : Nat := 0x800000

/-- A corrected error: counted in its register and in the window (R209, R213). -/
def Mach.countCorrected (m : Mach) (home : Option Nat) (line symbol : Nat) : Mach :=
  let m := m.eccLast line 1 symbol
  match home with
  | none =>
    let m : Mach := m.bump .avEccCeSram 31 0 1
    { m with anvil.sliceCe := m.anvil.sliceCe.modify ((line - sramBase) / sliceBytes) (fun n => n + 1) }
  | some s => (m.bump (.avEccCeDram s) 31 0 1).setStack s (fun x => { x with winCe := x.winCe + 1 })

/-- One symbol in error: the corrected line is written back, and the error is counted (R209). -/
def Mach.corrected (m : Mach) (home : Option Nat) (line : Nat) (syms : List Byte) (symbol : Nat) (diff : Byte) : Mach :=
  (m.putSymbols line (addErrors syms [(symbol, diff)])).countCorrected home line symbol

/-- A training cycle that reads a poisoned line sets poison_read and ends without a generation (R211, R286): it works on the active
bank, the training state and the history ring. -/
def Mach.trainMeets (m : Mach) (line : Nat) : Mach :=
  if m.poisoned line && (touchesBanks line 64 || touchesHistory line 64) && m.fc.train.any (fun t => t.cycle.isSome) then
    m.poisonCycle
  else m

/-- ECC_READ_ERROR (R209): a read of a line whose symbols differ as named from what was stored. An uncorrectable pattern stays in the
line, which is delivered poisoned at every read. -/
def Mach.eccRead (m : Mach) (addr : Nat) (errs : List (Nat × Byte)) : Mach :=
  let line := 64 * (addr / 64)
  match m.lineHome line with
  | none => m
  | some home =>
    let syms := m.symbolsRead line errs
    match findingOf (syndromes syms) with
    | .good => m
    | .one k d => m.corrected home line syms k d
    | .bad =>
      let m : Mach := { m with flawed := (line, m.flawOf line ++ errs) :: m.flawed.filter (fun x => x.1 != line) }
      (m.uncorrectable home line 2).trainMeets line

/-- The last line that a scrub pass over the stacks reads (R212). -/
def Mach.lastScrubbed (m : Mach) : Option Nat :=
  (((List.range 8).filter (fun s => (m.stackSt s).inService && decide (64 ≤ (m.stackSt s).watermark))).getLast?).map
    (fun s => dramBase + s * stackSize + (m.stackSt s).watermark - 64)

/-- A completed scrub pass (R218); both counts wrap at 65,536. -/
def Mach.scrubPass (m : Mach) (home : Option Nat) (line : Nat) : Mach :=
  let old := m.rd .avScrubStat
  if home.isNone && line == sramBase + sramSize - 64 then
    m.wr .avScrubStat (setField old 31 16 (field old 31 16 + 1))
  else if home.isSome && m.lastScrubbed == some line then m.wr .avScrubStat (setField old 15 0 (field old 15 0 + 1))
  else m

/-- SCRUB_LINE (R212): the scrubber reads a line whose symbols differ as named. An uncorrectable line is rewritten with the data as
read, the poison bit set and fresh check symbols. -/
def Mach.scrub (m : Mach) (addr : Nat) (errs : List (Nat × Byte)) : Mach :=
  let line := 64 * (addr / 64)
  match m.scrubHome line with
  | none => m
  | some home =>
    let syms := m.symbolsRead line errs
    let m := match findingOf (syndromes syms) with
      | .good => m
      | .one k d => m.corrected home line syms k d
      | .bad => (((m.putSymbols line syms).poisonLine line).uncorrectable home line 3).trainMeets line
    m.scrubPass home line

/-- CE_WINDOW_END (R213): one CORR fault for each slice or stack that reached the threshold of the window. -/
def Mach.ceWindow (m : Mach) : Mach :=
  if m.time.count % 6000000 ≠ 0 then m
  else
    let t := m.anvil.ceThresh
    let m := (List.range 64).foldl (fun m i =>
      if t ≤ m.anvil.sliceCe.getD i 0 then
        m.raise srcSram .corr (BitVec.ofNat 32 (i * sliceBytes / 64)) else m) m
    let m := (List.range 8).foldl (fun m s => if t ≤ (m.stackSt s).winCe then m.raise (srcStack s) .corr 0 else m) m
    { m with
      anvil.sliceCe := List.replicate 64 0
      anvil.ceThresh := m.rdField .avEccCfg 31 16
      stks := m.stks.map (fun x => { x with winCe := 0 }) }

/-- STACK_OUT_OF_SERVICE (R213): training lost and one retraining failed, or above 105 °C. -/
def Mach.stackLeaves (m : Mach) (s : Nat) (hot : Bool) : Mach :=
  if (m.stackSt s).inService then
    (m.setStack s (fun x => { x with inService := false, trained := hot, outBy := if hot then 2 else 1, lastTry := m.time.count })).raise
      (srcStack s) .severe 0
  else m

/-- STACK_RETRAIN (R213, R522): the first training of a stack; every 60 s an attempt for one that left service, also before the last reset,
which returns with every line poisoned that nothing has written since; with stack 0 the optimizer state is lost (R273).
`cool` says that it reported 95 °C or less for 6,000,000 F. -/
def Mach.stackRetrain (m : Mach) (s : Nat) (ok cool : Bool) : Mach :=
  let x := m.stackSt s
  if !m.sys.stks.testBit s || x.inService then m
  else if x.outBy = 0 && !(x.wasOut && ok) then
    if ok then m.setStack s (fun x => { x with trained := true, inService := true })
    else m.setStack s (fun x => { x with outBy := 1, lastTry := m.time.count }) |>.raise (srcStack s) .severe 0
  else if x.outBy ≠ 0 ∧ (m.time.count < x.lastTry + 6000000 ∨ (x.outBy = 2 ∧ cool = false)) then m
  else if !ok then m.setStack s (fun x => { x with lastTry := m.time.count })
  else
    let lo := dramBase + s * stackSize
    let out := fun (l : Nat) => decide (l < lo) || decide (lo + stackSize ≤ l)
    let m : Mach := { m with poison := m.poison.filter out, cleanLines := m.cleanLines.filter out,
                             flawed := m.flawed.filter (fun x => out x.1)
                             fc.opt := if s = 0 then false else m.fc.opt }
    (m.setStack s (fun x =>
      { x with inService := true, trained := true, outBy := 0, wasOut := false, returned := true, watermark := 0 })).raise
      (srcStack s) .info 0

/-- WATERMARK_ADVANCE (R192, R213): the watermark of a stack rises; below it unwritten lines hold zeros, or, in a stack that
returned to service, poison. -/
def Mach.watermarkTo (m : Mach) (s top : Nat) : Mach :=
  let x := m.stackSt s
  if x.inService && decide (x.watermark < top) && decide (top ≤ stackSize) && top % 64 == 0 then
    m.setStack s (fun x => { x with watermark := top })
  else m

/-- STACK_HOT (R51, R218): a stack crosses 85 °C. -/
def Mach.stackHot (m : Mach) (s : Nat) (hot : Bool) : Mach :=
  if m.sys.stks.testBit s then m.setStack s (fun x => { x with hot := hot }) else m

/-- `AV_STACK_STAT` (R218). -/
def Mach.stackStat (m : Mach) : Word :=
  let mask := fun (p : StackSt → Bool) => natOfBits ((List.range 8).filter (fun s => p (m.stackSt s)))
  place (mask (fun x => x.hot)) 24 ||| place (mask (fun x => x.watermark == stackSize)) 16 ||| place m.stacksIn 0

/-- ECC_READ_ERROR. -/
def execEccReadError (line : Nat) (errs : List (Nat × Byte)) (s : State) : Host.Outcome State Fault Refusal :=
  s.on (fun m => m.eccRead line errs)

/-- SCRUB_LINE. -/
def execScrubLine (line : Nat) (errs : List (Nat × Byte)) (s : State) : Host.Outcome State Fault Refusal :=
  s.on (fun m => m.scrub line errs)

/-- CE_WINDOW_END. -/
def execCeWindowEnd (s : State) : Host.Outcome State Fault Refusal := s.on Mach.ceWindow

/-- STACK_OUT_OF_SERVICE. -/
def execStackOutOfService (stack : Nat) (hot : Bool) (s : State) : Host.Outcome State Fault Refusal :=
  s.on (fun m => m.stackLeaves stack hot)

/-- STACK_RETRAIN. -/
def execStackRetrain (stack : Nat) (ok cool : Bool) (s : State) : Host.Outcome State Fault Refusal :=
  s.on (fun m => m.stackRetrain stack ok cool)

/-- WATERMARK_ADVANCE. -/
def execWatermarkAdvance (stack top : Nat) (s : State) : Host.Outcome State Fault Refusal :=
  s.on (fun m => m.watermarkTo stack top)

/-- STACK_HOT. -/
def execStackHot (stack : Nat) (hot : Bool) (s : State) : Host.Outcome State Fault Refusal := s.on (fun m => m.stackHot stack hot)

end Sys2Proof.Machine
end

