-- ==== Sys2Proof/Machine/Pair.lean ====
section
/-! DEFINITION. The redundant pair (R428–R453): the pair frame, shadow comparison, standby readiness, alignment, taking and
giving up the claim, the feeds. Work of the window from +8.0 to +9.5 µs runs when the frame closes. -/

namespace Sys2Proof.Machine

/-! ## Claim numbers (R432) -/

/-- Claim number a is higher than b, both nonzero. -/
def claimAbove (a b : Nat) : Bool :=
  let d := (a + 256 - b % 256) % 256
  decide (1 ≤ d) && decide (d ≤ 127)

/-- The higher of two claim numbers, 0 meaning none. -/
def claimMax (a b : Nat) : Nat := if a = 0 then b else if b = 0 then a else if claimAbove b a then b else a

/-- The number that follows a claim number; 255 is followed by 1. -/
def claimNext (a : Nat) : Nat := a % 255 + 1

/-- The claims that stages in service report in the present frame (R433). -/
def Mach.claimsSeen (m : Mach) : List Nat :=
  m.roleLinks.filterMap (fun n => if (m.link n).inService then (m.fbNow n).map (fun f => f.claimSeen) else none)

/-! ## Digests (R436) -/

/-- The twenty words of a feedback frame (R160) as bytes. -/
def feedbackBytes (f : FeedbackIn) : List Byte :=
  let body := [place f.type 24 ||| place (f.seq % 256) 16 ||| place (f.chValid % 65536) 0,
    place (f.link % 16) 28 ||| place (f.fault % 256) 16 ||| place (f.claimSeen % 256) 0]
    ++ (f.channels.take 16 ++ List.replicate (16 - f.channels.length) 0) ++ [0]
  wordsBytes (body ++ [crc32Words body])

/-- The bridge slot of a loop as numbers. -/
def BridgeSlot.ints (b : BridgeSlot) : List Int := (b.pub : Int) :: (b.gen : Int) :: b.elems

/-- The published set-point slot as numbers. -/
def SpSlot.ints (p : SpSlot) : List Int := [p.vref, p.s, p.g, p.d, p.dis] ++ p.stage ++ [if p.brakeReq then 1 else 0]

/-- in_digest. -/
def Mach.inputDigest (m : Mach) : DWord :=
  let fb := (List.range 12).flatMap (fun n =>
    if (m.link n).inService then ((m.link n).now.map feedbackBytes).getD [] else [])
  let bridges := ((List.range 32).filter m.loopOn).flatMap (fun k => ((m.loop k).slotPub.map BridgeSlot.ints).getD [])
  hash8 (fb ++ Config.slotBytes (m.bel.spPub.ints ++ bridges))

/-- The loops that either module excludes from the comparison (R181, R436). -/
def Mach.excludedBoth (m : Mach) : Nat := m.excludedLoops ||| (m.pair.partnerNow.elim 0 (fun f => f.excluded))

/-- out_digest: the command frames of every stage link whether sent or not, the brake request and the tray caps decided. -/
def Mach.outputDigest (m : Mach) : DWord :=
  let x := m.excludedBoth
  hash8 (wordsBytes ((List.range 12).flatMap (fun n => (m.commandBody n x).2) ++ [flag m.bel.snap.brakeReq 0]
    ++ m.bel.snap.trayCaps.map (BitVec.ofNat 32)))

/-- Every index list of a register row's strides. -/
def strideAll : List (Nat × Nat) → List (List Nat)
  | [] => [[]]
  | (_, n) :: rest => (List.range n).flatMap (fun i => (strideAll rest).map (fun l => i :: l))

/-- cfg_sum over the reset values of the register map; a state keeps its difference from it. -/
def cfgBase : DWord :=
  (regRows.flatMap (fun r => (strideAll r.strides).map r.reg)).foldl
    (fun a r => if r.stMask = 0 then a else a ^^^ sumTerm r.addr r.reset) 0

/-- cfg_sum (R436). -/
def Mach.cfgSum (m : Mach) : DWord := cfgBase ^^^ m.pair.cfgDelta

/-- fc_tag (R435): of the record published at the last strike whose count is a multiple of 10; else 0. -/
def Mach.fcTag (m : Mach) : Nat :=
  match m.fc.pub with
  | some r =>
    if m.fc.published && decide (r.pub = m.time.count / 10 * 10) then
      (hash8 (m.bytes (Config.fcBuffer (!m.fc.buf)) (0x40 + 4 * 5021))).toNat % 16777216
    else 0
  | none => 0

/-! ## Readiness (R438) -/

/-- Whether a SEVERE or FATAL record is pending or such a pair is in fault. -/
def Mach.graveOpen (m : Mach) : Bool :=
  m.fault.recs.any (fun r => r.cls.grave && decide (r.st = .pending)) || m.fault.active.any (fun p => p.2.grave)

/-- What a clean module meets of itself (R438): every condition of readiness but the pair link and the last. A module whose pair link is down
claims under row 6 of R441 by these (R451, notes/assumptions/42). -/
def Mach.cleanSelf (m : Mach) : Bool :=
  m.ready fnLoop && m.ready fnBellows && m.ready fnCellring && m.en fnLoop && m.en fnBellows && !m.fault.quench.active
    && !m.graveOpen && !m.fault.testMode && !m.pair.suspect

/-- A clean module (R438): every condition of readiness except the last. -/
def Mach.clean (m : Mach) : Bool := m.cleanSelf && m.pair.pairUp

/-- Whether the partner holds the claim, as its last pair frame says: that of the present frame, or, where that one is missing, of the last
frame that brought one. -/
def Mach.partnerHolds (m : Mach) : Bool := (m.pair.partnerNow.orElse (fun _ => m.pair.partnerLast)).any (fun f => f.holding)

/-- Standby ready (R438), with the verdicts reached so far. -/
def Mach.standbyNow (m : Mach) : Bool :=
  !m.pair.holding && m.clean && (!m.partnerHolds || (m.pair.aligned && decide (100 ≤ m.pair.equalRun)))

/-! ## Alignment (R439, R440) -/

/-- Order and index of a segment. -/
def segKey : AlignSeg → Nat × Nat
  | .dispatch _ => (1, 0)
  | .loop k _ => (2, k)
  | .charge first _ _ => (3, first / 64)
  | .units port _ => (4, port)

/-- The segments of a complete alignment, in order: charge counts by global cell index, 512 to a port. -/
def Mach.alignPlan (m : Mach) : List (Nat × Nat) :=
  [(1, 0)] ++ ((List.range 32).filter m.loopOn).map (fun k => (2, k))
    ++ m.portsEn.flatMap (fun p => (List.range ((16 * m.unitsOf p + 63) / 64)).map (fun s => (3, 8 * p + s)))
    ++ m.portsEn.map (fun p => (4, p))

/-- Whether the module requests alignment in the present frame (R439), by its verdict and its fc_tag: unaligned, clean, none under way, not
sooner than 100 F after a failure; the partner's frame reports holding and no quench, and carries the same fc_tag. -/
def Mach.alignWanted (m : Mach) (verdict tag : Nat) : Bool :=
  !m.pair.holding && !m.pair.aligned && m.pair.alignRecv.isNone && m.clean && decide (m.pair.alignRetryAt ≤ m.time.count)
    && decide (verdict ≠ 1) && m.pair.partnerNow.any (fun f => f.holding && !f.quench && f.fcTag == tag)

/-- An alignment fails: again no sooner than 100 F later. -/
def Mach.alignFail (m : Mach) : Mach :=
  if m.pair.alignRecv.isSome then
    { m with pair.alignRecv := none, pair.alignPending := [], pair.alignRetryAt := m.time.count + 100 }
  else m

/-- ALIGNMENT_SEGMENT (R440): the next segment of an alignment under way is kept for the strike. -/
def Mach.alignSegment (m : Mach) (good : Bool) (index : Nat) (seg : AlignSeg) : Mach :=
  match m.pair.alignRecv with
  | some (i, n) =>
    if good && m.alignPlan[i]? == some (segKey seg) && index == (segKey seg).2 && m.pair.alignPending.isEmpty then
      { m with pair.alignRecv := some (i + 1, n), pair.alignPending := [seg] }
    else m
  | none => m

/-- The records of what an applied dispatch segment changed (R119): the effective policy and the coolant step. -/
def Mach.dispatchTaken (m : Mach) (old : DispSnap) : Mach :=
  let now := m.bel.snap
  let m : Mach := if now.effPolicy = old.effPolicy then m
    else m.policyRecord now.effPolicy m.bel.d (wattOf now.g) m.disAvail
  if now.coolantStep = old.coolantStep then m else m.coolantRecord now.coolantStep

/-- A segment written over local state (R439). A loop goes on as the holder's: it starts again where the holder's waits to start. -/
def Mach.applySegment (m : Mach) : AlignSeg → Mach
  | .dispatch d => { m with bel.snap := d }.dispatchTaken m.bel.snap
  | .loop k l => { m with eng.loops := m.eng.loops.modify k (fun x =>
      { x with s := l, restart := l.startWait, started := x.started || !l.startWait }) }
  | .charge first counts soc =>
    m.setPort (first / 512) (fun p =>
      let off := first % 512
      { p with counts := p.counts.take off ++ counts.take 64 ++ p.counts.drop (off + min 64 counts.length), socEst := soc, counted := p.counted || !counts.isEmpty })
  | .units port us =>
    m.setPort port (fun p => { p with
      restRun := us.head?.elim p.restRun UnitSnap.restRun
      units := p.units.mapIdx (fun i u => match us[i]? with
        | some s => { u with snap := s }
        | none => u) })

/-- The state of R439 that a segment carries, by its order and index. -/
def Mach.segmentOf (m : Mach) : Nat × Nat → AlignSeg
  | (1, _) => .dispatch m.bel.snap
  | (2, k) => .loop k (m.loop k).s
  | (3, i) =>
    let pt := m.port (i / 8)
    .charge (512 * (i / 8) + 64 * (i % 8)) (((pt.counts.take (16 * m.unitsOf (i / 8))).drop (64 * (i % 8))).take 64) pt.socEst
  | (_, p) => .units p (((m.port p).units.take (m.unitsOf p)).map (fun u => { u.snap with restRun := (m.port p).restRun }))

/-- The words of a transfer on the pair link (R440): header, payload, CRC-32 over both. -/
def sealTransfer (hdr : Word) (payload : List Word) : List Word :=
  let body := hdr :: payload
  body ++ [crc32Words body]

/-- The alignment segment that the holder sends in the present frame (R440); the layout of its payload is left open. -/
def Mach.sendSegment (m : Mach) (k : Nat × Nat) : Mach :=
  let seg := m.segmentOf k
  { m with
    pair.segOut := some seg
    pair.segTx := sealTransfer (place 0x5C 24 ||| place (m.time.count % 256) 16 ||| place k.1 12 ||| place k.2 0)
      ((Config.segWords seg).take 64) }

/-- The row frames of the present frame (R440): the rows of the two frames before it in which the module held the claim. -/
def Mach.sendRows (m : Mach) : Mach :=
  { m with pair.rowTx := if m.pair.pairUp then m.pair.rowsOut.map (fun r =>
      sealTransfer (place 0x5B 24 ||| place (r.1 % 256) 16) (r.2.take 32)) else [] }

/-- The strike writes what the frame brought, before the slot swap; with the last segment the module is aligned. -/
def Mach.alignStrike (m : Mach) : Mach :=
  let m := m.pair.alignPending.foldl Mach.applySegment m
  let m : Mach := { m with pair.alignPending := [] }
  match m.pair.alignRecv with
  | some (i, n) => if i = n then { m with pair.alignRecv := none, pair.aligned := true } else m
  | none => m

/-- The module becomes unaligned (R439). -/
def Mach.unalign (m : Mach) : Mach := { m.alignFail with pair.aligned := false }

/-- Whether the present frame carries no segment of order 4 (R439). -/
def Mach.publicationFrame (m : Mach) : Bool := (m.time.count + 1) % 1000 == 0

/-- What the frame's end does to an alignment under way, as receiver and as sender; `ok` says that the partner's frame came,
without quench on either side or a change of claim. -/
def Mach.alignClose (m : Mach) (ok : Bool) (f : Option PairFrame) : Mach :=
  let plan := m.alignPlan
  let m : Mach := { m with pair.segOut := none, pair.segTx := [] }
  let m : Mach :=
    if m.pair.holding then
      match m.pair.alignSend with
      | some (i, n) =>
        if !ok then { m with pair.alignSend := none }
        else if (plan.getD i (0, 0)).1 = 4 ∧ m.publicationFrame then m
        else
          let m := m.sendSegment (plan.getD i (0, 0))
          if i + 1 = n then { m with pair.alignSend := none, pair.partnerAligned := true }
          else { m with pair.alignSend := some (i + 1, n) }
      | none =>
        if ok && f.any (fun p => p.alignReq) then
          { m with pair.alignSend := some (0, plan.length), pair.partnerAligned := false }
        else m
    else { m with pair.alignSend := none }
  match m.pair.alignRecv with
  | some (i, _) =>
    let due := !((plan.getD i (0, 0)).1 = 4 ∧ m.publicationFrame)
    if !ok || (due && m.pair.alignPending.isEmpty) then m.alignFail else m
  | none =>
    if m.pair.alignReq && ok then { m with pair.alignRecv := some (0, plan.length) } else m

/-- ALIGNMENT_FAIL (R439): quench, a claim change or a lost partner ends the alignment under way. -/
def Mach.alignFailRow (m : Mach) : Mach :=
  if m.fault.quench.active || m.pair.holding || m.pair.partnerNow.any (fun f => f.quench || !f.holding) then m.alignFail else m

/-! ## Pair frames (R435) -/

/-- PAIR_FRAME (R435): the partner's frame of the present frame arrived; a failed check counts as missing. -/
def Mach.pairFrameIn (m : Mach) (f : PairFrame) : Mach :=
  if m.pair.pairUp && f.good && f.seq % 256 == m.time.count % 256 then { m with pair.partnerNow := some f } else m

/-- The twelve words of a pair frame (R435). -/
def pairWords (f : PairFrame) : List Word :=
  let two (d : DWord) : List Word := [d.setWidth 32, (d >>> 32).setWidth 32]
  let body := [place 0x5A 24 ||| place (f.seq % 256) 16 ||| place (f.claimNum % 256) 8 ||| flag f.holding 7 ||| flag f.release 6
      ||| flag f.ready 5 ||| flag f.quench 4 ||| flag f.dying 3 ||| flag f.suspect 2 ||| flag f.side 1 ||| flag f.alignReq 0,
    place (f.cause % 16) 0 ||| place (f.coolantNext % 4) 4 ||| place (f.fcTag % 16777216) 8,
    BitVec.ofNat 32 f.excluded] ++ two f.inDigest ++ two f.outDigest ++ two f.cfgSum ++ two (BitVec.ofNat 64 f.count)
  body ++ [crc32Words body]

/-- The coolant step that dispatch applies from the next frame (R435, R439): the partner's, where it overrides, else the module's own. -/
def Mach.coolantNext (m : Mach) : Nat :=
  if m.pair.holding then m.bel.snap.coolOwn
  else ((m.pair.partnerNow.filter (fun f => f.holding)).map (fun f => f.coolantNext)).getD m.bel.snap.coolOwn

/-- The pair frame the module sends. ready rests on the verdicts reached before it leaves, that of the present frame not among them
(DESIGN CHOICE, notes/assumptions/84). -/
def Mach.pairFrameOut (m : Mach) : PairFrame :=
  { good := true
    seq := m.time.count % 256
    claimNum := m.pair.claimNum
    holding := m.pair.holding
    release := m.pair.releaseFlag
    ready := m.standbyNow
    quench := m.fault.quench.active
    dying := m.pair.dying
    suspect := m.pair.suspect
    side := m.pair.side
    alignReq := m.pair.alignReq
    cause := m.pair.lastCause
    coolantNext := m.coolantNext
    fcTag := m.fcTag
    excluded := m.excludedLoops
    inDigest := m.pair.inDigest
    outDigest := m.pair.outDigest
    cfgSum := m.cfgSum
    count := m.time.count }

/-- The verdict of R437 in the encoding of `PR_STAT`. -/
def verdictOf (own : PairFrame) : Option PairFrame → Nat
  | none => 0
  | some f =>
    if !own.holding && !f.holding then 0
    else if f.cfgSum ≠ own.cfgSum then 1
    else if f.inDigest ≠ own.inDigest then 2
    else if f.outDigest ≠ own.outDigest then 3
    else 4

/-! ## The decisions at +9.5 µs (R441, R442) -/

/-- The first matching row of R441, as its cause. -/
def Mach.claimDecision (m : Mach) : Option Nat :=
  let p := m.pair
  let f := p.partnerNow
  let base := m.cleanSelf && m.claimsSeen.all (fun c => c == 0) && !f.any (fun x => x.holding)
  if m.fault.testMode then none
  else if f.any (fun x => x.quench) then none
  else if f.any (fun x => x.release || x.dying) && p.standbyReady then some (if f.any (fun x => x.release) then 2 else 4)
  else if decide (2 ≤ p.missRun) && p.readyAtLast then some 3
  else if p.verdict == 3 && decide (m.rdField .prCfg 7 0 ≤ p.verdictRun) && m.clean && p.aligned then some 5
  else if !p.side && p.standbyReady && decide (1000000 ≤ p.healthRun) && (m.time.count + 1) % 100 == 0 then some 6
  else if base && (!p.side || ((bit (m.rd .prCfg) 31 || decide (20 ≤ p.startRun)) && !f.any (fun x => x.ready))) then some 1
  else none

/-- The causes of R442, in its order; which of them carries release 1. -/
def Mach.giveDecision (m : Mach) : Option (Nat × Bool) :=
  let p := m.pair
  let f := p.partnerNow
  if !p.releaseReq.isEmpty || p.kernelRelease then some (1, true)
  else if p.dying then some (2, true)
  else if m.claimsSeen.any (fun c => c != 0 && claimAbove c p.claimNum) then some (3, false)
  else if f.any (fun x => x.holding && (claimAbove x.claimNum p.claimNum
      || (x.claimNum == p.claimNum && p.side && !x.side))) then some (4, false)
  else if decide (2 ≤ p.noLinkRun) && f.any (fun x => x.ready) then some (5, true)
  else none

/-- The pair's work in the window +8.0 to +9.5 µs of the present frame (R435–R442, R446, R449). -/
def Mach.pairJudge (m : Mach) : Mach :=
  let m : Mach := { m with pair.alignReq := false, pair.inDigest := m.inputDigest, pair.outDigest := m.outputDigest }
  let f := m.pair.partnerNow
  let v := verdictOf m.pairFrameOut f
  let m : Mach := { m with pair.alignReq := m.alignWanted v m.fcTag }
  let own := m.pairFrameOut
  let old := m.pair
  let diff := if v = 1 ∨ v = 2 then satAdd old.diffRun 1 101 else 0
  let seen := m.claimsSeen
  let m : Mach := { m with
    pair.ownFrame := some own
    pair.tx := pairWords own
    pair.verdict := v
    pair.verdictRun := if v = old.verdict then satAdd old.verdictRun 1 255 else 1
    pair.equalRun := if v = 4 then satAdd old.equalRun 1 100 else 0
    pair.diffRun := diff
    pair.diffFault := old.diffFault && decide (diff ≠ 0)
    pair.missRun := if f.isSome then 0 else satAdd old.missRun 1 255
    pair.claimSeen := seen.foldl claimMax 0
    pair.topSeen := claimMax (seen.foldl claimMax old.topSeen) (f.elim 0 (fun x => x.claimNum)) }
  let m := if v = 3 then m.bump .prCmp 31 16 1 else if v = 1 ∨ v = 2 then m.bump .prCmp 15 0 1 else m
  let subject := if m.pair.holding then m.pair.partnerAligned else m.pair.aligned
  let m : Mach :=
    if decide (100 ≤ diff) && !m.pair.diffFault && subject then
      let m : Mach := ({ m with pair.diffFault := true } : Mach).raise srcPair .corr (place 4 0)
      if m.pair.holding then { m with pair.partnerAligned := false } else m.unalign
    else m
  let ready := m.standbyNow
  let held := f.any (fun x => x.holding)
  let base := m.cleanSelf && seen.all (fun c => c == 0) && !held
  let inSvc := m.roleLinks.any (fun n => (m.link n).inService)
  let alone := m.pair.holding && !f.any (fun x => x.ready)
  let changed := match f, old.partnerLast with
    | some a, some b => a.holding != b.holding || a.claimNum != b.claimNum
    | _, _ => false
  let m : Mach := { m with
    pair.standbyReady := ready
    pair.readyAtLast := if f.isSome then ready else old.readyAtLast
    pair.healthRun := if ready && m.partnerHolds then satAdd old.healthRun 1 4294967295 else 0
    pair.startRun := if base then satAdd old.startRun 1 20 else 0
    pair.noLinkRun := if inSvc then 0 else satAdd old.noLinkRun 1 2
    pair.aloneRun := if alone then satAdd old.aloneRun 1 100000 else 0
    pair.aloneFault := old.aloneFault && alone
    pair.partnerAligned := m.pair.partnerAligned || f.any (fun x => x.ready && m.pair.holding)
    pair.sentRecent := (m.time.count, m.pair.claimNum) :: (f.toList.map (fun x => (m.time.count, x.claimNum)))
      ++ old.sentRecent.filter (fun x => decide (m.time.count ≤ x.1 + 4)) }
  let foreign := seen.any (fun c => c != 0 && !m.pair.sentRecent.any (fun x => x.2 == c))
  let m : Mach := if foreign && !m.pair.foreignFault then m.raise srcPair .severe (place 7 0) else m
  let ok := f.isSome && !m.fault.quench.active && !f.any (fun x => x.quench) && !changed
  let m : Mach := { m with pair.foreignFault := foreign }.alignClose ok f
  { m with
    fc.partnerHeld := if held then m.fc.partnerHeld.filter (fun k => decide (m.time.count ≤ k + 4)) ++ [m.time.count] else m.fc.partnerHeld
    pair.partnerLast := if f.isSome then f else old.partnerLast
    pair.coolantOverride := if m.pair.holding then none else f.bind (fun x => if x.holding then some x.coolantNext else none)
    pair.takeNext := if m.pair.holding then none else m.claimDecision
    pair.giveNext := if m.pair.holding then m.giveDecision else none }

/-! ## The strike (R441–R444) -/

/-- The record of a claim taken or given up (R526 type 0x04). -/
def Mach.claimRecord (m : Mach) (cause : Nat) : Mach :=
  m.emit evClaim .info [BitVec.ofNat 32 m.pair.claimNum, BitVec.ofNat 32 cause, flag m.pair.holding 0,
    BitVec.ofNat 32 (m.pair.partnerLast.elim 0 (fun f => f.claimNum))]

/-- What every change of the claim does (R453, R182, R385). -/
def Mach.claimChanged (m : Mach) : Mach :=
  let m : Mach := m.alignFail.bump .prSwCnt 31 0 1
  { m with
    pair.swLast := m.time.count
    pair.alignSend := none
    pair.partnerAligned := false
    pair.aloneRun := 0
    pair.aloneFault := false
    cell.stopbal := 15
    eng.test := { m.eng.test with claimChange := true } }

/-- The module takes the claim (R441, R443, R449). -/
def Mach.takeClaim (m : Mach) (cause : Nat) : Mach :=
  let top := claimMax m.pair.claimNum m.pair.topSeen
  let m : Mach := { m with
    pair.holding := true
    pair.claimNum := claimNext top
    pair.lastCause := cause
    pair.noLinkRun := 0 }
  let m := ((m.claimChanged).claimRecord cause).brakeClaim
  if cause = 3 ∨ cause = 5 then m.raise srcPair .corr (place cause 0) else m

/-- The module gives up the claim (R442, R444, R449): CLAIM_RELEASE is answered, and the cause of the partner's claim
decides suspect. -/
def Mach.giveClaim (m : Mach) (code : Nat) (release : Bool) : Mach :=
  let beaten := m.pair.partnerLast.any (fun f => f.holding && f.cause == 5) && (code == 3 || code == 4)
  let waiting := m.pair.releaseReq
  let m : Mach := { m with
    pair.holding := false
    pair.releaseFlag := release
    pair.releaseReq := []
    pair.kernelRelease := false
    pair.suspect := m.pair.suspect || beaten }
  let m := ((m.claimChanged).claimRecord code).brakeClaim
  let m := if beaten then m.raise srcPair .severe (place 5 0)
    else if code = 1 ∨ code = 2 then m.raise srcPair .info (place 2 0)
    else if code = 5 then m.raise srcPair .severe (place 8 0)
    else m
  waiting.foldl (fun m rt => m.reply rt stOk []) m

/-- The claim at the strike that opens a frame. -/
def Mach.claimStrike (m : Mach) : Mach :=
  let m : Mach := { m with pair.releaseFlag := false, pair.partnerNow := none }
  let take := m.pair.takeNext
  let give := m.pair.giveNext
  let m : Mach := { m with pair.takeNext := none, pair.giveNext := none }
  match give, take with
  | some (c, r), _ => if m.pair.holding then m.giveClaim c r else m
  | none, some c => if m.pair.holding then m else m.takeClaim c
  | none, none => m

/-- CLAIM_TAKE (R441): the decision of the present frame stands for the next strike. -/
def Mach.claimTake (m : Mach) : Mach :=
  if m.pair.holding then m else { m with pair.takeNext := m.pairJudge.pair.takeNext }

/-- CLAIM_GIVE_UP (R442). -/
def Mach.claimGiveUp (m : Mach) : Mach :=
  if m.pair.holding then { m with pair.giveNext := m.pairJudge.pair.giveNext } else m

/-- CLAIM_RELEASE (R66, R442): answered at the strike at which the claim is given up. -/
def Mach.opClaimRelease (m : Mach) (rt : RTo) : Mach :=
  if m.pair.holding then { m with pair.releaseReq := m.pair.releaseReq ++ [rt] } else m.reply rt stBadState []

/-- HOLDING_WITHOUT_STANDBY (R449 code 6). -/
def Mach.aloneFault (m : Mach) : Mach :=
  if decide (100000 ≤ m.pair.aloneRun) && !m.pair.aloneFault then
    ({ m with pair.aloneFault := true } : Mach).raise srcPair .info (place 6 0)
  else m

/-! ## The pair link (R449, R450) -/

/-- PAIR_LINK_DOWN (R449 code 1). -/
def Mach.pairDown (m : Mach) : Mach :=
  let first := m.pair.pairUp || !m.pair.downFault
  let m : Mach := { m.alignFail with pair.pairUp := false, pair.partnerNow := none, pair.alignSend := none, pair.partnerAligned := false }
  if first && !bit (m.rd .prCfg) 31 then ({ m with pair.downFault := true } : Mach).raise srcPair .corr (place 1 0) else m

/-- PAIR_LINK_UP (R450): the partner's count is taken by a module that is not LOCKED while the partner holds or is LOCKED, and the strike phase
slews toward the partner's; where neither is in a domain and neither holds, by slot B. The counter steps at the next strike (R38). -/
def Mach.pairLinkUp (m : Mach) (holding : Bool) (t : PartnerTime) (count : Nat) : Mach :=
  let m : Mach := { m with pair.pairUp := true, pair.downFault := false }
  let d : Int := (count : Int) - (m.time.count : Int)
  if m.time.state = .locked ∨ m.time.inDomain then m
  else if holding || t.locked then { m with time.pairAdopt := some d, time.pairPhase := t.phase }
  else if !t.inDomain && !m.pair.holding && m.pair.side then { m with time.pairAdopt := some d }
  else m

/-! ## Feeds (R448) -/

/-- Dying as the feeds decide (R448); operating time is saved when it sets (R527). -/
def Mach.judgeFeeds (m : Mach) : Mach :=
  let lost := !m.pair.feedA && !m.pair.feedB
  if lost && !m.pair.dying then { m with pair.dying := true, pair.dyingFrames := 0, ev.opSaved := m.ev.opSec }
  else if !lost then { m with pair.dying := false }
  else m

/-- FEED_LOSS: a feed that has stayed below 42.0 V for 10 µs, which is what the command reports (DESIGN CHOICE, notes/assumptions/84). -/
def Mach.feedLoss (m : Mach) (b : Bool) (v : Nat) : Mach :=
  let m : Mach := if b then { m with pair.voltB := v } else { m with pair.voltA := v }
  let m : Mach := if 184 < v then m else if b then { m with pair.runB := 0 } else { m with pair.runA := 0 }
  if 168 ≤ v ∨ !(if b then m.pair.feedB else m.pair.feedA) then m
  else
    let m : Mach := if b then { m with pair.feedB := false } else { m with pair.feedA := false }
    (m.raise srcFeed .corr (flag b 0)).judgeFeeds

/-- The feed voltages of a frame, and how long each has stayed above 46.0 V (R448). -/
def Mach.feedFrame (m : Mach) (a b : Nat) : Mach :=
  { m with
    pair.voltA := a
    pair.voltB := b
    pair.runA := if 184 < a then satAdd m.pair.runA 1 100 else 0
    pair.runB := if 184 < b then satAdd m.pair.runB 1 100 else 0 }

/-- FEED_RETURN: a feed above 46.0 V in each of the last 100 frames. -/
def Mach.feedReturn (m : Mach) (b : Bool) (v : Nat) : Mach :=
  let m : Mach := if b then { m with pair.voltB := v } else { m with pair.voltA := v }
  if v ≤ 184 ∨ (if b then m.pair.runB else m.pair.runA) < 100 ∨ (if b then m.pair.feedB else m.pair.feedA) then m
  else
    let m : Mach := if b then { m with pair.feedB := true } else { m with pair.feedA := true }
    (m.raise srcFeed .info (flag b 0)).judgeFeeds

/-- EJECTOR_OPEN (R537): the trusted kernel releases the claim at the next strike. -/
def Mach.ejector (m : Mach) : Mach :=
  { m with sys.leverLatched := false, pair.kernelRelease := m.pair.kernelRelease || m.pair.holding }

/-! ## Registers (R453) -/

/-- `PR_STAT`. -/
def Mach.prStat (m : Mach) : Word :=
  let p := m.pair
  flag p.holding 31 ||| flag p.standbyReady 30 ||| flag p.suspect 29 ||| flag p.side 28 ||| flag p.pairUp 27
    ||| place (p.lastCause % 8) 24 ||| place (p.claimNum % 256) 16 ||| place (p.claimSeen % 256) 8
    ||| flag p.alignRecv.isSome 4 ||| flag p.aligned 3 ||| place (p.verdict % 8) 0

/-- `PR_PARTNER`: what the last frame brought. -/
def Mach.prPartner (m : Mach) : Word :=
  let p := m.pair
  let f := p.partnerLast
  let b := fun (g : PairFrame → Bool) i => flag (f.any g) i
  flag (f.isSome && decide (p.missRun = 0)) 31 ||| b (fun x => x.ready) 30 ||| b (fun x => x.holding) 29
    ||| b (fun x => x.quench) 28 ||| b (fun x => x.dying) 27 ||| b (fun x => x.suspect) 26
    ||| place (f.elim 0 (fun x => x.claimNum % 256)) 8 ||| place (p.missRun % 256) 0

/-- `PR_FEED`. -/
def Mach.prFeed (m : Mach) : Word :=
  flag m.pair.feedA 31 ||| flag m.pair.feedB 30 ||| flag m.pair.dying 29 ||| place (min m.pair.voltA 255) 8
    ||| place (min m.pair.voltB 255) 0

/-- SUSPECT_CLEAR's write of `PR_STAT` (R444). -/
def Mach.prStatWrite (m : Mach) (v : Word) : Mach := if bit v 29 then { m with pair.suspect := false } else m

/-- PAIR_FRAME. -/
def execPairFrame (f : PairFrame) (s : State) : Host.Outcome State Fault Refusal := s.on (fun m => m.pairFrameIn f)

/-- CLAIM_TAKE. -/
def execClaimTake (s : State) : Host.Outcome State Fault Refusal := s.on Mach.claimTake

/-- CLAIM_GIVE_UP. -/
def execClaimGiveUp (s : State) : Host.Outcome State Fault Refusal := s.on Mach.claimGiveUp

/-- ALIGNMENT_SEGMENT. -/
def execAlignmentSegment (good : Bool) (index : Nat) (seg : AlignSeg) (s : State) : Host.Outcome State Fault Refusal :=
  s.on (fun m => m.alignSegment good index seg)

/-- ALIGNMENT_FAIL. -/
def execAlignmentFail (s : State) : Host.Outcome State Fault Refusal := s.on Mach.alignFailRow

/-- HOLDING_WITHOUT_STANDBY. -/
def execHoldingWithoutStandby (s : State) : Host.Outcome State Fault Refusal := s.on Mach.aloneFault

/-- PAIR_LINK_DOWN. -/
def execPairLinkDown (s : State) : Host.Outcome State Fault Refusal := s.on Mach.pairDown

/-- PAIR_LINK_UP. -/
def execPairLinkUp (partnerHolding : Bool) (time : PartnerTime) (partnerCount : Nat) (s : State) : Host.Outcome State Fault Refusal :=
  s.on (fun m => m.pairLinkUp partnerHolding time partnerCount)

/-- FEED_LOSS. -/
def execFeedLoss (b : Bool) (quarterVolts : Nat) (s : State) : Host.Outcome State Fault Refusal :=
  s.on (fun m => m.feedLoss b quarterVolts)

/-- FEED_RETURN. -/
def execFeedReturn (b : Bool) (quarterVolts : Nat) (s : State) : Host.Outcome State Fault Refusal :=
  s.on (fun m => m.feedReturn b quarterVolts)

/-- EJECTOR_OPEN. -/
def execEjectorOpen (s : State) : Host.Outcome State Fault Refusal := s.on Mach.ejector

end Sys2Proof.Machine
end

