-- ==== Sys2Proof/Machine/View.lean ====
section
/-! DEFINITION. What every register reads: words kept in the register file as they stand, read-only words from the state
they show. -/

namespace Sys2Proof.Machine

/-- The low or high word of a 64-bit quantity. -/
def loOf (n : Nat) : Word := BitVec.ofNat 32 n

/-- The high word. -/
def hiOf (n : Nat) : Word := BitVec.ofNat 32 (n / 4294967296)

/-! ## System (R36, R42) -/

/-- The slots armed (R42). -/
def Mach.armedMask (m : Mach) : Word :=
  loOf (natOfBits ((List.range 16).filter (fun n => (m.slot n).armed)))

/-! ## Rings, operations and the transaction (R54, R71, R78) -/

/-- `CX_OPS` (R71). -/
def Mach.cxOps (m : Mach) : Word :=
  place ((m.ops.filter (fun o => decide (o.state = .suspended) && o.rt.tag != 0)).length % 4096) 16 |||
    place (m.inFlight % 4096) 0

/-- The encoding of R78. -/
def TxnState.code : TxnState → Nat
  | .idle => 0
  | .opened => 1
  | .validating => 2

/-- `CX_CFG_STAT` (R78). -/
def TxnSt.word (t : TxnSt) : Word :=
  flag t.overflow 31 ||| place t.staged.length 16 |||
    (if t.state = .idle then 0 else place (t.ring % 8) 8 ||| place t.owner.code 4) ||| place t.state.code 0

/-! ## The loop engine (R155, R172) -/

/-- A loop as the RO registers show it: at the end of the last frame (R156). -/
def Mach.loopShown (m : Mach) (k : Nat) : LoopSt := m.eng.shown.getD k LoopSt.reset

/-- `LE_STATE_k` (R155). -/
def Mach.leStateWord (m : Mach) (k : Nat) : Word :=
  let l := m.loopShown k
  place (if l.started then m.eng.shownCycles.getD k 0 % 256 else 0) 24 ||| place l.s.region 20 ||| flag l.missed 18
    ||| flag l.noRegion 17 ||| flag (l.s.hold.any (·.isSome)) 16 ||| place l.satHi 8 ||| place l.satLo 0

/-- `LE_FF_STAT_k` (R155), with the age of the slot in the frame it reports (R156). -/
def Mach.leFfStatWord (m : Mach) (k : Nat) : Word :=
  let l := m.loopShown k
  let mode := match l.s.mode with
    | .live => 0
    | .blend => 1
    | .fade => 2
    | .off => 3
  match l.slotPub with
  | some b => place (b.gen % 256) 24 ||| place mode 16 ||| place (min (m.eng.shownAt - b.pub) 255) 0
  | none => place mode 16 ||| 0xFF

/-- `LE_BR_HDR_k` (R155). -/
def Mach.leBrHdrWord (m : Mach) (k : Nat) : Word :=
  match (m.loopShown k).slotPub with
  | some b => place (b.gen % 256) 24 ||| flag true 16 ||| place (b.pub % 65536) 0
  | none => 0

/-- `LE_SUP_STAT_k` (R172). -/
def Mach.leSupWord (m : Mach) (k : Nat) : Word :=
  let l := m.loopShown k
  place (min l.s.feCount 65535) 16 ||| place (min l.s.missRun 63) 10 ||| flag l.s.stopped 9 ||| flag l.feActive 8
    ||| flag l.s.startWait 7

/-- `LE_FLAG_ANY` (R152). -/
def Mach.leFlagAny (m : Mach) : Word :=
  loOf (natOfBits ((List.range 32).filter (fun k => m.rd (.leFlag k) != 0)))

/-! ## The anvil, forecaster and training (R218, R294) -/

/-- `AV_STAT` (R218). -/
def Mach.avStat (m : Mach) : Word :=
  flag (m.ready fnAnvil) 31 ||| flag m.anvil.bist 30 ||| place (field m.cap1 6 0) 16

/-- `AV_FC_STAT` (R294). -/
def Mach.fcStatWord (m : Mach) : Word :=
  flag (m.ready fnForecast) 31 ||| flag (decide (1048576 ≤ m.fc.frames)) 30 ||| flag m.fc.published 29
    ||| flag m.fc.gateHeld 28 ||| flag m.fc.schedAbsent 27 ||| place (m.fc.lastBank % 2) 26
    ||| place (min m.fc.frames 1048576) 0

/-- `AV_FC_GEN` (R294): the generation of the running weights. -/
def Mach.fcGenWord (m : Mach) : Word := ((m.bank m.fcBank).gen).elim 0xFFFFFFFF loOf

/-- `AV_TR_GEN_READY` (R294). -/
def Mach.genReady (m : Mach) : Word :=
  (newestGen (m.fc.gens.filter (·.kept))).elim 0xFFFFFFFF (fun g => loOf g.hdr.n)

/-! ## The cell ring (R397) -/

/-- The state of a long operation as a status register shows it: 1 running, 2 suspended. -/
def Mach.opShown (m : Mach) (op : Nat) : Nat :=
  if (m.opById op).any (fun o => decide (o.state = .suspended)) then 2 else 1

/-- `CR_STAT` (R397). -/
def Mach.crStatWord (m : Mach) : Word :=
  flag (m.ready fnCellring) 31 ||| flag (m.time.powered && m.ringDriver) 30 |||
    loOf (natOfBits ((List.range 4).filter (fun p => (m.port p).done)))

/-- A register of a unit or of a cell of one: 0 for a position beyond the port's units (R396, log entry 79). -/
def Mach.unitShown (m : Mach) (p u : Nat) (w : Word) : Word := if u < m.unitsOf p then w else 0

/-- `CR_CAMP_STAT` (R397); of the strings, the one with the fewest sweeps at target gives good_run. -/
def Mach.campStat (m : Mach) : Word :=
  m.cell.camp.elim 0 (fun c =>
    let runs := (bitsOf 4 c.strings).map (fun s => c.runs.getD s 0)
    place (m.opShown c.op) 30 ||| place (c.strings % 16) 24 ||| place (runs.foldl min 255) 16 ||| place (c.tag % 2048) 0)

/-- `CR_CAPS_STAT` (R397). -/
def Mach.capsStat (m : Mach) : Word :=
  m.cell.caps.elim 0 (fun c =>
    place (m.opShown c.op) 30 ||| place (c.phase % 4) 28 ||| place (c.port % 4) 26 ||| place (c.tag % 2048) 0)

/-! ## The collector (R426) -/

/-- `FC_STAT` (R426): test_mode, pending and last_seq beside the bits of R424. -/
def Mach.fcStatusWord (m : Mach) : Word :=
  (m.rd .fcStat &&& 0x30000000) ||| flag m.fault.testMode 30 |||
    place (min (m.fault.recs.filter (fun r => decide (r.st = .pending))).length 255) 16 |||
    place ((m.fault.recs.head?.elim 0 FaultRec.seq) % 65536) 0

/-- `FC_ACTIVE_n` and `FC_WIRING_n` (R426): the sources 32·n to 32·n + 31 with a pair in a list. -/
def sourceBits (n : Nat) (l : List (Nat × FCls)) : Word :=
  loOf (natOfBits ((List.range 32).filter (fun b => l.any (fun p => p.1 == 32 * n + b))))

/-! ## DMA (R475) -/

/-- `DM_CH_STAT_c` (R475) but preempted, which depends on the other channels. -/
def DmaCh.stat (c : DmaCh) : Word :=
  place c.state 29 ||| place c.halt 26 ||| flag c.fence 24 ||| place (c.lastStatus % 256) 16

/-! ## CXL (R501) -/

/-- `CX_LINK_STAT` (R501). -/
def CxlSt.linkWord (x : CxlSt) : Word :=
  flag x.linkUp 31 ||| place x.speed 28 ||| place x.width 24 ||| flag x.flit256 23 ||| flag x.cacheEn 22
    ||| flag x.memEn 21 ||| flag x.bme 20

/-! ## Identity (R519) and the recorder (R535) -/

/-- `ID_STAT` (R519). -/
def IdSt.statWord (i : IdSt) : Word :=
  flag i.pufOk 31 ||| flag i.certOk 30 ||| flag i.variantOk 29 ||| flag (i.tkRun && i.tk.runSlot) 28
    ||| flag (i.appRun && i.app.runSlot) 27 ||| flag i.tk.trial 26 ||| flag i.app.trial 25

/-- The running image's version, 0 with none. -/
def runVersion (on : Bool) (p : SlotPair) : Word := if on then (p.running.map (·.version)).getD 0 else 0

/-- The running image's SVN, 0 with none. -/
def runSvn (on : Bool) (p : SlotPair) : Nat := if on then (p.running.map (·.svn)).getD 0 else 0

/-- `ID_SVN` (R519). -/
def IdSt.svnWord (i : IdSt) : Word :=
  place (runSvn i.tkRun i.tk % 256) 24 ||| place (i.tk.floor % 256) 16 ||| place (runSvn i.appRun i.app % 256) 8
    ||| place (i.app.floor % 256) 0

/-- `ID_UPD_STAT` (R519). -/
def IdSt.updWord (i : IdSt) : Word := place i.updState 29 ||| flag i.updKind 28 ||| place i.updStatus 16

/-- `EV_STAT` (R535). -/
def Mach.evStat (m : Mach) : Word :=
  flag (m.ready fnRecorder) 31 ||| flag m.ev.frozen 30 ||| flag m.ev.mounted 29 ||| place m.holdFill 16
    ||| place (min m.queueFill 1024) 0

/-! ## Every register -/

/-- What a register reads, before any effect of the read. `SY_FRAME_POS`, whose place in the frame the model does not
hold, is read by `busRead` as a free value. -/
def Mach.view (m : Mach) : Reg → Word
  | .syCap0 => m.sys.cap0
  | .syCap1 => m.cap1
  | .syStrikeLo => loOf m.time.count
  | .syTimeStat => m.timeStat
  | .syTimeOffset => if m.time.state = .free ∨ m.hall.isMaster then 0 else wordOfInt m.time.offset
  | .syLaunchArmed => m.armedMask
  | .syLaunchLo n => loOf (m.slot n).count
  | .syLaunchHi n => hiOf (m.slot n).count
  | .syLaunchAct n => (m.slot n).word
  | .cxOps => m.cxOps
  | .cxCfgStat => m.txn.word
  | .cxCfgAge => loOf m.txn.age
  | .cxCmdCtrl n => m.rd (.cxCmdCtrl n) ||| flag (m.ringEn n && m.stsFull n) 4
  | .leStat => flag (m.ready fnLoop) 31 ||| loOf (min m.eng.cycles 8191)
  | .leFlagAny => m.leFlagAny
  | .leState k => m.leStateWord k
  | .leFfStat k => m.leFfStatWord k
  | .leFfVal k => wordOfInt (m.loopShown k).fb
  | .leInteg k j => wordOfInt ((m.loopShown k).s.integ.getD j 0)
  | .leOut k j => wordOfInt ((m.loopShown k).out.getD j 0)
  | .leBrHdr k => m.leBrHdrWord k
  | .leBrVal k a => (m.loopShown k).slotPub.elim 0 (fun b => wordOfInt (b.elems.getD a 0))
  | .leSlStat n => (m.eng.shownLinks.getD n StageLinkSt.reset).statWord
  | .leSlTx n => (m.eng.shownLinks.getD n StageLinkSt.reset).txWord
  | .leSupStat k => m.leSupWord k
  | .leTestStat => m.eng.shownTest.word
  | .leTestStartLo => loOf m.eng.shownTest.start
  | .leTestStartHi => hiOf m.eng.shownTest.start
  | .leTestDd => wordOfInt m.eng.shownDd
  | .avStat => m.avStat
  | .avStackStat => m.stackStat
  | .avBusyLo => loOf m.anvil.busy
  | .avSchedStat => m.schedStat
  | .avFcStat => m.fcStatWord
  | .avFcGen => m.fcGenWord
  | .avFcHistAnchorLo => loOf (m.fc.anchor % 18446744073709551616).toNat
  | .avFcErr1ms => loOf (m.fcErr 0)
  | .avFcErr10ms => loOf (m.fcErr 1)
  | .avFcErr50ms => loOf (m.fcErr 2)
  | .avTrStat => m.trStat
  | .avTrGenReady => m.genReady
  | .avTrSource => place (if m.acting then 0xFFFF else m.fc.trainer.getD 0xFFFF % 65536) 0
  | .avMdlBank b => m.bankWord b
  | .avLsStat => m.lsStat
  | .avLsOrdLo => loOf m.anvil.lock.ord
  | .avLsDivLo => loOf (m.anvil.lock.line.getD 0)
  | .avLsPort => flag m.anvil.lock.linkUp 31 ||| flag m.anvil.lock.partnerM 30 ||| m.rd .avLsPort
  | .plStat => m.plStat
  | .plMaster => m.plMaster
  | .plPlanCtrl => m.plPlanCtrl
  | .plPlanIdLo => loOf ((m.plan.map Plan.id).getD 0)
  | .plMaint => m.rd .plMaint ||| place m.maintShown 20
  | .plSuspect => m.hall.suspect
  | .plSliceStat => m.plSliceStat
  | .plLinkStat n => m.linkStat n
  | .plLinkOpt n => m.linkOpt n
  | .crStat => m.crStatWord
  | .crUnitStat p u => m.unitShown p u (m.rd (.crUnitStat p u))
  | .crUnitT p u => m.unitShown p u (m.rd (.crUnitT p u))
  | .crUnitCg01 p u => m.unitShown p u (m.rd (.crUnitCg01 p u))
  | .crUnitCg23 p u => m.unitShown p u (m.rd (.crUnitCg23 p u))
  | .crCell c => m.unitShown (c / 512) (c % 512 / 16) (m.rd (.crCell c))
  | .crCampStat => m.campStat
  | .crCapsStat => m.capsStat
  | .fcStat => m.fcStatusWord
  | .fcQuench => m.fault.quench.word
  | .fcQentryLo => loOf m.fault.quench.entry
  | .fcTest => flag m.fault.testMode 31
  | .fcActive n => sourceBits n m.fault.active
  | .fcWiring n => sourceBits n m.fault.wiring
  | .prStat => m.prStat
  | .prPartner => m.prPartner
  | .prHealth => loOf (min m.pair.healthRun 0xFFFFFFFF)
  | .prSwLastLo => loOf m.pair.swLast
  | .prCfgsumLo => lo32 m.cfgSum
  | .prFeed => m.prFeed
  | .dmStat => flag (m.ready fnDma) 31
  | .dmBusy => loOf (natOfBits ((List.range 32).filter (fun c => (m.ch c).state == 2)))
  | .dmReq => loOf (natOfBits (m.dma.lines.map ReqLine.line))
  | .dmChCurLo c => loOf (m.ch c).cur
  | .dmChStat c => (m.ch c).stat ||| flag (m.preempted c) 25
  | .cxLinkStat => m.cxl.linkWord
  | .cxHdmStat => flag m.cxl.dec1.committed 1 ||| flag m.cxl.dec0.committed 0
  | .idStat => m.id.statWord
  | .idSerialLo => loOf m.id.serial
  | .idTkVer => runVersion m.id.tkRun m.id.tk
  | .idAppVer => runVersion m.id.appRun m.id.app
  | .idSvn => m.id.svnWord
  | .idUpdStat => m.id.updWord
  | .evStat => m.evStat
  | .evSeq => loOf (m.ev.stored.head?.elim 0 StoredRec.seq)
  | .evStored => loOf m.ev.stored.length
  | .evOpsec => loOf m.ev.opSec
  | .evPwrcyc => loOf m.ev.pwrCyc
  | r => m.rd r

/-- The high register that a read of a low one latches, with what it latches (R37 and the fields that cite it). -/
def Mach.latch (m : Mach) : Reg → Option (Reg × Word)
  | .syStrikeLo => some (.syStrikeHi, hiOf m.time.count)
  | .avBusyLo => some (.avBusyHi, hiOf m.anvil.busy)
  | .avEccLastLo => some (.avEccLastHi, m.anvil.eccHi)
  | .avFcHistAnchorLo => some (.avFcHistAnchorHi, hiOf (m.fc.anchor % 18446744073709551616).toNat)
  | .avLsOrdLo => some (.avLsOrdHi, hiOf m.anvil.lock.ord)
  | .avLsDivLo => some (.avLsDivHi, hiOf (m.anvil.lock.line.getD 0))
  | .plPlanIdLo => some (.plPlanIdHi, hiOf ((m.plan.map Plan.id).getD 0))
  | .fcQentryLo => some (.fcQentryHi, hiOf m.fault.quench.entry)
  | .prSwLastLo => some (.prSwLastHi, hiOf m.pair.swLast)
  | .prCfgsumLo => some (.prCfgsumHi, hi32 m.cfgSum)
  | .dmChCurLo c => some (.dmChCurHi c, hiOf (m.ch c).cur)
  | .cxDenyLastLo => some (.cxDenyLastHi, m.cxl.denyHi)
  | .idSerialLo => some (.idSerialHi, hiOf m.id.serial)
  | _ => none

end Sys2Proof.Machine
end

