-- ==== Sys2Proof/Machine/RegAccess.lean ====
section
/-! DEFINITION. Reads and writes of the register file (R10–R13, R80, R478, R495, R497): who may, what a read returns and
clears or latches, and where a write goes. -/

namespace Sys2Proof.Machine

/-! ## Absent units and the start -/

/-- Whether an address lies in the register block of a unit that `SY_CAP0` does not show (R10): the `AV_` block without an
anvil but for offsets 0x0020 to 0x005C (R216), the lock-step registers without the port (R316), a link's registers beyond
the links fitted (R361). -/
def Mach.absentAt (m : Mach) (a : Nat) : Bool :=
  m.sys.capValid &&
    ((m.sys.tiles == 0 && decide (0xA0000 ≤ a) && decide (a < 0xB0000) && !(decide (0xA0020 ≤ a) && decide (a < 0xA0060)))
    || (!m.sys.lockstep && decide (0xA0300 ≤ a) && decide (a < 0xA0318))
    || (decide (0x90100 + 0x10 * m.sys.links ≤ a) && decide (a < 0x90100 + 0x10 * 48)))

/-- Before cap_valid BAR0 answers only in the `SY_` block and the island mailbox (R497). -/
def Mach.dark (m : Mach) (c : Cls) (a : Nat) : Bool :=
  decide (c = .host) && !m.sys.capValid && decide (0x10000 ≤ a) && !(decide (mailBase ≤ a) && decide (a < mailBase + 0x10000))

/-- An address a register access can name: an aligned word of the register file (R11, R478). -/
def wordAddr (a : Nat) : Bool := decide (a < regSize) && a % 4 == 0

/-- The windows and protections a register access meets (R491, R492); before the trusted kernel has loaded the windows, the
`SY_` block and the mailbox answer HOST, and FW starts the module (R497). -/
def Mach.regMay (m : Mach) (c : Cls) (a : Nat) (write : Bool) : Bool :=
  !m.sys.capValid || decide (m.judge c a 4 write = .ok)

/-! ## Reads -/

/-- The value of a register for a class: write-only bits read 0 (R12); inside a transaction its owner reads the staged ST bits (R13). -/
def Mach.regValue (m : Mach) (c : Cls) (r : Reg) : Word :=
  let v := m.view r &&& ~~~r.woMask
  if r.stMask != 0 && m.txn.state != .idle && m.txn.owner == c then
    match m.txn.staged.find? (fun w => w.addr == r.addr) with
    | some w => stMerge r v w.value
    | none => v
  else v

/-- What a read does besides returning the value: RC bits clear (R12), a low word latches its high word (R37). `AV_BUSY_LO` and
`AV_BUSY_HI` show one count of 64 bits: the read-clear of the low word clears all of it (R218 does not say whether it leaves the upper
half; DESIGN CHOICE, notes/assumptions/81). -/
def Mach.readEffect (m : Mach) (r : Reg) : Mach :=
  let l := m.latch r
  let m : Mach := if r = .avBusyLo then { m with anvil.busy := 0 } else if r.rcMask != 0 then m.wr r (m.rd r &&& ~~~r.rcMask) else m
  match l with
  | some (hi, v) => m.wr hi v
  | none => m

/-- The register read at a device address (R478): a named register, the mailbox, or 0 where no map names a register. The place
in the frame is a free value (notes/assumptions/3). -/
def Mach.readAt (m : Mach) (c : Cls) (a : Nat) : Word × Mach :=
  if mailBase ≤ a ∧ a < mailBase + 0x10000 then (m.word a, m)
  else match Reg.ofAddr a with
    | none => (0, m)
    | some .syFramePos => let t := m.take; (loOf (t.1.toNat % (if m.time.state = .joining then 1010 else 1000)), t.2)
    | some r => (m.regValue c r, m.readEffect r)

/-- A register read. The answer of a HOST read goes out over CXL.io, where a denial completes as an unsupported request
(R494). -/
def Mach.busRead (m : Mach) (c : Cls) (a : Nat) : Mach :=
  if !wordAddr a then m
  else if m.dark c a then m.answer [0] false false
  else if !m.regMay c a false then (m.deny c a false (decide (c ≠ .peer))).answer [] false true
  else if m.absentAt a then (m.accessFault c a).answer [0] false false
  else
    let x := m.readAt c a
    x.2.answer [x.1] false false

/-! ## Writes -/

/-- The bits a write changes at once: RW bits take the value, W1C bits written 1 clear (R12). -/
def Mach.writePlain (m : Mach) (r : Reg) (v : Word) : Mach :=
  if r.rwMask = 0 ∧ r.w1cMask = 0 then m
  else
    let old := m.rd r
    m.wr r (((old &&& ~~~r.rwMask) ||| (v &&& r.rwMask)) &&& ~~~(v &&& r.w1cMask))

/-- A write reaches a register: the registers with a behaviour of their own, else their access codes; ST bits are staged
(R12, R13, R80). -/
def Mach.writeReg (m : Mach) (c : Cls) (r : Reg) (v : Word) : Mach :=
  match r with
  | .cxCmdCtrl n => m.writeRingCtrl n v
  | .cxCmdBaseLo n => m.writeRingBase n (.cxCmdBaseLo n) v
  | .cxCmdBaseHi n => m.writeRingBase n (.cxCmdBaseHi n) v
  | .cxStsBaseLo n => m.writeRingBase n (.cxStsBaseLo n) v
  | .cxStsBaseHi n => m.writeRingBase n (.cxStsBaseHi n) v
  | .cxCmdTail n => m.writeCmdTail n v
  | .cxStsHead n => m.writeStsHead n v
  | .bdSchedHall => m.schedWrite v
  | .plPlanCtrl => m.planCtrlWrite v
  | .plMaint => m.maintWrite v
  | .dmChCtrl n => m.writeChannel c n (.dmChCtrl n) v
  | .dmChCfg n => m.writeChannel c n (.dmChCfg n) v
  | .dmChLimit n => m.writeChannel c n (.dmChLimit n) v
  | .dmChHeadLo n => m.writeChannel c n (.dmChHeadLo n) v
  | .dmChHeadHi n => m.writeChannel c n (.dmChHeadHi n) v
  | .dmChCurLo n => m.writeChannel c n (.dmChCurLo n) v
  | .dmChCurHi n => m.writeChannel c n (.dmChCurHi n) v
  | .dmChStat n => m.writeChannel c n (.dmChStat n) v
  | .dmChDone n => m.writeChannel c n (.dmChDone n) v
  | .dmChBad n => m.writeChannel c n (.dmChBad n) v
  | .dmChChain n => m.writeChannel c n (.dmChChain n) v
  | .dmChErr n => m.writeChannel c n (.dmChErr n) v
  | .fcAck => m.ackFault c v
  | .fcRaiseDetail => m.raiseDetail c v
  | .fcRaise => m.fcRaiseWrite c v
  | .fcRelease => m.releaseWrite c v
  | .fcInj => m.injWrite c v
  | .prStat => m.prStatWrite v
  | .idUpdCtrl => m.updWrite c (field v 31 29)
  | r =>
    let m : Mach := m.writePlain r v
    if r.stMask != 0 then m.stageWrite c r v else m

/-- Whether an address is a window register's (R500). -/
def isWindowReg (a : Nat) : Bool := decide (0x10800 ≤ a) && decide (a < 0x10B00) && a % 0x10 != 0xC && a % 0x100 < 0x80

/-- A register write. A denial records the INFO fault of source 0x04 on the CXL.io path and for a firmware core, which meets a bus
error (R494). A HOST or PEER write of a window register records an INFO fault of source 0x03 beside the denial (R495);
a write to no register, to an absent unit's block or before the block answers is discarded (R10, R478, R497). -/
def Mach.busWrite (m : Mach) (c : Cls) (a : Nat) (v : Word) : Mach :=
  if !wordAddr a || m.dark c a then m
  else if !m.regMay c a true then
    let m : Mach := m.deny c a true (decide (c ≠ .peer))
    let m : Mach := if c = .fw then { m with cxl.lastUr := true } else m
    if isWindowReg a && decide (c = .host ∨ c = .peer) then m.accessFault c a else m
  else if m.absentAt a then m.accessFault c a
  else if mailBase ≤ a ∧ a < mailBase + 0x10000 then m.setWords a [v]
  else match Reg.ofAddr a with
    | none => m
    | some r => m.writeReg c r v

/-! ## The commands -/

/-- REGISTER_WRITE (R12). -/
def execRegisterWrite (c : Cls) (addr : Nat) (v : Word) (s : State) : Host.Outcome State Fault Refusal :=
  s.on (fun m => m.busWrite c addr v)

/-- STAGED_WRITE (R13, R80). -/
def execStagedWrite (c : Cls) (addr : Nat) (v : Word) (s : State) : Host.Outcome State Fault Refusal :=
  s.on (fun m => m.busWrite c addr v)

/-- READ_CLEAR (R12). -/
def execReadClear (c : Cls) (addr : Nat) (s : State) : Host.Outcome State Fault Refusal := s.on (fun m => m.busRead c addr)

/-- LATCHING_READ (R37). -/
def execLatchingRead (c : Cls) (addr : Nat) (s : State) : Host.Outcome State Fault Refusal := s.on (fun m => m.busRead c addr)

/-- ABSENT_UNIT_READ (R10). -/
def execAbsentUnitRead (c : Cls) (addr : Nat) (s : State) : Host.Outcome State Fault Refusal :=
  s.on (fun m => m.busRead c addr)

/-- A write of a named register; a register number the map does not have names none. -/
def Mach.writeNamed (m : Mach) (c : Cls) (r : Reg) (v : Word) : Mach := if r.inRange then m.busWrite c r.addr v else m

/-- RING_DOORBELL (R56): a write of `CX_CMD_TAIL_n`. -/
def execRingDoorbell (c : Cls) (n : Nat) (v : Word) (s : State) : Host.Outcome State Fault Refusal :=
  s.on (fun m => m.writeNamed c (.cxCmdTail n) v)

/-- RING_ENABLE (R55): a write of `CX_CMD_CTRL_n` with ring_en set. -/
def execRingEnable (c : Cls) (n : Nat) (v : Word) (s : State) : Host.Outcome State Fault Refusal :=
  s.on (fun m => m.writeNamed c (.cxCmdCtrl n) (setBit v 31))

/-- RING_DISABLE (R58): a write of `CX_CMD_CTRL_n` with ring_en clear. -/
def execRingDisable (c : Cls) (n : Nat) (v : Word) (s : State) : Host.Outcome State Fault Refusal :=
  s.on (fun m => m.writeNamed c (.cxCmdCtrl n) (clearBit v 31))

/-- STATUS_HEAD_WRITE (R57): a write of `CX_STS_HEAD_n`. -/
def execStatusHeadWrite (c : Cls) (n : Nat) (v : Word) (s : State) : Host.Outcome State Fault Refusal :=
  s.on (fun m => m.writeNamed c (.cxStsHead n) v)

/-- PLAN_LOAD (R327): a write of `PL_PLAN_CTRL`. -/
def execPlanLoad (c : Cls) (v : Word) (s : State) : Host.Outcome State Fault Refusal :=
  s.on (fun m => m.writeNamed c .plPlanCtrl v)

/-- MAINT_TAKE_OUT (R358): action 1 with the link number, written to `PL_MAINT`. -/
def execMaintTakeOut (c : Cls) (link : Nat) (s : State) : Host.Outcome State Fault Refusal :=
  s.on (fun m => m.writeNamed c .plMaint (place 1 30 ||| place (link % 64) 24))

/-- MAINT_VERIFY (R358): action 2 with the link number, written to `PL_MAINT`. -/
def execMaintVerify (c : Cls) (link : Nat) (s : State) : Host.Outcome State Fault Refusal :=
  s.on (fun m => m.writeNamed c .plMaint (place 2 30 ||| place (link % 64) 24))

/-- SUSPECT_CLEAR (R444): a write of `PR_STAT`. -/
def execSuspectClear (c : Cls) (v : Word) (s : State) : Host.Outcome State Fault Refusal :=
  s.on (fun m => m.writeNamed c .prStat v)

/-- DMA_CHANNEL_START (R471): a write of `DM_CH_CTRL_c` with en and start. -/
def execDmaChannelStart (c : Cls) (ch : Nat) (s : State) : Host.Outcome State Fault Refusal :=
  s.on (fun m => m.writeNamed c (.dmChCtrl ch) 0xC0000000)

/-- DMA_CHANNEL_DISABLE (R472): a write of en 0. -/
def execDmaChannelDisable (c : Cls) (ch : Nat) (s : State) : Host.Outcome State Fault Refusal :=
  s.on (fun m => m.writeNamed c (.dmChCtrl ch) 0)

/-- DMA_CHANNEL_ENABLE (R472): a write of en 1. -/
def execDmaChannelEnable (c : Cls) (ch : Nat) (s : State) : Host.Outcome State Fault Refusal :=
  s.on (fun m => m.writeNamed c (.dmChCtrl ch) 0x80000000)

/-- FC_ACK (R411). -/
def execFcAck (c : Cls) (v : Word) (s : State) : Host.Outcome State Fault Refusal :=
  s.on (fun m => m.writeNamed c .fcAck v)

/-- FC_RAISE (R404). -/
def execFcRaise (c : Cls) (v : Word) (s : State) : Host.Outcome State Fault Refusal :=
  s.on (fun m => m.writeNamed c .fcRaise v)

/-- RELEASE_REQUEST (R418): a write of `FC_RELEASE`. -/
def execReleaseRequest (c : Cls) (v : Word) (s : State) : Host.Outcome State Fault Refusal :=
  s.on (fun m => m.writeNamed c .fcRelease v)

/-- INJECT_RELEASE_PAIR (R422). -/
def execInjectReleasePair (c : Cls) (source : Nat) (cls : FCls) (s : State) : Host.Outcome State Fault Refusal :=
  s.on (fun m => m.writeNamed c .fcInj (injWord 0 0 source cls))

/-- INJECT_FORCE_FAULT (R422). -/
def execInjectForceFault (c : Cls) (source : Nat) (cls : FCls) (kind : Nat) (s : State) :
    Host.Outcome State Fault Refusal :=
  s.on (fun m => m.writeNamed c .fcInj (injWord 1 kind source cls))

/-- INJECT_FORCE_NO_FAULT (R422). -/
def execInjectForceNoFault (c : Cls) (source : Nat) (cls : FCls) (s : State) : Host.Outcome State Fault Refusal :=
  s.on (fun m => m.writeNamed c .fcInj (injWord 2 0 source cls))

/-- INJECT_FORCE_NONCOMP (R422). -/
def execInjectForceNoncomp (c : Cls) (source : Nat) (cls : FCls) (s : State) : Host.Outcome State Fault Refusal :=
  s.on (fun m => m.writeNamed c .fcInj (injWord 3 0 source cls))

/-- STAGE (R516): action 1 of `ID_UPD_CTRL`. -/
def execStage (c : Cls) (s : State) : Host.Outcome State Fault Refusal := s.on (fun m => m.writeNamed c .idUpdCtrl (place 1 29))

/-- COMMIT (R516): action 2. -/
def execUpdCommit (c : Cls) (s : State) : Host.Outcome State Fault Refusal :=
  s.on (fun m => m.writeNamed c .idUpdCtrl (place 2 29))

/-- DISCARD (R516): action 3. -/
def execDiscard (c : Cls) (s : State) : Host.Outcome State Fault Refusal := s.on (fun m => m.writeNamed c .idUpdCtrl (place 3 29))

/-- TOKEN (R518): action 4. -/
def execToken (c : Cls) (s : State) : Host.Outcome State Fault Refusal := s.on (fun m => m.writeNamed c .idUpdCtrl (place 4 29))

/-- END_TEST (R516): action 5. -/
def execEndTest (c : Cls) (s : State) : Host.Outcome State Fault Refusal := s.on (fun m => m.writeNamed c .idUpdCtrl (place 5 29))

end Sys2Proof.Machine
end

