-- ==== Sys2Proof/Machine/DmaMove.lean ====
section
/-! DEFINITION. The DMA engine's descriptors, lists, bursts, write-backs and fences (R455–R470). Bytes that come from beyond
the module (a host answer through the host window) are the command's own. -/

namespace Sys2Proof.Machine

/-! ## Accesses of a channel -/

/-- What an access gave: the module after it, the status it puts on the descriptor (0 none), the bytes, and the host data
still unread. -/
structure DmaIo where
  m : Mach
  status : Nat
  bytes : List Byte
  rest : List Byte

/-- A register word read by a channel: 0 and an INFO fault from an absent unit's block (R10). -/
def Mach.regWordRead (m : Mach) (c : Cls) (a : Nat) : Word × Mach :=
  if m.absentAt a then (0, m.accessFault c a) else m.readAt c a

/-- The register words from an address on, as bytes. -/
def Mach.regBytes (m : Mach) (c : Cls) (a : Nat) : Nat → List Byte × Mach
  | 0 => ([], m)
  | n + 1 =>
    let x := m.regWordRead c a
    let y := x.2.regBytes c (a + 4) n
    (wordBytes x.1 ++ y.1, y.2)

/-- Bytes a link's buffers hold, whose content the model does not keep: free values (notes/assumptions/3). -/
def Mach.freeBytes (m : Mach) : Nat → List Byte × Mach
  | 0 => ([], m)
  | n + 1 =>
    let t := m.take
    let y := t.2.freeBytes n
    (t.1.setWidth 8 :: y.1, y.2)

/-- A read of `n` bytes inside one decoded range, already judged (R458, R467, R480, R481): a poisoned line gives 0x84, a
closed host window or an unanswered request 0x81. -/
def Mach.dmaRead (m : Mach) (ch a n : Nat) (data : List Byte) : DmaIo :=
  match m.space a with
  | .reg | .mailbox =>
    let lo := a / 4 * 4
    let x := m.regBytes (chClass ch) lo ((a + n + 3) / 4 - a / 4)
    ⟨x.2, 0, (x.1.drop (a - lo)).take n, data⟩
  | .sram _ | .stack _ _ => if m.poisonIn a n then ⟨m.checkRead a n, 0x84, [], data⟩ else ⟨m, 0, m.bytes a n, data⟩
  | .peer _ off =>
    if 0x40000 ≤ off ∧ off < 0x80000 then ⟨m, 0x81, [], data⟩
    else let x := m.freeBytes n; ⟨x.2, 0, x.1, data⟩
  | .host h =>
    if !m.hostOpen || decide (data.length < n) then ⟨m, 0x81, [], data⟩
    else ⟨{ m with cxl.hostReq := m.cxl.hostReq ++ [(false, h, [])] }, 0, data.take n, data.drop n⟩
  | .none => ⟨m, 0x81, [], data⟩

/-- A register word written by a channel. -/
def Mach.regWordWrite (m : Mach) (c : Cls) (a : Nat) (v : Word) : Mach :=
  if m.absentAt a then m.accessFault c a
  else if mailBase ≤ a ∧ a < mailBase + 0x10000 then m.setWords a [v]
  else match Reg.ofAddr a with
    | none => m
    | some r => m.writeReg c r v

/-- Register words written one after the other. -/
def Mach.regWordsWrite (m : Mach) (c : Cls) (a : Nat) : List Word → Mach
  | [] => m
  | w :: ws => (m.regWordWrite c a w).regWordsWrite c (a + 4) ws

/-- A write into a link's transmit staging (R480): the write that completes a frame, whose header stands at its start, queues
the frame; one of a type that the table of R321 does not hold is not sent. -/
def Mach.stagingWrite (m : Mach) (n off a : Nat) (bs : List Byte) : Mach :=
  let m : Mach := m.setBytes a bs
  let base := a - off + 0x40000
  let last := 16 + field (m.word base) 31 16
  match frameType (field (m.word base) 7 0) (field (m.word base) 9 8) with
  | some t =>
    if 0x40000 + last ≤ off + bs.length ∧ off < 0x40000 + last ∧ m.carries n then
      m.sendOn t (field (m.word (base + 4)) 31 16) n (some (field (m.word (base + 4)) 15 0))
    else m
  | none => m

/-- A write inside one line of one decoded range, already judged; false where it fails. A full line clears poison, a part of one is read
and merged (R458, R209, R210). -/
def Mach.dmaWrite (m : Mach) (ch a : Nat) (bs : List Byte) : Mach × Bool :=
  match m.space a with
  | .reg | .mailbox => (m.regWordsWrite (chClass ch) a (bytesWords (bs.length / 4) bs), true)
  | .sram _ | .stack _ _ => (m.checkWrite a bs.length).storeInLine a bs
  | .peer n off =>
    if 0x40000 ≤ off ∧ off < 0x80000 ∧ 16 ≤ ch then (m.stagingWrite n off a bs, true) else (m, false)
  | .host h => if m.hostOpen then ({ m with cxl.hostReq := m.cxl.hostReq ++ [(true, h, bs)] }, true) else (m, false)
  | .none => (m, false)

/-! ## Checks (R457) -/

/-- The range checks of one address and length for a channel, in the order of R457: not decoded 0x81, outside the windows 0x83
(counted, R494), unaligned in the register file 0x85. -/
def Mach.rangeStatus (m : Mach) (ch a n : Nat) (write : Bool) : Nat × Mach :=
  match m.judge (chClass ch) a n write with
  | .undecoded => (0x81, m)
  | .denied => (0x83, m.deny (chClass ch) a write false)
  | .ok => if a < regSize ∧ (a % 4 ≠ 0 ∨ n % 4 ≠ 0) then (0x85, m) else (0, m)

/-- The first of two statuses in the order of R457; 0 is none. -/
def firstStatus (a b : Nat) : Nat := if a = 0 then b else if b = 0 then a else min a b

/-- The reserved fields and counts of a descriptor (R455, R457). -/
def descFormatOk (w : List Word) : Bool :=
  let w0 := wordAt w 0
  let cnt (list : Bool) (x : Word) := if list then field x 31 16 != 0 else field x 31 16 == 0
  field w0 23 8 == 0 && field w0 3 0 == 0 && cnt (bit w0 4) (wordAt w 3) && cnt (bit w0 5) (wordAt w 5)
    && field (wordAt w 6) 4 0 == 0 && field (wordAt w 7) 31 16 == 0

/-- The source address of a descriptor. -/
def descSrc (w : List Word) : Nat := addr48 (wordAt w 2) (wordAt w 3)

/-- The destination address of a descriptor. -/
def descDst (w : List Word) : Nat := addr48 (wordAt w 4) (wordAt w 5)

/-- The next descriptor's address. -/
def descNext (w : List Word) : Nat := addr48 (wordAt w 6) (wordAt w 7)

/-- The checks of a fetched descriptor: its inline ranges, its form. -/
def Mach.descStatus (m : Mach) (ch : Nat) (w : List Word) : Nat × Mach :=
  let n := (wordAt w 1).toNat
  let s := if n = 0 ∨ bit (wordAt w 0) 4 then (0, m) else m.rangeStatus ch (descSrc w) n false
  let d := if n = 0 ∨ bit (wordAt w 0) 5 then (0, s.2) else s.2.rangeStatus ch (descDst w) n true
  (firstStatus (firstStatus s.1 d.1) (if descFormatOk w then 0 else 0x85), d.2)

/-! ## Fetching a descriptor (R457, R469, R470) -/

/-- DMA_DESCRIPTOR_FETCH: a running channel between descriptors fetches the next one, unless the limit halts it. -/
def Mach.dmaFetch (m : Mach) (n : Nat) (data : List Byte) : Mach :=
  let c := m.ch n
  if n < 32 ∧ c.state = 2 ∧ c.desc = [] then
    if m.rdField (.dmChLimit n) 23 0 ≤ (m.rd (.dmChChain n)).toNat then m.haltChannel n 1
    else
      let m : Mach := m.setCh n (fun c => { c with cur := c.next })
      match m.judge (chClass n) c.next 32 false with
      | .undecoded => m.haltChannel n 2
      | .denied => (m.deny (chClass n) c.next false false).haltChannel n 2
      | .ok =>
        let io := m.dmaRead n c.next 32 data
        if io.status ≠ 0 then io.m.haltChannel n 2
        else
          let w := bytesWords 8 io.bytes
          let m : Mach := io.m.bump (.dmChChain n) 31 0 1
          let st := m.descStatus n w
          let src := bit (wordAt w 0) 4
          let dst := bit (wordAt w 0) 5
          let len := (wordAt w 1).toNat
          let m : Mach := st.2.setCh n (fun c => { c with
            desc := w
            left := len
            bad := 0
            fence := false
            srcAt := if src then 0 else descSrc w
            srcLeft := if src then 0 else len
            srcIdx := 0
            dstAt := if dst then 0 else descDst w
            dstLeft := if dst then 0 else len
            dstIdx := 0
            srcs := if src then [] else [(descSrc w, len)]
            dsts := if dst then [] else [(descDst w, len)] })
          if st.1 ≠ 0 then m.markBad n st.1 else m
  else m

/-! ## The two streams (R456) -/

/-- What taking the next piece of a stream gave: a piece, a bad descriptor, or a halt. -/
inductive Piece where
  | ready (at_ left idx : Nat)
  | bad (status : Nat)
  | halt

/-- The present piece of a stream, its next list entry fetched and checked when the last one is used up (R456, R457, R469); an entry that lies
outside the windows makes the descriptor bad and does not halt (R494). -/
def Mach.nextPiece (m : Mach) (ch : Nat) (list : Bool) (base count at_ left idx : Nat) (write : Bool) (data : List Byte) :
    Piece × Mach × List Byte :=
  if left ≠ 0 then (.ready at_ left idx, m, data)
  else if !list ∨ count ≤ idx then (.bad 0x85, m, data)
  else
    let a := base + 16 * idx
    match m.judge (chClass ch) a 16 false with
    | .undecoded => (.halt, m, data)
    | .denied => (.bad 0x83, m.deny (chClass ch) a false false, data)
    | .ok =>
      let io := m.dmaRead ch a 16 data
      if io.status ≠ 0 then (.halt, io.m, io.rest)
      else
        let w := bytesWords 4 io.bytes
        let n := (wordAt w 2).toNat
        let ea := addr48 (wordAt w 0) (wordAt w 1)
        let r := if n = 0 then (0, io.m) else io.m.rangeStatus ch ea n write
        let form := if n = 0 ∨ field (wordAt w 1) 31 16 ≠ 0 ∨ wordAt w 3 ≠ 0 then 0x85 else 0
        let st := firstStatus r.1 form
        if st ≠ 0 then (.bad st, r.2, io.rest)
        else (.ready ea n (idx + 1), r.2.setCh ch (fun c =>
          if write then { c with dsts := c.dsts ++ [(ea, n)] } else { c with srcs := c.srcs ++ [(ea, n)] }), io.rest)

/-- What filling or emptying the channel's buffer gave. -/
inductive Moved where
  | ok
  | bad (status : Nat)
  | halt

/-- A stream has moved on in its piece. -/
def DmaCh.srcTo (c : DmaCh) (a l i : Nat) : DmaCh := { c with srcAt := a, srcLeft := l, srcIdx := i }

/-- The destination stream has moved on in its piece. -/
def DmaCh.dstTo (c : DmaCh) (a l i : Nat) : DmaCh := { c with dstAt := a, dstLeft := l, dstIdx := i }

/-- Whether source and destination overlap as R459 forbids, neither apart nor the destination below the source: the ranges of both streams
known so far. -/
def DmaCh.overlapBad (c : DmaCh) : Bool :=
  c.srcs.any (fun s => c.dsts.any (fun d => overlap s.1 s.2 d.1 d.2 && decide (s.1 ≤ d.1)))

/-- The last address written at a target beyond the module, which a fence reads back (R466). -/
def Mach.noteTarget (m : Mach) (ch a : Nat) : Mach :=
  match m.space a with
  | .host _ => m.setCh ch (fun c => { c with hostLast := some a })
  | .peer n _ => m.setCh ch (fun c => { c with peerLast := c.peerLast.filter (fun x => x.1 != n) ++ [(n, a)] })
  | _ => m

/-- A beat that reads at most one source line into the channel's buffer (R458, R463). -/
def Mach.readBeat (m : Mach) (ch : Nat) (data : List Byte) : Moved × Mach × List Byte :=
  let c := m.ch ch
  match m.nextPiece ch (bit (wordAt c.desc 0) 4) (descSrc c.desc) (field (wordAt c.desc 3) 31 16) c.srcAt c.srcLeft c.srcIdx
      false data with
  | (.halt, m, data) => (.halt, m, data)
  | (.bad st, m, data) => (.bad st, m, data)
  | (.ready a l i, m, data) =>
    let k := min c.burst (min l (64 - a % 64))
    let io := m.dmaRead ch a k data
    if io.status ≠ 0 then (.bad io.status, io.m, io.rest)
    else (.ok, io.m.setCh ch (fun c => { c.srcTo (a + k) (l - k) i with burst := c.burst - k, buf := c.buf ++ io.bytes }), io.rest)

/-- The funnel's part of a destination line is written: as a full line where the transfer covers all of it, else as a narrow write (R458). A
failed write leaves what was written (R457, R467); a forbidden overlap leaves content that is not defined (R459). -/
def Mach.flushLine (m : Mach) (ch : Nat) : Moved × Mach :=
  let c := m.ch ch
  let bad := c.overlapBad
  let bs := if bad then c.line.mapIdx (fun i _ => Config.overlapByte m.free (c.lineAt + i)) else c.line
  let m : Mach := if bad then { m with free := m.free + 1 } else m
  let w := (m.setCh ch (fun c => { c with line := [] })).dmaWrite ch c.lineAt bs
  if w.2 then (.ok, (w.1.setCh ch (fun c => { c with left := c.left - bs.length })).noteTarget ch c.lineAt)
  else (.bad 0x81, w.1.setCh ch (fun c => { c with failed := true }))

/-- A beat that takes bytes of the buffer into the funnel up to a line's end (R458): a line is written when it is complete, when the
destination goes on elsewhere, and with the descriptor's last byte. -/
def Mach.writeBeat (m : Mach) (ch : Nat) (data : List Byte) : Moved × Mach × List Byte :=
  let c := m.ch ch
  match m.nextPiece ch (bit (wordAt c.desc 0) 5) (descDst c.desc) (field (wordAt c.desc 5) 31 16) c.dstAt c.dstLeft c.dstIdx
      true data with
  | (.halt, m, data) => (.halt, m, data)
  | (.bad st, m, data) => (.bad st, m, data)
  | (.ready a l i, m, data) =>
    if !c.line.isEmpty && a != c.lineAt + c.line.length then
      let r := (m.setCh ch (fun c => c.dstTo a l i)).flushLine ch
      (r.1, r.2, data)
    else
      let k := min c.buf.length (min l (64 - a % 64))
      let m := m.setCh ch (fun c => { c.dstTo (a + k) (l - k) i with
        lineAt := if c.line.isEmpty then a else c.lineAt
        line := c.line ++ c.buf.take k
        buf := c.buf.drop k })
      if (a + k) % 64 = 0 ∨ c.left = c.line.length + k then
        let r := m.flushLine ch
        (r.1, r.2, data)
      else (.ok, m, data)

/-! ## Bursts (R460–R463) -/

/-- A failed piece: the descriptor is bad, or the channel halts (R467, R469). -/
def Mach.burstFails (m : Mach) (ch : Nat) : Moved → Mach
  | .ok => m
  | .bad st => m.markBad ch st
  | .halt => m.haltChannel ch 2

/-- Beats of a channel's burst, until it is over, the beats at hand are used up, or another channel is served first (R463). -/
def Mach.beats (n : Nat) : Nat → Mach → List Byte → Mach
  | 0, m, _ => m
  | fuel + 1, m, data =>
    let c := m.ch n
    if !c.inBurst || m.burstPick != some n then m
    else
      match if c.burst != 0 then m.readBeat n data else m.writeBeat n data with
      | (.ok, m, data) => Mach.beats n fuel m data
      | (x, m, _) => m.burstFails n x

/-- A burst starts (R461–R463): its request is acknowledged or its credit spent. -/
def Mach.startBurst (m : Mach) (n : Nat) : Mach :=
  let len := m.burstLen n
  let m : Mach := if m.pacing n = 1 then m.ackLine n else m
  let spent := if m.pacing n = 2 then len else 0
  { m.setCh n (fun c => { c with credit := c.credit - spent, burst := len }) with dma.last := n }

/-- DMA_BURST: the channel that arbitration serves starts a burst, or goes on with the one in progress from the same byte (R463). -/
def Mach.dmaBurst (m : Mach) (data : List Byte) (b : BurstIn) : Mach :=
  match m.burstPick with
  | none => m
  | some n =>
    let m := if (m.ch n).inBurst then m else m.startBurst n
    if b.parity then m.markBad n 0x86 else Mach.beats n b.beats m data

/-! ## Write-back, fence (R465, R466, R469) -/

/-- The status written into word 0 [31:24] of the descriptor, the counts, the interrupt, and the next descriptor or the end of
the chain. -/
def Mach.writeBack (m : Mach) (n status : Nat) : Mach :=
  let c := m.ch n
  let a := c.cur + 3
  match m.judge (chClass n) a 1 true with
  | .undecoded => m.haltChannel n 3
  | .denied => (m.deny (chClass n) a true false).haltChannel n 3
  | .ok =>
    let w := if a < regSize ∧ !(decide (mailBase ≤ a)) then (m, false)
      else if a < regSize then (m.setByte a (BitVec.ofNat 8 status), true)
      else m.dmaWrite n a [BitVec.ofNat 8 status]
    if !w.2 then w.1.haltChannel n 3
    else
      let m : Mach := if status < 0x80 then w.1.bump (.dmChDone n) 31 0 1 else w.1
      let m : Mach := if bit (wordAt c.desc 0) 6 then (if n < 16 then m.msix (8 + n) else m.fwSignal (16 + n)) else m
      let next := descNext c.desc
      m.setCh n (fun c => { c with
        desc := []
        lastStatus := status
        bad := 0
        fence := false
        next := next
        state := if next = 0 then 1 else 2 })

/-- Whether list entries are left over when the last byte has moved (R457). -/
def DmaCh.leftOver (c : DmaCh) : Bool :=
  (bit (wordAt c.desc 0) 4 && (c.srcLeft != 0 || decide (c.srcIdx < field (wordAt c.desc 3) 31 16)))
    || (bit (wordAt c.desc 0) 5 && (c.dstLeft != 0 || decide (c.dstIdx < field (wordAt c.desc 5) 31 16)))

/-- A fence starts to wait (R466): a 4-byte read of the last address written goes to each target beyond the module that the channel has written
since its start. -/
def Mach.startFence (m : Mach) (n : Nat) : Mach :=
  let c := m.ch n
  let m := m.setCh n (fun c => { c with fence := true, readBack := c.hostLast.toList ++ c.peerLast.map Prod.snd })
  match c.hostLast.map m.space with
  | some (.host h) => { m with cxl.hostReq := m.cxl.hostReq ++ [(false, h, [])] }
  | _ => m

/-- DMA_DESCRIPTOR_DONE (R465): all data moved, or the descriptor bad; a fence waits first. -/
def Mach.dmaDone (m : Mach) (n : Nat) : Mach :=
  let c := m.ch n
  if n < 32 ∧ c.state = 2 ∧ c.desc ≠ [] ∧ c.left = 0 ∧ !c.fence then
    if c.bad ≠ 0 then m.writeBack n c.bad
    else if c.leftOver then (m.markBad n 0x85).writeBack n 0x85
    else if bit (wordAt c.desc 0) 7 then m.startFence n
    else m.writeBack n 0x01
  else m

/-- DMA_FENCE_DONE (R466): every write since the start has arrived or failed. -/
def Mach.dmaFenceDone (m : Mach) (n : Nat) : Mach :=
  let c := m.ch n
  if n < 32 ∧ c.state = 2 ∧ c.fence then
    let m := m.setCh n (fun c => { c with readBack := [] })
    if c.failed then
      let m : Mach := (m.markBad n 0x82).setCh n (fun c => { c with failed := false })
      (m.wr (.dmChErr n) (m.rd (.dmChErr n) &&& 0x00FFFFFF)).writeBack n 0x82
    else m.writeBack n 0x02
  else m

/-! ## The commands -/

/-- DMA_DESCRIPTOR_FETCH. -/
def execDmaDescriptorFetch (ch : Nat) (data : List Byte) (s : State) : Host.Outcome State Fault Refusal :=
  s.on (fun m => m.dmaFetch ch data)

/-- DMA_BURST. -/
def execDmaBurst (data : List Byte) (b : BurstIn) (s : State) : Host.Outcome State Fault Refusal :=
  s.on (fun m => m.dmaBurst data b)

/-- DMA_DESCRIPTOR_DONE. -/
def execDmaDescriptorDone (ch : Nat) (s : State) : Host.Outcome State Fault Refusal := s.on (fun m => m.dmaDone ch)

/-- DMA_FENCE_DONE. -/
def execDmaFenceDone (ch : Nat) (s : State) : Host.Outcome State Fault Refusal := s.on (fun m => m.dmaFenceDone ch)

end Sys2Proof.Machine
end

