-- ==== Sys2Proof/Machine/Packets.lean ====
section
/-! DEFINITION. Command packets (R53, R56, R59–R77): the checks of R62 in their order, what every opcode does, cancelling and safe
points, and the read rounds of a frame. -/

namespace Sys2Proof.Machine

/-! ## The opcode table (R63, R66) -/

/-- Whether an opcode belongs to the always-complete set (R66). -/
def islandOp (op : Nat) : Bool := decide (0xF0 ≤ op) && decide (op ≤ 0xF6)

/-- Whether an opcode is in the table of R63. -/
def knownOp (op : Nat) : Bool :=
  [ocSetPoint, ocSetCap, ocLaunchArm, ocLaunchDisarm, ocCfgBegin, ocCfgCommit, ocCfgRollback, ocOpSuspend, ocOpResume, ocOpCancel,
   ocOpQuery, ocAvJobSubmit, ocModelLoad, ocTrainRun, ocCapacitySweep, ocBalanceCampaign, ocSliceReplace].contains op || islandOp op

/-- Whether application firmware interprets an opcode (R63). -/
def firmwareOp (op : Nat) : Bool := decide (ocOpSuspend ≤ op) && decide (op ≤ ocSliceReplace)

/-- The classes that R63 lets issue an opcode, but for those whose class depends on a transaction or a target. -/
def classesOf (op : Nat) : List Cls :=
  if op == ocSetPoint || op == ocSetCap || op == ocLaunchArm || op == ocAvJobSubmit || op == ocModelLoad || op == ocTrainRun
    || op == ocCapacitySweep || op == ocBalanceCampaign then [.host, .fw]
  else if op == ocSliceReplace then [.fw, .tk]
  else if op == ocModuleReset then [.host, .tk]
  else [.host, .fw, .tk]

/-- The class check of R62 order 4: R63's classes, the owner of a transaction (R81, R85), the target's class (R73). -/
def Mach.classCheck (m : Mach) (op : Nat) (c : Cls) (w4 : Word) : Option Nat :=
  if !(classesOf op).contains c then some stNotPermitted
  else if op == ocCfgCommit || op == ocCfgRollback then
    if m.txn.state != .idle && m.txn.owner != c && !(op == ocCfgRollback && decide (c = .tk)) then some stNotPermitted else none
  else if op == ocOpSuspend || op == ocOpResume || op == ocOpCancel then m.targetCheck (field w4 10 0) c
  else none

/-- Whether an opcode requires a tag (R63): a commit only when it is launched. -/
def needsTag (op : Nat) (launch : Nat) : Bool :=
  op == ocLaunchArm || op == ocModelLoad || op == ocTrainRun || op == ocCapacitySweep || op == ocBalanceCampaign
    || op == ocSliceReplace || (op == ocCfgCommit && launch != 0)

/-- The tags of a class (R69). -/
def tagRange : Cls → Nat × Nat
  | .host => (0x001, 0x5FF)
  | .peer => (0x600, 0x6FF)
  | .fw => (0x700, 0x7EF)
  | .tk => (0x7F0, 0x7FF)

/-- The tag checks of R69 in the order of R62. -/
def Mach.tagCheck (m : Mach) (op launch tag : Nat) (c : Cls) : Option Nat :=
  if tag = 0 then (if needsTag op launch then some stBadParam else none)
  else if tag < (tagRange c).1 ∨ (tagRange c).2 < tag then some stTagRange
  else if m.tagHeld tag then some stTagBusy
  else none

/-! ## Operations: resume, cancel, safe points (R72–R75) -/

/-- The tracker entry of a MODEL_LOAD. -/
def Mach.loadOf (m : Mach) (op : Nat) : Option LoadSt := m.fc.loads.find? (fun l => l.op == op)

/-- An operation ends with ST_CANCELLED (R74): a campaign sends STOPBAL, a load leaves its bank inactive, a training run discards
its optimizer state. -/
def Mach.endCancelled (m : Mach) (op : Nat) : Mach :=
  match m.jobOfOp op, m.loadOf op with
  | some j, _ => m.cancelJob j
  | none, some l => m.endLoad l stCancelled
  | none, none =>
    if m.fc.train.any (fun t => t.op == op) then ({ m with fc.train := none, fc.opt := false } : Mach).endOp op stCancelled []
    else if m.cell.camp.any (fun c => c.op == op) then m.endCampaign stCancelled
    else if m.cell.caps.any (fun c => c.op == op) then m.endCaps stCancelled
    else if m.hall.replace.any (fun r => r.op == op) then ({ m with hall.replace := none } : Mach).endOp op stCancelled []
    else m.endOp op stCancelled []

/-- An operation other than a job becomes suspended, with its notification (R72, R73). -/
def Mach.suspendOp (m : Mach) (op : Nat) : Mach :=
  let m : Mach := match m.cell.camp with
    | some c => if c.op == op then { m with cell.stopbal := m.cell.stopbal ||| c.strings } else m
    | none => m
  let m := if m.fc.train.any (fun t => t.op == op) then m.dropCycle else m
  match m.opById op with
  | some o => (m.setOp op .suspended).notify o.rt stSuspended []
  | none => m

/-- Whether a cell sweep of a capacity sweep or of a campaign is under way, at whose end its safe point lies (R72). -/
def Mach.midSweep (m : Mach) (op : Nat) : Bool :=
  m.cell.caps.any (fun c => c.op == op && (m.port c.port).sweep.isSome)
    || m.cell.camp.any (fun c => c.op == op && (bitsOf 4 c.strings).any (fun p => (m.port p).sweep.isSome))

/-- SAFE_POINT_REACHED (R72, R73): what a standing suspension or cancellation does. A job that has reached its end completes with
that end; a slice copy or a cell sweep under way ends first, and so does the block of a load. -/
def Mach.safePoint (m : Mach) (op : Nat) : Mach :=
  match m.opById op with
  | none => m
  | some o =>
    if o.ended || m.hall.replace.any (fun r => r.op == op && r.copy.isSome) || m.midSweep op then m
    else match m.loadOf op with
    | some l => if o.state = .suspending ∨ o.state = .cancelling then m.loadBlock l.bank else m
    | none => match m.jobOfOp op, o.state with
      | some j, .suspending => if j.phase = .ended then m else m.suspendJob j m.tilesNow
      | some j, .cancelling => if j.phase = .ended then m else m.cancelJob j
      | none, .suspending => m.suspendOp op
      | none, .cancelling => m.endCancelled op
      | _, _ => m

/-- Whether an operation that is not yet at work may stop at once: a job that has issued no bundle (R249). -/
def Mach.stopsAtOnce (m : Mach) (op : Nat) : Bool :=
  (m.jobOfOp op).any (fun j => !j.issued && decide (j.phase ≠ .ended))

/-- OP_CANCEL (R73). -/
def Mach.opCancel (m : Mach) (rt : RTo) (tag : Nat) : Mach :=
  match m.opByTag tag with
  | none => m.reply rt stBadState []
  | some o =>
    if o.state = .cancelling then m.reply rt stBadState []
    else if m.noteFull o then m.reply rt stBusy []
    else if o.state = .suspended then (m.reply rt stOk []).endCancelled o.id
    else
      let m := (m.setOp o.id .cancelling).reply rt stOk []
      if m.stopsAtOnce o.id then m.safePoint o.id else m

/-- OP_SUSPEND (R73), which a job without an issued bundle takes at once (R249). -/
def Mach.serveSuspend (m : Mach) (rt : RTo) (tag : Nat) : Mach :=
  match m.opByTag tag with
  | none => m.opSuspend rt tag
  | some o =>
    let n := m.opSuspend rt tag
    if decide (o.state = .running) && !m.noteFull o && n.stopsAtOnce o.id then n.safePoint o.id else n

/-- OP_RESUME (R73): a job joins the tail of its level, SLICE_REPLACE goes on with its next slice; every other operation goes on
at its next step. -/
def Mach.serveResume (m : Mach) (rt : RTo) (tag : Nat) : Mach :=
  match m.opByTag tag with
  | none => m.opResume rt tag stResumed
  | some o =>
    if o.state != .suspended || m.noteFull o then m.opResume rt tag stResumed
    else
    let n := (m.opResume rt tag stResumed).quenchCellOps
    if (n.opById o.id).any (fun p => p.state != .running) then n
    else match n.jobOfOp o.id with
      | some j => n.requeueJob j
      | none =>
        match n.hall.replace, n.plan with
        | some r, some p => if r.op == o.id then (n.noteResumed o.id).replaceNext p (r.todo.length + 1) else n
        | _, _ => n

/-! ## The island (R66, R67) -/

/-- GET_IDENTITY (R66). -/
def Mach.opGetIdentity (m : Mach) (rt : RTo) : Mach :=
  let v := if m.id.tkRun then (m.id.tk.running.map (·.version)).getD 0 else 0
  m.reply rt stOk [BitVec.ofNat 32 m.id.serial, BitVec.ofNat 32 (m.id.serial / 4294967296), m.sys.cap0,
    place (m.ownPos % 65536) 0 ||| place (field v 31 24) 16 ||| place (field v 23 16) 24]

/-- MODULE_RESET (R67): refused while another is under way; with the claim held the release comes first, unless the partner is not
ready and force is 0. A partner whose pair frame is missing counts as not ready (DESIGN CHOICE, notes/assumptions/28). -/
def Mach.opModuleReset (m : Mach) (rt : RTo) (full force : Bool) : Mach :=
  if m.sys.modReset.isSome then m.reply rt stBadState []
  else if m.pair.holding then
    if !(m.pair.missRun == 0 && m.pair.partnerLast.any (fun f => f.ready)) && !force then m.reply rt stRoleHeld []
    else { m with sys.modReset := some ⟨full, rt, true, none, none, none⟩, pair.kernelRelease := true }
  else
    let m := m.reply rt stOk []
    { m with sys.modReset := some ⟨full, rt, false, none, some m.time.count, some (m.time.count + 2)⟩ }

/-- An island opcode served (R66). -/
def Mach.serveIsland (m : Mach) (op : Nat) (rt : RTo) (p : Packet) : Mach :=
  let w4 := p.word 4
  if op == ocQuench then m.opQuench rt p.cls
  else if op == ocFaultRead then m.opFaultRead rt (field w4 7 0)
  else if op == ocRecFreeze then (if bit w4 0 then m.opRecFreeze rt else m.opRecThaw rt)
  else if op == ocRecRead then m.opRecRead rt w4.toNat (field (p.word 5) 15 0)
  else if op == ocClaimRelease then m.opClaimRelease rt
  else if op == ocGetIdentity then m.opGetIdentity rt
  else m.opModuleReset rt (bit w4 0) (bit w4 1)

/-! ## Dispatch of a packet that has passed the first five checks -/

/-- The 64-bit launch count of words 4 and 5. -/
def launchOf (p : Packet) : Nat := (p.word 4).toNat + (p.word 5).toNat * 4294967296

/-- What an opcode does (R63); application firmware that does not run answers nothing. -/
def Mach.serveOp (m : Mach) (op : Nat) (rt : RTo) (p : Packet) : Mach :=
  let w4 := p.word 4
  let w5 := p.word 5
  let tag := field w4 10 0
  if islandOp op then m.serveIsland op rt p
  else if firmwareOp op && !m.id.appRun then m
  else if op == ocSetPoint then m.opSetPoint rt (field w4 15 0) w5.toNat
  else if op == ocSetCap then m.opSetCap rt (field w4 6 0) w5
  else if op == ocLaunchArm then m.opLaunchArm rt p.cls (launchOf p) (p.word 6) (p.word 7)
  else if op == ocLaunchDisarm then m.opLaunchDisarm rt tag
  else if op == ocCfgBegin then m.opCfgBegin rt p.cls
  else if op == ocCfgCommit then m.opCfgCommit rt p.cls (launchOf p)
  else if op == ocCfgRollback then m.opCfgRollback rt
  else if op == ocOpSuspend then m.serveSuspend rt tag
  else if op == ocOpResume then m.serveResume rt tag
  else if op == ocOpCancel then m.opCancel rt tag
  else if op == ocOpQuery then m.opQuery rt tag
  else if op == ocAvJobSubmit then m.opJobSubmit rt p.cls (addr48 w4 w5) (addr48 (p.word 8) (p.word 9)) (p.word 6) (p.word 7) (p.word 10)
  else if op == ocModelLoad then m.opModelLoad rt p.cls w4 (addr48 w5 (p.word 6)) (p.word 7).toNat
  else if op == ocTrainRun then m.opTrainRun rt p.cls w4 w5 (p.word 6)
  else if op == ocCapacitySweep then
    match m.capsCheck w4 w5 with
    | some st => m.reply rt st []
    | none => m.startCaps rt p.cls w4 w5
  else if op == ocBalanceCampaign then
    match m.campCheck w4 with
    | some st => m.reply rt st []
    | none => m.startCampaign rt p.cls w4 w5
  else m.opSliceReplace rt p.cls w4

/-- The first five checks of R62, in order. -/
def Mach.packetCheck (m : Mach) (op : Nat) (p : Packet) (expected : Word) : Option (Nat × List Word) :=
  if p.seq != expected then some (stBadSeq, [expected])
  else if p.cls != ringClass p.ring then some (stClassMismatch, [])
  else if !knownOp op || (isIsland p.ring && !islandOp op) then some (stBadOpcode, [])
  else match m.classCheck op p.cls (p.word 4) with
    | some st => some (st, [])
    | none => (m.tagCheck op (launchOf p) p.tag p.cls).map (fun st => (st, []))

/-- Whether the module reads a packet from a ring at present (R54, R57, R60): the ring is enabled, its status ring is not full, the
kernel runs, and a packet that waits finds every earlier one answered. -/
def Mach.mayRead (m : Mach) (p : Packet) : Bool :=
  decide (p.ring < 10) && m.time.powered && m.id.tkRun && m.ringEn p.ring && !m.stsFull p.ring && (m.ring p.ring).held.isEmpty
    && !(p.wait && (m.ring p.ring).owing != 0)

/-- A packet read from its ring and dispatched (R59–R62): the expected seq advances by one for every packet read. -/
def Mach.servePacket (m : Mach) (op : Nat) (p : Packet) : Mach :=
  if !m.mayRead p then m
  else
    let expected := m.rd (.cxCmdSeq p.ring)
    let rt : RTo := ⟨p.ring, (m.ring p.ring).epoch, p.tag % 2048, op % 256, p.seq⟩
    let m := (m.wr (.cxCmdSeq p.ring) (expected + 1)).setRing p.ring (fun r => { r with owing := r.owing + 1 })
    match m.packetCheck (op % 256) { p with tag := p.tag % 2048 } expected with
    | some x => m.reply rt x.1 x.2
    | none => m.serveOp (op % 256) rt { p with tag := p.tag % 2048 }

/-! ## The read rounds (R56, R59) -/

/-- The class a packet's field names (R60). -/
def clsOf : Nat → Cls
  | 0 => .host
  | 1 => .peer
  | 2 => .fw
  | _ => .tk

/-- The packet that stands at a ring's head, with its opcode (R60). -/
def Mach.packetAt (m : Mach) (n : Nat) : Nat × Packet :=
  let ws := m.words (m.cmdBase n + 64 * (m.rd (.cxCmdHead n)).toNat) 16
  let w0 := wordAt ws 0
  (field w0 7 0, ⟨n, clsOf (field w0 9 8), field w0 26 16, bit w0 10, wordAt ws 1, ws.drop 2⟩)

/-- One ring's turn in a round: its next unread packet, where it may be read. A packet whose line reads poisoned is served as it stands, since no
rule says otherwise (DESIGN CHOICE, notes/assumptions/92); the read finds the line's error (R209). -/
def Mach.readRing (m : Mach) (n : Nat) : Mach :=
  let head := (m.rd (.cxCmdHead n)).toNat
  if head = (m.rd (.cxCmdTail n)).toNat then m
  else
    let x := m.packetAt n
    if !m.mayRead x.2 then m
    else
      let m := m.checkRead (m.cmdBase n + 64 * head) 64
      (m.wr (.cxCmdHead n) (BitVec.ofNat 32 ((head + 1) % m.ringSize n))).servePacket x.1 x.2

/-- PACKET_READ_ROUND (R59): rounds over rings 0 to 7, I0 and I1, until no ring gives a packet; `fuel` bounds the rounds. -/
def Mach.readRounds (m : Mach) : Nat → Mach
  | 0 => m
  | fuel + 1 =>
    let n := (List.range 10).foldl Mach.readRing m
    if n.regs = m.regs then m else n.readRounds fuel

/-! ## The commands -/

/-- A packet whose opcode the row fixes. -/
def servedRow (op : Nat) (p : Packet) (s : State) : Host.Outcome State Fault Refusal := s.on (fun m => m.servePacket op p)

/-- A packet with one bit of word 4 fixed, for rows that name it. -/
def fixW4 (p : Packet) (b : Bool) : Packet := { p with words := [p.word 2, p.word 3, putBit (p.word 4) 0 b] ++ p.words.drop 3 }

/-- SET_POINT. -/
def execSetPoint (p : Packet) (s : State) : Host.Outcome State Fault Refusal := servedRow ocSetPoint p s

/-- SET_CAP. -/
def execSetCap (p : Packet) (s : State) : Host.Outcome State Fault Refusal := servedRow ocSetCap p s

/-- LAUNCH_ARM. -/
def execLaunchArm (p : Packet) (s : State) : Host.Outcome State Fault Refusal := servedRow ocLaunchArm p s

/-- LAUNCH_DISARM. -/
def execLaunchDisarm (p : Packet) (s : State) : Host.Outcome State Fault Refusal := servedRow ocLaunchDisarm p s

/-- CFG_BEGIN. -/
def execCfgBegin (p : Packet) (s : State) : Host.Outcome State Fault Refusal := servedRow ocCfgBegin p s

/-- CFG_COMMIT. -/
def execCfgCommit (p : Packet) (s : State) : Host.Outcome State Fault Refusal := servedRow ocCfgCommit p s

/-- CFG_ROLLBACK. -/
def execCfgRollback (p : Packet) (s : State) : Host.Outcome State Fault Refusal := servedRow ocCfgRollback p s

/-- OP_SUSPEND. -/
def execOpSuspend (p : Packet) (s : State) : Host.Outcome State Fault Refusal := servedRow ocOpSuspend p s

/-- OP_RESUME. -/
def execOpResume (p : Packet) (s : State) : Host.Outcome State Fault Refusal := servedRow ocOpResume p s

/-- OP_CANCEL. -/
def execOpCancel (p : Packet) (s : State) : Host.Outcome State Fault Refusal := servedRow ocOpCancel p s

/-- OP_QUERY. -/
def execOpQuery (p : Packet) (s : State) : Host.Outcome State Fault Refusal := servedRow ocOpQuery p s

/-- SAFE_POINT_REACHED. -/
def execSafePointReached (op : Nat) (s : State) : Host.Outcome State Fault Refusal := s.on (fun m => m.safePoint op)

/-- AV_JOB_SUBMIT. -/
def execAvJobSubmit (p : Packet) (s : State) : Host.Outcome State Fault Refusal := servedRow ocAvJobSubmit p s

/-- MODEL_LOAD. -/
def execModelLoad (p : Packet) (s : State) : Host.Outcome State Fault Refusal := servedRow ocModelLoad p s

/-- TRAIN_RUN. -/
def execTrainRun (p : Packet) (s : State) : Host.Outcome State Fault Refusal := servedRow ocTrainRun p s

/-- CAPACITY_SWEEP. -/
def execCapacitySweep (p : Packet) (s : State) : Host.Outcome State Fault Refusal := servedRow ocCapacitySweep p s

/-- BALANCE_CAMPAIGN. -/
def execBalanceCampaign (p : Packet) (s : State) : Host.Outcome State Fault Refusal := servedRow ocBalanceCampaign p s

/-- SLICE_REPLACE. -/
def execSliceReplace (p : Packet) (s : State) : Host.Outcome State Fault Refusal := servedRow ocSliceReplace p s

/-- QUENCH. -/
def execQuench (p : Packet) (s : State) : Host.Outcome State Fault Refusal := servedRow ocQuench p s

/-- FAULT_READ. -/
def execFaultRead (p : Packet) (s : State) : Host.Outcome State Fault Refusal := servedRow ocFaultRead p s

/-- REC_FREEZE: opcode 0xF2 with word 4 bit 0 set. -/
def execRecFreeze (p : Packet) (s : State) : Host.Outcome State Fault Refusal := servedRow ocRecFreeze (fixW4 p true) s

/-- REC_THAW: opcode 0xF2 with word 4 bit 0 clear. -/
def execRecThaw (p : Packet) (s : State) : Host.Outcome State Fault Refusal := servedRow ocRecFreeze (fixW4 p false) s

/-- REC_READ. -/
def execRecRead (p : Packet) (s : State) : Host.Outcome State Fault Refusal := servedRow ocRecRead p s

/-- CLAIM_RELEASE. -/
def execClaimRelease (p : Packet) (s : State) : Host.Outcome State Fault Refusal := servedRow ocClaimRelease p s

/-- GET_IDENTITY. -/
def execGetIdentity (p : Packet) (s : State) : Host.Outcome State Fault Refusal := servedRow ocGetIdentity p s

/-- APPLICATION_RESET: MODULE_RESET with word 4 bit 0 clear (R67). -/
def execApplicationReset (p : Packet) (s : State) : Host.Outcome State Fault Refusal := servedRow ocModuleReset (fixW4 p false) s

/-- FULL_RESET: MODULE_RESET with word 4 bit 0 set (R67). -/
def execFullReset (p : Packet) (s : State) : Host.Outcome State Fault Refusal := servedRow ocModuleReset (fixW4 p true) s

/-- BAD_OPCODE_PACKET (R62, R66): a packet whose opcode the ring does not know. -/
def execBadOpcodePacket (op : Nat) (p : Packet) (s : State) : Host.Outcome State Fault Refusal :=
  s.on (fun m => if knownOp (op % 256) && !(isIsland p.ring && !islandOp (op % 256)) then m else m.servePacket op p)

end Sys2Proof.Machine
end

