-- ==== Sys2Proof/Machine/PeerFrames.lean ====
section
/-! DEFINITION. Peer frames in their turn (R321, R323, R324): a sound frame is kept until those before it on its link have been delivered or
skipped, and then does its work. -/

namespace Sys2Proof.Machine

/-- The header and the type of a command that is a peer frame. -/
def frameOf : Instr → Option (PeerHdr × FrameType)
  | .ident h .. => some (h, .ident)
  | .leave h .. => some (h, .leave)
  | .health h .. => some (h, .health)
  | .timeExchange h .. => some (h, .time)
  | .superframe h .. => some (h, .superframe)
  | .report h .. => some (h, .report)
  | .table h .. => some (h, .table)
  | .partialSums h .. => some (h, .partialSum)
  | .claim h .. => some (h, .claim)
  | .sliceCopy h .. => some (h, .sliceCopy)
  | .gen h .. => some (h, .gen)
  | .xferAck h slice .. => some (h, .xferAck slice.isSome)
  | _ => none

/-- What a delivered frame does. -/
def Mach.frameWork (m : Mach) : Instr → Mach
  | .ident h serial pos link _ plan verdict => m.ident h serial pos link plan verdict
  | .leave h pos => m.leaveFrame h pos
  | .health h o0 o1 => m.healthFrame h o0 o1
  | .timeExchange h offset count => m.timeFrame h offset count
  | .superframe h s => m.superframeFrame h s
  | .report h r => m.reportFrame h r
  | .table h k rs => m.tableFrame h k rs
  | .partialSums h k layer level slice down sum => m.partialFrame h k layer level slice down sum
  | .claim h term pos takeover => m.claimFrame h term pos takeover
  | .sliceCopy h slice block blocks data => m.sliceCopyFrame h slice block blocks data
  | .gen h g index data => m.genFrame h g index data
  | .xferAck h slice n held => m.xferAckFrame h slice n held
  | _ => m

/-- A frame in its turn: it does its work where its link carries frames of its type (R333, R334), and is discarded otherwise. -/
def Mach.inTurn (m : Mach) (i : Instr) : Mach :=
  match frameOf i with
  | some (h, t) => if m.carriesType h.link t then m.frameWork i else m
  | none => m

/-- The frames of a link that are due are delivered in link-sequence order, skipped numbers passed over (R323, R324). `fuel` bounds them. -/
def Mach.deliverDue (n : Nat) : Nat → Mach → Mach
  | 0, m => m
  | fuel + 1, m =>
    let l := m.peer n
    let next := m.setPeer n (fun l => l.passed)
    if l.skips.contains l.due then Mach.deliverDue n fuel next
    else
      match l.early.find? (fun x => x.1 == l.due) with
      | some x => Mach.deliverDue n fuel (next.inTurn x.2)
      | none => m

/-- A received frame (R321, R323): discarded and counted where its check or its plan_tag, from which identity frames are exempt, refuses it;
a repeated one is not delivered again; one ahead of its turn waits. -/
def Mach.receive (m : Mach) (i : Instr) : Mach :=
  match frameOf i with
  | none => m
  | some (h, t) =>
    let st := (m.peer h.link).st
    if m.sys.links ≤ h.link ∨ st = .down ∨ st = .training ∨ st = .maint then m
    else if !frameSound h t || (decide (t ≠ .ident) && h.planTag != m.planTag) then m.bump (.plLinkErr h.link) 15 8 1
    else
      let m := (m.noteHeader h).setPeer h.link (fun l => l.keep h.seq i)
      Mach.deliverDue h.link ((m.peer h.link).early.length + (m.peer h.link).skips.length) m

/-- IDENT (R333). -/
def execIdent (h : PeerHdr) (serial pos link variant plan : Nat) (verdict : Bool) (s : State) : Host.Outcome State Fault Refusal :=
  s.on (fun m => m.receive (.ident h serial pos link variant plan verdict))

/-- LEAVE (R352). -/
def execLeave (h : PeerHdr) (pos : Nat) (s : State) : Host.Outcome State Fault Refusal :=
  s.on (fun m => m.receive (.leave h pos))

/-- HEALTH (R356). -/
def execHealth (h : PeerHdr) (oma0 oma1 : Int) (s : State) : Host.Outcome State Fault Refusal :=
  s.on (fun m => m.receive (.health h oma0 oma1))

/-- TIME (R39). -/
def execTimeExchange (h : PeerHdr) (offset : Int) (count : Nat) (s : State) : Host.Outcome State Fault Refusal :=
  s.on (fun m => m.receive (.timeExchange h offset count))

/-- SUPERFRAME (R337). -/
def execSuperframe (h : PeerHdr) (msg : SfMsg) (s : State) : Host.Outcome State Fault Refusal :=
  s.on (fun m => m.receive (.superframe h msg))

/-- REPORT (R338). -/
def execReport (h : PeerHdr) (r : Report) (s : State) : Host.Outcome State Fault Refusal :=
  s.on (fun m => m.receive (.report h r))

/-- TABLE (R340). -/
def execTable (h : PeerHdr) (k : Nat) (rs : List Report) (s : State) : Host.Outcome State Fault Refusal :=
  s.on (fun m => m.receive (.table h k rs))

/-- PARTIAL (R340). -/
def execPartialSums (h : PeerHdr) (k layer level slice : Nat) (down : Bool) (sum : List Word) (s : State) : Host.Outcome State Fault Refusal :=
  s.on (fun m => m.receive (.partialSums h k layer level slice down sum))

/-- CLAIM (R344). -/
def execClaim (h : PeerHdr) (term pos takeover : Nat) (s : State) : Host.Outcome State Fault Refusal :=
  s.on (fun m => m.receive (.claim h term pos takeover))

/-- SLICE_COPY (R354). -/
def execSliceCopy (h : PeerHdr) (slice block blocks : Nat) (data : List Byte) (s : State) : Host.Outcome State Fault Refusal :=
  s.on (fun m => m.receive (.sliceCopy h slice block blocks data))

/-- GEN (R355). -/
def execGen (h : PeerHdr) (g : GenHdr) (index : Nat) (data : List Byte) (s : State) : Host.Outcome State Fault Refusal :=
  s.on (fun m => m.receive (.gen h g index data))

/-- XFER_ACK (R354, R355). -/
def execXferAck (h : PeerHdr) (slice : Option Nat) (n : Nat) (held : List Nat) (s : State) : Host.Outcome State Fault Refusal :=
  s.on (fun m => m.receive (.xferAck h slice n held))

end Sys2Proof.Machine
end

