-- ==== Sys2Proof/Machine/Physical.lean ====
section
/-! DEFINITION. The module's own temperatures and derating (R550, R551) and its place on the tray management link (R545). -/

namespace Sys2Proof.Machine

/-- The die thresholds of steps 1 to 3, in 0.1 °C (R550). -/
def dieLimit (step : Nat) : Int := if step = 1 then 950 else if step = 2 then 1000 else 1050

/-- The die's dwell counts over one frame: at or above each threshold, and at least 5 °C below it (R550). -/
def PhysSt.dwell (p : PhysSt) (die : Int) : PhysSt :=
  { p with
    die := die
    dieUp := (List.range 4).map (fun s => if s ≠ 0 ∧ dieLimit s ≤ die then min (p.dieUp.getD s 0 + 1) 100 else 0)
    dieDown := (List.range 4).map (fun s => if s ≠ 0 ∧ die ≤ dieLimit s - 50 then min (p.dieDown.getD s 0 + 1) 500000 else 0) }

/-- The die's step from its dwell counts: the worst one entered, else the best one returned to. -/
def PhysSt.dieNext (p : PhysSt) : Nat :=
  match ([3, 2, 1] : List Nat).find? (fun s => decide (p.dieStep < s) && decide (100 ≤ p.dieUp.getD s 0)) with
  | some s => s
  | none =>
    match ([1, 2, 3] : List Nat).find? (fun s => decide (s ≤ p.dieStep) && decide (500000 ≤ p.dieDown.getD s 0)) with
    | some s => s - 1
    | none => p.dieStep

/-- What one frame's measurement does to the dwell counts (R550, R551, R545). -/
def Mach.physFrame (m : Mach) (flow : Nat) (inlet die : Int) : Mach :=
  let p := m.phys.dwell die
  let cold := decide (inlet < 150)
  { m with phys := { p with
      flow := flow
      inlet := inlet
      coolRun := if die < 1000 then satAdd p.coolRun 1 500000 else 0
      inletLow := if cold then satAdd p.inletLow 1 100 else 0
      inletFault := p.inletFault && cold
      plcaQuiet := satAdd p.plcaQuiet 1 200 } }

/-- THERMAL_STEP_CHANGE (R550): the worse of the coolant's and the die's step; entry into step 3 by the die records a SEVERE
fault. -/
def Mach.thermalStep (m : Mach) : Mach :=
  let d := m.phys.dieNext
  let s := max m.bel.snap.coolOwn d
  if d = m.phys.dieStep ∧ s = m.phys.modStep then m
  else
    let hot := decide (d = 3) && decide (m.phys.dieStep ≠ 3)
    let m : Mach := { m with phys := { m.phys with dieStep := d, modStep := s } }
    if hot then m.raise srcThermal .severe (place m.bel.snap.coolantStep 0) else m

/-- THERMAL_STOP (R550): at 115 °C the anvil stops as its disable does, and its readiness bit clears; after 500,000 F below
100 °C it starts again under R216. -/
def Mach.thermalStop (m : Mach) : Mach :=
  if !m.phys.stopped && decide (1150 ≤ m.phys.die) then
    let m := m.anvilOff
    { m with phys.stopped := true, phys.coolRun := 0, anvil.bist := false }
  else if m.phys.stopped && decide (500000 ≤ m.phys.coolRun) then { m with phys.stopped := false }
  else m

/-- COOLANT_INLET_LOW (R551), once per run. -/
def Mach.inletCold (m : Mach) : Mach :=
  if decide (100 ≤ m.phys.inletLow) && !m.phys.inletFault then
    ({ m with phys.inletFault := true } : Mach).raise srcThermal .info (place m.bel.snap.coolantStep 0)
  else m

/-- PLCA_NODE_TAKE (R545): `heard` says that BEACONs are heard, `other` that one comes from another node 0. -/
def Mach.plcaTake (m : Mach) (heard other : Bool) : Mach :=
  let p := m.phys
  match p.plcaNode with
  | none =>
    if heard then { m with phys.plcaNode := some 1, phys.plcaQuiet := 0 }
    else if (if m.pair.side then 200 else 100) ≤ p.plcaQuiet then { m with phys.plcaNode := some 0 }
    else m
  | some 0 => if m.pair.side && other then { m with phys.plcaNode := some 1, phys.plcaQuiet := 0 } else m
  | some _ =>
    if heard then { m with phys.plcaQuiet := 0 }
    else if 100 ≤ p.plcaQuiet then { m with phys.plcaNode := some 0 }
    else m

/-- THERMAL_STEP_CHANGE. -/
def execThermalStepChange (s : State) : Host.Outcome State Fault Refusal := s.on Mach.thermalStep

/-- THERMAL_STOP. -/
def execThermalStop (s : State) : Host.Outcome State Fault Refusal := s.on Mach.thermalStop

/-- COOLANT_INLET_LOW. -/
def execCoolantInletLow (s : State) : Host.Outcome State Fault Refusal := s.on Mach.inletCold

/-- PLCA_NODE_TAKE. -/
def execPlcaNodeTake (heard other : Bool) (s : State) : Host.Outcome State Fault Refusal := s.on (fun m => m.plcaTake heard other)

end Sys2Proof.Machine
end

