-- ==== Sys2Proof/Machine/Strike.lean ====
section
/-! DEFINITION. STRIKE (R30–R34, R46): the end of the frame that the strike closes, in the order of its windows (R31), and
the opening of the next one. The steps that the table lists as commands of their own (a validation window, a sweep start,
a publication) are no part of it. -/

namespace Sys2Proof.Machine

/-! ## The end of a frame -/

/-- +2.0 µs: whether a stage's feedback is missing in the present frame (R32). -/
def Mach.fbLate (m : Mach) : Bool := m.ready fnLoop && m.roleLinks.any (fun n => (m.link n).now.isNone)

/-- The flags of late dispatch and late loops in `SY_BUDGET` (R32, R36). -/
def Mach.budgetFlags (m : Mach) (f : FrameIn) : Mach :=
  let disp := f.dispLate && m.ready fnBellows
  let loop := m.ready fnLoop && !m.fault.quench.active && (List.range 32).any (fun k => f.loopLate.testBit k && bit (m.rd .leLoopEn) k)
  if disp || loop then m.orReg .syBudget (flag disp 1 ||| flag loop 2) else m

/-- The latest finish of the loop engine (R36): it starts at +2.0 µs and runs at ten cycles per reference cycle. -/
def Mach.noteFinish (m : Mach) : Mach :=
  if !m.ready fnLoop then m
  else m.wrField .syBudget 25 16 (max (m.rdField .syBudget 25 16) (min 1023 (200 + (m.eng.cycles + 9) / 10)))

/-- The charge counts of every enabled port over the frame (R380). -/
def Mach.chargeFrame (m : Mach) : Mach :=
  m.portsEn.foldl (fun m p =>
    let sel := m.rdField (.crPcfg p) 7 0
    m.chargeTick p (if m.usable sel then some (m.sig sel).1 else none)) m

/-- The windows of the frame that ends (R31): feedback, dispatch, loops, outputs; the rows and measurements of the frame; the
packets read in it (R59); launched commits validated again in frame L − 1 (R44); the pair's exchange. -/
def Mach.closeFrame (m : Mach) (f : FrameIn) : Mach :=
  let late := m.fbLate
  let m := ((List.range 12).foldl Mach.endLink m).budgetFlags f
  let m := (m.dispatchFrame f.dispLate).coolFrame f.flow f.inlet
  let m := ((m.loopsFrame f).noteFinish).outputFrames f.outLate
  let m := m.chargeFrame
  let m := m.readRounds 1024
  let m := (m.revalidate).pairJudge
  let m := (m.physFrame f.flow f.inlet f.die).matureForecasts.captureRow late (f.dispLate && m.ready fnBellows)
  (m.feedFrame f.feedA f.feedB).latchCause

/-! ## The opening of a frame -/

/-- A MODULE_RESET that releases the claim (R67): the strike of the release; ST_OK at the strike after the first frame in which the
partner reported holding, or 4 F after the release; the reset at the second strike after it. `holds` says what the
partner's frame of the frame before reported. -/
def Mach.resetProgress (m : Mach) (holds : Bool) : Mach :=
  let now := m.time.count
  match m.sys.modReset with
  | none => m
  | some r =>
    if !r.releasing then m
    else match r.releaseAt with
      | none => if m.pair.holding then m else { m with sys.modReset := some { r with releaseAt := some now } }
      | some a =>
        if holds || decide (a + 4 ≤ now) then
          { m.reply r.rt stOk [] with
            sys.modReset := some { r with releasing := false, postAt := some now, resetAt := some (now + 2) } }
        else m

/-- The counters that each strike moves: operating time, the transaction's age, the age toward readiness, dying (R78, R448, R522,
R527), and what a frame counts once: the fault vector, denials (R424, R494). -/
def Mach.tickCounters (m : Mach) : Mach :=
  let m : Mach := m.tickRecorder.ageReadiness
  { m with
    txn := m.txn.tick
    pair.dyingFrames := if m.pair.dying then satAdd m.pair.dyingFrames 1 1000 else 0
    fault.signalled := false
    fault.relNew := false
    ev.freezeNew := false
    fault.quench.leaveNew := false
    cxl.denied := []
    cxl.msixSent := []
    cxl.fwIrq := []
    cxl.hostReq := [] }

/-- The request lines that a strike raises (R461). -/
def Mach.strikeLines (m : Mach) : Mach :=
  let m := m.reqLine 0
  if m.time.count % 100 = 0 then m.reqLine 2 else m

/-- The strike that opens a frame (R46): the counter; the claim (R441–R443); quench, and a received alignment, before the slots
swap (R413, R439); slots; a superframe's message; commits; launches; then what follows from them. -/
def Mach.openFrame (m : Mach) : Mach :=
  let partner := m.pair.partnerNow.any (fun f => f.holding)
  let m : Mach := { m.showFrame with time.count := m.time.count + 1, time.upFrames := m.time.upFrames + 1 }
  let m := m.timeStrike.tickCounters
  let m := m.claimStrike
  let m := m.quenchDecide
  let m := m.alignStrike
  let m := m.bellowsStrike.countSince.superframeStrike.ringStrike
  let m := m.applyCommit.fireDue
  let m := (m.resetProgress partner).driverChange
  let m := m.readiness.noteRing.writeRow.sendRows
  (m.trainerStrike.shareWindow.trainPeers.strikeLines).clearFeedback

/-- STRIKE: the frame under way ends and the next one opens. Before power-good there is no strike (R524). -/
def Mach.strike (m : Mach) (f : FrameIn) : Mach :=
  if m.time.powered then (m.closeFrame f).openFrame else m

/-- STRIKE. -/
def execStrike (f : FrameIn) (s : State) : Host.Outcome State Fault Refusal := s.on (fun m => m.strike f)

end Sys2Proof.Machine
end

