-- ==== Sys2Proof/Machine/Dispatch.lean ====
section
/-! DEFINITION. The one dispatch: each command to its meaning. -/

namespace Sys2Proof.Machine

def exec (i : Instr) (s : State) : Host.Outcome State Fault Refusal :=
  match i with
  | .powerGood a0 => Sys2Proof.Machine.execPowerGood a0 s
  | .recorderMount a0 => Sys2Proof.Machine.execRecorderMount a0 s
  | .bringupLoad => Sys2Proof.Machine.execBringupLoad s
  | .bringupLoadTimeout => Sys2Proof.Machine.execBringupLoadTimeout s
  | .configSave => Sys2Proof.Machine.execConfigSave s
  | .tileSelfTest a0 => Sys2Proof.Machine.execTileSelfTest a0 s
  | .builtinPackageLoad => Sys2Proof.Machine.execBuiltinPackageLoad s
  | .readinessLimitFault a0 => Sys2Proof.Machine.execReadinessLimitFault a0 s
  | .strike a0 => Sys2Proof.Machine.execStrike a0 s
  | .setpointMissingFault => Sys2Proof.Machine.execSetpointMissingFault s
  | .cellLimitsStaleFault => Sys2Proof.Machine.execCellLimitsStaleFault s
  | .brakeHoldFault => Sys2Proof.Machine.execBrakeHoldFault s
  | .capMessageSend => Sys2Proof.Machine.execCapMessageSend s
  | .capMessageRepeat => Sys2Proof.Machine.execCapMessageRepeat s
  | .trayReport a0 a1 a2 a3 => Sys2Proof.Machine.execTrayReport a0 a1 a2 a3 s
  | .trayReportMissed a0 => Sys2Proof.Machine.execTrayReportMissed a0 s
  | .coolantStepChange => Sys2Proof.Machine.execCoolantStepChange s
  | .coolantStep3Fault => Sys2Proof.Machine.execCoolantStep3Fault s
  | .gridScheduleStep => Sys2Proof.Machine.execGridScheduleStep s
  | .swapHoldTimeout a0 a1 => Sys2Proof.Machine.execSwapHoldTimeout a0 a1 s
  | .bridgeFade a0 => Sys2Proof.Machine.execBridgeFade a0 s
  | .loopStop a0 => Sys2Proof.Machine.execLoopStop a0 s
  | .followingErrorFault a0 => Sys2Proof.Machine.execFollowingErrorFault a0 s
  | .stageFeedbackFrame a0 a1 => Sys2Proof.Machine.execStageFeedbackFrame a0 a1 s
  | .stageLinkLock a0 => Sys2Proof.Machine.execStageLinkLock a0 s
  | .stageLinkLockLoss a0 => Sys2Proof.Machine.execStageLinkLockLoss a0 s
  | .stageLinkMissFault a0 => Sys2Proof.Machine.execStageLinkMissFault a0 s
  | .outputLateFault a0 => Sys2Proof.Machine.execOutputLateFault a0 s
  | .commitValidation => Sys2Proof.Machine.execCommitValidation s
  | .commitApply => Sys2Proof.Machine.execCommitApply s
  | .loopTestPhase => Sys2Proof.Machine.execLoopTestPhase s
  | .loopTestAbort => Sys2Proof.Machine.execLoopTestAbort s
  | .launchRevalidate => Sys2Proof.Machine.execLaunchRevalidate s
  | .transactionTimeout => Sys2Proof.Machine.execTransactionTimeout s
  | .setPoint a0 => Sys2Proof.Machine.execSetPoint a0 s
  | .setCap a0 => Sys2Proof.Machine.execSetCap a0 s
  | .launchArm a0 => Sys2Proof.Machine.execLaunchArm a0 s
  | .launchDisarm a0 => Sys2Proof.Machine.execLaunchDisarm a0 s
  | .cfgBegin a0 => Sys2Proof.Machine.execCfgBegin a0 s
  | .cfgCommit a0 => Sys2Proof.Machine.execCfgCommit a0 s
  | .cfgRollback a0 => Sys2Proof.Machine.execCfgRollback a0 s
  | .opSuspend a0 => Sys2Proof.Machine.execOpSuspend a0 s
  | .opResume a0 => Sys2Proof.Machine.execOpResume a0 s
  | .opCancel a0 => Sys2Proof.Machine.execOpCancel a0 s
  | .opQuery a0 => Sys2Proof.Machine.execOpQuery a0 s
  | .safePointReached a0 => Sys2Proof.Machine.execSafePointReached a0 s
  | .avJobSubmit a0 => Sys2Proof.Machine.execAvJobSubmit a0 s
  | .modelLoad a0 => Sys2Proof.Machine.execModelLoad a0 s
  | .modelLoadBlock a0 => Sys2Proof.Machine.execModelLoadBlock a0 s
  | .trainRun a0 => Sys2Proof.Machine.execTrainRun a0 s
  | .autoTrainRun => Sys2Proof.Machine.execAutoTrainRun s
  | .capacitySweep a0 => Sys2Proof.Machine.execCapacitySweep a0 s
  | .balanceCampaign a0 => Sys2Proof.Machine.execBalanceCampaign a0 s
  | .sliceReplace a0 => Sys2Proof.Machine.execSliceReplace a0 s
  | .quench a0 => Sys2Proof.Machine.execQuench a0 s
  | .faultRead a0 => Sys2Proof.Machine.execFaultRead a0 s
  | .recFreeze a0 => Sys2Proof.Machine.execRecFreeze a0 s
  | .recThaw a0 => Sys2Proof.Machine.execRecThaw a0 s
  | .recRead a0 => Sys2Proof.Machine.execRecRead a0 s
  | .claimRelease a0 => Sys2Proof.Machine.execClaimRelease a0 s
  | .getIdentity a0 => Sys2Proof.Machine.execGetIdentity a0 s
  | .applicationReset a0 => Sys2Proof.Machine.execApplicationReset a0 s
  | .fullReset a0 => Sys2Proof.Machine.execFullReset a0 s
  | .resetExecute => Sys2Proof.Machine.execResetExecute s
  | .badOpcodePacket a0 a1 => Sys2Proof.Machine.execBadOpcodePacket a0 a1 s
  | .ringDoorbell a0 a1 a2 => Sys2Proof.Machine.execRingDoorbell a0 a1 a2 s
  | .ringEnable a0 a1 a2 => Sys2Proof.Machine.execRingEnable a0 a1 a2 s
  | .ringDisable a0 a1 a2 => Sys2Proof.Machine.execRingDisable a0 a1 a2 s
  | .statusHeadWrite a0 a1 a2 => Sys2Proof.Machine.execStatusHeadWrite a0 a1 a2 s
  | .statusPost a0 a1 a2 a3 a4 => Sys2Proof.Machine.execStatusPost a0 a1 a2 a3 a4 s
  | .stagedWrite a0 a1 a2 => Sys2Proof.Machine.execStagedWrite a0 a1 a2 s
  | .registerWrite a0 a1 a2 => Sys2Proof.Machine.execRegisterWrite a0 a1 a2 s
  | .readClear a0 a1 => Sys2Proof.Machine.execReadClear a0 a1 s
  | .latchingRead a0 a1 => Sys2Proof.Machine.execLatchingRead a0 a1 s
  | .fcAck a0 a1 => Sys2Proof.Machine.execFcAck a0 a1 s
  | .fcRaise a0 a1 => Sys2Proof.Machine.execFcRaise a0 a1 s
  | .releaseRequest a0 a1 => Sys2Proof.Machine.execReleaseRequest a0 a1 s
  | .releaseDecision => Sys2Proof.Machine.execReleaseDecision s
  | .quenchEnd => Sys2Proof.Machine.execQuenchEnd s
  | .injectReleasePair a0 a1 a2 => Sys2Proof.Machine.execInjectReleasePair a0 a1 a2 s
  | .injectForceFault a0 a1 a2 a3 => Sys2Proof.Machine.execInjectForceFault a0 a1 a2 a3 s
  | .injectForceNoFault a0 a1 a2 => Sys2Proof.Machine.execInjectForceNoFault a0 a1 a2 s
  | .injectForceNoncomp a0 a1 a2 => Sys2Proof.Machine.execInjectForceNoncomp a0 a1 a2 s
  | .faultPairChange a0 a1 => Sys2Proof.Machine.execFaultPairChange a0 a1 s
  | .pairNoncomplementary a0 a1 a2 => Sys2Proof.Machine.execPairNoncomplementary a0 a1 a2 s
  | .pairWiringClear a0 a1 a2 a3 a4 a5 => Sys2Proof.Machine.execPairWiringClear a0 a1 a2 a3 a4 a5 s
  | .faultEscalation => Sys2Proof.Machine.execFaultEscalation s
  | .collectorParityError a0 => Sys2Proof.Machine.execCollectorParityError a0 s
  | .pairFrame a0 => Sys2Proof.Machine.execPairFrame a0 s
  | .claimTake => Sys2Proof.Machine.execClaimTake s
  | .claimGiveUp => Sys2Proof.Machine.execClaimGiveUp s
  | .alignmentSegment a0 a1 a2 => Sys2Proof.Machine.execAlignmentSegment a0 a1 a2 s
  | .alignmentFail => Sys2Proof.Machine.execAlignmentFail s
  | .rowFrame a0 a1 a2 => Sys2Proof.Machine.execRowFrame a0 a1 a2 s
  | .pairLinkDown => Sys2Proof.Machine.execPairLinkDown s
  | .feedLoss a0 a1 => Sys2Proof.Machine.execFeedLoss a0 a1 s
  | .feedReturn a0 a1 => Sys2Proof.Machine.execFeedReturn a0 a1 s
  | .ejectorOpen => Sys2Proof.Machine.execEjectorOpen s
  | .plcaNodeTake a0 a1 => Sys2Proof.Machine.execPlcaNodeTake a0 a1 s
  | .holdoverEntry => Sys2Proof.Machine.execHoldoverEntry s
  | .ident a0 a1 a2 a3 a4 a5 a6 => Sys2Proof.Machine.execIdent a0 a1 a2 a3 a4 a5 a6 s
  | .leave a0 a1 => Sys2Proof.Machine.execLeave a0 a1 s
  | .health a0 a1 a2 => Sys2Proof.Machine.execHealth a0 a1 a2 s
  | .timeExchange a0 a1 a2 => Sys2Proof.Machine.execTimeExchange a0 a1 a2 s
  | .superframe a0 a1 => Sys2Proof.Machine.execSuperframe a0 a1 s
  | .superframeSend => Sys2Proof.Machine.execSuperframeSend s
  | .report a0 a1 => Sys2Proof.Machine.execReport a0 a1 s
  | .reportSend => Sys2Proof.Machine.execReportSend s
  | .table a0 a1 a2 => Sys2Proof.Machine.execTable a0 a1 a2 s
  | .tableSend => Sys2Proof.Machine.execTableSend s
  | .hallStep => Sys2Proof.Machine.execHallStep s
  | .partialSums a0 a1 a2 a3 a4 a5 a6 => Sys2Proof.Machine.execPartialSums a0 a1 a2 a3 a4 a5 a6 s
  | .claim a0 a1 a2 a3 => Sys2Proof.Machine.execClaim a0 a1 a2 a3 s
  | .mastershipClaim => Sys2Proof.Machine.execMastershipClaim s
  | .becomeMaster => Sys2Proof.Machine.execBecomeMaster s
  | .claimExpiry => Sys2Proof.Machine.execClaimExpiry s
  | .masterStepDown => Sys2Proof.Machine.execMasterStepDown s
  | .moduleDeclaredLeft => Sys2Proof.Machine.execModuleDeclaredLeft s
  | .sliceCopy a0 a1 a2 a3 a4 => Sys2Proof.Machine.execSliceCopy a0 a1 a2 a3 a4 s
  | .gen a0 a1 a2 a3 => Sys2Proof.Machine.execGen a0 a1 a2 a3 s
  | .xferAck a0 a1 a2 a3 => Sys2Proof.Machine.execXferAck a0 a1 a2 a3 s
  | .generationComplete => Sys2Proof.Machine.execGenerationComplete s
  | .peerRetransmit a0 a1 => Sys2Proof.Machine.execPeerRetransmit a0 a1 s
  | .peerFrameLost a0 a1 => Sys2Proof.Machine.execPeerFrameLost a0 a1 s
  | .peerLinkDown a0 => Sys2Proof.Machine.execPeerLinkDown a0 s
  | .peerLinkLock a0 => Sys2Proof.Machine.execPeerLinkLock a0 s
  | .linkHealthMeasure a0 => Sys2Proof.Machine.execLinkHealthMeasure a0 s
  | .planLoad a0 a1 => Sys2Proof.Machine.execPlanLoad a0 a1 s
  | .planLoadDone => Sys2Proof.Machine.execPlanLoadDone s
  | .maintTakeOut a0 a1 => Sys2Proof.Machine.execMaintTakeOut a0 a1 s
  | .maintVerify a0 a1 => Sys2Proof.Machine.execMaintVerify a0 a1 s
  | .maintVerifyDone a0 => Sys2Proof.Machine.execMaintVerifyDone a0 s
  | .cellSweepStart => Sys2Proof.Machine.execCellSweepStart s
  | .ringSampleReturn a0 a1 a2 a3 => Sys2Proof.Machine.execRingSampleReturn a0 a1 a2 a3 s
  | .ringRead a0 a1 => Sys2Proof.Machine.execRingRead a0 a1 s
  | .ringReadTimeout a0 a1 => Sys2Proof.Machine.execRingReadTimeout a0 a1 s
  | .ringData a0 a1 => Sys2Proof.Machine.execRingData a0 a1 s
  | .balSend a0 => Sys2Proof.Machine.execBalSend a0 s
  | .stopbal => Sys2Proof.Machine.execStopbal s
  | .cellRingPublish => Sys2Proof.Machine.execCellRingPublish s
  | .forecastRunStart => Sys2Proof.Machine.execForecastRunStart s
  | .forecastPublish => Sys2Proof.Machine.execForecastPublish s
  | .trainingCycleStart => Sys2Proof.Machine.execTrainingCycleStart s
  | .trainingCycleDone => Sys2Proof.Machine.execTrainingCycleDone s
  | .reencodeDone => Sys2Proof.Machine.execReencodeDone s
  | .generationAdopt => Sys2Proof.Machine.execGenerationAdopt s
  | .trainCapPark => Sys2Proof.Machine.execTrainCapPark s
  | .anvilBundleIssue => Sys2Proof.Machine.execAnvilBundleIssue s
  | .anvilPreempt => Sys2Proof.Machine.execAnvilPreempt s
  | .anvilRestore => Sys2Proof.Machine.execAnvilRestore s
  | .anvilJobComplete => Sys2Proof.Machine.execAnvilJobComplete s
  | .digestHashDone => Sys2Proof.Machine.execDigestHashDone s
  | .tileFault a0 a1 => Sys2Proof.Machine.execTileFault a0 a1 s
  | .thermalStepChange => Sys2Proof.Machine.execThermalStepChange s
  | .thermalStop => Sys2Proof.Machine.execThermalStop s
  | .lockstepDigest a0 a1 a2 a3 => Sys2Proof.Machine.execLockstepDigest a0 a1 a2 a3 s
  | .lockstepDivergence a0 => Sys2Proof.Machine.execLockstepDivergence a0 s
  | .lockstepSearchDone a0 => Sys2Proof.Machine.execLockstepSearchDone a0 s
  | .lockstepPortDown => Sys2Proof.Machine.execLockstepPortDown s
  | .eccReadError a0 a1 => Sys2Proof.Machine.execEccReadError a0 a1 s
  | .scrubLine a0 a1 => Sys2Proof.Machine.execScrubLine a0 a1 s
  | .ceWindowEnd => Sys2Proof.Machine.execCeWindowEnd s
  | .stackOutOfService a0 a1 => Sys2Proof.Machine.execStackOutOfService a0 a1 s
  | .stackRetrain a0 a1 a2 => Sys2Proof.Machine.execStackRetrain a0 a1 a2 s
  | .watermarkAdvance a0 a1 => Sys2Proof.Machine.execWatermarkAdvance a0 a1 s
  | .dmaChannelStart a0 a1 => Sys2Proof.Machine.execDmaChannelStart a0 a1 s
  | .dmaChannelDisable a0 a1 => Sys2Proof.Machine.execDmaChannelDisable a0 a1 s
  | .dmaChannelEnable a0 a1 => Sys2Proof.Machine.execDmaChannelEnable a0 a1 s
  | .dmaDescriptorFetch a0 a1 => Sys2Proof.Machine.execDmaDescriptorFetch a0 a1 s
  | .dmaBurst a0 a1 => Sys2Proof.Machine.execDmaBurst a0 a1 s
  | .dmaDescriptorDone a0 => Sys2Proof.Machine.execDmaDescriptorDone a0 s
  | .dmaFenceDone a0 => Sys2Proof.Machine.execDmaFenceDone a0 s
  | .dmaRequestLine a0 => Sys2Proof.Machine.execDmaRequestLine a0 s
  | .dmaRequestWithdraw a0 => Sys2Proof.Machine.execDmaRequestWithdraw a0 s
  | .dmaCreditTick => Sys2Proof.Machine.execDmaCreditTick s
  | .dmaTargetTimeout a0 => Sys2Proof.Machine.execDmaTargetTimeout a0 s
  | .dmaLateWriteError a0 => Sys2Proof.Machine.execDmaLateWriteError a0 s
  | .cxlMemRead a0 => Sys2Proof.Machine.execCxlMemRead a0 s
  | .cxlMemWrite a0 a1 => Sys2Proof.Machine.execCxlMemWrite a0 a1 s
  | .cxlLinkUp a0 a1 a2 a3 a4 a5 a6 => Sys2Proof.Machine.execCxlLinkUp a0 a1 a2 a3 a4 a5 a6 s
  | .cxlLinkDown a0 => Sys2Proof.Machine.execCxlLinkDown a0 s
  | .hdmDecoderCommit a0 a1 a2 a3 a4 => Sys2Proof.Machine.execHdmDecoderCommit a0 a1 a2 a3 a4 s
  | .rdownNodata a0 => Sys2Proof.Machine.execRdownNodata a0 s
  | .hostWindowAccess a0 a1 a2 a3 a4 => Sys2Proof.Machine.execHostWindowAccess a0 a1 a2 a3 a4 s
  | .getVersion a0 => Sys2Proof.Machine.execGetVersion a0 s
  | .getCapabilities a0 => Sys2Proof.Machine.execGetCapabilities a0 s
  | .negotiateAlgorithms a0 => Sys2Proof.Machine.execNegotiateAlgorithms a0 s
  | .getDigests a0 => Sys2Proof.Machine.execGetDigests a0 s
  | .getCertificate a0 => Sys2Proof.Machine.execGetCertificate a0 s
  | .challenge a0 => Sys2Proof.Machine.execChallenge a0 s
  | .getMeasurements a0 => Sys2Proof.Machine.execGetMeasurements a0 s
  | .spdmUnsupportedRequest a0 a1 => Sys2Proof.Machine.execSpdmUnsupportedRequest a0 a1 s
  | .stage a0 => Sys2Proof.Machine.execStage a0 s
  | .stageDone => Sys2Proof.Machine.execStageDone s
  | .updCommit a0 => Sys2Proof.Machine.execUpdCommit a0 s
  | .discard a0 => Sys2Proof.Machine.execDiscard a0 s
  | .token a0 => Sys2Proof.Machine.execToken a0 s
  | .endTest a0 => Sys2Proof.Machine.execEndTest a0 s
  | .eventRecordStore => Sys2Proof.Machine.execEventRecordStore s
  | .freezeEffect => Sys2Proof.Machine.execFreezeEffect s
  | .autoThaw => Sys2Proof.Machine.execAutoThaw s
  | .operatingTimeSave => Sys2Proof.Machine.execOperatingTimeSave s
  | .flashWriteFail => Sys2Proof.Machine.execFlashWriteFail s
  | .suspectClear a0 a1 => Sys2Proof.Machine.execSuspectClear a0 a1 s
  | .pairLinkUp a0 a1 a2 => Sys2Proof.Machine.execPairLinkUp a0 a1 a2 s
  | .lockstepPortUp a0 => Sys2Proof.Machine.execLockstepPortUp a0 s
  | .lockstepPartnerOutcome a0 => Sys2Proof.Machine.execLockstepPartnerOutcome a0 s
  | .holdUpEnd => Sys2Proof.Machine.execHoldUpEnd s
  | .brakeNNetChange a0 => Sys2Proof.Machine.execBrakeNNetChange a0 s
  | .coolantInletLow => Sys2Proof.Machine.execCoolantInletLow s
  | .stackHot a0 a1 => Sys2Proof.Machine.execStackHot a0 a1 s
  | .initialEncodingDone => Sys2Proof.Machine.execInitialEncodingDone s
  | .holdingWithoutStandby => Sys2Proof.Machine.execHoldingWithoutStandby s
  | .sliceCopyRestart => Sys2Proof.Machine.execSliceCopyRestart s
  | .identRepeat => Sys2Proof.Machine.execIdentRepeat s
  | .absentUnitRead a0 a1 => Sys2Proof.Machine.execAbsentUnitRead a0 a1 s

end Sys2Proof.Machine
end

