-- ==== Sys2Proof/WellFormed.lean ====
section
/-! DEFINITION. Which command terms the module's interfaces can carry: operand ranges from the widths and counts of spec/.
No meaning relies on it; every command has its meaning on every operand. -/

namespace Sys2Proof

/-- A packet (R53, R60): one of the ten rings, an 11-bit tag, words 2 to 15. -/
def packetOk (p : Packet) : Bool := decide (p.ring < 10) && decide (p.tag < 2048) && p.words.length == 14

/-- Late marks of a frame (R32): 32 loops, 12 stage links. -/
def frameOk (f : FrameIn) : Bool := decide (f.loopLate < 4294967296) && decide (f.outLate < 4096)

/-- A feedback frame (R160): sixteen channels, each with its valid bit. -/
def feedbackOk (f : FeedbackIn) : Bool := decide (f.chValid < 65536) && f.channels.length == 16

/-- A header of a peer frame (R320): one of 48 links, the widths of its fields. -/
def headerOk (h : PeerHdr) : Bool :=
  decide (h.link < 48) && decide (h.type < 256) && decide (h.cls < 4) && decide (h.length < 65536)
    && [h.src, h.dst, h.seq, h.ack, h.term, h.planTag].all (fun x => decide (x < 65536))

/-- A pair frame (R435): the widths of its fields. -/
def pairFrameOk (f : PairFrame) : Bool :=
  decide (f.seq < 256) && decide (f.claimNum < 256) && decide (f.cause < 16) && decide (f.coolantNext < 4)
    && decide (f.fcTag < 16777216) && decide (f.excluded < 4294967296)

/-- A DATA frame (R366): header fields of a byte each, sixteen cells, four groups, four sensors. -/
def cellDataOk (d : CellData) : Bool :=
  decide (d.type < 256) && decide (d.hop < 256) && decide (d.count < 256) && decide (d.flags < 256) && d.prim.length == 16 && d.coarse.length == 4 && d.temps.length == 4 && d.charges.length == 16

/-- A change of pairs (R400, R407): a reference cycle of the frame. -/
def cycleOk (cycle : Nat) : Bool := decide (cycle < 1000)

/-- A source code of R405, a kind code of R406. -/
def sourceOk (source : Nat) : Bool := decide (source < 256)

/-- A history row (R261): 32 words. -/
def rowOk (row : List Word) : Bool := row.length == 32

/-- A register address (R10): a word of the 16 MiB register file. -/
def regAddrOk (addr : Nat) : Bool := decide (addr < 16777216) && addr % 4 == 0

/-- The bytes of a CXL.mem write (R489): one line. -/
def lineOk (bytes : List (Option Byte)) : Bool := bytes.length == 64

/-- An address of the device's physical space (R482). -/
def devAddrOk (addr : Nat) : Bool := decide (addr < 281474976710656)

/-- A command whose operands its interface can carry. -/
def Instr.wf : Instr → Bool
  | .powerGood _ => true
  | .recorderMount _ => true
  | .bringupLoad => true
  | .bringupLoadTimeout => true
  | .configSave => true
  | .tileSelfTest failed => decide (failed < 18446744073709551616)
  | .builtinPackageLoad => true
  | .readinessLimitFault n => decide (n < 13)
  | .strike f => frameOk f
  | .setpointMissingFault => true
  | .cellLimitsStaleFault => true
  | .brakeHoldFault => true
  | .capMessageSend => true
  | .capMessageRepeat => true
  | .trayReport tray _ _ _ => decide (0 < tray) && decide (tray < 64)
  | .trayReportMissed tray => decide (0 < tray) && decide (tray < 64)
  | .coolantStepChange => true
  | .coolantStep3Fault => true
  | .gridScheduleStep => true
  | .swapHoldTimeout k j => decide (k < 32) && decide (j < 8)
  | .bridgeFade k => decide (k < 32)
  | .loopStop k => decide (k < 32)
  | .followingErrorFault k => decide (k < 32)
  | .stageFeedbackFrame n f => decide (n < 12) && feedbackOk f
  | .stageLinkLock n => decide (n < 12)
  | .stageLinkLockLoss n => decide (n < 12)
  | .stageLinkMissFault n => decide (n < 12)
  | .outputLateFault n => decide (n < 12)
  | .commitValidation => true
  | .commitApply => true
  | .loopTestPhase => true
  | .loopTestAbort => true
  | .launchRevalidate => true
  | .transactionTimeout => true
  | .setPoint p => packetOk p
  | .setCap p => packetOk p
  | .launchArm p => packetOk p
  | .launchDisarm p => packetOk p
  | .cfgBegin p => packetOk p
  | .cfgCommit p => packetOk p
  | .cfgRollback p => packetOk p
  | .opSuspend p => packetOk p
  | .opResume p => packetOk p
  | .opCancel p => packetOk p
  | .opQuery p => packetOk p
  | .safePointReached _ => true
  | .avJobSubmit p => packetOk p
  | .modelLoad p => packetOk p
  | .modelLoadBlock bank => decide (bank < 4)
  | .trainRun p => packetOk p
  | .autoTrainRun => true
  | .capacitySweep p => packetOk p
  | .balanceCampaign p => packetOk p
  | .sliceReplace p => packetOk p
  | .quench p => packetOk p
  | .faultRead p => packetOk p
  | .recFreeze p => packetOk p
  | .recThaw p => packetOk p
  | .recRead p => packetOk p
  | .claimRelease p => packetOk p
  | .getIdentity p => packetOk p
  | .applicationReset p => packetOk p
  | .fullReset p => packetOk p
  | .resetExecute => true
  | .badOpcodePacket op p => decide (op < 256) && packetOk p
  | .ringDoorbell _ n _ => decide (n < 10)
  | .ringEnable _ n _ => decide (n < 10)
  | .ringDisable _ n _ => decide (n < 10)
  | .statusHeadWrite _ n _ => decide (n < 10)
  | .statusPost ring tag _ _ _ => decide (ring < 10) && decide (tag < 2048)
  | .stagedWrite _ addr _ => regAddrOk addr
  | .registerWrite _ addr _ => regAddrOk addr
  | .readClear _ addr => regAddrOk addr
  | .latchingRead _ addr => regAddrOk addr
  | .fcAck _ _ => true
  | .fcRaise _ _ => true
  | .releaseRequest _ _ => true
  | .releaseDecision => true
  | .quenchEnd => true
  | .injectReleasePair _ source _ => sourceOk source
  | .injectForceFault _ source _ kind => sourceOk source && decide (kind < 16)
  | .injectForceNoFault _ source _ => sourceOk source
  | .injectForceNoncomp _ source _ => sourceOk source
  | .faultPairChange _ cycle => cycleOk cycle
  | .pairNoncomplementary source _ cycle => sourceOk source && cycleOk cycle
  | .pairWiringClear source _ _ _ _ cycle => sourceOk source && cycleOk cycle
  | .faultEscalation => true
  | .collectorParityError _ => true
  | .pairFrame f => pairFrameOk f
  | .claimTake => true
  | .claimGiveUp => true
  | .alignmentSegment _ _ _ => true
  | .alignmentFail => true
  | .rowFrame _ _ row => rowOk row
  | .pairLinkDown => true
  | .feedLoss _ _ => true
  | .feedReturn _ _ => true
  | .ejectorOpen => true
  | .plcaNodeTake _ _ => true
  | .holdoverEntry => true
  | .ident h _ _ _ _ _ _ => headerOk h
  | .leave h _ => headerOk h
  | .health h _ _ => headerOk h
  | .timeExchange h _ _ => headerOk h
  | .superframe h _ => headerOk h
  | .superframeSend => true
  | .report h _ => headerOk h
  | .reportSend => true
  | .table h _ _ => headerOk h
  | .tableSend => true
  | .hallStep => true
  | .partialSums h _ _ _ _ _ _ => headerOk h
  | .claim h _ _ _ => headerOk h
  | .mastershipClaim => true
  | .becomeMaster => true
  | .claimExpiry => true
  | .masterStepDown => true
  | .moduleDeclaredLeft => true
  | .sliceCopy h _ _ _ _ => headerOk h
  | .gen h _ _ _ => headerOk h
  | .xferAck h _ _ _ => headerOk h
  | .generationComplete => true
  | .peerRetransmit n _ => decide (n < 48)
  | .peerFrameLost n _ => decide (n < 48)
  | .peerLinkDown n => decide (n < 48)
  | .peerLinkLock n => decide (n < 48)
  | .linkHealthMeasure ms => ms.all (fun r => decide (r.link < 48))
  | .planLoad _ _ => true
  | .planLoadDone => true
  | .maintTakeOut _ link => decide (link < 48)
  | .maintVerify _ link => decide (link < 48)
  | .maintVerifyDone r => decide (r.link < 48)
  | .cellSweepStart => true
  | .ringSampleReturn p _ _ _ => decide (p < 4)
  | .ringRead p _ => decide (p < 4)
  | .ringReadTimeout p _ => decide (p < 4)
  | .ringData p d => decide (p < 4) && cellDataOk d
  | .balSend p => decide (p < 4)
  | .stopbal => true
  | .cellRingPublish => true
  | .forecastRunStart => true
  | .forecastPublish => true
  | .trainingCycleStart => true
  | .trainingCycleDone => true
  | .reencodeDone => true
  | .generationAdopt => true
  | .trainCapPark => true
  | .anvilBundleIssue => true
  | .anvilPreempt => true
  | .anvilRestore => true
  | .anvilJobComplete => true
  | .digestHashDone => true
  | .tileFault tile _ => decide (tile < 64)
  | .thermalStepChange => true
  | .thermalStop => true
  | .lockstepDigest _ _ slots _ => slots.length == 4
  | .lockstepDivergence _ => true
  | .lockstepSearchDone _ => true
  | .lockstepPortDown => true
  | .eccReadError _ errs => errs.all (fun e => decide (e.1 < 68))
  | .scrubLine _ errs => errs.all (fun e => decide (e.1 < 68))
  | .ceWindowEnd => true
  | .stackOutOfService stack _ => decide (stack < 8)
  | .stackRetrain stack _ _ => decide (stack < 8)
  | .watermarkAdvance stack _ => decide (stack < 8)
  | .dmaChannelStart _ ch => decide (ch < 32)
  | .dmaChannelDisable _ ch => decide (ch < 32)
  | .dmaChannelEnable _ ch => decide (ch < 32)
  | .dmaDescriptorFetch ch _ => decide (ch < 32)
  | .dmaBurst _ _ => true
  | .dmaDescriptorDone ch => decide (ch < 32)
  | .dmaFenceDone ch => decide (ch < 32)
  | .dmaRequestLine line => decide (line < 6)
  | .dmaRequestWithdraw line => decide (line < 6)
  | .dmaCreditTick => true
  | .dmaTargetTimeout ch => decide (ch < 32)
  | .dmaLateWriteError ch => decide (ch < 32)
  | .cxlMemRead addr => devAddrOk addr
  | .cxlMemWrite addr bytes => devAddrOk addr && lineOk bytes
  | .cxlLinkUp _ _ _ _ _ _ msixMask => decide (msixMask < 18446744073709551616)
  | .cxlLinkDown _ => true
  | .hdmDecoderCommit i _ _ _ _ => decide (i < 2)
  | .rdownNodata ring => decide (ring < 10)
  | .hostWindowAccess _ addr _ _ _ => devAddrOk addr
  | .getVersion _ => true
  | .getCapabilities _ => true
  | .negotiateAlgorithms _ => true
  | .getDigests _ => true
  | .getCertificate _ => true
  | .challenge _ => true
  | .getMeasurements _ => true
  | .spdmUnsupportedRequest code _ => decide (code < 256)
  | .stage _ => true
  | .stageDone => true
  | .updCommit _ => true
  | .discard _ => true
  | .token _ => true
  | .endTest _ => true
  | .eventRecordStore => true
  | .freezeEffect => true
  | .autoThaw => true
  | .operatingTimeSave => true
  | .flashWriteFail => true
  | .suspectClear _ _ => true
  | .pairLinkUp _ _ _ => true
  | .lockstepPortUp _ => true
  | .lockstepPartnerOutcome _ => true
  | .holdUpEnd => true
  | .brakeNNetChange _ => true
  | .coolantInletLow => true
  | .stackHot stack _ => decide (stack < 8)
  | .initialEncodingDone => true
  | .holdingWithoutStandby => true
  | .sliceCopyRestart => true
  | .identRepeat => true
  | .absentUnitRead _ addr => regAddrOk addr

end Sys2Proof
end

