-- ==== Sys2Proof/Safety.lean ====
section
/-! DEFINITION. What a sound state of the block is, in the terms the statements use: the canonical form of the register file and
of the memories, and runs of commands. -/

namespace Sys2Proof.Machine

/-- The canonical form of a byte memory: addresses strictly rising, and no entry equal to what an unlisted address reads as. -/
def Memory.wf (t : Sparse 8) : Bool := swf t

/-- The canonical form of the register file's differences from reset. -/
def Regs.wf (t : Sparse 32) : Bool := swf t

/-- A state in canonical form: equal memories and equal register files are equal data. -/
def Mach.canonical (m : Mach) : Bool := Regs.wf m.regs && Memory.wf m.mem

/-- A state from which another is reached by steps. -/
inductive Reaches : State → State → Prop where
  | refl (s : State) : Reaches s s
  | step {s t u : State} : Reaches s t → Machine.step t = .next u → Reaches s u

/-! The terms of the statements. -/

/-- The command `c`, met by the module `m`, makes it the module `n`: `exec` answers a next state whose module is `n` after what
every command ends with, and whose queue is as it was. -/
def Gives (c : Instr) (m n : Mach) : Prop := ∀ q : List Instr, exec c ⟨m, q⟩ = .next ⟨settle m n, q⟩

/-- The command `c`, met by the module `m`, completes: whatever waits in the queue, `exec` answers a next state with the same queue,
whose module has the effect `p`. -/
def Completes (c : Instr) (m : Mach) (p : Mach → Prop) : Prop := ∀ q : List Instr, ∃ n : Mach, exec c ⟨m, q⟩ = .next ⟨n, q⟩ ∧ p n

/-- The module that has read a packet (R60, R62): its ring expects the next seq, and owes it a first reply. -/
def Mach.hasRead (m : Mach) (p : Packet) : Mach :=
  (m.wr (.cxCmdSeq p.ring) (m.rd (.cxCmdSeq p.ring) + 1)).setRing p.ring (fun r => { r with owing := r.owing + 1 })

/-- Where the replies of a packet go (R57, R61). -/
def Mach.backTo (m : Mach) (op : Nat) (p : Packet) : RTo := ⟨p.ring, (m.ring p.ring).epoch, p.tag, op, p.seq⟩

/-- The module reads a packet, and its first five checks answer `x` (R62). -/
def Mach.judges (m : Mach) (op : Nat) (p : Packet) (x : Option (Nat × List Word)) : Prop :=
  p.tag < 2048 ∧ m.mayRead p = true ∧ (m.hasRead p).packetCheck op p (m.rd (.cxCmdSeq p.ring)) = x

/-- The module reads a packet, its first five checks pass, and where the opcode is application firmware's that firmware runs. -/
def Mach.serves (m : Mach) (op : Nat) (p : Packet) : Prop :=
  m.judges op p none ∧ (firmwareOp op = true → m.id.appRun = true)

/-- The module that has read a packet and keeps a new running operation for it in the tracker (R70). -/
def Mach.tracks (m : Mach) (op : Nat) (p : Packet) : Mach :=
  { m.hasRead p with
    ops := m.ops ++ [⟨m.nextOp, m.backTo op p, p.cls, .running, false, m.time.count, none, 0⟩]
    nextOp := m.nextOp + 1 }

/-- A class's access of a register reaches it (R10, R491, R497). -/
def Mach.lands (m : Mach) (c : Cls) (r : Reg) (write : Bool) : Prop :=
  r.inRange = true ∧ m.dark c r.addr = false ∧ m.regMay c r.addr write = true ∧ m.absentAt r.addr = false

/-- A received frame of type `t` is delivered at once (R320, R321, R323, R333): its CRC and type hold, and its plan_tag unless it is an
identity frame; its number is the next one of its link, on which nothing waits; and its link carries frames of its type. -/
def Mach.hears (m : Mach) (h : PeerHdr) (t : FrameType) : Prop :=
  h.link < m.sys.links ∧ h.link < m.peers.length ∧ frameSound h t = true ∧ (t = .ident ∨ h.planTag = m.planTag) ∧
  h.seq = (m.peer h.link).due ∧ (m.peer h.link).early = [] ∧ (m.peer h.link).skips = [] ∧ h.skipped = [] ∧
  m.carriesType h.link t = true

/-- The module that has heard a frame: what it acknowledges leaves the retry buffer with its skip markers, its term counts for the highest
term seen (R343), and its number is the last one delivered. -/
def Mach.heard (m : Mach) (h : PeerHdr) : Mach := (m.noteHeader h).setPeer h.link (fun l => { l with rx := h.seq })

end Sys2Proof.Machine
end

