-- ==== Sys2Proof/Certificates/Slice0/Obligations.lean ====
section
/-! DEFINITION. The statements about the model that are to be proved, each with the rules of spec/ it formalises; OBLIGATIONS.json
lists them. -/

open Sys2Proof Sys2Proof.Machine

/-- A step runs the command at the front of the queue with the queue behind it; an empty queue idles. For every command c, queue
rest and module m: step with c in front is exec of c on the module with the rest; withFront puts a command in front; with an
empty queue step answers the same state (the idling is the model's choice, notes/assumptions/1). Cites
95_what_each_step_holds.md, 03_commands_transactions.md. -/
def Obligations.StepRunsTheFrontCommand : Prop :=
  (∀ (c : Instr) (rest : List Instr) (m : Mach), step ⟨m, c :: rest⟩ = exec c ⟨m, rest⟩) ∧
  (∀ (c : Instr) (s : State), step (s.withFront c) = exec c s) ∧
  ∀ m : Mach, step ⟨m, []⟩ = .next ⟨m, []⟩

/-- Every command on every state answers a next state and leaves the waiting commands alone. No command of the table faults or
is refused, whatever the module holds, and none of them changes the queue behind it. Cites 95_what_each_step_holds.md,
00_scope.md. -/
def Obligations.EveryCommandAnswersANextState : Prop :=
  ∀ (c : Instr) (m : Mach) (q : List Instr), ∃ n : Mach, exec c ⟨m, q⟩ = .next ⟨n, q⟩

/-- Each command of the clock, the links, the engines and the outside world completes: exec answers a next state with the
command's own effect. For each command named, on every module and operands that meet the conditions of its rule for normal
execution, exec answers a next state, whatever waits in the queue, and that state holds the effect: POWER_GOOD and bring-up,
configuration transactions and launched commits, the bellows and loop engine rows, stage links, module loads and resets, the
pair, feeds and lever, peer links, plans and maintenance, time, reports and superframes, mastership, hall steps, slices and
generations, the cell ring, forecaster and training, anvil jobs, temperatures, lock-step, ECC and stacks, DMA, the CXL port,
SPDM, firmware updates and the recorder. Cites 95_what_each_step_holds.md, 04_bellows_dispatch.md, 06_loop_supervision.md,
07_anvil_architecture.md, 09_forecaster_learning.md, 11_hall_fabric.md, 12_cell_ring.md, 14_redundant_pair.md, 15_dma.md,
16_cxl_and_memory.md, 17_identity_firmware.md, 18_bringup_recorder.md. -/
def Obligations.EveryTimedOrOutsideCommandCompletes : Prop :=
  (∀ (m : Mach) (p : PowerInputs), m.time.powered = false → p.leverLatched = true → 184 < p.feedA → Completes (.powerGood p) m (fun n => n.time.powered = true ∧ n.sys.straps = p.straps)) ∧
  (∀ m : Mach, m.sys.capValid = true → m.ev.mounted = false → m.ev.mountFailed = false → Completes (.recorderMount true) m (fun n => n.ev.mounted = true ∧ n.ev.powerGoodQueued = true)) ∧
  (∀ (m : Mach) (c : SavedCfg), m.sys.capValid = true → m.id.appRun = true → m.sys.cfgLoaded = false → newestCopy m.sys.saved = some c → (m.placePlan ((m.overlay (m.loadWords c)).planBuf)).validate (m.loadWords c) .fw false = none → Completes .bringupLoad m (fun n => n.sys.cfgLoaded = true)) ∧
  (∀ m : Mach, m.sys.capValid = true → m.sys.cfgLoaded = false → 10000 ≤ m.time.upFrames → Completes .bringupLoadTimeout m (fun n => n.sys.cfgLoaded = true ∧ n.sys.cfgFailed = true)) ∧
  (∀ (m : Mach) (k : Nat), m.sys.savePending = some k → m.id.appRun = true → Completes .configSave m (fun n => n.sys.savePending = none ∧ ∃ ws, n.sys.saved = ((⟨k, ws, true⟩ : SavedCfg) :: m.sys.saved).take 2)) ∧
  (∀ (m : Mach) (f : Nat), m.sys.capValid = true → m.sys.tiles ≠ 0 → m.anvil.bist = false → m.phys.stopped = false → Completes (.tileSelfTest f) m (fun n => n.anvil.bist = true)) ∧
  (∀ m : Mach, m.id.appRun = true → m.ready fnAnvil = true → (m.bank 0).valid = false → (m.bank 0).loading = false → m.tagHeld 0x7EF = false → m.inFlight < 2048 → ∃ r : Mach × Nat, r = m.addOp (m.fwRt 0x7EF ocModelLoad) .fw ∧ Gives .builtinPackageLoad m ((({ r.1 with fc.loads := r.1.fc.loads ++ [⟨r.2, 0, none, Config.builtinPackage.length, []⟩] } : Mach).setBank 0 (fun k => { k with loading := true })).reply (m.fwRt 0x7EF ocModelLoad) stAccepted [])) ∧
  (∀ (m : Mach) (k l : Nat), readyLimits.find? (fun x => x.1 == k) = some (k, l) → m.time.powered = true → m.readyOwed k = true → m.ready k = false → m.sys.limitDone.testBit k = false → l ≤ m.sys.readyAge.getD k 0 → Completes (.readinessLimitFault k) m (fun n => n.sys.limitDone = m.sys.limitDone ||| (1 <<< k))) ∧
  (∀ (m : Mach) (f : FrameIn), m.time.powered = true → Gives (.strike f) m (m.strike f)) ∧
  (∀ m : Mach, 4 ≤ m.bel.snap.spMiss → m.bel.spFault = false → Completes .setpointMissingFault m (fun n => n.bel.spFault = true)) ∧
  (∀ (m : Mach) (p : Int), m.cell.pubAt = some p → p + 2000 ≤ m.time.count → m.en fnCellring = true → m.bel.limFault = false → Completes .cellLimitsStaleFault m (fun n => n.bel.limFault = true)) ∧
  (∀ m : Mach, m.bel.brakeOn = true → m.pair.holding = true → m.fault.quench.active = false → m.bel.brakeFault = false → 100 * m.rdField .bdBrakeCfg 31 16 < m.bel.snap.brakeHold → Completes .brakeHoldFault m (fun n => n.bel.brakeFault = true)) ∧
  (∀ m : Mach, m.pair.holding = true → m.fault.quench.active = false → m.ready fnBellows = true → m.bel.started = true → Gives .capMessageSend m ((m.served.mapIdx (fun i t => (i, t))).foldl (fun k x => k.setTray x.2 (fun t => { t with sent := some (k.bel.snap.trayCaps.getD x.1 4294967295) })) m) ∧ (m.bel.snap.lastRepeat + 10000 ≤ m.time.count → Completes .capMessageRepeat m (fun n => n.bel.snap.lastRepeat = m.time.count))) ∧
  (∀ (m : Mach) (t cap draw rel : Nat), t ≠ 0 → Completes (.trayReport t cap draw rel) m (fun n => n.bel.trays = m.bel.trays.modify (t - 1) (fun x => { x with cap := cap, draw := draw, release := rel, heardAt := some m.time.count, missed := false }))) ∧
  (∀ (m : Mach) (t : Nat), m.ready fnBellows = true → m.bel.started = true → t ∈ m.served → (m.tray t).missed = false → max m.bel.startAt ((m.tray t).heardAt.getD m.bel.startAt) + 300 < m.time.count → Completes (.trayReportMissed t) m (fun n => n.bel = (m.setTray t (fun x => { x with missed := true })).bel)) ∧
  (∀ m : Mach, m.coolDue ≠ m.bel.snap.coolantStep → Completes .coolantStepChange m (fun n => n.bel.snap.coolantStep = m.coolDue)) ∧
  (∀ m : Mach, 30000 < m.bel.step3Run → m.bel.step3Fault = false → Completes .coolantStep3Fault m (fun n => n.bel.step3Fault = true)) ∧
  (∀ (m : Mach) (x : Int × Word), m.time.count % 100000 = 0 → (m.bel.sched.filter (fun x => decide (x.1 + 100 ≤ (m.time.count : Int)))).getLast? = some x → Completes .gridScheduleStep m (fun n => n.bel.sched = m.bel.sched.filter (fun y => decide ((m.time.count : Int) < y.1 + 100)))) ∧
  (∀ (m : Mach) (k j h : Nat), m.fault.quench.active = false → (m.loop k).s.hold.getD j none = some h → m.rdField (.leSched k) 31 16 ≤ h → Completes (.swapHoldTimeout k j) m (fun n => n.eng.loops = m.eng.loops.set k { m.loop k with s.hold := (m.loop k).s.hold.set j none })) ∧
  (∀ (m : Mach) (k : Nat), m.fault.quench.active = false → (m.loop k).started = true → (m.loop k).fadeDue m.time.count = true → Completes (.bridgeFade k) m (fun n => n.eng.loops = m.eng.loops.set k (m.loop k).enterFade)) ∧
  (∀ (m : Mach) (k : Nat), m.fault.quench.active = false → (m.loop k).missed = true → (m.loop k).s.stopped = false → m.missLim k ≤ (m.loop k).s.missRun → Completes (.loopStop k) m (fun n => n.eng.loops = m.eng.loops.set k { m.loop k with s.stopped := true })) ∧
  (∀ (m : Mach) (k : Nat), m.fault.quench.active = false → (m.loop k).started = true → (m.loop k).feActive = false → field (m.rd (.leSup k)) 15 0 ≠ 0 → field (m.rd (.leSup k)) 15 0 ≤ (m.loop k).s.feCount → Completes (.followingErrorFault k) m (fun n => n.eng.loops = m.eng.loops.set k { m.loop k with feActive := true })) ∧
  (∀ (m : Mach) (i : Nat) (f : FeedbackIn), i < 12 → m.role i ≠ 0 → (m.link i).lock = true → (m.link i).now = none → (m.link i).failed = false → feedbackFails f i m.time.count = none → Completes (.stageFeedbackFrame i f) m (fun n => n.eng.links = m.eng.links.modify i (fun l => { l with now := some f, last := f, goodRun := satAdd l.goodRun 1 3, inService := (l.inService || decide (2 ≤ l.goodRun)), missRun := 0, missFault := false }))) ∧
  (∀ (m : Mach) (i : Nat), Completes (.stageLinkLock i) m (fun n => n.eng.links = m.eng.links.modify i (fun l => { l with lock := true, goodRun := 0 }))) ∧
  (∀ (m : Mach) (i : Nat), (m.link i).lock = true → Completes (.stageLinkLockLoss i) m (fun n => n.eng.links = m.eng.links.modify i (fun l => { l with lock := false, inService := false, goodRun := 0 }))) ∧
  (∀ (m : Mach) (i : Nat), m.role i ≠ 0 → 3 ≤ (m.link i).missRun → (m.link i).missFault = false → Completes (.stageLinkMissFault i) m (fun n => n.eng.links = m.eng.links.modify i (fun l => { l with missFault := true }))) ∧
  (∀ (m : Mach) (i : Nat), m.role i ≠ 0 → 3 ≤ (m.link i).lateRun → (m.link i).lateFault = false → Completes (.outputLateFault i) m (fun n => n.eng.links = m.eng.links.modify i (fun l => { l with lateFault := true }))) ∧
  (∀ m : Mach, m.eng.test.running = true → m.eng.test.cause = none → m.testCauses = [] → m.phaseNow ≠ .done → Completes .loopTestPhase m (fun n => n.eng.test.phase = m.phaseNow)) ∧
  (∀ (m : Mach) (c : Nat), m.abortCode m.testCauses = some c → m.eng.test.running = true → Completes .loopTestAbort m (fun n => n.eng.test.phase = .aborted ∧ n.eng.test.abort = c)) ∧
  (∀ (m : Mach) (l : LoadSt) (o : Op), m.fc.loads = [l] → m.opById l.op = some o → o.state = .running → o.resumeNote = none → ∀ a d : Nat, l.addr = some a → d = min 65536 (l.len - l.data.length) → m.poisonIn (a + l.data.length) d = false → l.data.length + d < l.len → Completes (.modelLoadBlock l.bank) m (fun n => n.fc.loads = [{ l with data := l.data ++ m.bytes (a + l.data.length) d }])) ∧
  (∀ m : Mach, m.id.appRun = true → bit (m.rd .avFcCtrl) 29 = true → m.ready fnForecast = true → m.trainEn = true → m.opcodeHeld ocTrainRun = false → m.tagHeld 0x700 = false → m.trainCheck 0x308 0 = none → ∃ (rt : RTo) (w : Mach) (o : Nat), rt = m.fwRt 0x700 ocTrainRun ∧ m.addOp rt .fw = (w, o) ∧ Gives .autoTrainRun m (({ w with fc.train := some ⟨o, 0x700, 8, 3, 0, none, none⟩ } : Mach).reply rt stAccepted [])) ∧
  (∀ (m : Mach) (p : Packet) (full : Bool), m.serves ocModuleReset (fixW4 p full) → m.sys.modReset = none → m.pair.holding = true → bit (p.word 4) 1 = true → ∃ k : Mach, k = { m.hasRead p with sys.modReset := some ⟨full, m.backTo ocModuleReset p, true, none, none, none⟩, pair.kernelRelease := true } ∧ (full = false → Gives (.applicationReset p) m k) ∧ (full = true → Gives (.fullReset p) m k)) ∧
  (∀ (m : Mach) (r : ModReset) (k : Nat), m.sys.modReset = some r → r.resetAt = some k → k ≤ m.time.count → Gives .resetExecute m (if r.full then m.fullReset else m.appReset)) ∧
  (∀ (m : Mach) (f : PairFrame), m.pair.pairUp = true → f.good = true → f.seq % 256 = m.time.count % 256 → Completes (.pairFrame f) m (fun n => n.pair.partnerNow = some f)) ∧
  (∀ m : Mach, (m.pair.holding = false → Completes .claimTake m (fun n => n.pair.takeNext = m.pairJudge.pair.takeNext)) ∧ (m.pair.holding = true → Completes .claimGiveUp m (fun n => n.pair.giveNext = m.pairJudge.pair.giveNext))) ∧
  (∀ (m : Mach) (i k : Nat) (seg : AlignSeg), m.pair.alignRecv = some (i, k) → m.alignPlan[i]? = some (segKey seg) → m.pair.alignPending = [] → Completes (.alignmentSegment true (segKey seg).2 seg) m (fun n => n.pair.alignRecv = some (i + 1, k) ∧ n.pair.alignPending = [seg])) ∧
  (∀ m : Mach, m.fault.quench.active = true → m.pair.alignRecv.isSome = true → Completes .alignmentFail m (fun n => n.pair.alignRecv = none ∧ n.pair.alignRetryAt = m.time.count + 100)) ∧
  (∀ (m : Mach) (k : Nat) (row : List Word), (∀ r, r ∈ m.fc.partnerRows → r.1 ≠ k) → Completes (.rowFrame true k row) m (fun n => n.fc.partnerRows = m.fc.partnerRows ++ [(k, row)])) ∧
  (∀ m : Mach, m.pair.alignRecv = none → Completes .pairLinkDown m (fun n => n.pair.pairUp = false ∧ n.pair.partnerNow = none)) ∧
  (∀ (m : Mach) (h : Bool) (l : PartnerTime) (c : Nat), Completes (.pairLinkUp h l c) m (fun n => n.pair.pairUp = true)) ∧
  (∀ m : Mach, 100000 ≤ m.pair.aloneRun → m.pair.aloneFault = false → Completes .holdingWithoutStandby m (fun n => n.pair.aloneFault = true)) ∧
  (∀ (m : Mach) (v : Nat), (v < 168 → m.pair.feedA = true → Completes (.feedLoss false v) m (fun n => n.pair.feedA = false ∧ n.pair.voltA = v)) ∧ (184 < v → 100 ≤ m.pair.runA → m.pair.feedA = false → Completes (.feedReturn false v) m (fun n => n.pair.feedA = true ∧ n.pair.voltA = v))) ∧
  (∀ m : Mach, Completes .ejectorOpen m (fun n => n.sys.leverLatched = false)) ∧
  (∀ (m : Mach) (o : Bool), m.phys.plcaNode = none → Completes (.plcaNodeTake true o) m (fun n => n.phys.plcaNode = some 1)) ∧
  (∀ m : Mach, m.time.powered = true → m.ev.opSaved + 60 ≤ m.ev.opSec → Completes .operatingTimeSave m (fun n => n.ev.opSaved = m.ev.opSec)) ∧
  (∀ m : Mach, m.time.powered = true → m.pair.dying = true → 10 ≤ m.pair.dyingFrames → Completes .holdUpEnd m (fun n => n.time = TimeSt.reset ∧ n.ev.stored = m.ev.stored ∧ n.mem = [])) ∧
  (∀ (m : Mach) (low : Bool), Completes (.brakeNNetChange low) m (fun n => n.bel.brakeNet = low)) ∧
  (∀ (m : Mach) (h : PeerHdr) (sn pos link var plan : Nat) (ok : Bool), m.hears h .ident → ∀ k : Mach, k = ((m.heard h).setPeer h.link (fun l => { l with farSerial := sn, farPos := some pos, farLink := link, farPlan := plan, farOk := ok })).judgeLink h.link → k.verifying h.link = false → Gives (.ident h sn pos link var plan ok) m k) ∧
  (∀ (m : Mach) (h : PeerHdr) (a b : Int), m.hears h .health → Gives (.health h a b) m ((m.heard h).setPeer h.link (fun l => { l with farTx := [a, b] }))) ∧
  (∀ (m : Mach) (i : Nat), i < m.sys.links → (m.peer i).st = .training → Gives (.peerLinkLock i) m ((m.setPeer i (fun l => { l.restarted with st := .ident, farPos := none })).sendOn .ident toAll i)) ∧
  (∀ (m : Mach) (i : Nat), i < m.sys.links → (m.peer i).st = .ident → (m.peer i).health = 3 → Gives (.peerLinkDown i) m (m.setPeer i (fun l => { l.restarted with st := .training, lostAt := [], health := 3 }))) ∧
  (∀ (m : Mach) (i q : Nat), (m.peer i).retry.any (fun r => r.seq == q && decide (r.tries < 3)) = true → Completes (.peerRetransmit i q) m (fun n => n.peers = (m.setPeer i (fun l => { l with retry := l.retry.map (fun r => if r.seq == q then { r with tries := r.tries + 1 } else r) })).peers)) ∧
  (∀ (m : Mach) (i q : Nat) (k : Mach), (m.peer i).retry.any (fun r => r.seq == q && decide (3 ≤ r.tries)) = true → k = m.setPeer i (fun l => { l with retry := l.retry.filter (fun r => r.seq != q), skipOut := l.skipOut ++ [q], lostAt := (m.time.count : Int) :: l.lostAt.filter (fun c => decide ((m.time.count : Int) < c + 100)) }) → (k.peer i).lostAt.length < 3 → Completes (.peerFrameLost i q) m (fun n => n.peers = k.peers)) ∧
  (∀ m : Mach, m.time.count % 100000 = 0 → Gives .identRepeat m (((List.range m.sys.links).filter (fun i => decide ((m.peer i).st = .service ∨ (m.peer i).st = .held))).foldl (fun k i => k.sendOn .ident toAll i) m)) ∧
  (∀ (m : Mach) (c : Cls) (v : Word), m.lands c .plPlanCtrl true → bit v 31 = true → m.hall.loading = none → Completes (.planLoad c v) m (fun n => n.hall.loading = some (addr48 (m.rd .plPlanBaseLo) (m.rd .plPlanBaseHi), m.rdField .plPlanLen 22 0) ∧ n.hall.bufState = 1)) ∧
  (∀ (m : Mach) (a k : Nat), m.hall.loading = some (a, k) → m.poisonIn a k = false → m.planCheck (m.bytes a k) = 0 → Completes .planLoadDone m (fun n => n.hall.bufState = 2 ∧ n.hall.bufs = m.hall.bufs.set (1 - m.planBuf) (some (planOf (m.bytes a k))))) ∧
  (∀ (m : Mach) (c : Cls) (i : Nat) (k : Mach), m.lands c .plMaint true → i < 64 → k = m.wrField .plMaint 29 24 i → (i < m.sys.links → (k.peer i).st ≠ .service → k.maintBusy = false → k.parentLink ≠ some i → k.altLink ≠ some i → Gives (.maintTakeOut c i) m (({ k with hall.maint := 1, hall.maintLink := i, hall.maintRefused := false } : Mach).setPeer i (fun l => { l with st := .maint, retry := [], farOk := false, noticed := false })).checkAlone) ∧ ((m.peer i).st = .maint → Completes (.maintVerify c i) m (fun n => n.hall.maint = 2 ∧ n.hall.maintLink = i ∧ n.hall.maintSince = none))) ∧
  (∀ (m : Mach) (r : OptRead) (s : Nat), m.hall.maint = 2 → m.hall.maintSince = some s → s + 1000 ≤ m.time.count → (m.peer m.hall.maintLink).st = .held → Completes (.maintVerifyDone r) m (fun n => n.hall.maint = (if linkHealth [m.optSample { r with link := m.hall.maintLink }] = 0 ∧ meanExcess [m.optSample { r with link := m.hall.maintLink }] < 5 then 3 else 4))) ∧
  (∀ (m : Mach) (rs : List OptRead) (k : Mach), m.time.count % 100000 = 0 → k = rs.foldl Mach.measureLink m → k.suspectNow = none → Gives (.linkHealthMeasure rs) m { k with hall.suspect := suspectWord none }) ∧
  (∀ (m : Mach) (c : Cls) (v : Word), m.lands c .prStat true → bit v 29 = true → Completes (.suspectClear c v) m (fun n => n.pair.suspect = false)) ∧
  (∀ (m : Mach) (h : PeerHdr) (off : Int) (cnt : Nat), m.hears h .time → m.hall.isMaster = false → (m.heard h).parentLink = some h.link → m.time.state ≠ .free → m.time.state ≠ .joining → Completes (.timeExchange h off cnt) m (fun n => n.time.offset = off ∧ n.time.state = timeStateOf off ∧ n.time.sinceMsg = 1)) ∧
  (∀ (m : Mach) (h : PeerHdr) (r : Report), m.hears h .report → (m.hall.isMaster = true → r.k = m.time.count / 100 → m.time.count % 100 ≤ 58 → Gives (.report h r) m ((m.heard h).takeReport r)) ∧ (m.hall.isMaster = false → Gives (.report h r) m ((m.heard h).sendUp .report (some h.src)))) ∧
  (∀ m : Mach, m.time.count % 100 = 50 → m.time.inDomain = true → m.hall.joined < m.time.count / 100 → (m.hall.isMaster = true → Gives .reportSend m ({ m with hall.refusals := m.hall.refusals.drop 2 }.takeReport (m.ownReport (m.time.count / 100)))) ∧ (m.hall.isMaster = false → m.hall.claim = none → Gives .reportSend m ({ m with hall.refusals := m.hall.refusals.drop 2 }.sendUp .report))) ∧
  (∀ (m : Mach) (h : PeerHdr) (rs : List Report), m.hears h .table → m.hall.isMaster = false → m.hall.table = none → Gives (.table h (m.time.count / 100) rs) m ({ m.heard h with hall.table := some (m.time.count / 100, rs) }.flood .table (some h.link) (some h.src))) ∧
  (∀ (m : Mach) (p : Plan), m.plan = some p → m.hall.isMaster = true → m.time.count % 100 = 59 → m.hall.table = none → m.hall.members = [] → m.hall.reports = [] → Gives .tableSend m ({ m.bump .plMsgStat 31 16 0 with hall.table := some (m.time.count / 100, p.shelves.filterMap (shelfReport [])) }.flood .table none)) ∧
  (∀ (m : Mach) (h : PeerHdr) (pos : Nat), m.hears h .leave → (m.hall.isMaster = false → Gives (.leave h pos) m ((m.heard h).sendUp .leave (some h.src))) ∧ (∀ p : Plan, m.plan = some p → m.hall.isMaster = true → Gives (.leave h pos) m ((m.heard h).declareLeft p pos))) ∧
  (∀ (m : Mach) (h : PeerHdr) (s : SfMsg), m.hears h .superframe → m.time.inDomain = true → m.hall.isMaster = false → atOrAbove s.term m.hall.term = true → s.k = m.time.count / 100 + 1 → s.launches = [] → s.disarms = [] → s.frag = 0 → s.frags = 1 → m.hall.lastMsg ≠ some (msgKey s) → Completes (.superframe h s) m (fun n => n.hall.msg = some (joinParts [s] s) ∧ n.time.sinceMsg = 1)) ∧
  (∀ (m : Mach) (p : Plan), m.plan = some p → m.hall.isMaster = true → 86 ≤ m.time.count % 100 → m.time.count % 100 ≤ 90 → m.hall.msg = none → m.hall.proposals = none → ∃ (k : Mach) (s : SfMsg), k = { m.bump .plStepStat 31 16 1 with free := m.free + 1 } ∧ s = k.message (m.time.count / 100 + 1) (Config.freeWord m.free).toInt (some ((m.formBands p none).map (·.1))) ∧ Gives .superframeSend m ({ k with hall.msg := some s, hall.changes := [], hall.leftNow := [] }.floodMessage s)) ∧
  (∀ m : Mach, m.hall.isMaster = false → 1 ≤ m.time.sfSince → m.time.sinceMsg = 0 → m.time.state = .locked → Completes .holdoverEntry m (fun n => n.time.state = .holdover)) ∧
  (∀ (m : Mach) (h : PeerHdr) (t pos tk : Nat), m.hears h .claim → seqAbove t m.hall.term = true → m.hall.claim = none → m.hall.isMaster = false → Gives (.claim h t pos tk) m ({ m.heard h with hall.claim := some ⟨t, pos, tk⟩, hall.high := maxTerm t (m.heard h).hall.high }.flood .claim (some h.link) (some h.src))) ∧
  (∀ (m : Mach) (p : Nat), m.succPos m.sys.position = some p → m.hall.isMaster = false → m.hall.claim = none → m.sys.master = true → m.sys.strapOk = true → m.time.count % 100 = 0 → m.en fnPeer = true → (if p ≤ 1 then 3 else 2 + p) ≤ m.time.sfSince → Gives .mastershipClaim m ({ m with hall.claim := some ⟨(m.hall.high + 1) % 65536, m.sys.position, m.time.count + 100⟩, hall.high := (m.hall.high + 1) % 65536 }.flood .claim none)) ∧
  (∀ (m : Mach) (c : ClaimSt) (p : Plan), m.hall.claim = some c → m.plan = some p → c.pos = m.sys.position → c.takeover = m.time.count → m.hall.isMaster = false → m.en fnPeer = true → m.hall.master = none → ∃ j k : Mach, j = (if m.time.inDomain then m else m.joinDomain) ∧ k = { j with hall.isMaster := true, hall.term := c.term, hall.master := some m.sys.position, hall.claim := none, hall.members := m.hall.members.map (fun x => (x.1, 0)), hall.reports := [], hall.proposals := none, hall.changes := [], hall.leftNow := [], time.state := .locked, time.offset := 0, time.adoptDelta := none, time.sfSince := 0 } ∧ Gives .becomeMaster m k.startTerm) ∧
  (∀ (m : Mach) (c : ClaimSt), m.hall.claim = some c → c.pos ≠ m.sys.position → c.takeover + 100 ≤ m.time.count → Completes .claimExpiry m (fun n => n.hall.claim = none)) ∧
  (∀ (m : Mach) (t q : Nat), m.hall.stepDown = some (t, q) → m.hall.isMaster = true → m.time.count % 100 = 0 → m.hall.replace = none → Completes .masterStepDown m (fun n => n.hall.isMaster = false ∧ n.hall.term = t ∧ n.hall.master = some q)) ∧
  (∀ (m : Mach) (p : Plan), m.plan = some p → m.hall.isMaster = true → Gives .moduleDeclaredLeft m (((m.hall.members.filter (fun x => decide (3 ≤ x.2))).map Prod.fst).foldl (fun k q => k.declareLeft p q) m)) ∧
  (∀ (m : Mach) (rs : List Report), m.time.count % 100 = 64 → m.time.inDomain = true → m.hall.roles ≠ [] → m.hall.table = some (m.time.count / 100, rs) → (m.bank m.fc.hallBank).valid = true → m.anvilOn = true → Gives .hallStep m ({ m with fc.hallRan := some m.fc.hallBank, hall.step := some ⟨m.time.count / 100, 0, stepInputs rs, true, none, [], []⟩ }.stepForward)) ∧
  (∀ (m : Mach) (h : PeerHdr) (sum : List Word), m.hears h .partialSum → h.dst = m.ownPos → m.hall.isMaster = true → m.time.count % 100 ≤ 86 → Completes (.partialSums h (m.time.count / 100) 0 levelProposals 0 false sum) m (fun n => n.hall.proposals = some (m.time.count / 100, pairsOf sum))) ∧
  (∀ (m : Mach) (h : PeerHdr) (r : Role) (slice : Nat) (st : List Byte), m.hears h .sliceCopy → h.dst = m.ownPos → m.hall.oldCopies = [] → m.hall.roles.find? (fun r => r.slice == slice && !r.primary && r.copying.isSome && !r.snap) = some r → r.blocks = [] → ∃ k : Mach, k = { m.heard h with hall.roles := m.hall.roles.map (fun (x : Role) => if x.slice == slice && !x.primary then { r with state := st, blocks := [], replay := [], snap := true } else x) }.sendTo (.xferAck true) h.src ∧ Gives (.sliceCopy h slice 0 1 st) m (k.copyTaken h.src slice)) ∧
  (∀ m : Mach, Completes .sliceCopyRestart m (fun n => n.hall.roles = m.hall.roles.map (fun r => if r.copying.any (fun s => decide (s + 1000 ≤ m.time.count / 100)) then { r with copying := some (m.time.count / 100), blocks := [], replay := [], snap := false } else r))) ∧
  (∀ (m : Mach) (h : PeerHdr) (g : GenHdr) (i : Nat) (data : List Byte), m.hears h .gen → h.dst = m.ownPos → m.fc.gens = [] → (m.bank m.fcBank).gen = none → genFrames g ≤ i → ∀ a : Mach, a = { m.heard h with fc.gens := [⟨g, [], false, false, 0, 0⟩], fc.trainer := some g.trainer, fc.due := m.fc.due ++ [(g.adopt, g.n)] } → Gives (.gen h g i data) m (if a.acting && a.fc.train.any a.trainLive then a else a.yieldTraining)) ∧
  (∀ (m : Mach) (h : PeerHdr) (i k : Nat) (held : List Nat), m.hears h (.xferAck true) → h.dst = m.ownPos → held.length < k → Gives (.xferAck h (some i) k held) m (((List.range k).filter (fun b => !held.contains b)).foldl (fun w _ => w.sendTo .sliceCopy h.src) (m.heard h))) ∧
  (∀ (m : Mach) (g : GenSt), m.fc.gens = [g] → g.kept = false → g.parts.length = genFrames g.hdr → sha3_256 g.bytes = g.hdr.digest → g.hdr.package = (m.bank m.fcBank).digest → Completes .generationComplete m (fun n => n.fc.gens = [{ g with kept := true }])) ∧
  (∀ m : Mach, m.time.count % 1000 = 0 → m.cell.camp = none → m.cell.caps = none → Completes .cellSweepStart m (fun n => ∀ p, p < 4 → m.portStarts p = true → p < m.cell.ports.length → (n.port p).sweep = some m.time.count)) ∧
  (∀ (m : Mach) (p a b s : Nat), (m.port p).sweep = some s → (m.port p).ring < 3 → Gives (.ringSampleReturn p (some (m.unitsOf p)) a b) m ((m.setPort p (fun t => { t with ring := 2, a := a, b := b, entered := t.entered || false })).sendWiretest p)) ∧
  (∀ (m : Mach) (p s u : Nat), (m.port p).sweep = some s → (m.port p).void = false → m.readFrom p s ≤ m.time.count → m.nextRead p false = some u → (m.port p).outA = none → (m.port p).freeA ≤ m.time.count → Gives (.ringRead p false) m (m.openRead p false ⟨u, m.time.count, 1⟩)) ∧
  (∀ (m : Mach) (p u t : Nat), t + 2 ≤ m.time.count → (m.port p).outA = some ⟨u, t, 1⟩ → Gives (.ringReadTimeout p false) m ((m.bump (.crPerr p) 23 16 1).openRead p false ⟨u, m.time.count, 2⟩)) ∧
  (∀ (m : Mach) (p s : Nat) (d : CellData) (r : PendingRead) (u : UnitSt), (m.port p).sweep = some s → crc16 (dataBytes d) = d.crc → (m.port p).void = false → d.type = 3 → d.sweep = s / 1000 % 4294967296 → (if d.fromB then (m.port p).outB else (m.port p).outA) = some r → u = ((m.port p).units.getD (r.unit - 1) UnitSt.reset).take1 d → u.testing = [] → Completes (.ringData p d) m (fun n => n.cell.ports = (m.setPort p (fun t => { t with units := t.units.set (r.unit - 1) u, outA := if d.fromB then t.outA else none, outB := if d.fromB then none else t.outB, stampA := if d.fromB then t.stampA else m.time.count, stampB := if d.fromB then m.time.count else t.stampB, counts := if t.counted then addCharges t.counts r.unit d.charges else t.counts })).cell.ports)) ∧
  (∀ (m : Mach) (p s : Nat), (m.port p).sweep = some s → (m.port p).balDone = false → m.readsOver p = true → Gives (.balSend p) m ((m.setPort p (fun t => { t with balDone := true, balLeft := ((List.range (m.unitsOf p)).map (· + 1)).filter (fun k => ((m.port p).units.getD (k - 1) UnitSt.reset).got) })).balNext p)) ∧
  (∀ m : Mach, m.ringDriver = true → Completes .stopbal m (fun n => n.cell.stopbal = 0 ∧ ∀ p, p < 4 → m.cell.stopbal.testBit p = true → p < m.cell.ports.length → (n.port p).balLeft = [] ∧ (n.port p).units = (m.port p).units.map (fun u => { u with giveOut := 0, takeOut := 0 }))) ∧
  (∀ (m : Mach) (p s : Nat) (k : Mach), p < 4 → (m.port p).sweep = some s → s + 1000 ≤ m.time.count → (∀ q t, q < 4 → q ≠ p → (m.port q).sweep = some t → m.time.count < t + 1000) → (m.port p).ring = 5 → k = m.publishBad p → ∃ r, Gives .cellRingPublish m ((({ k with cell.ready := r } : Mach).campaignStep []).capsStep [] ((List.range 4).any (fun q => !k.cell.caps.any (fun c => c.port == q) && bit (k.rd (.bdString q)) 10)))) ∧
  (∀ m : Mach, m.time.count % 10 = 0 → m.fc.lastUpdate ≠ m.time.count → m.sys.tiles ≠ 0 → m.time.powered = true → m.fc.run = none → m.forecastEn = true → ∀ k w : Mach, k = m.gateUpdate.readSchedules m.time.count → k.fc.lastBank = k.fcBank → k.ready fnForecast = true → k.forecastEn = true → m.gateUpdate.schedPoison = false → w = (k.storeAll Config.planBuffer (wordsBytes (k.renderPlan m.time.count))).1 → Gives .forecastRunStart m { w with anvil.jobs := w.anvil.jobs ++ [w.fcJob m.time.count k.fcBank], anvil.nextJob := w.anvil.nextJob + 1, fc.schedAbsent := k.schedAbsentAt m.time.count, fc.run := some ⟨m.time.count, (w.fcJob m.time.count k.fcBank).id, k.fcBank, w.bel.spPub.g, false, k.schedAbsentAt m.time.count, w.fc.modelGen, ((w.bank k.fcBank).gen).getD 0xFFFFFFFF, [], []⟩ }) ∧
  (∀ (m k : Mach) (r : FcRun), m.fc.run = some r → r.c + 10 ≤ m.time.count → r.fin = true → k = { m.gateUpdate with fc.run := none, fc.outs := m.fc.outs ++ [⟨r.c + 10, r.points.getD 100 0, r.points.getD 1000 0, r.points.getD 5000 0⟩] } → k.fc.gateHeld = false → k.ready fnForecast = true → Gives .forecastPublish m (((({ k with fc.pub := some ⟨r.c + 10, r.c, true, r.schedAbsent, r.modelGen, r.generation, r.points⟩, fc.buf := !k.fc.buf, fc.published := true } : Mach).countForecast).publishBridges r (r.c + 10)).reqLine 1)) ∧
  (∀ m : Mach, m.ready fnAnvil = true → m.fcConditions = true → m.meetsPoison (m.encodeReads (m.runningCopy m.fcBank)) = false → Gives .initialEncodingDone m { m.otherBundles with fc.encoded := true, fc.encTo := m.time.count - 3, fc.enc := m.encodeAll m.runningWeights }) ∧
  (∀ (m : Mach) (t : TrainSt) (o : Op), m.fc.train = some t → m.time.count % 100000 = 0 → 0 < m.time.count → t.cycle = none → m.opById t.op = some o → o.state = .running → o.resumeNote = none → m.trainEn = true → m.anvilOn = true → (m.bank m.fcBank).trainable = true → m.acting = true → Completes .trainingCycleStart m (fun n => n.fc.train = some { t with cycle := some (m.time.count / 100000) })) ∧
  (∀ (m : Mach) (t : TrainSt) (c : Nat) (e : Mach), m.fc.train = some t → t.cycle = some c → m.trainLive t = true → m.trainEn = true → m.acting = true → m.levelTwoRuns = true → m.trainPoison = false → m.time.count < 100000 * (c + t.lag) → e = ((m.otherBundles.putTrainArea 0 (m.trainSteps t c t.steps)).makeGeneration c t.lag).endCycle → e.fc.sending = none → Gives .trainingCycleDone m e) ∧
  (∀ (m : Mach) (g : GenSt), m.fc.gens = [g] → g.kept = true → g.encoded = false → m.levelTwoRuns = true → m.meetsPoison (m.encodeReads (m.receivingCopy m.fcBank)) = false → Completes .reencodeDone m (fun n => n.fc.gens = [{ g with encoded := true, encTo := m.time.count - 3, enc := m.encodeAll g.bytes }])) ∧
  (∀ (m : Mach) (d : Nat × Nat) (g : GenSt), m.fc.due = [d] → d.1 = m.time.count → m.fc.gens = [g] → m.adoptable g = true → d.2 ≤ g.hdr.n → Gives .generationAdopt m (({ m with fc.due := [] } : Mach).adopt g)) ∧
  (∀ (m : Mach) (j : Job), m.trainWork = true → m.rdField .avSchedCfg 6 0 < 100 → j ∈ m.anvil.jobs → 3 ≤ j.level → j.phase = .queued → Completes .trainCapPark m (fun n => n.anvil.capped = true)) ∧
  (∀ m : Mach, m.levelOne = true → m.anvilFree 1 = true → Gives .anvilBundleIssue m m.stepForward) ∧
  (∀ (m : Mach) (j : Job), m.runningJob = some j → m.lowerWork j.level = true → Gives .anvilPreempt m (((m.saveJob j m.tilesNow).setJob j.id (fun j => { j with phase := .parked, parkedOnce := true })).bump .avPreemptCnt 31 0 1)) ∧
  (∀ (m : Mach) (j : Job), m.runningJob = none → m.nextUp = some j → m.anvilOn = true → j.saved = true → m.poisonIn j.save saveSize = false → m.word (j.save + saveCrcAt) = crc32 (m.saveRest j.save) → j.repro = true → Gives .anvilRestore m (m.setJob j.id (fun i => { i with phase := .running, saved := false, nonrepro := i.nonrepro || false }))) ∧
  (∀ (m : Mach) (j : Job) (js : List Job) (e : JobEnd) (o : Nat), m.anvil.jobs = j :: js → j.phase = .ended → m.lockWaits j = false → j.fin = some e → j.kind = .user → j.op = some o → Gives .anvilJobComplete m (((((m.writeReplay j e).bump .avJobDone 31 0 1).sessionJobEnd j e.status).dropJob j.id).endOp o e.status (j.result e))) ∧
  (∀ (m : Mach) (j : Job) (js : List Job) (ds : List (List Word)) (msg : List Byte), m.anvil.jobs = j :: js → j.phase = .hashing → ds = (List.range j.descCount).map (fun d => m.words (j.descTable + 64 * d) 16) → msg = m.digestHead j ++ j.included.flatMap (m.packedTensor ds j.bases) → m.digestPoison j ds = false → Gives .digestHashDone m (m.setJob j.id (fun j => { j with phase := .queued, digest := some (sha3_256 msg, msg.length) }))) ∧
  (∀ (m : Mach) (t : Nat) (p : Bool), t < 32 → m.tilesIn.testBit t = true → m.anvil.jobs = [] → Gives (.tileFault t p) m (((m.wr .avTileMapLo (clearBit (m.rd .avTileMapLo) t)).wr .avTileFailLo (setBit (m.rd .avTileFailLo) t)).raise (srcTile t) .severe (flag p 0))) ∧
  (∀ (m : Mach) (d s : Nat), d = m.phys.dieNext → s = max m.bel.snap.coolOwn d → (d ≠ m.phys.dieStep ∨ s ≠ m.phys.modStep) → Completes .thermalStepChange m (fun n => n.phys = { m.phys with dieStep := d, modStep := s })) ∧
  (∀ m : Mach, m.phys.stopped = false → 1150 ≤ m.phys.die → Completes .thermalStop m (fun n => n.phys.stopped = true ∧ n.anvil.bist = false)) ∧
  (∀ m : Mach, 100 ≤ m.phys.inletLow → m.phys.inletFault = false → Completes .coolantInletLow m (fun n => n.phys.inletFault = true)) ∧
  (∀ (m : Mach) (d : LsDigest) (o : Nat), m.anvil.lock.state = .running → m.anvil.lock.digest = some d → d.ord = o → Completes (.lockstepDigest true o d.slots d.scalar) m (fun n => n.anvil.lock.ord = o ∧ n.anvil.lock.digest = none ∧ n.anvil.lock.theirs = none)) ∧
  (∀ (m : Mach) (sc : List DWord) (d : LsDigest) (t : Nat × List DWord × DWord), m.anvil.lock.digest = some d → m.anvil.lock.theirs = some t → m.anvil.lock.state = .running → d.ord = t.1 → d.slots ≠ t.2.1 → m.anvil.jobs = [] → Completes (.lockstepDivergence sc) m (fun n => n.anvil.lock.state = .searching ∧ n.anvil.lock.divSlot = firstDiff d.slots t.2.1)) ∧
  (∀ (m : Mach) (hs : List (Nat × DWord)), m.anvil.lock.state = .searching → Completes (.lockstepSearchDone hs) m (fun n => n.anvil.lock.state = .ended ∧ n.anvil.lock.result = stDiverged)) ∧
  (∀ m : Mach, m.anvil.lock.state = .running → Completes .lockstepPortDown m (fun n => n.anvil.lock.linkUp = false ∧ n.anvil.lock.state = .ended ∧ n.anvil.lock.result = stLsPartner)) ∧
  (∀ (m : Mach) (b : Bool), m.sys.lockstep = true → Completes (.lockstepPortUp b) m (fun n => n.anvil.lock.linkUp = true ∧ n.anvil.lock.partnerM = b)) ∧
  (∀ m : Mach, m.anvil.lock.waiting = none → m.anvil.lock.state = .running → Completes (.lockstepPartnerOutcome .reset) m (fun n => n.anvil.lock.state = .ended ∧ n.anvil.lock.result = stLsPartner)) ∧
  (∀ (m : Mach) (a l : Nat) (es : List (Nat × Byte)) (k : Nat) (d : Byte), l = 64 * (a / 64) → findingOf (syndromes (m.symbolsRead l es)) = .one k d → (m.lineHome l = some none → Gives (.eccReadError a es) m ((m.putSymbols l (addErrors (m.symbolsRead l es) [(k, d)])).countCorrected none l k)) ∧ (∀ h, m.scrubHome l = some h → Gives (.scrubLine a es) m (((m.putSymbols l (addErrors (m.symbolsRead l es) [(k, d)])).countCorrected h l k).scrubPass h l))) ∧
  (∀ m : Mach, m.time.count % 6000000 = 0 → Completes .ceWindowEnd m (fun n => n.anvil.sliceCe = List.replicate 64 0 ∧ ∀ x, x ∈ n.stks → x.winCe = 0)) ∧
  (∀ (m : Mach) (s : Nat) (h : Bool), (m.stackSt s).inService = true → Completes (.stackOutOfService s h) m (fun n => n.stks = m.stks.modify s (fun x => { x with inService := false, trained := h, outBy := if h then 2 else 1, lastTry := m.time.count }))) ∧
  (∀ (m : Mach) (s : Nat) (cool : Bool), m.sys.stks.testBit s = true → (m.stackSt s).inService = false → (m.stackSt s).outBy = 0 → (m.stackSt s).wasOut = false → Completes (.stackRetrain s true cool) m (fun n => n.stks = m.stks.modify s (fun x => { x with trained := true, inService := true }))) ∧
  (∀ (m : Mach) (s top : Nat), (m.stackSt s).inService = true → (m.stackSt s).watermark < top → top ≤ stackSize → top % 64 = 0 → Completes (.watermarkAdvance s top) m (fun n => n.stks = m.stks.modify s (fun x => { x with watermark := top }))) ∧
  (∀ (m : Mach) (s : Nat) (h : Bool), m.sys.stks.testBit s = true → Completes (.stackHot s h) m (fun n => n.stks = m.stks.modify s (fun x => { x with hot := h }))) ∧
  (∀ (m : Mach) (c : Cls) (i : Nat), m.lands c (.dmChCtrl i) true → chOwned c i = true → (((m.ch i).state = 1 ∨ (m.ch i).state = 3) → bit (m.rd (.dmChCtrl i)) 31 = true → m.en fnDma = true → i < m.dma.chs.length → Completes (.dmaChannelStart c i) m (fun n => (n.ch i).state = 2 ∧ (n.ch i).next = addr48 (m.rd (.dmChHeadLo i)) (m.rd (.dmChHeadHi i)))) ∧ ((m.ch i).state = 0 → m.en fnDma = true → i < m.dma.chs.length → Completes (.dmaChannelEnable c i) m (fun n => (n.ch i).state = 1)) ∧ ((m.ch i).state ≠ 0 → i < m.dma.chs.length → Completes (.dmaChannelDisable c i) m (fun n => n.ch i = { DmaCh.reset with cur := (m.ch i).cur, lastStatus := (m.ch i).lastStatus }))) ∧
  (∀ (m : Mach) (i : Nat) (d : List Byte) (k b : Mach) (w : List Word), i < 32 → (m.ch i).state = 2 → (m.ch i).desc = [] → (m.rd (.dmChChain i)).toNat < m.rdField (.dmChLimit i) 23 0 → k = m.setCh i (fun c => { c with cur := c.next }) → k.judge (chClass i) (m.ch i).next 32 false = .ok → (k.dmaRead i (m.ch i).next 32 d).status = 0 → w = bytesWords 8 (k.dmaRead i (m.ch i).next 32 d).bytes → b = (k.dmaRead i (m.ch i).next 32 d).m.bump (.dmChChain i) 31 0 1 → (b.descStatus i w).1 = 0 → Gives (.dmaDescriptorFetch i d) m ((b.descStatus i w).2.setCh i (fun c => { c with desc := w, left := (wordAt w 1).toNat, bad := 0, fence := false, srcAt := if bit (wordAt w 0) 4 then 0 else descSrc w, srcLeft := if bit (wordAt w 0) 4 then 0 else (wordAt w 1).toNat, srcIdx := 0, dstAt := if bit (wordAt w 0) 5 then 0 else descDst w, dstLeft := if bit (wordAt w 0) 5 then 0 else (wordAt w 1).toNat, dstIdx := 0, srcs := if bit (wordAt w 0) 4 then [] else [(descSrc w, (wordAt w 1).toNat)], dsts := if bit (wordAt w 0) 5 then [] else [(descDst w, (wordAt w 1).toNat)] }))) ∧
  (∀ (m : Mach) (d : List Byte) (i b : Nat), m.burstPick = some i → m.pacing i = 0 → (m.ch i).inBurst = false → Gives (.dmaBurst d ⟨false, b⟩) m (Mach.beats i b { m.setCh i (fun c => { c with credit := c.credit - 0, burst := m.burstLen i }) with dma.last := i } d)) ∧
  (∀ (m : Mach) (i : Nat), i < 32 → (m.ch i).state = 2 → (m.ch i).desc ≠ [] → (m.ch i).left = 0 → (m.ch i).fence = false → (m.ch i).bad = 0 → (m.ch i).leftOver = false → (bit (wordAt (m.ch i).desc 0) 7 = true → Completes (.dmaDescriptorDone i) m (fun n => (n.ch i).fence = true ∧ (n.ch i).readBack = (m.ch i).hostLast.toList ++ (m.ch i).peerLast.map Prod.snd)) ∧ (bit (wordAt (m.ch i).desc 0) 7 = false → Gives (.dmaDescriptorDone i) m (m.writeBack i 0x01))) ∧
  (∀ (m : Mach) (i : Nat), i < 32 → (m.ch i).state = 2 → (m.ch i).fence = true → (m.ch i).failed = false → Gives (.dmaFenceDone i) m ((m.setCh i (fun c => { c with readBack := [] })).writeBack i 0x02)) ∧
  (∀ (m : Mach) (l : Nat), (l < 6 → m.dma.lines = [] → Completes (.dmaRequestLine l) m (fun n => n.dma.lines = [⟨l, m.time.count, []⟩])) ∧ (∀ x, m.dma.lines = [x] → x.line = l → x.acked = [] → x.since + 1 ≤ m.time.count → Gives (.dmaRequestWithdraw l) m (((List.range 32).filter (fun k => m.bound k l)).foldl (fun (x : Mach) k => x.bump (.dmChErr k) 23 16 1) ({ m with dma.lines := [] } : Mach)))) ∧
  (∀ m : Mach, Completes .dmaCreditTick m (fun n => ∀ c, c < 32 → n.ch c = if (m.ch c).state = 2 ∧ m.pacing c = 2 then { m.ch c with credit := min ((m.ch c).credit + m.rdField (.dmChCfg c) 11 0 * 16) (2 * m.burstMax c) } else m.ch c)) ∧
  (∀ (m : Mach) (i : Nat), ((m.ch i).moving = true → Gives (.dmaTargetTimeout i) m ((m.take.2.setCh i (fun c => { c with failed := c.failed || bit m.take.1 0 })).markBad i 0x82)) ∧ (i < 32 → Gives (.dmaLateWriteError i) m (((m.bump (.dmChErr i) 31 24 1).setCh i (fun c => { c with failed := true })).raise srcDma .info (place i 0)))) ∧
  (∀ (m : Mach) (a d l : Nat) (bs : List (Option Byte)), m.cxl.linkUp = true → m.hdmAddr a = some d → l = d / 64 * 64 → m.sys.capValid = true → m.stackOut l = false → (m.judge .host l 64 false = .ok → Completes (.cxlMemRead a) m (fun n => n.lastRead = m.words l 16 ∧ n.cxl.lastPoison = m.poisoned l ∧ n.cxl.lastUr = false)) ∧ (m.judge .host l 64 true = .ok → bs.length = 64 → bs.all Option.isSome = true → Gives (.cxlMemWrite a bs) m (((m.setBytes l (mergeBytes (m.bytes l 64) bs)).cleanLine l).answer [] false false))) ∧
  (∀ (m : Mach) (s w : Nat) (f c e b : Bool) (x : Nat), m.time.powered = true → m.cxl.linkUp = false → linkModeOk s w f = true → Completes (.cxlLinkUp s w f c e b x) m (fun n => n.cxl.linkUp = true ∧ n.cxl.speed = s ∧ n.cxl.width = w ∧ n.cxl.bme = b)) ∧
  (∀ m : Mach, m.cxl.linkUp = true → ∃ k : Mach, k.cxl.linkUp = false ∧ k.cxl.dec0 = HdmDec.reset ∧ k.cxl.dec1 = HdmDec.reset ∧ k.id.spdm = .start ∧ Gives (.cxlLinkDown false) m ((k.releaseRdown.bump .cxLinkErr 31 16 1).raise srcCxl .corr 0)) ∧
  (∀ (m : Mach) (hpa size skip : Nat), m.dpaOk skip size = true → Completes (.hdmDecoderCommit 0 hpa size skip 1) m (fun n => n.cxl.dec0 = ⟨true, false, hpa, size, skip⟩)) ∧
  (∀ (m : Mach) (c : Cls) (a h : Nat) (d : List Byte), m.judge c a d.length true = .ok → m.space a = .host h → m.hostOpen = true → Completes (.hostWindowAccess c a true d 0) m (fun n => n.cxl.hostReq = m.cxl.hostReq ++ [(true, h, d)] ∧ n.cxl.lastUr = false)) ∧
  (∀ (m : Mach) (r : SpdmReq), m.time.powered = true → m.cxl.linkUp = true → r.version = 0x10 → Completes (.getVersion r) m (fun n => n.id.spdm = .version ∧ n.id.response = spdmMsg 0x10 0x04 0 0 ([0, 2] ++ leBytes 2 0x1200 ++ leBytes 2 0x1300))) ∧
  (∀ (m : Mach) (r : SpdmReq), m.time.powered = true → m.cxl.linkUp = true → m.id.spdm = .version → (r.version = 0x12 ∨ r.version = 0x13) → Completes (.getCapabilities r) m (fun n => n.id.spdm = .capabilities ∧ n.id.spdmVer = r.version ∧ n.id.response = spdmMsg r.version 0x61 0 0 ([0, 17] ++ leBytes 2 0 ++ leBytes 4 0x16 ++ Config.spdmSizes))) ∧
  (∀ (m : Mach) (r : SpdmReq), m.time.powered = true → m.cxl.linkUp = true → m.id.spdm = .capabilities → r.version = m.id.spdmVer → algorithmsCommon r.body = true → Completes (.negotiateAlgorithms r) m (fun n => n.id.spdm = .negotiated)) ∧
  (∀ (m : Mach) (r : SpdmReq), m.time.powered = true → m.cxl.linkUp = true → m.id.spdm = .negotiated → r.version = m.id.spdmVer → m.id.certOk = true → Completes (.getDigests r) m (fun n => n.id.response = spdmMsg r.version 0x01 0 1 (sha3_256 m.chain)) ∧ (r.param1 = 0 → leNat (r.body.take 2) < m.chain.length → Completes (.getCertificate r) m (fun n => ∃ part, part = (m.chain.drop (leNat (r.body.take 2))).take (leNat ((r.body.drop 2).take 2)) ∧ n.id.response = spdmMsg r.version 0x02 0 0 (leBytes 2 part.length ++ leBytes 2 (m.chain.length - leNat (r.body.take 2) - part.length) ++ part))) ∧ (r.param1 = 0 → Completes (.challenge r) m (fun n => n.id.transcript = (m.nonce 8).2.id.vca)) ∧ (r.param1 = 0 → r.param2 = 0 → Completes (.getMeasurements r) m (fun n => n.id.response = spdmMsg r.version 0x60 7 0 (leBytes 1 0 ++ leBytes 3 0 ++ (m.nonce 8).1 ++ leBytes 2 0 ++ reqContext r 0)))) ∧
  (∀ (m : Mach) (r : SpdmReq) (code : Nat), m.time.powered = true → m.cxl.linkUp = true → code ∉ [0x81, 0x82, 0x83, 0x84, 0xE0, 0xE1, 0xE3] → Completes (.spdmUnsupportedRequest code r) m (fun n => n.id.response = spdmMsg r.version 0x7F 0x07 code [])) ∧
  (∀ (m : Mach) (c : Cls), m.lands c .idUpdCtrl true → (c = .host ∨ c = .tk) → m.id.updState ≠ 1 → m.id.pufOk = true → (m.imageKind m.updAddr = none → m.judge .host m.updAddr (m.rd .idUpdLen).toNat false = .ok → Completes (.stage c) m (fun n => n.id.updState = 1 ∧ n.id.job = some ⟨m.updAddr, (m.rd .idUpdLen).toNat⟩)) ∧ (m.id.app.trial = true → Completes (.updCommit c) m (fun n => n.id.app = m.id.app.commit ∧ n.id.tk = m.id.tk.commit ∧ n.id.updStatus = stOk)) ∧ (m.anyStaged = true → Completes (.discard c) m (fun n => n.id.updState = 0 ∧ n.id.updStatus = stOk)) ∧ (m.tokenOk = true → m.outOfService = true → Completes (.token c) m (fun n => n.fault.testMode = true ∧ n.id.updStatus = stOk)) ∧ (m.fault.testMode = true → Completes (.endTest c) m (fun n => n.id.updStatus = stOk))) ∧
  (∀ (m : Mach) (j : StageJob) (st : Nat), m.id.job = some j → m.verifyImage (m.cleanBytes j.addr j.len) j.len = .error st → Completes .stageDone m (fun n => n.id.job = none ∧ n.id.updState = 3 ∧ n.id.updStatus = st)) ∧
  (∀ (m : Mach) (r : EvRec) (rs : List EvRec), m.ev.mounted = true → m.ev.frozen = false → m.ev.queue = r :: rs → Completes .eventRecordStore m (fun n => n.ev.queue = rs ∧ n.ev.stored = ⟨m.ev.nextSeq, r⟩ :: keepStored (m.areaBytes - r.length) 1048575 m.ev.stored)) ∧
  (∀ m : Mach, (m.ev.freezePending = true → m.ev.freezeNew = false → Completes .freezeEffect m (fun n => n.ev.frozen = true ∧ n.ev.freezePending = false)) ∧ (m.ev.frozen = true → 1000000 ≤ m.ev.idle → Gives .autoThaw m (m.thaw.raise srcRecorder .info 3))) ∧
  (∀ (m : Mach) (p : Packet), m.serves ocCfgCommit p → m.txn.state = .opened → (launchOf p = 0 ∨ (m.hasRead p).inFlight < 2048) → Completes (.cfgCommit p) m (fun n => n.txn.state = .validating ∧ n.txn.commit = some (m.backTo ocCfgCommit p, launchOf p) ∧ n.txn.staged = m.txn.staged ∧ n.txn.owner = m.txn.owner)) ∧
  (∀ (m k : Mach) (rt : RTo), m.txn.state = .validating → m.txn.commit = some (rt, 0) → m.txn.applyAt = none → m.txn.winAt ≠ some m.time.count → windowsFor m.txn.staged.length ≤ m.txn.windows + 1 → k = { m with txn.windows := m.txn.windows + 1, txn.winAt := some m.time.count } → k.validate m.txn.staged m.txn.owner m.txn.overflow = none → Completes .commitValidation m (fun n => n.txn.applyAt = some (m.time.count + 1) ∧ n.txn.state = .validating ∧ n.txn.staged = m.txn.staged)) ∧
  (∀ (m : Mach) (rt : RTo) (l a : Nat), m.txn.state = .validating → m.txn.commit = some (rt, l) → m.txn.applyAt = some a → a ≤ m.time.count → Gives .commitApply m (((((if m.txn.deferred then m.orReg .syBudget (flag true 4) else m).applyConfig m.txn.staged m.txn.owner).closeTxn stOk 0).post ⟨rt, stOk, some a, [], true, .nothing⟩).readiness)) ∧
  (∀ m : Mach, m.txn.state = .opened → 10000 ≤ m.txn.age → Completes .transactionTimeout m (fun n => n.txn = { TxnSt.reset with timedOut := some m.txn.owner } ∧ n.txn.state = .idle)) ∧
  (∀ (m : Mach) (i : Nat) (l : LaunchSlot) (c : Cls), m.slots[i]? = some l → l.state = .armed → l.action = actCommit → l.count = m.time.count + 1 → c = (if l.origin = 0 then .host else if l.origin = 1 then .fw else .tk) → Completes .launchRevalidate m (fun n => n.slots[i]? = some { l with valid := (m.validate l.staged c false).elim 0 CfgFail.status, result := (m.validate l.staged c false).elim [] CfgFail.result } ∧ n.slots.length = m.slots.length)) ∧
  (∀ m : Mach, Completes .flashWriteFail m (fun n => n.ev.retired = m.ev.retired + 1))

/-- Every step, from every state, keeps register file and memory in canonical form. If a state's register file and memory are in
canonical form and step answers a next state, then that state's are too; so they are in every state reached by steps. Cites
16_cxl_and_memory.md, 00_scope.md. -/
def Obligations.StepKeepsTheCanonicalForm : Prop :=
  (∀ s t : State, s.canonical = true → step s = .next t → t.canonical = true) ∧
  (∀ s t : State, Reaches s t → s.canonical = true → t.canonical = true)

/-- Reset: canonical, every register at the reset value its map prints, memory 0, counter 0, no quench, nothing waiting. At
State.reset the register file and memory are in canonical form, every register reads the reset value of its map, every byte
of memory reads 0 (DESIGN CHOICE, notes/assumptions/2), the strike counter is 0, no quench is active, no fault record
stands, no class holds the claim, and the queue is empty. Cites 00_scope.md, 02_strike_and_time.md, 13_fault_collector.md. -/
def Obligations.ResetStateIsCanonicalAndReadsItsMaps : Prop :=
  State.reset.canonical = true ∧ (∀ r : Reg, State.reset.rd r = r.reset) ∧ (∀ a, State.reset.byte a = 0) ∧
  State.reset.time.count = 0 ∧ State.reset.fault.quench.active = false ∧ State.reset.fault.recs = [] ∧
  State.reset.pair.holding = false ∧ State.reset.pending = []

/-- Two canonical tables that hold the same value at every index are the same table. For every width and every two sparse tables
in canonical form: equal readings at every index make equal data. Cites 16_cxl_and_memory.md. -/
def Obligations.CanonicalTablesThatReadAlikeAreEqual : Prop :=
  ∀ (w : Nat) (t u : Sparse w), swf t = true → swf u = true → (∀ a, sget t a = sget u a) → t = u

/-- A register given a value reads it, and every register at another address reads as before. In canonical form, for every
register r and value v: wr makes r read v, leaves every register with another device address and all of memory as they were,
and keeps the canonical form. Cites 00_scope.md, 16_cxl_and_memory.md. -/
def Obligations.ARegisterReadsBackWhatWasWritten : Prop :=
  ∀ (m : Mach) (r : Reg) (v : Word), m.canonical = true →
    (m.wr r v).rd r = v ∧ (∀ r' : Reg, r'.addr ≠ r.addr → (m.wr r v).rd r' = m.rd r') ∧
    (m.wr r v).mem = m.mem ∧ (m.wr r v).canonical = true

/-- The register at a register's device address is that register: no two registers of the maps share an address. For every
register whose indices the map has: reading the device address map at its address gives the register back. So two registers
in range at one address are one register, and each address is a word of the register file outside the island mailbox. Cites
16_cxl_and_memory.md, 00_scope.md. -/
def Obligations.EveryRegisterHasItsOwnAddress : Prop :=
  (∀ r : Reg, r.inRange = true → Reg.ofAddr r.addr = some r) ∧
  (∀ r r' : Reg, r.inRange = true → r'.inRange = true → r.addr = r'.addr → r = r') ∧
  ∀ r : Reg, r.inRange = true → wordAddr r.addr = true ∧ ¬ (mailBase ≤ r.addr ∧ r.addr < mailBase + 0x10000)

/-- Bytes written from an address read back, every byte outside them reads as before, and nothing else changes. In canonical
form, for every address a and list of bytes: setBytes makes the bytes at a read as the list, leaves every byte below a or at
and above its end as it was, changes no register and keeps the canonical form. Cites 16_cxl_and_memory.md. -/
def Obligations.MemoryReadsBackTheBytesWritten : Prop :=
  ∀ (m : Mach) (a : Nat) (bs : List Byte), m.canonical = true →
    (m.setBytes a bs).bytes a bs.length = bs ∧
    (∀ b, b < a ∨ a + bs.length ≤ b → (m.setBytes a bs).byte b = m.byte b) ∧
    (m.setBytes a bs).regs = m.regs ∧ (m.setBytes a bs).canonical = true

/-- A command after which SY_CAP1 differs leaves svc_change set, and no command that leaves SY_CAP1 alone sets it by ending. For
every command and state: if SY_CAP1 after the command differs from SY_CAP1 before it, bit 28 of FC_STAT (svc_change) reads 1
after it; and what every command ends with changes no other bit of any register, no byte of memory and no other part of the
state. Cites 13_fault_collector.md, 00_scope.md. -/
def Obligations.SvcChangeMarksAChangeOfCap1 : Prop :=
  (∀ (c : Instr) (m n : Mach) (q : List Instr), exec c ⟨m, q⟩ = .next ⟨n, q⟩ → m.cap1 ≠ n.cap1 →
    bit (n.rd .fcStat) 28 = true) ∧
  ∀ m n : Mach, n.canonical = true →
    (settle m n).rd .fcStat = (if m.cap1 = n.cap1 then n.rd .fcStat else n.rd .fcStat ||| flag true 28) ∧
    (∀ r : Reg, r.addr ≠ Reg.addr .fcStat → (settle m n).rd r = n.rd r) ∧
    { settle m n with regs := n.regs } = n

/-- Recording a fault changes only the collector, the recorder, the MSI-X events, three counter registers and the test's severe
mark. For every module, source, class and detail: raise leaves every other unit of the state, all of memory, and every
register but FC_COUNT, FC_STAT and EV_LOST as they were; in the collector it leaves quench, the pairs, the forced pairs and
the waiting quench commands alone; of the loop engine it may only mark the loop test. Cites 13_fault_collector.md,
18_bringup_recorder.md. -/
def Obligations.AFaultTouchesNothingButItsRecord : Prop :=
  ∀ (m : Mach) (source : Nat) (cls : FCls) (detail : Word),
    let n := m.raise source cls detail
    n.mem = m.mem ∧ n.poison = m.poison ∧ n.flawed = m.flawed ∧ n.cleanLines = m.cleanLines ∧ n.sys = m.sys ∧ n.time = m.time ∧ n.rings = m.rings ∧
    n.txn = m.txn ∧ n.slots = m.slots ∧ n.ops = m.ops ∧ n.nextOp = m.nextOp ∧ n.pair = m.pair ∧ n.id = m.id ∧ n.phys = m.phys ∧
    n.bel = m.bel ∧ n.fc = m.fc ∧ n.anvil = m.anvil ∧ n.stks = m.stks ∧ n.peers = m.peers ∧ n.hall = m.hall ∧ n.cell = m.cell ∧
    n.dma = m.dma ∧ n.lastRead = m.lastRead ∧
    n.fault.active = m.fault.active ∧ n.fault.wiring = m.fault.wiring ∧ n.fault.forced = m.fault.forced ∧
    n.fault.quench = m.fault.quench ∧ n.fault.quenchCmds = m.fault.quenchCmds ∧ n.fault.release = m.fault.release ∧
    n.eng.loops = m.eng.loops ∧ n.eng.links = m.eng.links ∧
    ∀ r : Reg, r.addr ≠ Reg.addr .fcCount → r.addr ≠ Reg.addr .fcStat → r.addr ≠ Reg.addr .evLost → n.rd r = m.rd r

/-- A fault on a pair that may change stands first in the list with the fields of R407 and takes the next seq; a quiet pair
records nothing. On a pair that stays in fault, is non-complementary or is held by an injection, raise changes nothing
(R401, R403, R422). On any other, while the list has room and the recorder is not frozen: the record stands first, before
the earlier ones; it carries the present count, the next seq, the source, class, kind 0 and detail; an INFO record is
acknowledged, any other pending and due at the strike after its class's timer has run (R410); the following seq is one
higher (mod 65,536); and new_record of FC_STAT is set. The reference cycle is a free value (notes/assumptions/3). Cites
13_fault_collector.md. -/
def Obligations.AFaultWritesTheRecordOfR407 : Prop :=
  (∀ (m : Mach) (source : Nat) (cls : FCls) (detail : Word),
    ((source, cls) ∈ m.fault.active ∨ (source, cls) ∈ m.fault.wiring ∨ m.isForced source cls = true) → m.raise source cls detail = m) ∧
  ∀ (m : Mach) (source : Nat) (cls : FCls) (detail : Word), m.fault.recs.length < 256 → m.ev.frozen = false → m.canonical = true →
    (source, cls) ∉ m.fault.active → (source, cls) ∉ m.fault.wiring → m.isForced source cls = false →
    (m.raise source cls detail).fault.recs =
      { count := m.time.count, seq := m.fault.nextSeq, source := source, cls := cls, kind := 0,
        cycle := (Config.freeWord m.free).toNat % 1000, st := if cls = .info then .acked else .pending, raisedFw := false,
        injected := false, detail := detail, dueAt := ((m.time.count + m.timerOf cls + 1 : Nat) : Int) } :: m.fault.recs ∧
    (m.raise source cls detail).fault.nextSeq = (m.fault.nextSeq + 1) % 65536 ∧
    bit ((m.raise source cls detail).rd .fcStat) 29 = true

/-- A packet that is not read changes nothing; a packet that fails a check of R62 is answered with the first failing check's
status and has no other effect. For every packet row, with the opcode its row gives: if the ring gives no packet at present
the command changes nothing; if the packet is read, its ring expects the next seq, and where one of the first five checks
fails the reply with that check's status is all that follows. Of the checks a wrong seq comes first (with the expected seq
as result), then a wrong class, then an unknown opcode, then the class of R63, then the tag. Cites
03_commands_transactions.md. -/
def Obligations.PacketChecksOfR62ComeInOrder : Prop :=
  (∀ (m : Mach) (p : Packet) (x : Nat × Packet × Instr), x ∈
      [(ocSetPoint, p, .setPoint p), (ocSetCap, p, .setCap p), (ocLaunchArm, p, .launchArm p), (ocLaunchDisarm, p, .launchDisarm p),
       (ocCfgBegin, p, .cfgBegin p), (ocCfgCommit, p, .cfgCommit p), (ocCfgRollback, p, .cfgRollback p),
       (ocOpSuspend, p, .opSuspend p), (ocOpResume, p, .opResume p), (ocOpCancel, p, .opCancel p), (ocOpQuery, p, .opQuery p),
       (ocAvJobSubmit, p, .avJobSubmit p), (ocModelLoad, p, .modelLoad p), (ocTrainRun, p, .trainRun p),
       (ocCapacitySweep, p, .capacitySweep p), (ocBalanceCampaign, p, .balanceCampaign p), (ocSliceReplace, p, .sliceReplace p),
       (ocQuench, p, .quench p), (ocFaultRead, p, .faultRead p), (ocRecFreeze, fixW4 p true, .recFreeze p),
       (ocRecFreeze, fixW4 p false, .recThaw p), (ocRecRead, p, .recRead p), (ocClaimRelease, p, .claimRelease p),
       (ocGetIdentity, p, .getIdentity p), (ocModuleReset, fixW4 p false, .applicationReset p),
       (ocModuleReset, fixW4 p true, .fullReset p)] →
    (m.mayRead x.2.1 = false → Gives x.2.2 m m) ∧
    ∀ st res, m.judges x.1 x.2.1 (some (st, res)) →
      Gives x.2.2 m ((m.hasRead x.2.1).reply (m.backTo x.1 x.2.1) st res)) ∧
  ∀ (m : Mach) (op : Nat) (p : Packet) (e : Word),
    (p.seq ≠ e → m.packetCheck op p e = some (stBadSeq, [e])) ∧
    (p.seq = e → p.cls ≠ ringClass p.ring → m.packetCheck op p e = some (stClassMismatch, [])) ∧
    (p.seq = e → p.cls = ringClass p.ring → (knownOp op = false ∨ isIsland p.ring = true ∧ islandOp op = false) →
      m.packetCheck op p e = some (stBadOpcode, [])) ∧
    (p.seq = e → p.cls = ringClass p.ring → knownOp op = true → (isIsland p.ring = true → islandOp op = true) →
      p.cls ∉ classesOf op → m.packetCheck op p e = some (stNotPermitted, []))

/-- A packet with an opcode its ring does not know is answered ST_BAD_OPCODE, or with an earlier failing check, and has no other
effect. For every opcode not in R63, and every opcode outside the always-complete set on I0 and I1: a packet the module
reads with the right seq and class is answered ST_BAD_OPCODE; the ring expects the next seq, and nothing else happens. Cites
03_commands_transactions.md. -/
def Obligations.AnUnknownOpcodeIsAnswered : Prop :=
  ∀ (m : Mach) (op : Nat) (p : Packet), op < 256 → (knownOp op = false ∨ isIsland p.ring = true ∧ islandOp op = false) →
    p.tag < 2048 → m.mayRead p = true → p.seq = m.rd (.cxCmdSeq p.ring) → p.cls = ringClass p.ring →
    Gives (.badOpcodePacket op p) m ((m.hasRead p).reply (m.backTo op p) stBadOpcode [])

/-- CFG_BEGIN in IDLE opens a transaction with age 0 at the next strike; otherwise ST_CFG_OPEN names its owner. A CFG_BEGIN that
passes the first five checks: in IDLE the transaction is OPEN, owned by the packet's class and ring, with nothing staged,
ST_OK is posted, and the next strike's tick leaves age 0; in OPEN or VALIDATING it answers ST_CFG_OPEN with owner_class in
bits 5:4 and owner_ring in bits 2:0 of result word 4. Cites R79. -/
def Obligations.CfgBeginOpensOneTransaction : Prop :=
  ∀ (m : Mach) (p : Packet), m.serves ocCfgBegin p →
    (m.txn.state = .idle → Gives (.cfgBegin p) m
      ({ m.hasRead p with txn := { TxnSt.reset with state := .opened, owner := p.cls, ring := p.ring, agePending := true } }.reply
        (m.backTo ocCfgBegin p) stOk [])) ∧
    ({ TxnSt.reset with state := .opened, owner := p.cls, ring := p.ring, agePending := true }.tick.age = 0) ∧
    (m.txn.state ≠ .idle → Gives (.cfgBegin p) m ((m.hasRead p).reply (m.backTo ocCfgBegin p) stCfgOpen
      [place m.txn.owner.code 4 ||| place (m.txn.ring % 8) 0]))

/-- CFG_ROLLBACK in OPEN discards every staged word and returns to IDLE; VALIDATING and IDLE refuse it. A CFG_ROLLBACK that
passes the first five checks (of which R85's class check, the owner or TK, is one): in OPEN the transaction is IDLE with
nothing staged, CX_CFG_LAST says rolled back, ST_OK is posted; in VALIDATING it answers ST_BAD_STATE and the commit stands;
in IDLE it answers ST_CFG_NONE. Another class than the owner or TK fails the class check while a transaction stands. Cites
R85. -/
def Obligations.CfgRollbackDiscardsTheStagedWords : Prop :=
  (∀ (m : Mach) (p : Packet), m.serves ocCfgRollback p →
    (m.txn.state = .opened → Gives (.cfgRollback p) m
      ({ (m.hasRead p).wr .cxCfgLast (place stOk 0 ||| place 1 8) with txn := { TxnSt.reset with timedOut := m.txn.timedOut } }.reply
        (m.backTo ocCfgRollback p) stOk [])) ∧
    (m.txn.state = .validating → Gives (.cfgRollback p) m ((m.hasRead p).reply (m.backTo ocCfgRollback p) stBadState [])) ∧
    (m.txn.state = .idle → Gives (.cfgRollback p) m ((m.hasRead p).reply (m.backTo ocCfgRollback p) stCfgNone []))) ∧
  ∀ (m : Mach) (c : Cls) (w4 : Word), m.txn.state ≠ .idle → c ≠ .peer →
    (m.classCheck ocCfgRollback c w4 = none ↔ c = m.txn.owner ∨ c = .tk)

/-- OP_QUERY posts ST_OK with the target's state, its ring and class, and the count of its last change. An OP_QUERY that passes
the first five checks completes: it posts ST_OK and changes nothing else. For a tag an operation holds, result word 4 is its
state (0 running, 1 suspending, 2 suspended, 3 cancelling), word 5 its starting ring in bits 3:0 and class in bits 9:8,
words 6 and 7 the count of its last change; for a tag a launch holds, armed or with its terminal entry still to be posted,
the state is 4, with the launch's ring, that ring's class and its last change; for a tag not held it is 5. Cites R77. -/
def Obligations.OpQueryReportsTheTarget : Prop :=
  ∀ (m : Mach) (p : Packet), m.serves ocOpQuery p →
    (∀ o, (m.hasRead p).opHolding (field (p.word 4) 10 0) = some o → Gives (.opQuery p) m ((m.hasRead p).reply (m.backTo ocOpQuery p) stOk
      [BitVec.ofNat 32 (match o.state with | .running => 0 | .suspending => 1 | .suspended => 2 | .cancelling => 3),
       place (o.rt.ring % 16) 0 ||| place o.cls.code 8, BitVec.ofNat 32 o.changed, BitVec.ofNat 32 (o.changed / 4294967296)])) ∧
    (∀ (rt : RTo) (n : Nat), (m.hasRead p).opHolding (field (p.word 4) 10 0) = none →
      (m.hasRead p).tagLaunch (field (p.word 4) 10 0) = some (rt, n) →
      Gives (.opQuery p) m ((m.hasRead p).reply (m.backTo ocOpQuery p) stOk
        [4, place (rt.ring % 16) 0 ||| place (ringClass rt.ring).code 8, BitVec.ofNat 32 n, BitVec.ofNat 32 (n / 4294967296)])) ∧
    ((m.hasRead p).opHolding (field (p.word 4) 10 0) = none → (m.hasRead p).tagLaunch (field (p.word 4) 10 0) = none →
      Gives (.opQuery p) m ((m.hasRead p).reply (m.backTo ocOpQuery p) stOk [5, 0, 0, 0]))

/-- CFG_COMMIT moves an OPEN transaction to VALIDATING, which validates, closes or applies at its windows and times out at
10,000 F. CFG_COMMIT in OPEN moves the transaction to VALIDATING without a reply, but a launched one with 2,048 tracker
entries in use answers ST_BUSY; in IDLE it answers ST_CFG_NONE, or ST_CFG_TIMEOUT where the last one of its class timed out;
in VALIDATING ST_BAD_STATE. COMMIT_VALIDATION in a frame whose window has not been used counts its window; where more than
8,192 words need another one it waits; in the last, a failing validation closes the transaction and answers its status, a
passing one without a launch count applies at the next strike (R33), and one with a launch count arms. COMMIT_APPLY at or
after that strike applies the staged words with all their change does, closes with ST_OK and posts it with the applying
count. TRANSACTION_TIMEOUT at age 10,000 closes an OPEN transaction with ST_CFG_TIMEOUT and a CORR fault of source 0x04.
LAUNCH_REVALIDATE writes the verdict into the slots of launched commits due at the next strike and nowhere else. Cites
03_commands_transactions.md. -/
def Obligations.CfgCommitWaitsForItsWindow : Prop :=
  (∀ (m : Mach) (p : Packet), m.serves ocCfgCommit p →
    (m.txn.state = .opened → (launchOf p = 0 ∨ (m.hasRead p).inFlight < 2048) → Gives (.cfgCommit p) m
      { m.hasRead p with txn := { m.txn with state := .validating, commit := some (m.backTo ocCfgCommit p, launchOf p), windows := 0 } }) ∧
    (m.txn.state = .opened → launchOf p ≠ 0 → 2048 ≤ (m.hasRead p).inFlight →
      Gives (.cfgCommit p) m ((m.hasRead p).reply (m.backTo ocCfgCommit p) stBusy [])) ∧
    (m.txn.state = .idle → Gives (.cfgCommit p) m
      ((m.hasRead p).reply (m.backTo ocCfgCommit p) (if m.txn.timedOut = some p.cls then stCfgTimeout else stCfgNone) [])) ∧
    (m.txn.state = .validating → Gives (.cfgCommit p) m ((m.hasRead p).reply (m.backTo ocCfgCommit p) stBadState []))) ∧
  (∀ (m k : Mach) (rt : RTo) (l : Nat), m.txn.state = .validating → m.txn.commit = some (rt, l) → m.txn.applyAt = none →
    m.txn.winAt ≠ some m.time.count → k = { m with txn := { m.txn with windows := m.txn.windows + 1, winAt := some m.time.count } } →
    (m.txn.windows + 1 < windowsFor m.txn.staged.length → Gives .commitValidation m k) ∧
    (windowsFor m.txn.staged.length ≤ m.txn.windows + 1 →
      (∀ f : CfgFail, k.validate m.txn.staged m.txn.owner m.txn.overflow = some f → Gives .commitValidation m
        ({ k.wr .cxCfgLast (place f.status 0 ||| place 3 8) with txn := { TxnSt.reset with timedOut := m.txn.timedOut } }.reply rt f.status f.result)) ∧
      (k.validate m.txn.staged m.txn.owner m.txn.overflow = none →
        (l ≠ 0 → Gives .commitValidation m (k.armCommit rt l)) ∧
        (l = 0 → Gives .commitValidation m
          { k with txn := { k.txn with applyAt := some (m.time.count + 1), deferred := decide (0 < m.txn.windows) } })))) ∧
  (∀ n : Nat, (n ≤ 8192 → windowsFor n = 1) ∧ (8192 < n → windowsFor n = 2)) ∧
  (∀ m : Mach, (m.txn.state ≠ .validating ∨ m.txn.winAt = some m.time.count) → Gives .commitValidation m m) ∧
  (∀ (m : Mach) (rt : RTo) (l a : Nat), m.txn.state = .validating → m.txn.commit = some (rt, l) → m.txn.applyAt = some a →
    (a ≤ m.time.count → Gives .commitApply m (((((if m.txn.deferred then m.orReg .syBudget (flag true 4) else m).applyConfig m.txn.staged
      m.txn.owner).closeTxn stOk 0).post ⟨rt, stOk, some a, [], true, .nothing⟩).readiness)) ∧
    (m.time.count < a → Gives .commitApply m m.readiness)) ∧
  (∀ m : Mach, m.txn.state = .opened → 10000 ≤ m.txn.age → Gives .transactionTimeout m
    ({ m.wr .cxCfgLast (place stCfgTimeout 0 ||| place 2 8) with txn := { TxnSt.reset with timedOut := some m.txn.owner } }.raise srcCxl .corr
      (place m.txn.owner.code 0 ||| place m.txn.ring 4))) ∧
  (∀ m : Mach, m.txn.age < 10000 → Gives .transactionTimeout m m) ∧
  (∀ m : Mach, ∃ ls : List LaunchSlot, Gives .launchRevalidate m { m with slots := ls } ∧ ls.length = m.slots.length ∧
    ∀ (i : Nat) (l : LaunchSlot), m.slots[i]? = some l → ¬ (l.state = .armed ∧ l.action = actCommit ∧ l.count = m.time.count + 1) → ls[i]? = some l)

/-- LAUNCH_ARM takes the lowest slot that is not armed for its count; a count too near or too far, or no slot, refuses it; a
disarm works up to L − 2. A LAUNCH_ARM of an action whose argument or units fail answers their status. Of one that passes,
for the module or for its domain: a count below N + 2 answers ST_LAUNCH_LATE (below N + 300 for a domain launch) and one
beyond N + 2^32 ST_LAUNCH_RANGE, without effect; without a free slot ST_LAUNCH_FULL; with 2,048 tracker entries in use
ST_BUSY; else the lowest slot of 0 to 11, or of 12 to 15 for a domain launch, that is not armed holds the launch and
ST_ARMED names it; a domain launch is marked as seen, so that its own entry met later in a superframe arms it no second time
(R348). LAUNCH_DISARM of a tag in frame N ≤ L − 2 frees the slot, posts ST_OK, completes the launch with ST_CANCELLED, and
lists a domain launch for the superframe's message; a later one answers ST_LAUNCH_LATE and the launch stands; a tag that no
such slot holds answers ST_TAG_UNKNOWN. Cites 02_strike_and_time.md, 03_commands_transactions.md. -/
def Obligations.LaunchesArmAndDisarm : Prop :=
  (∀ n l : Nat, (l < n + 2 → launchWindow n l = some stLaunchLate) ∧ (n + 4294967296 < l → launchWindow n l = some stLaunchRange) ∧
    (n + 2 ≤ l → l ≤ n + 4294967296 → launchWindow n l = none)) ∧
  (∀ (m : Mach) (p : Packet) (d : Bool), m.serves ocLaunchArm p → d = bit (p.word 6) 31 →
    (∀ st, (m.hasRead p).actionCheck (field (p.word 6) 7 0) (p.word 7) d = some st →
      Gives (.launchArm p) m ((m.hasRead p).reply (m.backTo ocLaunchArm p) st [])) ∧
    ((m.hasRead p).actionCheck (field (p.word 6) 7 0) (p.word 7) d = none →
      (d = true → launchOf p < m.time.count + 300 →
        Gives (.launchArm p) m ((m.hasRead p).reply (m.backTo ocLaunchArm p) stLaunchLate [])) ∧
      (∀ st, d = false ∨ m.time.count + 300 ≤ launchOf p → launchWindow m.time.count (launchOf p) = some st →
        Gives (.launchArm p) m ((m.hasRead p).reply (m.backTo ocLaunchArm p) st [])) ∧
      (d = false ∨ m.time.count + 300 ≤ launchOf p → launchWindow m.time.count (launchOf p) = none →
        ((m.hasRead p).freeSlot (if d then 12 else 0) (if d then 4 else 12) = none →
          Gives (.launchArm p) m ((m.hasRead p).reply (m.backTo ocLaunchArm p) stLaunchFull [])) ∧
        ∀ i, (m.hasRead p).freeSlot (if d then 12 else 0) (if d then 4 else 12) = some i →
          (2048 ≤ (m.hasRead p).inFlight → Gives (.launchArm p) m ((m.hasRead p).reply (m.backTo ocLaunchArm p) stBusy [])) ∧
          ((m.hasRead p).inFlight < 2048 → ∃ l : LaunchSlot, l = { LaunchSlot.reset with
              state := .armed, count := launchOf p, action := field (p.word 6) 7 0, arg := p.word 7
              origin := if d then 2 else originOf p.cls, tag := p.tag, status := stArmed, reply := some (m.backTo ocLaunchArm p)
              armedAt := m.time.count, domain := if d then some (m.sys.position, m.hall.term) else none } ∧
            (d = false → Gives (.launchArm p) m ({ m.hasRead p with slots := m.slots.set i l }.reply (m.backTo ocLaunchArm p) stArmed [place i 0])) ∧
            (d = true → Gives (.launchArm p) m ({ m.hasRead p with
              hall.seenLaunch := m.hall.seenLaunch ++ [(m.sys.position, m.hall.term, p.tag)]
              slots := m.slots.set i l }.reply (m.backTo ocLaunchArm p) stArmed [place i 0])))))) ∧
  ∀ (m : Mach) (p : Packet), m.serves ocLaunchDisarm p →
    ((m.hasRead p).disarmable (field (p.word 4) 10 0) = none →
      Gives (.launchDisarm p) m ((m.hasRead p).reply (m.backTo ocLaunchDisarm p) stTagUnknown [])) ∧
    (∀ i, (m.hasRead p).disarmable (field (p.word 4) 10 0) = some i →
      ((m.hasRead p).slot i).count < m.time.count + 2 →
      Gives (.launchDisarm p) m ((m.hasRead p).reply (m.backTo ocLaunchDisarm p) stLaunchLate [])) ∧
    ∀ (i : Nat) (k : Mach), (m.hasRead p).disarmable (field (p.word 4) 10 0) = some i → m.time.count + 2 ≤ ((m.hasRead p).slot i).count →
      k = (m.hasRead p).reply (m.backTo ocLaunchDisarm p) stOk [] →
      (((m.hasRead p).slot i).domain = none → Gives (.launchDisarm p) m (k.finishSlot i stCancelled .gone none [])) ∧
      ∀ pos t, ((m.hasRead p).slot i).domain = some (pos, t) → Gives (.launchDisarm p) m
        ({ k with hall.disarms := k.hall.disarms ++ [(pos, t, ((m.hasRead p).slot i).tag)] }.finishSlot i stCancelled .gone none [])

/-- OP_SUSPEND, OP_RESUME, OP_CANCEL and the safe point move an operation through the states of R72 and R73. OP_SUSPEND of a
running operation makes it suspending with ST_OK, of any other state ST_BAD_STATE; OP_CANCEL makes a running or suspending
one cancelling with ST_OK, ends a suspended one, and answers ST_BAD_STATE to a cancelling one; a job that has issued no
bundle takes either at once. OP_RESUME of a suspended one makes it running, with ST_RESUMED owed, and ST_OK: a job joins the
tail of its level, SLICE_REPLACE goes on with its next slice, a cell operation in quench is suspended again. With four
notifications held back each answers ST_BUSY. A tag that no operation holds answers ST_BAD_STATE where its launch is armed.
At its safe point a suspending operation is suspended and posts ST_SUSPENDED, a cancelling one ends, a running one goes on,
and one that has ended, or whose copy or sweep is under way, is not touched. Cites 03_commands_transactions.md. -/
def Obligations.OperationsSuspendResumeAndCancel : Prop :=
  (∀ (m n : Mach) (p : Packet) (o : Op), m.serves ocOpSuspend p → (m.hasRead p).opByTag (field (p.word 4) 10 0) = some o →
    n = ((m.hasRead p).setOp o.id .suspending).reply (m.backTo ocOpSuspend p) stOk [] →
    (o.state = .running → (m.hasRead p).noteFull o = false →
      Gives (.opSuspend p) m (if n.stopsAtOnce o.id then n.safePoint o.id else n)) ∧
    (o.state = .running → (m.hasRead p).noteFull o = true → Gives (.opSuspend p) m ((m.hasRead p).reply (m.backTo ocOpSuspend p) stBusy [])) ∧
    (o.state ≠ .running → Gives (.opSuspend p) m ((m.hasRead p).reply (m.backTo ocOpSuspend p) stBadState []))) ∧
  (∀ (m n : Mach) (p : Packet) (o : Op), m.serves ocOpCancel p → (m.hasRead p).opByTag (field (p.word 4) 10 0) = some o →
    n = ((m.hasRead p).setOp o.id .cancelling).reply (m.backTo ocOpCancel p) stOk [] →
    (o.state = .cancelling → Gives (.opCancel p) m ((m.hasRead p).reply (m.backTo ocOpCancel p) stBadState [])) ∧
    (o.state ≠ .cancelling → (m.hasRead p).noteFull o = true →
      Gives (.opCancel p) m ((m.hasRead p).reply (m.backTo ocOpCancel p) stBusy [])) ∧
    (o.state = .suspended → (m.hasRead p).noteFull o = false →
      Gives (.opCancel p) m (((m.hasRead p).reply (m.backTo ocOpCancel p) stOk []).endCancelled o.id)) ∧
    ((o.state = .running ∨ o.state = .suspending) → (m.hasRead p).noteFull o = false →
      Gives (.opCancel p) m (if n.stopsAtOnce o.id then n.safePoint o.id else n))) ∧
  (∀ (m n : Mach) (p : Packet) (o : Op), m.serves ocOpResume p → (m.hasRead p).opByTag (field (p.word 4) 10 0) = some o →
    n = ({ m.hasRead p with ops := (((m.hasRead p).setOp o.id .running).ops.map (fun (x : Op) => if x.id == o.id then { x with resumeNote := some stResumed } else x)) }.reply
      (m.backTo ocOpResume p) stOk []).quenchCellOps →
    (o.state = .suspended → (m.hasRead p).noteFull o = true → Gives (.opResume p) m ((m.hasRead p).reply (m.backTo ocOpResume p) stBusy [])) ∧
    (o.state = .suspended → (m.hasRead p).noteFull o = false →
      ((n.opById o.id).any (fun x => x.state != .running) = true → Gives (.opResume p) m n) ∧
      ((n.opById o.id).any (fun x => x.state != .running) = false →
        (∀ j, n.jobOfOp o.id = some j → Gives (.opResume p) m (n.requeueJob j)) ∧
        (n.jobOfOp o.id = none → (n.hall.replace.all (fun x => x.op != o.id) = true ∨ n.plan = none) → Gives (.opResume p) m n) ∧
        ∀ x pl, n.jobOfOp o.id = none → n.hall.replace = some x → x.op = o.id → n.plan = some pl →
          Gives (.opResume p) m ((n.noteResumed o.id).replaceNext pl (x.todo.length + 1)))) ∧
    (o.state ≠ .suspended → Gives (.opResume p) m ((m.hasRead p).reply (m.backTo ocOpResume p) stBadState []))) ∧
  (∀ m : Mach, m.fault.quench.active = false → m.quenchCellOps = m) ∧
  (∀ (m : Mach) (p : Packet), (m.hasRead p).opByTag (field (p.word 4) 10 0) = none →
    (m.serves ocOpSuspend p → Gives (.opSuspend p) m ((m.hasRead p).reply (m.backTo ocOpSuspend p) stBadState [])) ∧
    (m.serves ocOpResume p → Gives (.opResume p) m ((m.hasRead p).reply (m.backTo ocOpResume p) stBadState [])) ∧
    (m.serves ocOpCancel p → Gives (.opCancel p) m ((m.hasRead p).reply (m.backTo ocOpCancel p) stBadState []))) ∧
  (∀ (m : Mach) (id : Nat), m.opById id = none → Gives (.safePointReached id) m m) ∧
  ∀ (m : Mach) (id : Nat) (o : Op), m.opById id = some o →
    ((o.ended = true ∨ m.hall.replace.any (fun r => r.op == id && r.copy.isSome) = true ∨ m.midSweep id = true) →
      Gives (.safePointReached id) m m) ∧
    (o.ended = false → m.hall.replace.any (fun r => r.op == id && r.copy.isSome) = false → m.midSweep id = false →
      ((o.state = .running ∨ o.state = .suspended) → Gives (.safePointReached id) m m) ∧
      (∀ l, m.loadOf id = some l → (o.state = .suspending ∨ o.state = .cancelling) → Gives (.safePointReached id) m (m.loadBlock l.bank)) ∧
      (∀ j, m.loadOf id = none → m.jobOfOp id = some j → j.phase ≠ .ended →
        (o.state = .suspending → Gives (.safePointReached id) m (m.suspendJob j m.tilesNow)) ∧
        (o.state = .cancelling → Gives (.safePointReached id) m (m.cancelJob j))) ∧
      (m.loadOf id = none → m.jobOfOp id = none →
        (o.state = .cancelling → Gives (.safePointReached id) m (m.endCancelled id)) ∧
        (o.state = .suspending → m.cell.camp = none → m.fc.train = none →
          Gives (.safePointReached id) m ((m.setOp id .suspended).notify o.rt stSuspended []))))

/-- The six opcodes that start long operations: a failing check answers its status, else the operation stands in the tracker
with ST_ACCEPTED. Each of the six opcodes, once past the first five checks: where its own check names a status, that reply
is all that follows, but for what a poisoned job record leaves (the error found and poison_read). Where the check passes, a
new running tracker entry stands under the packet's ring, tag, opcode and class, with what the opcode starts: a job at the
tail of the anvil's queue, a load of the bank the packet names, a training run, a capacity sweep of the named port, a
balancing campaign of the named strings; and ST_ACCEPTED is posted to a tagged command. In quench the two cell operations
are suspended at once. SLICE_REPLACE with a reserved bit answers ST_BAD_PARAM, on a module without links ST_UNIT_ABSENT, on
one that is not master, without a plan, or with one under way, ST_BAD_STATE, with a full tracker ST_BUSY; else it stands in
the tracker with ST_ACCEPTED and takes the slices without a mirror, of any or of the named position, one after another, and
completes with ST_OK where there is none. Cites 08_anvil_programs.md, 09_forecaster_learning.md, 12_cell_ring.md,
11_hall_fabric.md. -/
def Obligations.LongOperationsStartUnderTheirTag : Prop :=
  (∀ (m : Mach) (p : Packet) (st : Nat), m.serves ocAvJobSubmit p →
    (m.hasRead p).jobCheck p.cls ((m.hasRead p).bytes (addr48 (p.word 4) (p.word 5)) 128) (addr48 (p.word 4) (p.word 5))
      (addr48 (p.word 8) (p.word 9)) (p.word 6) (p.word 7) (p.word 10) = some st →
    Gives (.avJobSubmit p) m (((m.hasRead p).recordRead (addr48 (p.word 4) (p.word 5)) st).reply (m.backTo ocAvJobSubmit p) st [])) ∧
  (∀ (m : Mach) (p : Packet), m.serves ocAvJobSubmit p →
    (m.hasRead p).jobCheck p.cls ((m.hasRead p).bytes (addr48 (p.word 4) (p.word 5)) 128) (addr48 (p.word 4) (p.word 5))
      (addr48 (p.word 8) (p.word 9)) (p.word 6) (p.word 7) (p.word 10) = none →
    ∃ j : Job, j.id = m.anvil.nextJob ∧ j.kind = .user ∧ j.op = some m.nextOp ∧ j.cls = p.cls ∧ j.level = 3 + field (p.word 7) 1 0 ∧
      j.issued = false ∧
      (p.tag ≠ 0 → Gives (.avJobSubmit p) m ({ m.tracks ocAvJobSubmit p with
        anvil.jobs := m.anvil.jobs ++ [j]
        anvil.nextJob := m.anvil.nextJob + 1 }.reply (m.backTo ocAvJobSubmit p) stAccepted [])) ∧
      (p.tag = 0 → Gives (.avJobSubmit p) m { m.tracks ocAvJobSubmit p with
        anvil.jobs := m.anvil.jobs ++ [j]
        anvil.nextJob := m.anvil.nextJob + 1 })) ∧
  (∀ (m : Mach) (p : Packet), m.serves ocModelLoad p →
    (∀ st, (m.hasRead p).modelCheck p.cls (p.word 4) (addr48 (p.word 5) (p.word 6)) (p.word 7).toNat = some st →
      Gives (.modelLoad p) m ((m.hasRead p).reply (m.backTo ocModelLoad p) st [])) ∧
    ((m.hasRead p).modelCheck p.cls (p.word 4) (addr48 (p.word 5) (p.word 6)) (p.word 7).toNat = none → p.tag ≠ 0 →
      Gives (.modelLoad p) m ({ m.tracks ocModelLoad p with
        fc.loads := m.fc.loads ++ [(⟨m.nextOp, 2 * field (p.word 4) 0 0 + field (p.word 4) 1 1, some (addr48 (p.word 5) (p.word 6)), (p.word 7).toNat, []⟩ : LoadSt)]
        fc.banks := m.fc.banks.modify (2 * field (p.word 4) 0 0 + field (p.word 4) 1 1) (fun k => { k with valid := false, loading := true }) }.reply (m.backTo ocModelLoad p) stAccepted []))) ∧
  (∀ (m : Mach) (p : Packet), m.serves ocTrainRun p →
    (∀ st, (m.hasRead p).trainCheck (p.word 4) (p.word 5) = some st →
      Gives (.trainRun p) m ((m.hasRead p).reply (m.backTo ocTrainRun p) st [])) ∧
    ((m.hasRead p).trainCheck (p.word 4) (p.word 5) = none →
      Gives (.trainRun p) m ({ m.tracks ocTrainRun p with
        fc.train := some ⟨m.nextOp, p.tag, field (p.word 4) 7 0, field (p.word 4) 11 8, p.word 5, if p.word 6 = 0 then none else some (p.word 6).toNat, none⟩ }.reply (m.backTo ocTrainRun p) stAccepted []))) ∧
  (∀ (m : Mach) (p : Packet), m.serves ocCapacitySweep p →
    (∀ st, (m.hasRead p).capsCheck (p.word 4) (p.word 5) = some st →
      Gives (.capacitySweep p) m ((m.hasRead p).reply (m.backTo ocCapacitySweep p) st [])) ∧
    ((m.hasRead p).capsCheck (p.word 4) (p.word 5) = none →
      Gives (.capacitySweep p) m ((({ m.tracks ocCapacitySweep p with
        cell.caps := some ⟨m.nextOp, p.tag, field (p.word 4) 1 0, field (p.word 5) 15 0, 0, 0, (m.port (field (p.word 4) 1 0)).entry.soe, 0, 0, 0, 0⟩ } : Mach).wr .crCapsRes 0).reply (m.backTo ocCapacitySweep p) stAccepted []).quenchCellOps)) ∧
  (∀ (m : Mach) (p : Packet), m.serves ocBalanceCampaign p →
    (∀ st, (m.hasRead p).campCheck (p.word 4) = some st →
      Gives (.balanceCampaign p) m ((m.hasRead p).reply (m.backTo ocBalanceCampaign p) st [])) ∧
    ((m.hasRead p).campCheck (p.word 4) = none → ∃ c : CampSt, c.op = m.nextOp ∧ c.strings = field (p.word 4) 3 0 ∧
      Gives (.balanceCampaign p) m ((({ m.tracks ocBalanceCampaign p with
        cell.camp := some c }.reply (m.backTo ocBalanceCampaign p) stAccepted []).campRecord c).quenchCellOps))) ∧
  ∀ (m : Mach) (p : Packet), m.serves ocSliceReplace p →
    (field (p.word 4) 31 16 ≠ 0 → Gives (.sliceReplace p) m ((m.hasRead p).reply (m.backTo ocSliceReplace p) stBadParam [])) ∧
    (field (p.word 4) 31 16 = 0 → m.sys.links = 0 → Gives (.sliceReplace p) m ((m.hasRead p).reply (m.backTo ocSliceReplace p) stUnitAbsent [])) ∧
    (field (p.word 4) 31 16 = 0 → m.sys.links ≠ 0 → (m.hall.isMaster = false ∨ m.hall.replace.isSome = true) →
      Gives (.sliceReplace p) m ((m.hasRead p).reply (m.backTo ocSliceReplace p) stBadState [])) ∧
    (field (p.word 4) 31 16 = 0 → m.sys.links ≠ 0 → m.hall.isMaster = true → m.hall.replace = none →
      (2048 ≤ (m.hasRead p).inFlight → Gives (.sliceReplace p) m ((m.hasRead p).reply (m.backTo ocSliceReplace p) stBusy [])) ∧
      ((m.hasRead p).inFlight < 2048 → m.plan = none →
        Gives (.sliceReplace p) m ((m.hasRead p).reply (m.backTo ocSliceReplace p) stBadState [])) ∧
      ∀ (pl : Plan) (todo : List Nat) (k : Mach), (m.hasRead p).inFlight < 2048 → m.plan = some pl →
        todo = (m.nextPlaces.filter (fun x => x.mirror.isNone && (field (p.word 4) 15 0 == 0xFFFF || x.lostBy == some (field (p.word 4) 15 0)))).map (·.slice) →
        k = (m.tracks ocSliceReplace p).reply (m.backTo ocSliceReplace p) stAccepted [] →
        Gives (.sliceReplace p) m (({ k with hall.replace := some ⟨m.nextOp, todo, none, 0⟩ } : Mach).replaceNext pl (todo.length + 1)) ∧
        (todo = [] → Gives (.sliceReplace p) m ({ k with hall.replace := none }.endOp m.nextOp stOk [])))

/-- QUENCH, FAULT_READ, REC_FREEZE, REC_THAW, REC_READ, CLAIM_RELEASE, GET_IDENTITY and both resets do what R66 and R67 give
them. Each always-complete opcode, once past the first five checks. QUENCH records its INFO fault of source 0x01 at once and
waits for the next strike, which may be no earlier than the frame after. FAULT_READ of an index answers the record's words,
of an index without a record ST_BAD_PARAM. REC_FREEZE asks for a freeze, or begins the idle count anew, and answers the fill
levels; REC_THAW ends a pending freeze with ST_OK, and without one is refused; REC_READ returns 16 bytes of the stored
record. CLAIM_RELEASE without the claim answers ST_BAD_STATE and with it waits. GET_IDENTITY answers serial, capabilities
and position. A reset without the claim answers ST_OK and executes at the second strike after; with one under way
ST_BAD_STATE; with the claim, a partner that is not ready (a missing pair frame counts so: DESIGN CHOICE,
notes/assumptions/28) and force 0, ST_ROLE_HELD; with the claim otherwise, the release comes first. Cites
03_commands_transactions.md, 13_fault_collector.md, 14_redundant_pair.md, 18_bringup_recorder.md. -/
def Obligations.IslandOpcodesAnswer : Prop :=
  (∀ (m : Mach) (p : Packet), m.serves ocQuench p → ∃ k : Mach, k = (m.hasRead p).raise srcKernel .info (place p.cls.code 0) ∧
    Gives (.quench p) m { k with fault.quenchCmds := k.fault.quenchCmds ++ [(m.backTo ocQuench p,
      ((k.fault.recs.find? (fun r => r.seq == m.fault.nextSeq)).getD
        ((m.hasRead p).newRec srcKernel .info kindGeneral (place p.cls.code 0) ⟨0, false, false⟩)).nextStrike m.time.count)] }) ∧
  (∀ (m : Mach) (p : Packet), m.serves ocFaultRead p →
    (∀ r, m.fault.recs[field (p.word 4) 7 0]? = some r →
      Gives (.faultRead p) m ((m.hasRead p).reply (m.backTo ocFaultRead p) stOk r.words)) ∧
    (m.fault.recs[field (p.word 4) 7 0]? = none →
      Gives (.faultRead p) m ((m.hasRead p).reply (m.backTo ocFaultRead p) stBadParam []))) ∧
  (∀ (m : Mach) (p : Packet), m.serves ocRecFreeze (fixW4 p true) →
    (m.ev.frozen = false → m.ev.freezePending = false → Gives (.recFreeze p) m ({ m.hasRead p with ev.freezePending := true, ev.freezeNew := true }.reply
      (m.backTo ocRecFreeze p) stOk [BitVec.ofNat 32 m.holdFill, BitVec.ofNat 32 (min m.queueFill 1024)])) ∧
    ((m.ev.frozen = true ∨ m.ev.freezePending = true) → Gives (.recFreeze p) m ({ m.hasRead p with ev.idle := 0 }.reply
      (m.backTo ocRecFreeze p) stOk [BitVec.ofNat 32 m.holdFill, BitVec.ofNat 32 (min m.queueFill 1024)]))) ∧
  (∀ (m : Mach) (p : Packet), m.serves ocRecFreeze (fixW4 p false) → m.ev.frozen = false →
    (m.ev.freezePending = true → Gives (.recThaw p) m ({ m.hasRead p with ev.freezePending := false }.reply
      (m.backTo ocRecFreeze p) stOk [BitVec.ofNat 32 m.holdFill, BitVec.ofNat 32 (min m.queueFill 1024)])) ∧
    (m.ev.freezePending = false → Gives (.recThaw p) m ((m.hasRead p).reply (m.backTo ocRecFreeze p) stBadState []))) ∧
  (∀ (m : Mach) (p : Packet), m.serves ocRecFreeze (fixW4 p false) → m.ev.frozen = true →
    Gives (.recThaw p) m ((m.hasRead p).thaw.reply
      (m.backTo ocRecFreeze p) stOk [BitVec.ofNat 32 m.holdFill, BitVec.ofNat 32 (min m.queueFill 1024)])) ∧
  (∀ (m : Mach) (p : Packet), m.serves ocRecRead p →
    (m.ev.mounted = false → Gives (.recRead p) m ({ m.hasRead p with ev.idle := 0 }.reply (m.backTo ocRecRead p) stBadState [])) ∧
    (m.ev.mounted = true → m.ev.stored[(p.word 4).toNat]? = none →
      Gives (.recRead p) m ({ m.hasRead p with ev.idle := 0 }.reply (m.backTo ocRecRead p) stBadParam [])) ∧
    ∀ r, m.ev.mounted = true → m.ev.stored[(p.word 4).toNat]? = some r →
      ((field (p.word 5) 15 0 % 16 ≠ 0 ∨ r.body.length ≤ field (p.word 5) 15 0) →
        Gives (.recRead p) m ({ m.hasRead p with ev.idle := 0 }.reply (m.backTo ocRecRead p) stBadParam [])) ∧
      (field (p.word 5) 15 0 % 16 = 0 → field (p.word 5) 15 0 < r.body.length →
      Gives (.recRead p) m ({ m.hasRead p with ev.idle := 0 }.reply (m.backTo ocRecRead p) stOk
        ((r.words.drop (field (p.word 5) 15 0 / 4)).take 4)))) ∧
  (∀ (m : Mach) (p : Packet), m.serves ocClaimRelease p →
    (m.pair.holding = false → Gives (.claimRelease p) m ((m.hasRead p).reply (m.backTo ocClaimRelease p) stBadState [])) ∧
    (m.pair.holding = true → Gives (.claimRelease p) m
      { m.hasRead p with pair.releaseReq := m.pair.releaseReq ++ [m.backTo ocClaimRelease p] })) ∧
  (∀ (m : Mach) (p : Packet) (v : Word), m.serves ocGetIdentity p →
    v = (if m.id.tkRun then (m.id.tk.running.map Image.version).getD 0 else 0) →
    Gives (.getIdentity p) m ((m.hasRead p).reply (m.backTo ocGetIdentity p) stOk
      [BitVec.ofNat 32 m.id.serial, BitVec.ofNat 32 (m.id.serial / 4294967296), m.sys.cap0,
       place ((m.hasRead p).ownPos % 65536) 0 ||| place (field v 31 24) 16 ||| place (field v 23 16) 24])) ∧
  ∀ (m : Mach) (p : Packet) (full : Bool), m.serves ocModuleReset (fixW4 p full) →
    (m.sys.modReset.isSome = true → Gives (if full then .fullReset p else .applicationReset p) m
      ((m.hasRead p).reply (m.backTo ocModuleReset p) stBadState [])) ∧
    (m.sys.modReset = none → m.pair.holding = false → ∃ k : Mach, k = (m.hasRead p).reply (m.backTo ocModuleReset p) stOk [] ∧
      Gives (if full then .fullReset p else .applicationReset p) m { k with sys.modReset := some ⟨full, m.backTo ocModuleReset p, false, none, some k.time.count, some (k.time.count + 2)⟩ }) ∧
    (m.sys.modReset = none → m.pair.holding = true → (m.pair.missRun ≠ 0 ∨ m.pair.partnerLast.any (fun f => f.ready) = false) → bit (p.word 4) 1 = false →
      Gives (if full then .fullReset p else .applicationReset p) m ((m.hasRead p).reply (m.backTo ocModuleReset p) stRoleHeld [])) ∧
    (m.sys.modReset = none → m.pair.holding = true → (m.pair.missRun = 0 ∧ m.pair.partnerLast.any (fun f => f.ready) = true ∨ bit (p.word 4) 1 = true) →
      Gives (if full then .fullReset p else .applicationReset p) m { m.hasRead p with
        sys.modReset := some ⟨full, m.backTo ocModuleReset p, true, none, none, none⟩
        pair.kernelRelease := true })

/-- SET_POINT and SET_CAP of a value in range are held for the next strike with ST_OK; a value out of range, quench and a
dispatch that is not ready refuse them. SET_POINT of target 1 (BUS_VREF, 760,000 to 840,000 mV) or 2 (SoE target, between
the reserve limits of BD_RESERVE), and SET_CAP of the rack or of a tray the module serves: outside quench with bellows
ready, the value is the pending one and ST_OK is posted; a parameter out of range answers ST_BAD_PARAM; then quench answers
ST_QUENCHED and a dispatch that is not ready ST_BAD_STATE. Nothing else changes. Cites 03_commands_transactions.md,
04_bellows_dispatch.md. -/
def Obligations.SetPointsWaitForTheNextStrike : Prop :=
  (∀ (m : Mach) (p : Packet), m.serves ocSetPoint p → field (p.word 4) 15 0 = 1 →
    (760000 ≤ (p.word 5).toNat → (p.word 5).toNat ≤ 840000 →
      (m.fault.quench.active = false → (m.hasRead p).ready fnBellows = true → Gives (.setPoint p) m
        ({ m.hasRead p with bel.vrefNext := some (p.word 5).toNat }.reply (m.backTo ocSetPoint p) stOk [])) ∧
      (m.fault.quench.active = true → Gives (.setPoint p) m ((m.hasRead p).reply (m.backTo ocSetPoint p) stQuenched [])) ∧
      (m.fault.quench.active = false → (m.hasRead p).ready fnBellows = false → Gives (.setPoint p) m
        ((m.hasRead p).reply (m.backTo ocSetPoint p) stBadState []))) ∧
    ((p.word 5).toNat < 760000 ∨ 840000 < (p.word 5).toNat → Gives (.setPoint p) m
      ((m.hasRead p).reply (m.backTo ocSetPoint p) stBadParam []))) ∧
  (∀ (m : Mach) (p : Packet), m.serves ocSetPoint p → field (p.word 4) 15 0 = 2 →
    ((m.hasRead p).rdField .bdReserve 9 0 ≤ (p.word 5).toNat → (p.word 5).toNat ≤ (m.hasRead p).rdField .bdReserve 25 16 →
      (m.fault.quench.active = false → (m.hasRead p).ready fnBellows = true → Gives (.setPoint p) m
        ({ m.hasRead p with bel.soeNext := some (p.word 5).toNat }.reply (m.backTo ocSetPoint p) stOk [])) ∧
      (m.fault.quench.active = true → Gives (.setPoint p) m ((m.hasRead p).reply (m.backTo ocSetPoint p) stQuenched [])) ∧
      (m.fault.quench.active = false → (m.hasRead p).ready fnBellows = false → Gives (.setPoint p) m
        ((m.hasRead p).reply (m.backTo ocSetPoint p) stBadState []))) ∧
    ((p.word 5).toNat < (m.hasRead p).rdField .bdReserve 9 0 ∨ (m.hasRead p).rdField .bdReserve 25 16 < (p.word 5).toNat →
      Gives (.setPoint p) m ((m.hasRead p).reply (m.backTo ocSetPoint p) stBadParam []))) ∧
  (∀ (m : Mach) (p : Packet), m.serves ocSetPoint p → field (p.word 4) 15 0 ≠ 1 → field (p.word 4) 15 0 ≠ 2 →
    Gives (.setPoint p) m ((m.hasRead p).reply (m.backTo ocSetPoint p) stBadParam [])) ∧
  ∀ (m : Mach) (p : Packet), m.serves ocSetCap p →
    (field (p.word 4) 6 0 ≠ 0 → field (p.word 4) 6 0 ∉ (m.hasRead p).served →
      Gives (.setCap p) m ((m.hasRead p).reply (m.backTo ocSetCap p) stBadParam [])) ∧
    ((field (p.word 4) 6 0 = 0 ∨ field (p.word 4) 6 0 ∈ (m.hasRead p).served) →
      (m.fault.quench.active = true → Gives (.setCap p) m ((m.hasRead p).reply (m.backTo ocSetCap p) stQuenched [])) ∧
      (m.fault.quench.active = false → (m.hasRead p).ready fnBellows = false → Gives (.setCap p) m
        ((m.hasRead p).reply (m.backTo ocSetCap p) stBadState []))) ∧
    (m.fault.quench.active = false → (m.hasRead p).ready fnBellows = true →
      (field (p.word 4) 6 0 = 0 → Gives (.setCap p) m
        ({ m.hasRead p with bel.rackCapNext := some (p.word 5) }.reply (m.backTo ocSetCap p) stOk [])) ∧
      (field (p.word 4) 6 0 ≠ 0 → field (p.word 4) 6 0 ∈ (m.hasRead p).served → Gives (.setCap p) m
        ({ m.hasRead p with bel.hostNext := m.bel.hostNext ++ [(field (p.word 4) 6 0, p.word 5)] }.reply (m.backTo ocSetCap p) stOk [])))

/-- Rings 0 to 5 and I0 are HOST, ring 6 and I1 FW, ring 7 TK, none PEER; a packet of another class is answered
ST_CLASS_MISMATCH with no effect. The class of each of the ten rings is as R53 fixes it and is never PEER; and a packet of
any row whose class field differs from its ring's class, read with the expected seq, is answered ST_CLASS_MISMATCH and has
no other effect. Cites R53. -/
def Obligations.RingClassesAreFixed : Prop :=
  (∀ n, n < 6 ∨ n = 8 → ringClass n = .host) ∧ (∀ n, n = 6 ∨ n = 9 → ringClass n = .fw) ∧ ringClass 7 = .tk ∧
  (∀ n, ringClass n ≠ .peer) ∧
  ∀ (m : Mach) (op : Nat) (p : Packet), op < 256 → p.tag < 2048 → m.mayRead p = true → p.seq = m.rd (.cxCmdSeq p.ring) →
    p.cls ≠ ringClass p.ring →
    m.servePacket op p = (m.hasRead p).reply (m.backTo op p) stClassMismatch [] ∧
    (op = ocSetPoint → Gives (.setPoint p) m ((m.hasRead p).reply (m.backTo op p) stClassMismatch [])) ∧
    (op = ocQuench → Gives (.quench p) m ((m.hasRead p).reply (m.backTo op p) stClassMismatch []))

/-- The doorbell sets the tail, enabling clears indices and sequence, the status head releases entries; an index at or above the
size is discarded. A write that its class may make and that lands. CX_CMD_TAIL_n: an index below the ring size is the new
tail; one at or above it is discarded. CX_CMD_CTRL_n with ring_en set on a disabled general ring, size_log2 4 to 12: size
and irq_en are taken, head, tail, status head, status tail and expected seq are 0, the phase bits are cleared, nothing is
held or owed. CX_STS_HEAD_n: an index below the ring size is the new head, after which held entries go out. A register
number the map does not have changes nothing. Cites 03_commands_transactions.md, 16_cxl_and_memory.md. -/
def Obligations.RingRegistersTakeTheirWrites : Prop :=
  (∀ (m : Mach) (c : Cls) (n : Nat) (v : Word), m.lands c (.cxCmdTail n) true →
    (field v 11 0 < m.ringSize n → Gives (.ringDoorbell c n v) m (m.wr (.cxCmdTail n) (BitVec.ofNat 32 (field v 11 0)))) ∧
    (m.ringSize n ≤ field v 11 0 → Gives (.ringDoorbell c n v) m m)) ∧
  (∀ (m : Mach) (c : Cls) (n : Nat) (v : Word), m.lands c (.cxStsHead n) true →
    (field v 11 0 < m.ringSize n →
      Gives (.statusHeadWrite c n v) m ((m.wr (.cxStsHead n) (BitVec.ofNat 32 (field v 11 0))).drainAll n)) ∧
    (m.ringSize n ≤ field v 11 0 → Gives (.statusHeadWrite c n v) m m)) ∧
  (∀ (m : Mach) (c : Cls) (n : Nat) (v : Word), m.lands c (.cxCmdCtrl n) true → isIsland n = false →
    m.ringEn n = false → 4 ≤ field v 3 0 → field v 3 0 ≤ 12 →
    Gives (.ringEnable c n v) m ((m.wr (.cxCmdCtrl n)
      (setField (putBit (putBit (m.rd (.cxCmdCtrl n)) 31 true) 30 (bit v 30)) 3 0 (field v 3 0))).enableRing n)) ∧
  (∀ (m : Mach) (n : Nat), n < m.rings.length → ((m.enableRing n).ring n).held = [] ∧ ((m.enableRing n).ring n).owing = 0 ∧
    ((m.enableRing n).ring n).passOdd = true) ∧
  ∀ (m : Mach) (c : Cls) (n : Nat) (v : Word), (Reg.cxCmdTail n).inRange = false → Gives (.ringDoorbell c n v) m m

/-- ring_en 1 to 0: unread packets are discarded, commands already read run on, and each of their later replies is dropped and
counted in CX_STS_DROP. A landed write of CX_CMD_CTRL_n that clears ring_en of an enabled general ring: the tail returns to
the head, so no unread packet stands; entries still held are counted in CX_STS_DROP_n and gone; nothing is owed; operations
in flight run on, but for one that had ended and whose terminal entry was among those held. Afterwards a reply or
notification for a command read before it changes nothing but CX_STS_DROP_n, which counts it (and a terminal entry frees
what it held), whether the ring stays disabled or is enabled again. Cites R58. -/
def Obligations.DisablingARingDropsItsReplies : Prop :=
  (∀ (m : Mach) (c : Cls) (n : Nat) (v : Word), m.lands c (.cxCmdCtrl n) true → isIsland n = false → m.ringEn n = true →
    4 ≤ field v 3 0 → field v 3 0 ≤ 12 → m.canonical = true →
    ∃ k : Mach, Gives (.ringDisable c n v) m k ∧ k.ringEn n = false ∧
      k.rd (.cxCmdTail n) = m.rd (.cxCmdHead n) ∧ k.rd (.cxCmdHead n) = m.rd (.cxCmdHead n) ∧
      k.rd (.cxStsDrop n) = bumpField (m.rd (.cxStsDrop n)) 15 0 (m.ring n).held.length ∧
      k.rings = m.rings.modify n (fun r => { r with held := [], owing := 0, epoch := r.epoch + 1, rdownWait := false }) ∧
      k.ops = m.ops.filter (fun o => (m.ring n).held.all (fun e => decide (e.frees ≠ .op o.id))) ∧ k.slots = m.slots ∧ k.anvil = m.anvil ∧ k.mem = m.mem) ∧
  ∀ (m : Mach) (e : StsEntry), (m.ringEn e.rt.ring = false ∨ (m.ring e.rt.ring).epoch ≠ e.rt.epoch) →
    m.post e = (m.release e).bump (.cxStsDrop e.rt.ring) 15 0 1

/-- A posted status goes behind the entries its ring holds; RdOwnNoData writes the entry that waited; an entry holds the words
of R61. STATUS_POST on an enabled ring appends the entry to what the ring holds and lets what can go out go out; on a
disabled ring it is counted as dropped. RDOWN_NODATA with an entry waiting writes that entry and then those behind it;
without one it changes nothing. The entry's word 0 carries phase, tag, opcode and status, word 1 the command's seq, words 2
and 3 the count (of its posting, unless the entry carries one), words 4 to 7 the result. Cites 03_commands_transactions.md,
16_cxl_and_memory.md. -/
def Obligations.StatusEntriesGoOutInOrder : Prop :=
  (∀ (m : Mach) (ring tag op status : Nat) (seq : Word) (res : List Word),
    (m.ringEn ring = true → Gives (.statusPost ring tag op status (seq, res)) m ((m.setRing ring (fun r => { r with held := r.held ++
      [⟨⟨ring, (m.ring ring).epoch, tag, op, seq⟩, status, none, res, false, .nothing⟩] })).drainAll ring)) ∧
    (m.ringEn ring = false → Gives (.statusPost ring tag op status (seq, res)) m (m.bump (.cxStsDrop ring) 15 0 1))) ∧
  (∀ (m : Mach) (ring : Nat) (e : StsEntry) (rest : List StsEntry), (m.ring ring).rdownWait = true → (m.ring ring).held = e :: rest →
    Gives (.rdownNodata ring) m
      (((m.setRing ring (fun r => { r with held := rest, rdownWait := false })).writeEntry ring e).drainAll ring)) ∧
  (∀ (m : Mach) (ring : Nat), (m.ring ring).rdownWait = false → Gives (.rdownNodata ring) m m) ∧
  ∀ (e : StsEntry) (ph : Bool) (now : Nat), (e.words ph now).length = 8 ∧ wordAt (e.words ph now) 1 = e.rt.seq ∧
    wordAt (e.words ph now) 0 = flag ph 31 ||| place (e.rt.tag % 2048) 16 ||| place (e.rt.opcode % 256) 8 ||| place (e.status % 256) 0 ∧
    wordAt (e.words ph now) 2 = BitVec.ofNat 32 (e.count.getD now) ∧
    wordAt (e.words ph now) 3 = BitVec.ofNat 32 (e.count.getD now / 4294967296) ∧
    ∀ i, i < 4 → wordAt (e.words ph now) (4 + i) = wordAt e.result i

/-- A write reaches what its access codes let it reach: RW bits, W1C bits, staged ST bits; a denied, absent or unmapped one
changes no register it names. For every word address and class. Before cap_valid a HOST write outside the SY_ block and the
mailbox changes nothing. A write the windows do not permit is counted by deny, which records the INFO fault of source 0x04
but for PEER, whose row of R494 has none; a firmware core meets a bus error, and a HOST or PEER write of a window register
has its INFO fault of source 0x03. A write in the block of an absent unit is discarded with an INFO fault of source 0x03.
Writing SY_READY_CHG clears the bits written 1; writing ID_UPD_LEN takes its RW bits. Any register with ST fields only,
written by the owner of an OPEN transaction, is staged with its base and its applied value stays (beyond 16,384 words only
overflow sets); by another class, or without a transaction, it is discarded with an INFO fault naming class and offset. An
applied word gives the register its ST bits. Cites 00_scope.md, 03_commands_transactions.md, 16_cxl_and_memory.md. -/
def Obligations.RegisterWritesFollowTheirAccessCodes : Prop :=
  (∀ (m : Mach) (c : Cls) (a : Nat) (v : Word), (wordAddr a = false ∨ m.dark c a = true) → Gives (.registerWrite c a v) m m) ∧
  (∀ (m : Mach) (c : Cls) (a : Nat) (v : Word), wordAddr a = true → m.dark c a = false → m.regMay c a true = false →
    (c ≠ .fw → (isWindowReg a = false ∨ c = .tk) → Gives (.registerWrite c a v) m (m.deny c a true (decide (c ≠ .peer)))) ∧
    (c = .fw → Gives (.registerWrite c a v) m { m.deny .fw a true true with cxl.lastUr := true })) ∧
  (∀ (m : Mach) (c : Cls) (a : Nat) (v : Word), wordAddr a = true → m.dark c a = false → m.regMay c a true = false →
    isWindowReg a = true → (c = .host ∨ c = .peer) → Gives (.registerWrite c a v) m ((m.deny c a true (decide (c ≠ .peer))).raise srcRegister .info
      (place c.code 0 ||| place (a / 4 % 0x1000000) 8))) ∧
  (∀ (m : Mach) (c : Cls) (a : Nat) (v : Word), wordAddr a = true → m.dark c a = false → m.regMay c a true = true →
    m.absentAt a = true →
    Gives (.registerWrite c a v) m (m.raise srcRegister .info (place c.code 0 ||| place (a / 4 % 0x1000000) 8))) ∧
  (∀ (m : Mach) (c : Cls) (v : Word), m.lands c .syReadyChg true →
    Gives (.registerWrite c (Reg.addr .syReadyChg) v) m (m.wr .syReadyChg (m.rd .syReadyChg &&& ~~~v))) ∧
  (∀ (m : Mach) (c : Cls) (v : Word), m.lands c .idUpdLen true →
    Gives (.registerWrite c (Reg.addr .idUpdLen) v) m
      (m.wr .idUpdLen ((m.rd .idUpdLen &&& ~~~(Reg.rwMask .idUpdLen)) ||| (v &&& Reg.rwMask .idUpdLen)))) ∧
  (∀ (m : Mach) (c : Cls) (r : Reg) (v : Word), m.lands c r true → r.stMask ≠ 0 → r.rwMask = 0 → r.w1cMask = 0 →
    (m.txn.state ≠ .opened ∨ m.txn.owner ≠ c) → Gives (.stagedWrite c r.addr v) m
      (m.raise srcRegister .info (place c.code 0 ||| place (r.addr / 4 % 0x1000000) 8))) ∧
  (∀ (m : Mach) (c : Cls) (r : Reg) (v : Word), m.lands c r true → r.stMask ≠ 0 → r.rwMask = 0 → r.w1cMask = 0 →
    m.txn.state = .opened → m.txn.owner = c → m.txn.staged.all (fun w => w.addr != r.addr) = true →
    (m.txn.staged.length < 16384 → Gives (.stagedWrite c r.addr v) m
      { m with txn := { m.txn with staged := m.txn.staged ++ [⟨r.addr, v, m.rd r⟩] } }) ∧
    (16384 ≤ m.txn.staged.length → Gives (.stagedWrite c r.addr v) m { m with txn := { m.txn with overflow := true } })) ∧
  ∀ (m : Mach) (r : Reg) (w : Staged), Reg.ofAddr w.addr = some r → m.canonical = true →
    (m.applyWord w).rd r = (m.rd r &&& ~~~r.stMask) ||| (w.value &&& r.stMask)

/-- A read answers the register's value, clears its RC bits, and latches the high half where the map says so; the block of an
absent unit reads 0 with an INFO fault. For every class: a landed read of SY_STRIKE_LO answers bits 31:0 of the count and
leaves bits 63:32 of the same count in SY_STRIKE_HI; a landed read of AV_BUSY_LO returns the busy count and clears it; a
read in the block of an absent unit answers 0 and records the INFO fault of source 0x03 that names class and offset; a HOST
read before cap_valid outside the SY_ block and the mailbox answers 0; a read the windows do not permit is recorded by deny
and completes as an unsupported request. Cites 00_scope.md, 02_strike_and_time.md, 16_cxl_and_memory.md. -/
def Obligations.RegisterReadsAnswerClearAndLatch : Prop :=
  (∀ (m : Mach) (c : Cls), m.lands c .syStrikeLo false → Gives (.latchingRead c (Reg.addr .syStrikeLo)) m
    { m.wr .syStrikeHi (BitVec.ofNat 32 (m.time.count / 4294967296)) with
      lastRead := [BitVec.ofNat 32 m.time.count], cxl.lastPoison := false, cxl.lastUr := false }) ∧
  (∀ (m : Mach) (c : Cls), m.lands c .avBusyLo false → ∃ k : Mach, Gives (.readClear c (Reg.addr .avBusyLo)) m k ∧
    k.anvil = { m.anvil with busy := 0 } ∧ k.lastRead = [BitVec.ofNat 32 m.anvil.busy] ∧ k.mem = m.mem ∧ k.fault = m.fault) ∧
  (∀ (m : Mach) (c : Cls) (a : Nat), wordAddr a = true → m.dark c a = false → m.regMay c a false = true → m.absentAt a = true →
    ∃ k : Mach, k = m.raise srcRegister .info (place c.code 0 ||| place (a / 4 % 0x1000000) 8) ∧ Gives (.absentUnitRead c a) m
      { k with lastRead := [0], cxl.lastPoison := false, cxl.lastUr := false }) ∧
  (∀ (m : Mach) (c : Cls) (a : Nat), wordAddr a = true → m.dark c a = true →
    Gives (.readClear c a) m { m with lastRead := [0], cxl.lastPoison := false, cxl.lastUr := false }) ∧
  ∀ (m : Mach) (c : Cls) (a : Nat), wordAddr a = true → m.dark c a = false → m.regMay c a false = false →
    ∃ k : Mach, k = m.deny c a false (decide (c ≠ .peer)) ∧
      Gives (.readClear c a) m { k with lastRead := [], cxl.lastPoison := false, cxl.lastUr := true }

/-- An access is permitted exactly when its range is decoded, its class is TK or a window of it covers the range, and no
protection forbids it. The judgement of an access: permitted if and only if the whole range is decoded, the class is TK or
one of the eight enabled windows of the class covers the whole range with the permission needed, and no protection of R492
forbids it; undecoded exactly when the range is not decoded. Cites 16_cxl_and_memory.md. -/
def Obligations.AnAccessNeedsAWindowAndNoProtection : Prop :=
  ∀ (m : Mach) (c : Cls) (a len : Nat) (write : Bool),
    (m.judge c a len write = .undecoded ↔ m.decoded a len = false) ∧
    (m.judge c a len write = .ok ↔ m.decoded a len = true ∧ m.protectedFrom c a len write = false ∧
      (c = .tk ∨ ∃ q w, winOf c = some q ∧ w < 8 ∧ (m.window q w).2.1 ≠ 0 ∧ (m.window q w).1 ≤ a ∧
        a + len ≤ (m.window q w).1 + (m.window q w).2.1 ∧
        (if write then (m.window q w).2.2.2 else (m.window q w).2.2.1) = true))

/-- A monitored pair's change to fault records once; staying in fault and returning record nothing; a non-complementary pair
records a wiring fault. FAULT_PAIR_CHANGE of one pair that R405 gives a present source and that is neither wired wrong nor
forced: to fault from no fault marks the pair in fault and records the fault with the pair's source, class, kind and detail
at the given cycle; while it is in fault nothing is recorded; its return clears the mark and records nothing. A pair of an
absent source, or of a class the source does not have, changes nothing. Several changes of one cycle are taken in the order
of R408. PAIR_NONCOMPLEMENTARY of a monitored pair records kind wiring under the pair's source and class; of another, or one
wired wrong or forced, nothing; PAIR_WIRING_CLEAR records the INFO fault of kind wiring and the pair takes its state, a
fault of a higher class recorded first. COLLECTOR_PARITY_ERROR records the FATAL fault of source 0x00, kind collector, with
the offset; the first such fault waits for the next strike. Cites 13_fault_collector.md. -/
def Obligations.TheCollectorRecordsPairChanges : Prop :=
  (∀ (m : Mach) (x : PairChange) (cy : Nat), m.pairPresent x.source x.cls = true → m.fault.wiring.contains (x.source, x.cls) = false →
    m.isForced x.source x.cls = false →
    (x.toFault = true → m.fault.active.contains (x.source, x.cls) = false → Gives (.faultPairChange [x] cy) m
      (((m.seePair (x.source, x.cls)).setActive (x.source, x.cls) true).faultAt x.source x.cls x.kind x.detail ⟨cy, false, false⟩)) ∧
    (x.toFault = true → m.fault.active.contains (x.source, x.cls) = true →
      Gives (.faultPairChange [x] cy) m (m.seePair (x.source, x.cls))) ∧
    (x.toFault = false → Gives (.faultPairChange [x] cy) m ((m.seePair (x.source, x.cls)).setActive (x.source, x.cls) false))) ∧
  (∀ (m : Mach) (x : PairChange) (cy : Nat), m.pairPresent x.source x.cls = false → Gives (.faultPairChange [x] cy) m m) ∧
  (∀ (m : Mach) (src : Nat) (cls : FCls) (cy : Nat), m.monitors src cls = true → m.fault.wiring.contains (src, cls) = false →
    m.isForced src cls = false → Gives (.pairNoncomplementary src cls cy) m
      ((m.setWiring (src, cls) true).faultAt src cls kindWiring 0 ⟨cy, false, false⟩)) ∧
  (∀ (m : Mach) (xs : List PairChange) (cy : Nat), Gives (.faultPairChange xs cy) m ((orderChanges xs).foldl (Mach.acceptChange cy) m)) ∧
  (∀ (m : Mach) (src : Nat) (cls : FCls) (cy : Nat), (m.monitors src cls = false ∨ m.fault.wiring.contains (src, cls) = true ∨
    m.isForced src cls = true) → Gives (.pairNoncomplementary src cls cy) m m) ∧
  (∀ (m : Mach) (src : Nat) (cls : FCls) (f : Bool) (kind cy : Nat) (d : Word), m.fault.wiring.contains (src, cls) = true →
    m.isForced src cls = false → Gives (.pairWiringClear src cls f kind d cy) m
      (if cls = .info then (((m.setWiring (src, cls) false).seePair (src, cls)).faultAt src .info kindWiring 0 ⟨cy, false, false⟩).acceptChange cy
        ⟨f, src, cls, kind, d⟩
       else (((m.setWiring (src, cls) false).seePair (src, cls)).acceptChange cy ⟨f, src, cls, kind, d⟩).faultAt src .info kindWiring 0
        ⟨cy, false, false⟩)) ∧
  ∀ (m : Mach) (off : Nat), ∃ k : Mach, k = m.raiseKind srcCollector .fatal kindCollector (place (off % 256) 0) ∧
    Gives (.collectorParityError off) m
      { k with fault.parity := m.fault.parity.orElse (fun _ => (k.fault.recs.find? (fun r => r.seq == m.fault.nextSeq)).map (fun r => r.nextStrike m.time.count)) }

/-- FC_ACK acknowledges a pending record, FC_RAISE records, FC_RELEASE asks, and the decision and the end of quench follow R418
and R419. Landed writes by FW or TK: FC_ACK makes the pending record with the named seq acknowledged and no other; FC_RAISE
of a present source with a kind below 4 records its fault with FC_RAISE_DETAIL and raised_fw; of an absent source, of the
kinds 4 and 5, and, by the model's choice (log entry 76), of a kind that R406 does not use, nothing. FC_ACK by HOST changes
nothing; FC_RAISE by HOST is discarded with the INFO fault. FC_RELEASE with bit 0, from HOST, FW or TK, waits for the next
strike: in the frame of the request RELEASE_DECISION changes nothing. After it RELEASE_DECISION writes the low nibble of the
status of R418's first matching row and lets quench end where that is ST_OK: no quench is ST_BAD_STATE, quench from the
collector's own fault ST_QUENCH_LOCKED, an active grave fault ST_FAULT_ACTIVE. QUENCH_END ends quench and restarts the
started loops, not in the frame of the decision. FAULT_ESCALATION outside quench with one SEVERE or FATAL record whose timer
has run out enters quench for it, sends the quench frames and records it; with no timer run out, nothing pushed out and no
command waiting it changes nothing. Cites 13_fault_collector.md. -/
def Obligations.FaultRegistersAcknowledgeRaiseAndRelease : Prop :=
  (∀ (m : Mach) (c : Cls) (v : Word), m.lands c .fcAck true → (c = .fw ∨ c = .tk) → Gives (.fcAck c v) m
    { m with fault.recs := m.fault.recs.map (fun r =>
        if r.seq == field v 15 0 && decide (r.st = .pending) then { r with st := .acked } else r) }) ∧
  (∀ (m : Mach) (v : Word), m.lands .host .fcAck true → Gives (.fcAck .host v) m m) ∧
  (∀ (m : Mach) (c : Cls) (v : Word), m.lands c .fcRaise true → (c = .fw ∨ c = .tk) → field v 15 12 < 4 →
    m.sourcePresent (field v 7 0) = true → Gives (.fcRaise c v) m
      ({ m with free := m.free + 1 }.faultAt (field v 7 0) (FCls.ofCode (field v 9 8)) (field v 15 12) (m.rd .fcRaiseDetail)
        ⟨(Config.freeWord m.free).toNat % 1000, true, false⟩)) ∧
  (∀ (m : Mach) (c : Cls) (v : Word), m.lands c .fcRaise true → (c = .fw ∨ c = .tk) →
    (4 ≤ field v 15 12 ∨ m.sourcePresent (field v 7 0) = false) → Gives (.fcRaise c v) m m) ∧
  (∀ (m : Mach) (v : Word), m.lands .host .fcRaise true → Gives (.fcRaise .host v) m (m.raise srcRegister .info
    (place 0 0 ||| place (Reg.addr .fcRaise / 4 % 0x1000000) 8))) ∧
  (∀ (m : Mach) (c : Cls) (v : Word), m.lands c .fcRelease true → c ≠ .peer →
    Gives (.releaseRequest c v) m (if bit v 0 then { m with fault.release := some c, fault.relNew := m.fault.relNew || m.fault.release.isNone } else m)) ∧
  (∀ m : Mach, (m.fault.release = none ∨ m.fault.relNew = true) → Gives .releaseDecision m m) ∧
  (∀ m : Mach, m.fault.release.isSome = true → m.fault.relNew = false → Gives .releaseDecision m { m with
    fault.release := none
    fault.quench.rel := m.releaseStatus % 16
    fault.quench.leaving := m.fault.quench.leaving || decide (m.releaseStatus = stOk)
    fault.quench.leaveNew := m.fault.quench.leaveNew || (decide (m.releaseStatus = stOk) && !m.fault.quench.leaving) }) ∧
  (∀ m : Mach, (m.fault.quench.active = false → m.releaseStatus = stBadState) ∧
    (m.fault.quench.active = true → m.fault.quench.cause = .collector → m.releaseStatus = stQuenchLocked) ∧
    (m.fault.quench.active = true → m.fault.quench.cause ≠ .collector →
      (m.fault.active ++ m.fault.wiring).any (fun p => p.2.grave) = true → m.releaseStatus = stFaultActive)) ∧
  (∀ m : Mach, m.fault.quench.active = true → m.fault.quench.leaving = true → m.fault.quench.leaveNew = false → ∃ k : Mach, Gives .quenchEnd m k ∧
    k.fault.quench.active = false ∧ k.fault.quench.contactorOpen = false ∧ k.fault.quench.leaving = false ∧
    k.bel.snap.g = m.bel.gm * 1000000 ∧ k.bel.snap.v = 0 ∧
    k.eng.loops = m.eng.loops.map (fun l => if l.started then { l with restart := true } else l)) ∧
  (∀ m : Mach, (m.fault.quench.leaving = false ∨ m.fault.quench.leaveNew = true) → Gives .quenchEnd m m) ∧
  (∀ (m : Mach) (r : FaultRec), m.dueRecs = [r] → r.cls.grave = true → m.fault.pushed = [] → m.fault.parity = none → m.fault.quenchCmds = [] →
    m.fault.quench.active = false → Gives .faultEscalation m ((m.enterQuench .escalation r).sendQuenchFrames.quenchRecord .severe 0xF)) ∧
  (∀ (m : Mach) (r : FaultRec), (m.enterQuench .escalation r).fault.quench = ⟨true, decide (r.kind = kindCell), .escalation, 0xF, r.source,
    r.cls, r.seq, m.time.count, false, false⟩) ∧
  ∀ m : Mach, m.dueRecs = [] → m.fault.pushed = [] → m.fault.parity = none → m.fault.quenchCmds = [] →
    Gives .faultEscalation m m

/-- In factory test mode FC_INJ forces or releases the named pair; outside it each write is discarded with the INFO fault. For
each of the four modes of FC_INJ, a landed write naming a source and class: outside test mode it is discarded with the INFO
fault of source 0x03. In test mode a write that names a pair of an absent source or of a class that R405 does not give the
source changes nothing; for a pair that exists (below 256): mode 1 forces the pair to fault and records an injected fault
where it was not in fault; mode 2 forces it to no fault without a record of it; either takes a pair out of the non-
complementary state, with the injected INFO fault of kind wiring; mode 3 forces it non-complementary and records an injected
wiring fault where it was complementary and the collector monitors it; mode 0 releases a forced pair, with the injected INFO
fault where it was non-complementary. A pair that is not forced is not released. Cites 13_fault_collector.md. -/
def Obligations.InjectionForcesPairsInTestMode : Prop :=
  (∀ (m : Mach) (c : Cls) (src kind : Nat) (cls : FCls), m.lands c .fcInj true → m.fault.testMode = false →
    (∀ i ∈ [Instr.injectReleasePair c src cls, .injectForceFault c src cls kind, .injectForceNoFault c src cls, .injectForceNoncomp c src cls],
      Gives i m (m.raise srcRegister .info (place c.code 0 ||| place (Reg.addr .fcInj / 4 % 0x1000000) 8)))) ∧
  (∀ (m : Mach) (c : Cls) (src kind : Nat) (cls : FCls), m.lands c .fcInj true → m.fault.testMode = true → src < 256 →
    m.pairPresent src cls = false → (∀ i ∈ [Instr.injectReleasePair c src cls, .injectForceFault c src cls kind,
      .injectForceNoFault c src cls, .injectForceNoncomp c src cls], Gives i m m)) ∧
  ∀ (m : Mach) (c : Cls) (src kind : Nat) (cls : FCls), m.lands c .fcInj true → m.fault.testMode = true → src < 256 → kind < 16 →
    m.pairPresent src cls = true →
    (∀ k : Mach, k = ((m.setForced src cls (some ⟨src, cls, 1, kind⟩)).unwire (src, cls)).seePair (src, cls) →
      (k.fault.active.contains (src, cls) = false →
        Gives (.injectForceFault c src cls kind) m ((k.setActive (src, cls) true).injectFault src cls kind)) ∧
      (k.fault.active.contains (src, cls) = true → Gives (.injectForceFault c src cls kind) m k)) ∧
    Gives (.injectForceNoFault c src cls) m
      ((((m.setForced src cls (some ⟨src, cls, 2, 0⟩)).unwire (src, cls)).seePair (src, cls)).setActive (src, cls) false) ∧
    (m.fault.wiring.contains (src, cls) = false → m.monitors src cls = true → Gives (.injectForceNoncomp c src cls) m
      (((m.setForced src cls (some ⟨src, cls, 3, 0⟩)).setWiring (src, cls) true).injectFault src cls kindWiring)) ∧
    ((m.fault.wiring.contains (src, cls) = true ∨ m.monitors src cls = false) → Gives (.injectForceNoncomp c src cls) m (m.setForced src cls (some ⟨src, cls, 3, 0⟩))) ∧
    (m.isForced src cls = true → m.fault.wiring.contains (src, cls) = false → Gives (.injectReleasePair c src cls) m
      ((m.setForced src cls none).setActive (src, cls) false)) ∧
    (m.isForced src cls = true → m.fault.wiring.contains (src, cls) = true → Gives (.injectReleasePair c src cls) m
      ((((m.setForced src cls none).setActive (src, cls) false).setWiring (src, cls) false).injectFault src .info kindWiring)) ∧
    (m.isForced src cls = false → Gives (.injectReleasePair c src cls) m m)

/-- POWER_GOOD with a feed and the lever closed runs the start; bring-up steps act once and a timer or a limit that runs out
records its fault. POWER_GOOD on a module without power: with the lever closed and a feed above 46.0 V the start of R524
runs on the straps, feeds, certificate, images and variant record it finds; without either nothing happens; on a powered
module nothing happens. RECORDER_MOUNT after cap_valid mounts once, or fails once with the SEVERE fault of source 0x09,
detail 5. BRINGUP_LOAD_TIMEOUT at 10,000 F without a load ends the load with both flags and the SEVERE fault of source 0x02,
and leaves the plan of flash owed. CONFIG_SAVE puts the applied ST words before the older copy, two kept. TILE_SELF_TEST
marks its failing tiles and the good ones. READINESS_LIMIT_FAULT of a bit that is owed, clear and beyond its limit records
the SEVERE fault of source 0x01 once. Cites 18_bringup_recorder.md, 17_identity_firmware.md, 13_fault_collector.md. -/
def Obligations.PowerGoodStartsTheModule : Prop :=
  (∀ (m : Mach) (p : PowerInputs), (m.time.powered = true ∨ p.leverLatched = false ∨ p.feedA ≤ 184 ∧ p.feedB ≤ 184) →
    Gives (.powerGood p) m m) ∧
  (∀ (m : Mach) (p : PowerInputs), m.time.powered = false → p.leverLatched = true → (184 < p.feedA ∨ 184 < p.feedB) →
    ∃ k : Mach, k.time.powered = true ∧ k.sys.straps = p.straps ∧ k.pair.feedA = decide (184 < p.feedA) ∧
      k.pair.feedB = decide (184 < p.feedB) ∧ k.id.serial = p.certSerial ∧ k.ev.opSec = m.ev.opSaved ∧
      k.id.variantOk = recordValid p.record p.signature p.certSerial ∧
      (k.id.variantOk = false → k.sys.tiles = m.sys.tiles) ∧
      (k.id.variantOk = true → k.sys.tiles = dwordAt p.record 0x10 &&& p.popTiles) ∧
      Gives (.powerGood p) m ((k.readStraps.deriveKeys p.pufOk p.certReadable).startKernel false)) ∧
  (∀ m : Mach, m.sys.capValid = true → m.ev.mounted = false → m.ev.mountFailed = false →
    Gives (.recorderMount false) m ({ m with ev.mountFailed := true }.raise srcRecorder .severe 5) ∧
    (m.ev.fromReset = true → Gives (.recorderMount true) m { m with ev.mounted := true, ev.powerGoodQueued := true }) ∧
    (m.ev.fromReset = false → Gives (.recorderMount true) m
      ({ m with ev.mounted := true, ev.pwrCyc := m.ev.pwrCyc + 1, ev.powerGoodQueued := true }.emit evPowerGood .info
        [BitVec.ofNat 32 m.sys.variant, (m.id.tk.running.map Image.version).getD 0, (m.id.app.running.map Image.version).getD 0,
         BitVec.ofNat 32 m.ev.lastDownSec]))) ∧
  (∀ (m : Mach) (ok : Bool), (m.sys.capValid = false ∨ m.ev.mounted = true ∨ m.ev.mountFailed = true) →
    Gives (.recorderMount ok) m m) ∧
  (∀ m : Mach, m.sys.capValid = true → m.sys.cfgLoaded = false → 10000 ≤ m.time.upFrames → Gives .bringupLoadTimeout m
    { { m with sys.cfgLoaded := true, sys.cfgFailed := true }.raise srcFirmware .severe 0 with sys.loadLate := true }) ∧
  (∀ m : Mach, m.time.upFrames < 10000 → Gives .bringupLoadTimeout m m) ∧
  (∀ (m : Mach) (n : Nat), m.sys.savePending = some n → m.id.appRun = true → ∃ ws : List (Nat × Word),
    Gives .configSave m { m with sys.savePending := none, sys.saved := ((⟨n, ws, true⟩ : SavedCfg) :: m.sys.saved).take 2 } ∧
    ∀ x ∈ ws, ∃ r, Reg.ofAddr x.1 = some r ∧ r.stMask ≠ 0 ∧ x.2 = m.rd r) ∧
  (∀ m : Mach, m.sys.savePending = none → Gives .configSave m m) ∧
  (∀ (m : Mach) (f : Nat), m.sys.capValid = true → m.sys.tiles ≠ 0 → m.anvil.bist = false → m.phys.stopped = false →
    ∃ bad good : Nat, Gives (.tileSelfTest f) m { (((m.wr .avTileFailLo (BitVec.ofNat 32 bad)).wr .avTileFailHi
        (BitVec.ofNat 32 (bad / 4294967296))).wr .avTileMapLo (BitVec.ofNat 32 good)).wr .avTileMapHi (BitVec.ofNat 32 (good / 4294967296))
      with anvil.bist := true, sys.keptTiles := 0 }) ∧
  (∀ (m : Mach) (f : Nat), m.anvil.bist = true → Gives (.tileSelfTest f) m m) ∧
  ∀ (m : Mach) (n l : Nat), readyLimits.find? (fun x => x.1 == n) = some (n, l) →
    (m.time.powered = true → m.readyOwed n = true → m.ready n = false → m.sys.limitDone.testBit n = false →
      l ≤ m.sys.readyAge.getD n 0 → Gives (.readinessLimitFault n) m
      ({ m with sys.limitDone := m.sys.limitDone ||| (1 <<< n) }.raise srcKernel .severe (place n 0))) ∧
    ((m.ready n = true ∨ m.sys.limitDone.testBit n = true ∨ m.sys.readyAge.getD n 0 < l) → Gives (.readinessLimitFault n) m m)

/-- BRINGUP_LOAD applies the newest good saved copy through its validation, or ends as failed; the built-in package is a
MODEL_LOAD into bank 0. BRINGUP_LOAD once cap_valid and application firmware stand: without a good copy the load ends as
failed, with its SEVERE fault, and the plan from flash is placed; where the copy's words fail validation the same; where
they pass they are applied together with everything their change does, and cfg_loaded is set. A load that comes after its
time limit only places the plan of flash and is no longer owed. Before that, or after a load, it changes nothing.
BUILTIN_PACKAGE_LOAD with application firmware running, the anvil ready, bank 0 empty and tag 0x7EF free starts, for class
FW, a MODEL_LOAD of the built-in package under that tag, with ST_ACCEPTED and the bank loading; else it changes nothing.
Cites 18_bringup_recorder.md, 09_forecaster_learning.md. -/
def Obligations.TheConfigurationLoadsOnceAtBringUp : Prop :=
  (∀ m : Mach, (m.sys.capValid = false ∨ m.id.appRun = false ∨ m.sys.cfgLoaded = true ∧ m.sys.loadLate = false) → Gives .bringupLoad m m) ∧
  (∀ m : Mach, m.sys.capValid = true → m.id.appRun = true → m.sys.cfgLoaded = true → m.sys.loadLate = true →
    ∃ k : Mach, k = ({ m with sys.loadLate := false } : Mach).placePlan m.planBuf ∧ Gives .bringupLoad m (k.applyPlan k.planBuf)) ∧
  (∀ m : Mach, m.sys.capValid = true → m.id.appRun = true → m.sys.cfgLoaded = false → newestCopy m.sys.saved = none →
    ∃ k : Mach, k = m.loadFails.placePlan m.planBuf ∧ Gives .bringupLoad m (k.applyPlan k.planBuf)) ∧
  (∀ (m : Mach) (c : SavedCfg) (n : Mach), m.sys.capValid = true → m.id.appRun = true → m.sys.cfgLoaded = false →
    newestCopy m.sys.saved = some c → n = m.placePlan ((m.overlay (m.loadWords c)).planBuf) →
    n.validate (m.loadWords c) .fw false = none → ∃ k : Mach,
      k = (((n.applyWords (m.loadWords c)).applyLoops (n.applyEnables (n.applyWords (m.loadWords c))) (m.loadWords c)).applyUnits n (m.loadWords c)) ∧
      Gives .bringupLoad m { k.applyPlan k.planBuf with sys.cfgLoaded := true }) ∧
  (∀ m : Mach, (m.id.appRun = false ∨ m.ready fnAnvil = false ∨ (m.bank 0).valid = true ∨ (m.bank 0).loading = true ∨ m.tagHeld 0x7EF = true ∨
    2048 ≤ m.inFlight) → Gives .builtinPackageLoad m m) ∧
  ∀ m : Mach, m.id.appRun = true → m.ready fnAnvil = true → (m.bank 0).valid = false → (m.bank 0).loading = false → m.tagHeld 0x7EF = false →
    m.inFlight < 2048 → ∃ r : Mach × Nat, r = m.addOp (m.fwRt 0x7EF ocModelLoad) .fw ∧ Gives .builtinPackageLoad m
      ((({ r.1 with fc.loads := r.1.fc.loads ++ [⟨r.2, 0, none, Config.builtinPackage.length, []⟩] } : Mach).setBank 0
        (fun k => { k with loading := true })).reply (m.fwRt 0x7EF ocModelLoad) stAccepted [])

/-- RESET_EXECUTE runs the scheduled reset when its strike has come; HOLD_UP_END leaves only what the flash holds. RESET_EXECUTE
without a scheduled reset, or before its strike, changes nothing; at or after it the application or the full reset runs.
HOLD_UP_END of a dying module whose feeds have been gone for ten frames leaves a module without power whose registers and
memory are as at reset, with the stored records, saved configurations, plan and images of the flash; else it changes
nothing. Cites 03_commands_transactions.md, 14_redundant_pair.md, 18_bringup_recorder.md. -/
def Obligations.ResetsExecuteAtTheirStrike : Prop :=
  (∀ m : Mach, m.sys.modReset = none → Gives .resetExecute m m) ∧
  (∀ (m : Mach) (r : ModReset), m.sys.modReset = some r → r.resetAt = none → Gives .resetExecute m m) ∧
  (∀ (m : Mach) (r : ModReset) (n : Nat), m.sys.modReset = some r → r.resetAt = some n →
    (n ≤ m.time.count → r.full = true → Gives .resetExecute m m.fullReset) ∧
    (n ≤ m.time.count → r.full = false → Gives .resetExecute m m.appReset) ∧
    (m.time.count < n → Gives .resetExecute m m)) ∧
  (∀ m : Mach, m.time.powered = true → m.pair.dying = true → 10 ≤ m.pair.dyingFrames → ∃ k : Mach, Gives .holdUpEnd m k ∧
    k.time = TimeSt.reset ∧ k.regs = [] ∧ k.mem = [] ∧ k.fault = FaultSt.reset ∧ k.ops = [] ∧ k.txn = TxnSt.reset ∧
    k.ev.stored = m.ev.stored ∧ k.sys.saved = m.sys.saved ∧ k.hall.planSaved = m.hall.planSaved ∧
    k.id.tk.slot0 = m.id.tk.slot0 ∧ k.id.tk.slot1 = m.id.tk.slot1 ∧ k.id.app.floor = m.id.app.floor) ∧
  ∀ m : Mach, (m.time.powered = false ∨ m.pair.dying = false ∨ m.pair.dyingFrames < 10) → Gives .holdUpEnd m m

/-- A strike of a powered module ends the frame in the order of its windows and opens the next with the count one higher, claim
before quench before slots. STRIKE without power changes nothing. With power the frame that ends goes through its windows in
the order of R31 (closeFrame), then the count advances by one and time, counters, claim, quench if something waits, a
received alignment, the slots, the superframe's message, due commits and launches, the reset under way, readiness, the
history row, what leaves for the partner, and the request lines follow in that order. A module in no domain slews its phase
toward its partner as R39 and R450 say, in a domain it keeps none. Quench's counters of a frame (denials, MSI-X, the
signalled mark) start empty. Cites 02_strike_and_time.md, 01_shelf_and_module.md, 14_redundant_pair.md. -/
def Obligations.AStrikeClosesOneFrameAndOpensTheNext : Prop :=
  (∀ (m : Mach) (f : FrameIn), m.time.powered = false → Gives (.strike f) m m) ∧
  (∀ (m : Mach) (f : FrameIn), m.time.powered = true → ∃ a b c d e g h i : Mach,
    a = m.closeFrame f ∧
    b = ({ a.showFrame with time.count := a.time.count + 1, time.upFrames := a.time.upFrames + 1 } : Mach).timeStrike.tickCounters ∧
    c = b.claimStrike ∧ d = c.quenchDecide ∧ e = d.alignStrike ∧
    g = e.bellowsStrike.countSince.superframeStrike.ringStrike ∧
    h = ((g.applyCommit.fireDue).resetProgress (a.pair.partnerNow.any (fun x => x.holding))).driverChange ∧
    i = h.readiness.noteRing.writeRow.sendRows ∧
    Gives (.strike f) m ((i.trainerStrike.shareWindow.trainPeers.strikeLines).clearFeedback)) ∧
  (∀ m : Mach, m.tickCounters.cxl.denied = [] ∧ m.tickCounters.cxl.msixSent = [] ∧ m.tickCounters.fault.signalled = false ∧
    m.tickCounters.cxl.hostReq = []) ∧
  ∀ m : Mach, (m.time.state = .free ∨ m.time.state = .holdover) → m.time.pairAdopt = none →
    (m.time.inDomain = true → m.timeStrike = { m with time.pairPhase := 0 }) ∧
    (m.time.inDomain = false → m.timeStrike =
      { m with time.pairPhase := slewBy (if timeStateOf m.time.pairPhase = .joining then 100 else 1) m.time.pairPhase })

/-- The bellows faults record their condition once, at the limit of their count, and not before it. SETPOINT_MISSING_FAULT after
four missing publications: SEVERE, source 0x05, condition 0x01. CELL_LIMITS_STALE_FAULT 2,000 F after the last publication
with the cell ring enabled: condition 0x02, and nothing while they are fresh (a publication clears the mark).
BRAKE_HOLD_FAULT beyond max_hold x 100 F: condition 0x03. TRAY_REPORT_MISSED of a served tray silent for more than 300 F:
INFO, condition 0x04 with the tray. COOLANT_STEP3_FAULT after 30,000 F at step 3: SEVERE, source 0x06. Each records once
until its mark clears; below its limit or already marked nothing changes. Cites 04_bellows_dispatch.md,
01_shelf_and_module.md. -/
def Obligations.DispatchFaultsRecordOnceWhileTheyLast : Prop :=
  (∀ m : Mach, 4 ≤ m.bel.snap.spMiss → m.bel.spFault = false → Gives .setpointMissingFault m
    ({ m with bel.spFault := true }.raise srcBellows .severe (place 0x01 8))) ∧
  (∀ m : Mach, (m.bel.snap.spMiss < 4 ∨ m.bel.spFault = true) → Gives .setpointMissingFault m m) ∧
  (∀ (m : Mach) (p : Int), m.cell.pubAt = some p → p + 2000 ≤ m.time.count → m.en fnCellring = true → m.bel.limFault = false →
    Gives .cellLimitsStaleFault m ({ m with bel.limFault := true }.raise srcBellows .severe (place 0x02 8))) ∧
  (∀ (m : Mach) (p : Int), m.cell.pubAt = some p → (m.time.count : Int) < p + 2000 →
    Gives .cellLimitsStaleFault m m) ∧
  (∀ m : Mach, (m.cell.pubAt = none ∨ m.bel.limFault = true ∨ m.en fnCellring = false) → Gives .cellLimitsStaleFault m m) ∧
  (∀ m : Mach, m.bel.brakeOn = true → m.pair.holding = true → m.fault.quench.active = false → m.bel.brakeFault = false →
    100 * m.rdField .bdBrakeCfg 31 16 < m.bel.snap.brakeHold →
    Gives .brakeHoldFault m ({ m with bel.brakeFault := true }.raise srcBellows .severe (place 0x03 8))) ∧
  (∀ m : Mach, (m.bel.brakeOn = false ∨ m.pair.holding = false ∨ m.fault.quench.active = true ∨ m.bel.brakeFault = true ∨
    m.bel.snap.brakeHold ≤ 100 * m.rdField .bdBrakeCfg 31 16) → Gives .brakeHoldFault m m) ∧
  (∀ (m : Mach) (n : Nat), m.ready fnBellows = true → m.bel.started = true → n ∈ m.served → (m.tray n).missed = false →
    max m.bel.startAt ((m.tray n).heardAt.getD m.bel.startAt) + 300 < m.time.count → Gives (.trayReportMissed n) m
      ((m.setTray n (fun t => { t with missed := true })).raise srcBellows .info (place 0x04 8 ||| place n 0))) ∧
  (∀ (m : Mach) (n : Nat), (n ∉ m.served ∨ (m.tray n).missed = true ∨
    m.time.count ≤ max m.bel.startAt ((m.tray n).heardAt.getD m.bel.startAt) + 300) → Gives (.trayReportMissed n) m m) ∧
  (∀ m : Mach, 30000 < m.bel.step3Run → m.bel.step3Fault = false → Gives .coolantStep3Fault m
    ({ m with bel.step3Fault := true }.raise srcThermal .severe 3)) ∧
  ∀ m : Mach, (m.bel.step3Run ≤ 30000 ∨ m.bel.step3Fault = true) → Gives .coolantStep3Fault m m

/-- Caps go to the served trays while the holder may send and repeat every 10,000 F; reports and the brake net are taken; the
schedule steps at whole seconds. CAP_MESSAGE_SEND by a holder outside quench with dispatch ready and started gives every
served tray its cap; else nothing. CAP_MESSAGE_REPEAT does so when 10,000 F have passed since the last repeat. TRAY_REPORT
of a tray is its cap, draw, release and time of report; tray 0 is none. COOLANT_STEP_CHANGE takes a step that differs from
the present one with one record. GRID_SCHEDULE_STEP at a multiple of 100,000 F applies the newest write at least 100 F old.
BRAKE_N_NET_CHANGE takes the net's level, and bit 5 of BD_STAT says whether brake_n is low: by the holder's dispatch, by the
holder's collector in quench, or by another driver. Cites 04_bellows_dispatch.md. -/
def Obligations.TraysScheduleAndBrakeFollowTheirRules : Prop :=
  (∀ m : Mach, m.pair.holding = true → m.fault.quench.active = false → m.ready fnBellows = true → m.bel.started = true →
    Gives .capMessageSend m ((m.served.mapIdx (fun i n => (i, n))).foldl (fun k x =>
      k.setTray x.2 (fun t => { t with sent := some (k.bel.snap.trayCaps.getD x.1 4294967295) })) m) ∧
    (m.bel.snap.lastRepeat + 10000 ≤ (m.time.count : Int) → Gives .capMessageRepeat m
      { (m.served.mapIdx (fun i n => (i, n))).foldl (fun k x =>
          k.setTray x.2 (fun t => { t with sent := some (k.bel.snap.trayCaps.getD x.1 4294967295) })) m
        with bel.snap.lastRepeat := m.time.count }) ∧
    ((m.time.count : Int) < m.bel.snap.lastRepeat + 10000 → Gives .capMessageRepeat m m)) ∧
  (∀ m : Mach, (m.pair.holding = false ∨ m.fault.quench.active = true) →
    Gives .capMessageSend m m ∧ Gives .capMessageRepeat m m) ∧
  (∀ (m : Mach) (n cap draw rel : Nat), n ≠ 0 → Gives (.trayReport n cap draw rel) m
    { m with bel.trays := m.bel.trays.modify (n - 1) (fun t =>
        { t with cap := cap, draw := draw, release := rel, heardAt := some m.time.count, missed := false }) }) ∧
  (∀ (m : Mach) (cap draw rel : Nat), Gives (.trayReport 0 cap draw rel) m m) ∧
  (∀ m : Mach, m.coolDue ≠ m.bel.snap.coolantStep → Gives .coolantStepChange m
    ({ m with bel.snap.coolantStep := m.coolDue }.emit evBellows .info [place 2 0 ||| place m.coolDue 16, wordOfInt m.bel.d,
      wordOfInt (wattOf m.bel.snap.g), wordOfInt m.disAvail])) ∧
  (∀ m : Mach, m.coolDue = m.bel.snap.coolantStep → Gives .coolantStepChange m m) ∧
  (∀ (m : Mach) (x : Int × Word), m.time.count % 100000 = 0 →
    (m.bel.sched.filter (fun x => decide (x.1 + 100 ≤ (m.time.count : Int)))).getLast? = some x → Gives .gridScheduleStep m
      { m.wr .bdSchedApplied x.2 with bel.sched := m.bel.sched.filter (fun y => decide ((m.time.count : Int) < y.1 + 100)) }) ∧
  (∀ m : Mach, m.time.count % 100000 ≠ 0 → Gives .gridScheduleStep m m) ∧
  ∀ (m : Mach) (low : Bool), Gives (.brakeNNetChange low) m ({ m with bel.brakeNet := low }.wr .bdStat
    (putBit (m.rd .bdStat) 5 (m.bel.brakeOn && m.pair.holding && !m.fault.quench.active || m.fault.quench.active && m.pair.holding || low)))

/-- Outside quench a held swap times out, a stale bridge fades, a loop stops after its misses, following error records once, and
a test follows its phases or aborts. SWAP_HOLD_TIMEOUT of an output held for the loop's hold limit releases it and sets
LE_FLAG bit 3. BRIDGE_FADE of a started loop whose fade is due enters the fade and sets bit 5. LOOP_STOP of a loop missed
for its limit of frames stops it with the SEVERE fault of its source. FOLLOWING_ERROR_FAULT at the limit of LE_SUP records
the fault of the class LE_SUP names, once. In quench these four change nothing (R148). LOOP_TEST_PHASE of a running test
without an abort cause moves to the present frame's phase, and at its end, where no cause came before it, writes the record.
LOOP_TEST_ABORT of a running test aborts with the code of the first frame that had a cause, lowest code first, and its
record; without a cause nothing changes. The end of a test sets its phase and cause, ends injection, and keeps its loop out
of comparison for 100 F where it began on the claim holder. Cites 05_loop_engine.md, 06_loop_supervision.md. -/
def Obligations.LoopSupervisionActsAtItsLimits : Prop :=
  (∀ (m : Mach) (k j n : Nat), m.fault.quench.active = false → (m.loop k).s.hold.getD j none = some n →
    (m.rdField (.leSched k) 31 16 ≤ n → Gives (.swapHoldTimeout k j) m
      (({ m with eng.loops := m.eng.loops.set k { m.loop k with s.hold := (m.loop k).s.hold.set j none } } : Mach).orReg (.leFlag k) (flag true 3))) ∧
    (n < m.rdField (.leSched k) 31 16 → Gives (.swapHoldTimeout k j) m m)) ∧
  (∀ (m : Mach) (k j : Nat), (m.fault.quench.active = true ∨ (m.loop k).s.hold.getD j none = none) → Gives (.swapHoldTimeout k j) m m) ∧
  (∀ (m : Mach) (k : Nat), m.fault.quench.active = false → (m.loop k).started = true → (m.loop k).fadeDue m.time.count = true → Gives (.bridgeFade k) m
    (({ m with eng.loops := m.eng.loops.set k (m.loop k).enterFade } : Mach).orReg (.leFlag k) (flag true 5))) ∧
  (∀ (m : Mach) (k : Nat), (m.fault.quench.active = true ∨ (m.loop k).started = false ∨ (m.loop k).fadeDue m.time.count = false) → Gives (.bridgeFade k) m m) ∧
  (∀ (m : Mach) (k : Nat), m.fault.quench.active = false → (m.loop k).missed = true → (m.loop k).s.stopped = false → m.missLim k ≤ (m.loop k).s.missRun →
    Gives (.loopStop k) m
      (({ m with eng.loops := m.eng.loops.set k { m.loop k with s.stopped := true } } : Mach).raise (srcLoop k) .severe 0)) ∧
  (∀ (m : Mach) (k : Nat), (m.fault.quench.active = true ∨ (m.loop k).missed = false ∨ (m.loop k).s.stopped = true ∨ (m.loop k).s.missRun < m.missLim k) →
    Gives (.loopStop k) m m) ∧
  (∀ (m : Mach) (k : Nat), m.fault.quench.active = false → (m.loop k).started = true → (m.loop k).feActive = false → field (m.rd (.leSup k)) 15 0 ≠ 0 →
    field (m.rd (.leSup k)) 15 0 ≤ (m.loop k).s.feCount → Gives (.followingErrorFault k) m
      (({ m with eng.loops := m.eng.loops.set k { m.loop k with feActive := true } } : Mach).raise (srcLoop k)
        (FCls.ofCode (field (m.rd (.leSup k)) 31 30)) 0)) ∧
  (∀ (m : Mach) (k : Nat), (m.fault.quench.active = true ∨ (m.loop k).started = false ∨ field (m.rd (.leSup k)) 15 0 = 0 ∨ (m.loop k).feActive = true ∨ (m.loop k).s.feCount < field (m.rd (.leSup k)) 15 0) →
    Gives (.followingErrorFault k) m m) ∧
  (∀ m : Mach, m.eng.test.running = true → m.eng.test.cause = none →
    (m.phaseNow ≠ .done → m.testCauses = [] → Gives .loopTestPhase m { m with eng.test.phase := m.phaseNow }) ∧
    (m.phaseNow = .done → Gives .loopTestPhase m
      (m.testEnd .done 0))) ∧
  (∀ m : Mach, (m.eng.test.running = false ∨ m.eng.test.cause ≠ none ∨ m.testCauses ≠ [] ∧ m.phaseNow ≠ .done) → Gives .loopTestPhase m m) ∧
  (∀ (m : Mach) (c : Nat), m.eng.test.running = true →
    (m.eng.test.cause = some c ∨ m.eng.test.cause = none ∧ m.phaseNow ≠ .done ∧ m.testCauses.head? = some c) →
    Gives .loopTestAbort m (m.testEnd .aborted c)) ∧
  (∀ m : Mach, (m.eng.test.running = false ∨ m.eng.test.cause = none ∧ (m.testCauses = [] ∨ m.phaseNow = .done)) → Gives .loopTestAbort m m) ∧
  ∀ (m : Mach) (p : TestPhase) (c : Nat), (m.testEnd p c).eng.test.phase = p ∧ (m.testEnd p c).eng.test.abort = c ∧
    (m.testEnd p c).eng.test.t = 0 ∧
    (m.eng.test.held = true → (m.eng.test.loop, m.time.count + 100) ∈ (m.testEnd p c).eng.test.quiet)

/-- A good feedback frame of a configured, locked link is the frame's input; a failing one is counted; locks, losses and runs of
misses act as R165 to R170 say. STAGE_FEEDBACK_FRAME on a link with a role, lock and no frame yet: a frame that passes its
checks is the present input and resets the run of misses, and the third good one in a row puts the link in service; a frame
that fails is counted in its LE_SL_ERR field and marks the link failed for the frame. STAGE_LINK_LOCK gives lock with no
good run. STAGE_LINK_LOCK_LOSS takes lock and service and leaves a frame that has arrived, with a SEVERE fault of the link
where it has a role. Three misses record the CORR fault once, three late outputs the SEVERE fault once. Cites
06_loop_supervision.md, 01_shelf_and_module.md. -/
def Obligations.StageLinksTakeFramesAndCountMisses : Prop :=
  (∀ (m : Mach) (n : Nat) (f : FeedbackIn), n < 12 → m.role n ≠ 0 → (m.link n).lock = true → (m.link n).now = none → (m.link n).failed = false →
    (feedbackFails f n m.time.count = none → Gives (.stageFeedbackFrame n f) m
      { m with eng.links := m.eng.links.modify n (fun l => { l with now := some f, last := f, goodRun := satAdd l.goodRun 1 3, inService := (l.inService || decide (2 ≤ l.goodRun)), missRun := 0, missFault := false }) }) ∧
    (∀ hi lo, feedbackFails f n m.time.count = some (hi, lo) → Gives (.stageFeedbackFrame n f) m
      ((m.bump (.leSlErr n) hi lo 1).setLink n (fun l => { l with failed := true })))) ∧
  (∀ (m : Mach) (n : Nat) (f : FeedbackIn), (12 ≤ n ∨ m.role n = 0 ∨ (m.link n).lock = false ∨ (m.link n).now.isSome = true ∨
    (m.link n).failed = true) → Gives (.stageFeedbackFrame n f) m m) ∧
  (∀ (m : Mach) (n : Nat), Gives (.stageLinkLock n) m { m with eng.links := m.eng.links.modify n (fun l => { l with lock := true, goodRun := 0 }) }) ∧
  (∀ (m : Mach) (n : Nat), (m.link n).lock = false → Gives (.stageLinkLockLoss n) m m) ∧
  (∀ (m : Mach) (n : Nat), (m.link n).lock = true → ∃ k : Mach,
    k = m.setLink n (fun l => { l with lock := false, inService := false, goodRun := 0 }) ∧
    (m.role n = 0 → Gives (.stageLinkLockLoss n) m k) ∧
    (m.role n ≠ 0 → Gives (.stageLinkLockLoss n) m (k.raise (srcStageLink n) .severe (place ((k.link n).last.fault % 256) 0)))) ∧
  (∀ (m : Mach) (n : Nat), m.role n ≠ 0 → 3 ≤ (m.link n).missRun → (m.link n).missFault = false → Gives (.stageLinkMissFault n) m
    ((m.setLink n (fun l => { l with missFault := true })).raise (srcStageLink n) .corr (place ((m.link n).last.fault % 256) 0))) ∧
  (∀ (m : Mach) (n : Nat), (m.role n = 0 ∨ (m.link n).missRun < 3 ∨ (m.link n).missFault = true) → Gives (.stageLinkMissFault n) m m) ∧
  (∀ (m : Mach) (n : Nat), m.role n ≠ 0 → 3 ≤ (m.link n).lateRun → (m.link n).lateFault = false → Gives (.outputLateFault n) m
    ((m.setLink n (fun l => { l with lateFault := true })).raise (srcStageLink n) .severe (place ((m.link n).last.fault % 256) 0))) ∧
  ∀ (m : Mach) (n : Nat), (m.role n = 0 ∨ (m.link n).lateRun < 3 ∨ (m.link n).lateFault = true) → Gives (.outputLateFault n) m m

/-- A good pair frame of the present count is taken; the claim rows decide by the judgement; link, alignment and standby faults
act as their rules say. PAIR_FRAME that is good, on an up link, with the low byte of the present count is the partner's
frame of this frame; any other changes nothing. CLAIM_TAKE of a module without the claim and CLAIM_GIVE_UP of its holder set
what the judgement of R441 to R443 decides, and nothing else. ALIGNMENT_SEGMENT that is good, next in the plan and not
preceded by one still pending is taken; ALIGNMENT_FAIL while a condition of R439 fails ends a reception and waits 100 F.
PAIR_LINK_DOWN drops link and frame, with the CORR fault of source 0x07 at the first loss where PR_CFG bit 31 is 0.
PAIR_LINK_UP of a locked module, or one in a domain, only brings the link up; of another it also takes the partner's count
for the next strike, and its phase to slew toward, where the partner holds or is locked, and in slot B its count where
neither holds or is in a domain. HOLDING_WITHOUT_STANDBY at 100,000 frames records once. Cites 14_redundant_pair.md. -/
def Obligations.ThePairFramesFeedTheJudgement : Prop :=
  (∀ (m : Mach) (f : PairFrame),
    (m.pair.pairUp = true → f.good = true → f.seq % 256 = m.time.count % 256 → Gives (.pairFrame f) m { m with pair.partnerNow := some f }) ∧
    ((m.pair.pairUp = false ∨ f.good = false ∨ f.seq % 256 ≠ m.time.count % 256) → Gives (.pairFrame f) m m)) ∧
  (∀ m : Mach, (m.pair.holding = true → Gives .claimTake m m) ∧
    (m.pair.holding = false → Gives .claimTake m { m with pair.takeNext := m.pairJudge.pair.takeNext }) ∧
    (m.pair.holding = true → Gives .claimGiveUp m { m with pair.giveNext := m.pairJudge.pair.giveNext }) ∧
    (m.pair.holding = false → Gives .claimGiveUp m m)) ∧
  (∀ (m : Mach) (i n : Nat) (seg : AlignSeg), m.pair.alignRecv = some (i, n) → m.alignPlan[i]? = some (segKey seg) →
    m.pair.alignPending = [] → Gives (.alignmentSegment true (segKey seg).2 seg) m
      { m with pair.alignRecv := some (i + 1, n), pair.alignPending := [seg] }) ∧
  (∀ (m : Mach) (good : Bool) (i : Nat) (seg : AlignSeg), (m.pair.alignRecv = none ∨ good = false ∨ m.pair.alignPending ≠ []) →
    Gives (.alignmentSegment good i seg) m m) ∧
  (∀ m : Mach, (m.fault.quench.active = true ∨ m.pair.holding = true ∨ m.pair.partnerNow.any (fun f => f.quench || !f.holding) = true) → m.pair.alignRecv.isSome = true → Gives .alignmentFail m
    { m with pair.alignRecv := none, pair.alignPending := [], pair.alignRetryAt := m.time.count + 100 }) ∧
  (∀ m : Mach, m.pair.alignRecv = none → Gives .alignmentFail m m) ∧
  (∀ m : Mach, m.pair.alignRecv = none → m.pair.pairUp = true → bit (m.rd .prCfg) 31 = false → Gives .pairLinkDown m
    ({ m with pair.pairUp := false, pair.partnerNow := none, pair.alignSend := none, pair.partnerAligned := false, pair.downFault := true }.raise srcPair .corr (place 1 0))) ∧
  (∀ m : Mach, m.pair.alignRecv = none → (bit (m.rd .prCfg) 31 = true ∨ m.pair.pairUp = false ∧ m.pair.downFault = true) →
    Gives .pairLinkDown m { m with pair.pairUp := false, pair.partnerNow := none, pair.alignSend := none, pair.partnerAligned := false }) ∧
  (∀ (m : Mach) (h : Bool) (t : PartnerTime) (c : Nat), (m.time.state = .locked ∨ m.time.inDomain = true) → Gives (.pairLinkUp h t c) m
    { m with pair.pairUp := true, pair.downFault := false }) ∧
  (∀ (m : Mach) (h : Bool) (t : PartnerTime) (c : Nat), m.time.state ≠ .locked → m.time.inDomain = false → (h = true ∨ t.locked = true) →
    Gives (.pairLinkUp h t c) m { m with
      pair.pairUp := true, pair.downFault := false, time.pairAdopt := some ((c : Int) - (m.time.count : Int)), time.pairPhase := t.phase }) ∧
  (∀ (m : Mach) (t : PartnerTime) (c : Nat), m.time.state ≠ .locked → m.time.inDomain = false → t.locked = false →
    (t.inDomain = false → m.pair.holding = false → m.pair.side = true → Gives (.pairLinkUp false t c) m { m with
      pair.pairUp := true, pair.downFault := false, time.pairAdopt := some ((c : Int) - (m.time.count : Int)) }) ∧
    ((t.inDomain = true ∨ m.pair.holding = true ∨ m.pair.side = false) →
      Gives (.pairLinkUp false t c) m { m with pair.pairUp := true, pair.downFault := false })) ∧
  (∀ m : Mach, 100000 ≤ m.pair.aloneRun → m.pair.aloneFault = false → Gives .holdingWithoutStandby m
    ({ m with pair.aloneFault := true }.raise srcPair .info (place 6 0))) ∧
  ∀ m : Mach, (m.pair.aloneRun < 100000 ∨ m.pair.aloneFault = true) → Gives .holdingWithoutStandby m m

/-- A feed is lost below 42 V and returns above 46 V with its fault; without feeds the module is dying; the lever and the PLCA
node follow their rules. FEED_LOSS of a present feed below 42.0 V: absent, with the CORR fault of source 0x0B naming it;
with both gone the module is dying and saves its operating time. FEED_RETURN above 46.0 V of an absent feed that was above
it in the last 100 frames: present, INFO fault, no longer dying. A voltage that crosses nothing is only noted. EJECTOR_OPEN
opens the lever, and a holder gives the claim up. PLCA_NODE_TAKE: a module without a node that hears a BEACON is node 1; one
that has waited in silence is node 0; a side-B coordinator that hears another yields; a node above 0 that has missed BEACONs
for 100 F becomes the coordinator. OPERATING_TIME_SAVE of a powered module saves its operating time 60 s after the last
save; how long that is stands in notes/assumptions/91. Cites 14_redundant_pair.md, 19_module_physical.md,
18_bringup_recorder.md. -/
def Obligations.FeedsLeverAndLinkNodeAreFollowed : Prop :=
  (∀ (m : Mach) (v : Nat), v < 168 → m.pair.feedA = true → m.pair.feedB = false → ∃ k : Mach,
    k = { m with pair.voltA := v, pair.runA := 0, pair.feedA := false }.raise srcFeed .corr (flag false 0) ∧
    Gives (.feedLoss false v) m (if m.pair.dying then k else { k with pair.dying := true, pair.dyingFrames := 0, ev.opSaved := m.ev.opSec })) ∧
  (∀ (m : Mach) (v : Nat), v < 168 → m.pair.feedA = true → m.pair.feedB = true → ∃ k : Mach,
    k = { m with pair.voltB := v, pair.runB := 0, pair.feedB := false }.raise srcFeed .corr (flag true 0) ∧
    Gives (.feedLoss true v) m { k with pair.dying := false }) ∧
  (∀ (m : Mach) (v : Nat), (168 ≤ v ∨ m.pair.feedA = false) → Gives (.feedLoss false v) m
    { m with pair.voltA := v, pair.runA := if 184 < v then m.pair.runA else 0 }) ∧
  (∀ (m : Mach) (v : Nat), 184 < v → 100 ≤ m.pair.runA → m.pair.feedA = false → ∃ k : Mach,
    k = { m with pair.voltA := v, pair.feedA := true }.raise srcFeed .info (flag false 0) ∧
    Gives (.feedReturn false v) m { k with pair.dying := false }) ∧
  (∀ (m : Mach) (v : Nat), (v ≤ 184 ∨ m.pair.runB < 100 ∨ m.pair.feedB = true) → Gives (.feedReturn true v) m { m with pair.voltB := v }) ∧
  (∀ m : Mach, Gives .ejectorOpen m
    { m with sys.leverLatched := false, pair.kernelRelease := m.pair.kernelRelease || m.pair.holding }) ∧
  (∀ (m : Mach) (o : Bool), m.phys.plcaNode = none → Gives (.plcaNodeTake true o) m { m with phys.plcaNode := some 1, phys.plcaQuiet := 0 }) ∧
  (∀ (m : Mach) (o : Bool), m.phys.plcaNode = none → (if m.pair.side then 200 else 100) ≤ m.phys.plcaQuiet →
    Gives (.plcaNodeTake false o) m { m with phys.plcaNode := some 0 }) ∧
  (∀ (m : Mach) (h : Bool), m.phys.plcaNode = some 0 → m.pair.side = true → Gives (.plcaNodeTake h true) m
    { m with phys.plcaNode := some 1, phys.plcaQuiet := 0 }) ∧
  (∀ (m : Mach) (o : Bool), m.phys.plcaNode = none → m.phys.plcaQuiet < (if m.pair.side then 200 else 100) →
    Gives (.plcaNodeTake false o) m m) ∧
  (∀ (m : Mach) (h o : Bool), m.phys.plcaNode = some 0 → (m.pair.side = false ∨ o = false) → Gives (.plcaNodeTake h o) m m) ∧
  (∀ (m : Mach) (o : Bool) (n : Nat), m.phys.plcaNode = some (n + 1) →
    Gives (.plcaNodeTake true o) m { m with phys.plcaQuiet := 0 } ∧
    (100 ≤ m.phys.plcaQuiet → Gives (.plcaNodeTake false o) m { m with phys.plcaNode := some 0 }) ∧
    (m.phys.plcaQuiet < 100 → Gives (.plcaNodeTake false o) m m)) ∧
  (∀ m : Mach, m.time.powered = true → m.ev.opSaved + 60 ≤ m.ev.opSec → Gives .operatingTimeSave m { m with ev.opSaved := m.ev.opSec }) ∧
  ∀ m : Mach, (m.time.powered = false ∨ m.ev.opSec < m.ev.opSaved + 60) → Gives .operatingTimeSave m m

/-- A frame in its turn moves its link's sequence and has its effect, one ahead of it waits; a bad check is counted; locks,
losses and failures follow R321 to R334. A sound frame ahead of its turn waits on its link, and one of a number already
passed is not delivered again. IDENT and HEALTH delivered on a link take the far module's identity, which is then judged, or
its transmit levels. A frame whose check fails on a link that is up is counted in PL_LINK_ERR bits 15:8 and not delivered.
PEER_LINK_LOCK of a training link starts identification with its IDENT; PEER_LINK_DOWN sends a link back to training with
health failed, and records the CORR fault of the link where it was in service or its health becomes failed by it.
PEER_RETRANSMIT of a frame sent fewer than three times is counted; PEER_FRAME_LOST of one sent three times drops it, counts
it and leaves its skip marker to go out, and the third loss within 100 F fails the link. IDENT_REPEAT sends each second on
links in service or held. Cites 11_hall_fabric.md. -/
def Obligations.PeerLinksCarryCountAndFail : Prop :=
  (∀ (m : Mach) (h : PeerHdr) (sn pos link var plan : Nat) (ok : Bool), m.hears h .ident →
    ∃ k : Mach, k = ((m.heard h).setPeer h.link (fun l =>
      { l with farSerial := sn, farPos := some pos, farLink := link, farPlan := plan, farOk := ok })).judgeLink h.link ∧
    (k.verifying h.link = false → Gives (.ident h sn pos link var plan ok) m k) ∧
    (k.verifying h.link = true → k.hall.maintSince = none →
      Gives (.ident h sn pos link var plan ok) m { k with hall.maintSince := some k.time.count }) ∧
    (k.hall.maintSince.isSome = true → Gives (.ident h sn pos link var plan ok) m k)) ∧
  (∀ (m : Mach) (i : Instr) (h : PeerHdr) (t : FrameType), frameOf i = some (h, t) → h.link < m.sys.links →
    ((m.peer h.link).st = .ident ∨ (m.peer h.link).st = .held ∨ (m.peer h.link).st = .service) → frameSound h t = true →
    (t = .ident ∨ h.planTag = m.planTag) → h.skipped = [] → (m.peer h.link).early = [] → (m.peer h.link).skips = [] →
    (seqAbove h.seq (m.peer h.link).rx = false → Gives i m (m.noteHeader h)) ∧
    (seqAbove h.seq (m.peer h.link).rx = true → h.seq ≠ (m.peer h.link).due →
      Gives i m ((m.noteHeader h).setPeer h.link (fun l => { l with early := [(h.seq, i)] })))) ∧
  (∀ (m : Mach) (h : PeerHdr) (a b : Int), m.hears h .health →
    Gives (.health h a b) m ((m.heard h).setPeer h.link (fun l => { l with farTx := [a, b] }))) ∧
  (∀ (m : Mach) (h : PeerHdr) (a b : Int), h.link < m.sys.links → (m.peer h.link).st = .service →
    (frameSound h .health = false ∨ h.planTag ≠ m.planTag) →
    Gives (.health h a b) m (m.bump (.plLinkErr h.link) 15 8 1)) ∧
  (∀ (m : Mach) (n : Nat), n < m.sys.links → (m.peer n).st = .training → Gives (.peerLinkLock n) m
    ((m.setPeer n (fun l => { l.restarted with st := .ident, farPos := none })).sendOn .ident toAll n)) ∧
  (∀ (m : Mach) (n : Nat), (m.sys.links ≤ n ∨ (m.peer n).st ≠ .training) → Gives (.peerLinkLock n) m m) ∧
  (∀ (m : Mach) (n : Nat), n < m.sys.links → (m.peer n).st ≠ .down → (m.peer n).st ≠ .maint → ∃ k : Mach, k = m.setPeer n (fun l =>
      { l.restarted with st := .training, lostAt := [], health := 3 }) ∧
    ((m.peer n).st ≠ .service → (m.peer n).health = 3 → Gives (.peerLinkDown n) m k) ∧
    ((m.peer n).st ≠ .service → (m.peer n).health ≠ 3 → Gives (.peerLinkDown n) m (k.raise (srcPeerLink n) .corr (linkDetail 3 0))) ∧
    ((m.peer n).st = .service → Gives (.peerLinkDown n) m
      (((k.linkOut.bump (.plLinkErr n) 7 0 1).raise (srcPeerLink n) .corr (linkDetail 3 0)).checkAlone))) ∧
  (∀ (m : Mach) (n : Nat), (m.sys.links ≤ n ∨ (m.peer n).st = .down ∨ (m.peer n).st = .maint) → Gives (.peerLinkDown n) m m) ∧
  (∀ (m : Mach) (n q : Nat), (m.peer n).retry.any (fun r => r.seq == q && decide (r.tries < 3)) = true → Gives (.peerRetransmit n q) m
    ((m.setPeer n (fun l => { l with retry := l.retry.map (fun r => if r.seq == q then { r with tries := r.tries + 1 } else r) })).bump
      (.plLinkErr n) 31 24 1)) ∧
  (∀ (m : Mach) (n q : Nat), (m.peer n).retry.any (fun r => r.seq == q && decide (3 ≤ r.tries)) = true → ∃ k : Mach,
    k = (m.setPeer n (fun l => { l with retry := l.retry.filter (fun r => r.seq != q), skipOut := l.skipOut ++ [q], lostAt := (m.time.count : Int) :: l.lostAt.filter (fun c => decide ((m.time.count : Int) < c + 100)) })).bump
      (.plLinkErr n) 23 16 1 ∧
    ((k.peer n).lostAt.length < 3 → Gives (.peerFrameLost n q) m k) ∧
    (3 ≤ (k.peer n).lostAt.length → Gives (.peerFrameLost n q) m (k.linkFails n))) ∧
  (∀ (m : Mach) (n q : Nat), (m.peer n).retry = [] → Gives (.peerRetransmit n q) m m ∧ Gives (.peerFrameLost n q) m m) ∧
  (∀ m : Mach, m.time.count % 100000 ≠ 0 → Gives .identRepeat m m) ∧
  ∀ m : Mach, m.time.count % 100000 = 0 → Gives .identRepeat m
    (((List.range m.sys.links).filter (fun n => decide ((m.peer n).st = .service ∨ (m.peer n).st = .held))).foldl
      (fun k n => k.sendOn .ident toAll n) m)

/-- A plan load takes the buffer that is not selected and ends loaded or failed; maintenance takes a link out, verifies it and
passes or fails it. PLAN_LOAD with the load bit takes address and length of its registers, state loading; with one under way
only the status 0x83; without the bit nothing. PLAN_LOAD_DONE puts a plan that passes its checks into the other buffer,
state loaded; one that fails leaves that buffer empty with its status. MAINT_TAKE_OUT of a link that is fitted and not the
only way takes it out of service, with a leave notice where it was in service; any other request is refused and leaves the
action under way as it is. MAINT_VERIFY of a link in maintenance trains it while peer links are enabled; MAINT_VERIFY_DONE
1,000 F after the link came up passes it on good samples and otherwise fails it. LINK_HEALTH_MEASURE acts at whole seconds:
each link measured, the suspect connector shown, and an INFO fault that names it where that changes; that the detail word
does so in bits 31:16 is the choice of notes/assumptions/88. SUSPECT_CLEAR with bit 29 clears the suspect. Cites
11_hall_fabric.md, 14_redundant_pair.md. -/
def Obligations.PlansLoadAndLinksAreMaintained : Prop :=
  (∀ (m : Mach) (c : Cls) (v : Word), m.lands c .plPlanCtrl true →
    (bit v 31 = false → Gives (.planLoad c v) m m) ∧
    (bit v 31 = true → m.hall.loading = none → Gives (.planLoad c v) m { m with
      hall.loading := some (addr48 (m.rd .plPlanBaseLo) (m.rd .plPlanBaseHi), m.rdField .plPlanLen 22 0)
      hall.bufState := 1 }) ∧
    (bit v 31 = true → m.hall.loading.isSome = true → Gives (.planLoad c v) m { m with hall.loadStatus := 0x83 })) ∧
  (∀ (m : Mach) (a n : Nat) (b : List Byte), m.hall.loading = some (a, n) → b = (if m.poisonIn a n then [] else m.bytes a n) →
    ∃ k : Mach, k = m.checkRead a n ∧
    (k.planCheck b = 0 → Gives .planLoadDone m { k with
      hall.loading := none, hall.bufState := 2, hall.loadStatus := 0, hall.bufs := k.hall.bufs.set (1 - k.planBuf) (some (planOf b)) }) ∧
    (k.planCheck b ≠ 0 → Gives .planLoadDone m { k with
      hall.loading := none, hall.bufState := 3, hall.loadStatus := k.planCheck b, hall.bufs := k.hall.bufs.set (1 - k.planBuf) none })) ∧
  (∀ m : Mach, m.hall.loading = none → Gives .planLoadDone m m) ∧
  (∀ (m : Mach) (c : Cls) (n : Nat), m.lands c .plMaint true → n < 64 → ∃ k : Mach, k = m.wrField .plMaint 29 24 n ∧
    (m.sys.links ≤ n → Gives (.maintTakeOut c n) m { k with hall.maintRefused := true }) ∧
    (k.maintBusy = true → Gives (.maintTakeOut c n) m { k with hall.maintRefused := true }) ∧
    (k.parentLink = some n → k.altLink = none →
      Gives (.maintTakeOut c n) m { k with hall.maintRefused := true }) ∧
    (n < m.sys.links → k.maintBusy = false → (k.parentLink = some n → k.altLink.any (fun a => a != n) = true) →
      (k.altLink = some n → k.parentLink.any (fun a => a != n) = true) → ∃ j : Mach, j =
        ({ (if (k.peer n).st = .service then k.sendOn .leave toAll n else k) with
          hall.maint := 1, hall.maintLink := n, hall.maintRefused := false } : Mach).setPeer n
        (fun l => { l with st := .maint, retry := [], farOk := false, noticed := decide ((k.peer n).st = .service) }) ∧
      ((k.peer n).st = .service → Gives (.maintTakeOut c n) m j.linkOut.checkAlone) ∧
      ((k.peer n).st ≠ .service → Gives (.maintTakeOut c n) m j.checkAlone)) ∧
    ((m.peer n).st = .maint → Gives (.maintVerify c n) m
      { k.setPeer n (fun l => { l with st := if k.en fnPeer then .training else .down, samples := [], noticed := false }) with
        hall.maint := 2, hall.maintLink := n, hall.maintRefused := false, hall.maintSince := none }) ∧
    ((m.peer n).st ≠ .maint → Gives (.maintVerify c n) m { k with hall.maintRefused := true })) ∧
  (∀ (m : Mach) (r : OptRead), (m.hall.maint ≠ 2 ∨ m.hall.maintSince.all (fun c => decide (m.time.count < c + 1000)) = true) →
    Gives (.maintVerifyDone r) m m) ∧
  (∀ (m : Mach) (r : OptRead) (x : OptSample) (c : Nat), m.hall.maint = 2 → m.hall.maintSince = some c → c + 1000 ≤ m.time.count →
    x = m.optSample { r with link := m.hall.maintLink } →
    ∃ k : Mach, k = { m with
      hall.maint := if linkHealth [x] = 0 ∧ meanExcess [x] < 5 ∧ (m.peer m.hall.maintLink).st ≠ .training then 3 else 4
      hall.maintRefused := false
      hall.maintSince := none } ∧
      ((m.peer m.hall.maintLink).st = .ident → (m.peer m.hall.maintLink).farPos.isSome = true →
        Gives (.maintVerifyDone r) m (k.judgeLink m.hall.maintLink)) ∧
      (((m.peer m.hall.maintLink).st ≠ .ident ∨ (m.peer m.hall.maintLink).farPos = none) → Gives (.maintVerifyDone r) m k)) ∧
  (∀ (m : Mach) (rs : List OptRead), m.time.count % 100000 ≠ 0 → Gives (.linkHealthMeasure rs) m m) ∧
  (∀ (m : Mach) (rs : List OptRead), m.time.count % 100000 = 0 → ∃ k : Mach, k = rs.foldl Mach.measureLink m ∧
    (k.suspectNow = none → Gives (.linkHealthMeasure rs) m { k with hall.suspect := suspectWord none }) ∧
    (∀ x : Nat × Nat × Nat × Int, k.suspectNow = some x →
      (field (suspectWord (some x)) 31 16 = field k.hall.suspect 31 16 →
        Gives (.linkHealthMeasure rs) m { k with hall.suspect := suspectWord (some x) }) ∧
      (field (suspectWord (some x)) 31 16 ≠ field k.hall.suspect 31 16 → Gives (.linkHealthMeasure rs) m
        ({ k with hall.suspect := suspectWord (some x) }.raise (srcPeerLink x.2.1) .info
          (linkDetail (k.peer x.2.1).health 0 ||| place (x.1 % 65536) 16))))) ∧
  ∀ (m : Mach) (c : Cls) (v : Word), m.lands c .prStat true →
    Gives (.suspectClear c v) m (if bit v 29 then { m with pair.suspect := false } else m)

/-- Time messages set the offset; superframe messages, reports and the table are taken, forwarded or counted; a silent
superframe is holdover. TIME_EXCHANGE delivered by the parent link to a follower is the measured offset, the message of this
superframe and the state it leads to; to a master or from another link it moves only its link. REPORT at the master of the
present superframe by frame 58 is taken, once; later it is counted as late, a member's with the table; elsewhere it goes up.
REPORT_SEND at frame 50 of a module in a domain: the master takes its own, any other module sends it up, or to the claimant
it follows. TABLE of the present superframe is kept and passed on. LEAVE goes up from a follower; the master declares the
module left. SUPERFRAME of an older term than the one followed, or at a master that no rival outranks, moves only its link;
any other fragment is kept, once, and passed on; with the last fragment the message is accepted: outside a domain it gives
the term and master; in one the message for the next superframe is kept, and its disarms and launches act at once.
SUPERFRAME_SEND and TABLE_SEND act only on a master inside their windows. HOLDOVER_ENTRY of a follower whose superframe
brought no time message enters holdover. Cites 11_hall_fabric.md, 02_strike_and_time.md. -/
def Obligations.TimeAndReportsReachTheMaster : Prop :=
  (∀ (m : Mach) (h : PeerHdr) (off : Int) (cnt : Nat), m.hears h .time → ∃ n : Mach, n = m.heard h ∧
    ((n.hall.isMaster = true ∨ n.parentLink ≠ some h.link) → Gives (.timeExchange h off cnt) m n) ∧
    (n.hall.isMaster = false → n.parentLink = some h.link → m.time.state ≠ .free → m.time.state ≠ .joining →
      Gives (.timeExchange h off cnt) m { n with
        free := m.free + 1
        time.sinceMsg := 1
        time.offset := off
        time.freqCorr := (Config.freeWord m.free).toInt
        time.state := timeStateOf off }) ∧
    (n.hall.isMaster = false → n.parentLink = some h.link → (m.time.state = .free ∨ m.time.state = .joining) →
      Gives (.timeExchange h off cnt) m { n with
        free := m.free + 1
        time.sinceMsg := 1
        time.offset := off
        time.freqCorr := (Config.freeWord m.free).toInt
        time.state := .joining
        time.adoptDelta := if m.time.inDomain then none else some ((cnt : Int) - (m.time.count : Int)) })) ∧
  (∀ (m : Mach) (h : PeerHdr) (r : Report), m.hears h .report → ∃ n : Mach, n = m.heard h ∧
    (m.hall.isMaster = true → r.k = m.time.count / 100 → m.time.count % 100 ≤ 58 → Gives (.report h r) m (n.takeReport r)) ∧
    (m.hall.isMaster = true → (m.hall.reports.any (fun x => x.pos == r.pos && x.k == r.k) = true ∨
      (r.k ≠ m.time.count / 100 ∨ 58 < m.time.count % 100) ∧
      (m.hall.members.any (fun x => x.1 == r.pos) = true ∨ m.hall.late.contains (r.pos, r.k) = true)) →
      Gives (.report h r) m n) ∧
    (m.hall.isMaster = true → (r.k ≠ m.time.count / 100 ∨ 58 < m.time.count % 100) →
      m.hall.reports.any (fun x => x.pos == r.pos && x.k == r.k) = false → m.hall.members.any (fun x => x.1 == r.pos) = false →
      m.hall.late.contains (r.pos, r.k) = false → Gives (.report h r) m { n.bump .plMsgStat 31 16 1 with
        hall.late := m.hall.late.filter (fun x => x.2 + 2 > m.time.count / 100) ++ [(r.pos, r.k)] }) ∧
    (m.hall.isMaster = false → Gives (.report h r) m (n.sendUp .report (some h.src)))) ∧
  (∀ m : Mach, m.time.count % 100 ≠ 50 → Gives .reportSend m m) ∧
  (∀ m : Mach, m.time.count % 100 = 50 → m.time.inDomain = true → m.hall.joined < m.time.count / 100 → m.hall.isMaster = true →
    Gives .reportSend m ({ m with hall.refusals := m.hall.refusals.drop 2 }.takeReport (m.ownReport (m.time.count / 100)))) ∧
  (∀ m : Mach, m.time.count % 100 = 50 → m.time.inDomain = true → m.hall.joined < m.time.count / 100 → m.hall.isMaster = false →
    (m.hall.claim = none → Gives .reportSend m ({ m with hall.refusals := m.hall.refusals.drop 2 }.sendUp .report)) ∧
    (∀ c : ClaimSt, m.hall.claim = some c →
      Gives .reportSend m ({ m with hall.refusals := m.hall.refusals.drop 2 }.sendTo .report c.pos))) ∧
  (∀ (m : Mach) (h : PeerHdr) (k : Nat) (rs : List Report), m.hears h .table →
    (m.hall.isMaster = false → k = m.time.count / 100 → m.hall.table.any (fun t => t.1 == k) = false → Gives (.table h k rs) m
      ({ m.heard h with hall.table := some (k, rs) }.flood .table (some h.link) (some h.src))) ∧
    ((m.hall.isMaster = true ∨ k ≠ m.time.count / 100 ∨ m.hall.table.any (fun t => t.1 == k) = true) →
      Gives (.table h k rs) m (m.heard h))) ∧
  (∀ m : Mach, (m.plan = none ∨ m.hall.isMaster = false ∨ m.time.count % 100 < 59 ∨ 60 < m.time.count % 100) → Gives .tableSend m m) ∧
  (∀ (m : Mach) (p : Plan), m.plan = some p → m.hall.isMaster = true → m.time.count % 100 = 59 → m.hall.table = none → m.hall.members = [] →
    m.hall.reports = [] → ∃ k : Mach, k = m.bump .plMsgStat 31 16 0 ∧
      Gives .tableSend m ({ k with hall.table := some (m.time.count / 100, p.shelves.filterMap (shelfReport [])) }.flood .table none)) ∧
  (∀ (m : Mach) (h : PeerHdr) (pos : Nat), m.hears h .leave →
    (m.hall.isMaster = false → Gives (.leave h pos) m ((m.heard h).sendUp .leave (some h.src))) ∧
    (∀ p : Plan, m.plan = some p → m.hall.isMaster = true → Gives (.leave h pos) m ((m.heard h).declareLeft p pos))) ∧
  (∀ (m : Mach) (h : PeerHdr) (s : SfMsg), m.hears h .superframe → ∃ n : Mach, n = m.heard h ∧
    ((atOrAbove s.term m.hall.term = false ∨ m.hall.isMaster = true ∧
      (s.master = m.sys.position ∨ seqAbove s.term m.hall.term = false ∧ m.before s.master m.sys.position = false)) →
      Gives (.superframe h s) m n) ∧
    (∀ ps : List SfMsg, ps = (if m.hall.lastMsg = some (msgKey s) then m.hall.parts else []) →
      atOrAbove s.term m.hall.term = true → m.hall.isMaster = false →
      (m.time.inDomain = false ∨ s.k = m.time.count / 100 + 1) →
      ((ps.any (fun p => p.frag == s.frag) = true ∨ s.frags ≤ s.frag) → Gives (.superframe h s) m n) ∧
      (ps.any (fun p => p.frag == s.frag) = false → s.frag < s.frags → ∃ a : Mach,
        a = { n with hall.lastMsg := some (msgKey s), hall.parts := ps ++ [s] } ∧
        (ps.length + 1 ≠ s.frags → Gives (.superframe h s) m (a.flood .superframe (some h.link) (some h.src))) ∧
        (ps.length + 1 = s.frags → Gives (.superframe h s) m
          ((a.acceptMessage (joinParts (ps ++ [s]) s)).flood .superframe (some h.link) (some h.src)))))) ∧
  (∀ (m : Mach) (s : SfMsg), ∃ a : Mach, a = { m with
      hall.phaseRef := s.phase
      hall.high := maxTerm s.term m.hall.high
      hall.claim := m.hall.claim.filter (fun c => seqAbove c.term s.term)
      time.sinceMsg := 1 } ∧
    (m.time.inDomain = false → m.acceptMessage s = { a with hall.term := s.term, hall.master := some s.master }) ∧
    (m.time.inDomain = true → m.hall.isMaster = false → s.k = m.time.count / 100 + 1 → m.acceptMessage s =
      { s.disarms.foldl Mach.disarmDomain (s.launches.foldl Mach.armDomain a) with hall.msg := some s })) ∧
  (∀ m : Mach, (m.plan = none ∨ m.hall.isMaster = false ∨ m.time.count % 100 < 86 ∨ 90 < m.time.count % 100 ∨ m.hall.msg.isSome = true) →
    Gives .superframeSend m m) ∧
  (∀ (m : Mach) (p : Plan), m.plan = some p → m.hall.isMaster = true → 86 ≤ m.time.count % 100 → m.time.count % 100 ≤ 90 → m.hall.msg = none →
    m.hall.proposals = none → ∃ (k : Mach) (s : SfMsg), k = { m.bump .plStepStat 31 16 1 with free := m.free + 1 } ∧
      s = k.message (m.time.count / 100 + 1) (Config.freeWord m.free).toInt (some ((m.formBands p none).map (·.1))) ∧
      Gives .superframeSend m ({ k with hall.msg := some s, hall.changes := [], hall.leftNow := [] }.floodMessage s)) ∧
  (∀ m : Mach, m.hall.isMaster = false → 1 ≤ m.time.sfSince → m.time.sinceMsg = 0 →
    (m.time.state = .joining ∨ m.time.state = .locked ∨ m.time.state = .slewing) → Gives .holdoverEntry m { m with time.state := .holdover }) ∧
  ∀ m : Mach, (m.hall.isMaster = true ∨ m.time.sinceMsg ≠ 0 ∨ m.time.state = .free ∨ m.time.state = .holdover) → Gives .holdoverEntry m m

/-- A claim above the term held is followed and passed on; a successor claims after its wait, becomes master at its takeover,
and a master gives way. CLAIM delivered: above the term in force and of the claim held, or of the same term by a module that
stands before, it is the claim followed, and it is passed on; at a master it also makes it step down; else it moves only its
link. MASTERSHIP_CLAIM of a successor whose wait is over, at a superframe's start, claims the next term and takes over 100 F
later. BECOME_MASTER of the claimant at its takeover makes it master of its term, locked, its members due to report, with
the master before it declared left; of any other nothing. CLAIM_EXPIRY drops another's claim 100 F after its takeover.
MASTER_STEP_DOWN at a superframe's start gives the mastership up. MODULE_DECLARED_LEFT on a master without absent members,
or on a follower, changes nothing. Cites 11_hall_fabric.md. -/
def Obligations.MastershipPassesByClaims : Prop :=
  (∀ (m : Mach) (h : PeerHdr) (t pos tk : Nat), m.hears h .claim → ∃ n : Mach, n = m.heard h ∧
    (seqAbove t m.hall.term = true → (∀ c, m.hall.claim = some c → seqAbove t c.term = true ∨ c.term = t ∧ m.before pos c.pos = true) →
      Gives (.claim h t pos tk) m ({ n with
        hall.claim := some ⟨t, pos, tk⟩
        hall.high := maxTerm t n.hall.high
        hall.stepDown := if m.hall.isMaster then some (t, pos) else m.hall.stepDown }.flood .claim (some h.link) (some h.src))) ∧
    (m.hall.isMaster = true → t = m.hall.term → m.before pos m.sys.position = true → Gives (.claim h t pos tk) m ({ n with
      hall.claim := some ⟨t, pos, tk⟩
      hall.high := maxTerm t n.hall.high
      hall.stepDown := some (t, pos) }.flood .claim (some h.link) (some h.src))) ∧
    (seqAbove t m.hall.term = false → m.hall.claim = none → m.hall.isMaster = false → Gives (.claim h t pos tk) m n)) ∧
  (∀ (m : Mach) (p : Nat), m.succPos m.sys.position = some p → m.hall.isMaster = false → m.hall.claim = none → m.sys.master = true → m.sys.strapOk = true →
    m.time.count % 100 = 0 → m.en fnPeer = true → (if p ≤ 1 then 3 else 2 + p) ≤ m.time.sfSince → Gives .mastershipClaim m
      ({ m with hall.claim := some ⟨(m.hall.high + 1) % 65536, m.sys.position, m.time.count + 100⟩, hall.high := (m.hall.high + 1) % 65536 }.flood .claim none)) ∧
  (∀ m : Mach, (m.succPos m.sys.position = none ∨ m.time.count % 100 ≠ 0 ∨ m.sys.master = false ∨ m.sys.strapOk = false ∨
    m.en fnPeer = false ∨ m.hall.isMaster = true ∨ m.hall.claim.isSome = true) → Gives .mastershipClaim m m) ∧
  (∀ (m : Mach) (c : ClaimSt), m.hall.claim = some c → (c.pos ≠ m.sys.position ∨ c.takeover ≠ m.time.count) → Gives .becomeMaster m m) ∧
  (∀ m : Mach, m.hall.claim = none → Gives .becomeMaster m m) ∧
  (∀ (m : Mach) (c : ClaimSt) (p : Plan), m.hall.claim = some c → m.plan = some p → c.pos = m.sys.position → c.takeover = m.time.count →
    m.hall.isMaster = false → m.en fnPeer = true → ∃ j k : Mach, j = (if m.time.inDomain then m else m.joinDomain) ∧ k = { j with
      hall.isMaster := true, hall.term := c.term, hall.master := some m.sys.position, hall.claim := none, hall.members := m.hall.members.map (fun x => (x.1, 0)), hall.reports := [], hall.proposals := none, hall.changes := [], hall.leftNow := [], time.state := .locked, time.offset := 0, time.adoptDelta := none, time.sfSince := 0 } ∧
      ((m.hall.master = none ∨ m.hall.master = some m.sys.position) →
        Gives .becomeMaster m k.startTerm) ∧
      (∀ q : Nat, m.hall.master = some q → q ≠ m.sys.position → Gives .becomeMaster m (k.declareLeft p q).startTerm)) ∧
  (∀ (m : Mach) (c : ClaimSt), m.hall.claim = some c →
    (c.pos ≠ m.sys.position → c.takeover + 100 ≤ m.time.count → Gives .claimExpiry m { m with hall.claim := none }) ∧
    ((c.pos = m.sys.position ∨ m.time.count < c.takeover + 100) → Gives .claimExpiry m m)) ∧
  (∀ (m : Mach) (t q : Nat), m.hall.stepDown = some (t, q) → m.hall.isMaster = true → m.time.count % 100 = 0 →
    Gives .masterStepDown m (m.stepDownNow t q) ∧ (m.hall.replace = none → m.stepDownNow t q = { m with hall.isMaster := false, hall.stepDown := none, hall.term := t, hall.master := some q, hall.disarms := [], hall.changes := [], hall.leftNow := [] })) ∧
  (∀ m : Mach, (m.hall.stepDown = none ∨ m.hall.isMaster = false ∨ m.time.count % 100 ≠ 0) → Gives .masterStepDown m m) ∧
  (∀ m : Mach, (m.hall.isMaster = false ∨ m.plan = none ∨ m.hall.members.all (fun x => decide (x.2 < 3)) = true) → Gives .moduleDeclaredLeft m m) ∧
  ∀ (m : Mach) (p : Plan), m.plan = some p → m.hall.isMaster = true → Gives .moduleDeclaredLeft m
    (((m.hall.members.filter (fun x => decide (3 ≤ x.2))).map Prod.fst).foldl (fun k q => k.declareLeft p q) m)

/-- A routed frame for another position is sent on; hall steps, partial sums, slice copies, generations and acknowledgements
move the state their rules give them. Each of PARTIAL_SUMS, SLICE_COPY, GEN and XFER_ACK delivered for another position
moves its link and is sent on. HALL_STEP at frame 64 with roles: without the present superframe's table, a valid bank or the
anvil it is counted as missed; with them the step starts with its inputs. PARTIAL_SUMS of proposals at the master of this
superframe by frame 86 are the proposals. SLICE_COPY for a role that is not receiving changes nothing more; the last block
gives the role its state and the copy is over. SLICE_COPY_RESTART restarts copies 1,000 superframes old. GEN older than what
is held is dropped. A first frame of a new generation begins it, and its data are kept and written into the receiving copy.
XFER_ACK of a generation that is not being sent, or with training disabled, changes nothing more; of a slice the missing
blocks go out again, and a complete one ends the primary's copy. Cites 11_hall_fabric.md, 09_forecaster_learning.md. -/
def Obligations.SlicesAndGenerationsTravelTheHall : Prop :=
  (∀ (m : Mach) (h : PeerHdr),
    (m.hears h .partialSum → h.dst ≠ m.ownPos → ∀ k layer level slice down sum,
      Gives (.partialSums h k layer level slice down sum) m ((m.heard h).sendTo .partialSum h.dst (some h.src))) ∧
    (m.hears h .sliceCopy → h.dst ≠ m.ownPos → ∀ slice block blocks st,
      Gives (.sliceCopy h slice block blocks st) m ((m.heard h).sendTo .sliceCopy h.dst (some h.src))) ∧
    (m.hears h .gen → h.dst ≠ m.ownPos → ∀ g i data, Gives (.gen h g i data) m ((m.heard h).sendTo .gen h.dst (some h.src))) ∧
    (∀ sl n held, m.hears h (.xferAck (Option.isSome sl)) → h.dst ≠ m.ownPos →
      Gives (.xferAck h sl n held) m ((m.heard h).sendTo (.xferAck sl.isSome) h.dst (some h.src)))) ∧
  (∀ m : Mach, (m.time.count % 100 ≠ 64 ∨ m.time.inDomain = false ∨ m.hall.roles = []) → Gives .hallStep m m) ∧
  (∀ m : Mach, m.time.count % 100 = 64 → m.time.inDomain = true → m.hall.roles ≠ [] → m.hall.table = none →
    Gives .hallStep m (m.bump .plStepStat 15 8 1)) ∧
  (∀ (m : Mach) (rs : List Report), m.time.count % 100 = 64 → m.time.inDomain = true → m.hall.roles ≠ [] →
    m.hall.table = some (m.time.count / 100, rs) → (m.bank m.fc.hallBank).valid = true → m.anvilOn = true →
    Gives .hallStep m ({ m with
      fc.hallRan := some m.fc.hallBank, hall.step := some ⟨m.time.count / 100, 0, stepInputs rs, true, none, [], []⟩ }.stepForward)) ∧
  (∀ (m : Mach) (j : Nat) (rs : List Report), m.time.count % 100 = 64 → m.time.inDomain = true → m.hall.roles ≠ [] →
    m.hall.table = some (j, rs) → (j ≠ m.time.count / 100 ∨ (m.bank m.fc.hallBank).valid = false ∨ m.anvilOn = false) →
    Gives .hallStep m (m.bump .plStepStat 15 8 1)) ∧
  (∀ (m : Mach) (h : PeerHdr) (sum : List Word), m.hears h .partialSum → h.dst = m.ownPos → m.hall.isMaster = true →
    m.time.count % 100 ≤ 86 → Gives (.partialSums h (m.time.count / 100) 0 levelProposals 0 false sum) m
      { m.heard h with hall.proposals := some (m.time.count / 100, pairsOf sum) }) ∧
  (∀ (m : Mach) (h : PeerHdr) (slice block blocks : Nat) (st : List Byte), m.hears h .sliceCopy → h.dst = m.ownPos → m.hall.roles = [] →
    m.hall.oldCopies = [] → Gives (.sliceCopy h slice block blocks st) m (m.heard h)) ∧
  (∀ (m : Mach) (h : PeerHdr) (r : Role) (slice : Nat) (st : List Byte), m.hears h .sliceCopy → h.dst = m.ownPos → m.hall.oldCopies = [] →
    m.hall.roles.find? (fun r => r.slice == slice && !r.primary && r.copying.isSome && !r.snap) = some r → r.blocks = [] → ∃ k : Mach,
    k = { m.heard h with hall.roles := m.hall.roles.map (fun (x : Role) =>
      if x.slice == slice && !x.primary then { r with state := st, blocks := [], replay := [], snap := true } else x) }.sendTo (.xferAck true) h.src ∧
    Gives (.sliceCopy h slice 0 1 st) m (k.copyTaken h.src slice)) ∧
  (∀ m : Mach, Gives .sliceCopyRestart m { m with
    hall.roles := m.hall.roles.map (fun r => if r.copying.any (fun s => decide (s + 1000 ≤ m.time.count / 100)) then { r with copying := some (m.time.count / 100), blocks := [], replay := [], snap := false } else r)
    hall.oldCopies := m.hall.oldCopies.map (fun x => if decide (x.2.1 + 1000 ≤ m.time.count / 100) then (x.1, m.time.count / 100, []) else x)
    hall.replace := m.hall.replace.map (fun r => if r.copy.isSome && decide (r.since + 1000 ≤ m.time.count / 100) then { r with since := m.time.count / 100 } else r) }) ∧
  (∀ (m : Mach) (h : PeerHdr) (g : GenHdr) (x : GenSt) (i : Nat) (data : List Byte), m.hears h .gen →
    h.dst = m.ownPos → m.fc.gens = [x] → x.hdr ≠ g → g.n < x.hdr.n → Gives (.gen h g i data) m (m.heard h)) ∧
  (∀ (m : Mach) (h : PeerHdr) (g : GenHdr) (i : Nat) (data : List Byte), m.hears h .gen → h.dst = m.ownPos → m.fc.gens = [] →
    (m.bank m.fcBank).gen = none → ∃ a b c : Mach, a = { m.heard h with
      fc.gens := [⟨g, [], false, false, 0, 0⟩], fc.trainer := some g.trainer, fc.due := m.fc.due ++ [(g.adopt, g.n)] } ∧
    b = (if a.acting && a.fc.train.any a.trainLive then a else a.yieldTraining) ∧
    c = (b.storeAll (b.receivingCopy b.fcBank + 4096 * i) (data.take 4096)).1 ∧
    (genFrames g ≤ i → Gives (.gen h g i data) m b) ∧
    (i < genFrames g → Gives (.gen h g i data) m { c with fc.gens := c.fc.gens.map (fun x =>
      if x.hdr == g && !x.kept && !x.parts.any (fun p => p.1 == i) then { x with parts := x.parts ++ [(i, data.take 4096)] } else x) })) ∧
  (∀ (m : Mach) (h : PeerHdr) (n : Nat) (held : List Nat), m.hears h (.xferAck false) → h.dst = m.ownPos →
    (m.fc.sending = none ∨ m.trainEn = false) → Gives (.xferAck h none n held) m (m.heard h)) ∧
  ∀ (m : Mach) (h : PeerHdr) (i n : Nat) (held : List Nat), m.hears h (.xferAck true) → h.dst = m.ownPos → ∃ k : Mach, k = m.heard h ∧
    (held.length < n → Gives (.xferAck h (some i) n held) m
      (((List.range n).filter (fun b => !held.contains b)).foldl (fun k _ => k.sendTo .sliceCopy h.src) k)) ∧
    (n ≤ held.length → Gives (.xferAck h (some i) n held) m
      ({ k with hall.roles := m.hall.roles.map (fun (r : Role) => if r.slice == i && r.primary then { r with copying := none, snap := false } else r) }.copyEnded i))

/-- A sweep starts each 1,000 F; SAMPLE returns set the ring state; READs go out from both ends, time out once and end; DATA
answers them; selections go out. CELL_SWEEP_START at a count that is a multiple of 1,000 starts a sweep, with nothing read,
on every enabled port without one that has run before, or that finds capabilities, configuration and an enabled loop engine
ready; at another count nothing changes. RING_SAMPLE_RETURN during a sweep sets INTACT, MISMATCH, BROKEN_ONE or BROKEN_TWO
by R372 with its fault on a change, and sends the wire tests that are due. RING_READ sends the next READ from A or B once
the conversion and the 5 F of the unit before are over and none is open there. RING_READ_TIMEOUT after 2 F repeats a first
READ, counted, and ends the direction after a second. RING_DATA with a wrong CRC is counted; one of another sweep or type,
or that answers no open READ, changes nothing; a good one is kept in its unit, with its charges, and judges the taps under
test. BAL_SEND starts the BAL frames after the last DATA, one in a frame to each unit that answered. STOPBAL of the ring
driver stops the units of every port asked for; the other module sends none. CELL_RING_PUBLISH with no sweep 1,000 F old
changes nothing; with port p alone due it publishes it, good or bad, and moves campaign and capacity sweep on. Cites
12_cell_ring.md. -/
def Obligations.TheCellRingSweepsItsStrings : Prop :=
  (∀ m : Mach, m.time.count % 1000 ≠ 0 → Gives .cellSweepStart m m) ∧
  (∀ m : Mach, m.time.count % 1000 = 0 → m.cell.camp = none → m.cell.caps = none → ∃ n, Gives .cellSweepStart m n ∧ n.mem = m.mem ∧
    n.regs = m.regs ∧ ∀ p, p < 4 → (m.portStarts p = false → n.port p = m.port p) ∧
      (m.portStarts p = true → p < m.cell.ports.length → (n.port p).sweep = some m.time.count ∧
        (n.port p).ring = (if (m.port p).ring = 0 then 1 else (m.port p).ring) ∧ (n.port p).outA = none ∧ (n.port p).outB = none ∧
        (n.port p).void = false ∧ (n.port p).breakAt = none ∧ (n.port p).endedB = false ∧ (n.port p).balDone = false ∧
        (n.port p).units = (m.port p).units.map UnitSt.startSweep)) ∧
  (∀ m : Mach, m.time.count % 1000 = 0 → ∃ n, Gives .cellSweepStart m n ∧ n.cell.camp = m.cell.camp.map (fun c =>
    { c with now := if c.target = 0 then m.rdField .crBalCfg 31 16 else c.target })) ∧
  (∀ (m : Mach) (p : Nat), m.portStarts p = true ↔ m.portEn p = true ∧ (m.port p).sweep = none ∧ (m.port p).fresh = false ∧
    ((m.port p).ring ≠ 0 ∨ m.cell.mayBefore = true ∧ m.sys.capValid = true ∧ m.sys.cfgLoaded = true ∧
      (m.en fnLoop = true → m.ready fnLoop = true))) ∧
  (∀ (m : Mach) (p a b : Nat) (r : Option Nat), (m.port p).sweep = none → Gives (.ringSampleReturn p r a b) m m) ∧
  (∀ (m : Mach) (p a b s : Nat), (m.port p).sweep = some s → ∃ k : Nat → Bool → Mach,
    (k = fun st e => (m.setPort p (fun pt => { pt with ring := st, a := a, b := b, entered := pt.entered || e })).sendWiretest p) ∧
    ((m.port p).ring < 3 → Gives (.ringSampleReturn p (some (m.unitsOf p)) a b) m (k 2 false)) ∧
    (3 ≤ (m.port p).ring → Gives (.ringSampleReturn p (some (m.unitsOf p)) a b) m ((k 2 false).cellFault p .info kindRing 0 0)) ∧
    (∀ c, c ≠ m.unitsOf p → (m.port p).ring ≠ 5 →
      Gives (.ringSampleReturn p (some c) a b) m ((k 5 true).cellFault p .severe kindRing 0 0)) ∧
    (a + b = m.unitsOf p → (m.port p).ring ≠ 3 →
      Gives (.ringSampleReturn p none a b) m (((k 3 false).bump (.crPerr p) 7 0 1).cellFault p .corr kindRing a 0)) ∧
    (a + b < m.unitsOf p → (m.port p).ring ≠ 4 →
      Gives (.ringSampleReturn p none a b) m (((k 4 true).bump (.crPerr p) 7 0 1).cellFault p .severe kindRing a 0)) ∧
    (m.unitsOf p < a + b → Gives (.ringSampleReturn p none a b) m m)) ∧
  (∀ (m : Mach) (p s u : Nat), (m.port p).sweep = some s → (m.port p).void = false → m.readFrom p s ≤ m.time.count →
    (m.nextRead p false = some u → (m.port p).outA = none → (m.port p).freeA ≤ m.time.count →
      Gives (.ringRead p false) m (m.openRead p false ⟨u, m.time.count, 1⟩)) ∧
    (m.nextRead p true = some u → (m.port p).outB = none → (m.port p).freeB ≤ m.time.count →
      Gives (.ringRead p true) m (m.openRead p true ⟨u, m.time.count, 1⟩))) ∧
  (∀ (m : Mach) (p : Nat) (r : PendingRead), p < m.cell.ports.length →
    ((m.openRead p false r).port p).outA = some r ∧ ((m.openRead p true r).port p).outB = some r ∧
    (r.tries = 1 → ((m.openRead p false r).port p).freeA = r.sent + 5 ∧ ((m.openRead p true r).port p).freeB = r.sent + 5)) ∧
  (∀ (m : Mach) (p : Nat) (fromB : Bool), ((m.port p).sweep = none ∨ (m.port p).void = true ∨ m.nextRead p fromB = none ∨
    m.time.count < (if fromB then (m.port p).freeB else (m.port p).freeA) ∨
    (∃ s, (m.port p).sweep = some s ∧ m.time.count < m.readFrom p s)) → Gives (.ringRead p fromB) m m) ∧
  (∀ (m : Mach) (p u t : Nat), t + 2 ≤ m.time.count →
    ((m.port p).outA = some ⟨u, t, 1⟩ → Gives (.ringReadTimeout p false) m
      ((m.bump (.crPerr p) 23 16 1).openRead p false ⟨u, m.time.count, 2⟩)) ∧
    ((m.port p).outB = some ⟨u, t, 1⟩ → Gives (.ringReadTimeout p true) m
      ((m.bump (.crPerr p) 23 16 1).openRead p true ⟨u, m.time.count, 2⟩)) ∧
    ((m.port p).outA = some ⟨u, t, 2⟩ → Gives (.ringReadTimeout p false) m
      (m.setPort p (fun pt => { pt with outA := none, breakAt := some u }))) ∧
    ((m.port p).outB = some ⟨u, t, 2⟩ → Gives (.ringReadTimeout p true) m
      (m.setPort p (fun pt => { pt with outB := none, endedB := true })))) ∧
  (∀ (m : Mach) (p u t k : Nat), m.time.count < t + 2 → (m.port p).outA = some ⟨u, t, k⟩ → Gives (.ringReadTimeout p false) m m) ∧
  (∀ (m : Mach) (p : Nat) (d : CellData), crc16 (dataBytes d) ≠ d.crc → Gives (.ringData p d) m (m.bump (.crPerr p) 31 24 1)) ∧
  (∀ (m : Mach) (p s : Nat) (d : CellData), (m.port p).sweep = some s → crc16 (dataBytes d) = d.crc →
    (((m.port p).void = true ∨ d.type ≠ 3 ∨ d.sweep ≠ s / 1000 % 4294967296 ∨
      (if d.fromB then (m.port p).outB else (m.port p).outA) = none) → Gives (.ringData p d) m m) ∧
    (∀ r : PendingRead, (m.port p).void = false → d.type = 3 → d.sweep = s / 1000 % 4294967296 →
      (if d.fromB then (m.port p).outB else (m.port p).outA) = some r → ∃ (u : UnitSt) (j : UnitSt × List (FCls × Nat)) (k : Mach), u = ((m.port p).units.getD (r.unit - 1) UnitSt.reset).take1 d ∧
      j = (if u.testing = [] then (u, []) else u.judgeTest d) ∧
      k = m.setPort p (fun pt => { pt with
        units := pt.units.set (r.unit - 1) j.1
        outA := if d.fromB then pt.outA else none
        outB := if d.fromB then none else pt.outB
        stampA := if d.fromB then pt.stampA else m.time.count
        stampB := if d.fromB then m.time.count else pt.stampB
        counts := if pt.counted then addCharges pt.counts r.unit d.charges else pt.counts }) ∧
      Gives (.ringData p d) m (j.2.foldl (fun k f => k.cellFault p f.1 kindSense r.unit f.2) { k with
        cell.camp := m.cell.camp.map (fun c => if c.strings.testBit p then { c with charge := c.charge + chargeGiven d.charges } else c) }))) ∧
  (∀ (m : Mach) (p : Nat), ((m.port p).sweep = none ∨ (m.port p).balDone = true ∨ m.readsOver p = false) → Gives (.balSend p) m m) ∧
  (∀ (m : Mach) (p s : Nat), (m.port p).sweep = some s → (m.port p).balDone = false → m.readsOver p = true →
    Gives (.balSend p) m ((m.setPort p (fun pt => { pt with
      balDone := true
      balLeft := ((List.range (m.unitsOf p)).map (· + 1)).filter (fun k => ((m.port p).units.getD (k - 1) UnitSt.reset).got) })).balNext p)) ∧
  (∀ (m : Mach) (p k : Nat) (ks : List Nat) (u : UnitSt), (m.port p).balLeft = k :: ks → u = (m.port p).units.getD (k - 1) UnitSt.reset →
    (m.balTarget p = none → m.balNext p = (m.setPort p (fun pt => { pt with
      balLeft := ks, units := pt.units.modify (k - 1) (fun u => { u with giveOut := 0, takeOut := 0 }) })).ringSendTo p 4 u.viaB k
        (leBytes 2 0 ++ leBytes 2 0)) ∧
    (m.balTarget p ≠ none → m.balNext p = (m.setPort p (fun pt => { pt with
      balLeft := ks, units := pt.units.modify (k - 1) (fun x => { x with giveOut := u.give, takeOut := u.take }) })).ringSendTo p 4 u.viaB k
        (leBytes 2 u.give ++ leBytes 2 u.take))) ∧
  (∀ m : Mach, m.ringDriver = false → Gives .stopbal m { m with cell.stopbal := 0 }) ∧
  (∀ m : Mach, m.ringDriver = true → ∃ n, Gives .stopbal m n ∧ n.cell.stopbal = 0 ∧ n.regs = m.regs ∧ n.mem = m.mem ∧
    ∀ p, p < 4 → (m.cell.stopbal.testBit p = false → n.port p = m.port p) ∧
      (m.cell.stopbal.testBit p = true → p < m.cell.ports.length → (n.port p).balLeft = [] ∧
        (n.port p).units = (m.port p).units.map (fun u => { u with giveOut := 0, takeOut := 0 }))) ∧
  (∀ m : Mach, (∀ p s, p < 4 → (m.port p).sweep = some s → m.time.count < s + 1000) → Gives .cellRingPublish m m) ∧
  ∀ (m : Mach) (p s : Nat), p < 4 → (m.port p).sweep = some s → s + 1000 ≤ m.time.count →
    (∀ q t, q < 4 → q ≠ p → (m.port q).sweep = some t → m.time.count < t + 1000) →
    ((m.port p).ring = 5 → ∃ k r, k = m.publishBad p ∧ Gives .cellRingPublish m ((({ k with cell.ready := r } : Mach).campaignStep []).capsStep []
      ((List.range 4).any (fun q => !k.cell.caps.any (fun c => c.port == q) && bit (k.rd (.bdString q)) 10)))) ∧
    ((m.port p).ring ≠ 5 → ((m.port p).units.take (m.unitsOf p)).all (fun u => u.got) = true → ∃ g k r, g = m.publishGood p (m.time.count - 1000) ∧
      k = Mach.reqLine { (g.portsEn.foldl (fun (x : Mach) q => x.staleEntry m.time.count q) ((List.range 4).foldl Mach.zeroEntry g)) with
        cell.pubAt := some m.time.count, bel.limFault := false } 3 ∧
      Gives .cellRingPublish m ((({ k with cell.ready := r } : Mach).campaignStep [p]).capsStep [p]
        ((List.range 4).any (fun q => !k.cell.caps.any (fun c => c.port == q) && bit (k.rd (.bdString q)) 10))))

/-- A forecaster run starts at each update and is published 10 F after it, abandoned if unfinished, withheld by the gate; ended
jobs and row frames are taken. FORECAST_RUN_START at a count that is no multiple of 10, or already updated, without tiles or
power changes nothing; with the forecaster disabled it evaluates the gate and notes the update; with the forecaster ready it
reads the lanes, renders the plan into its buffer and queues the run's job, with a new model generation where the active
bank changed; a poisoned schedule line discards the run. FORECAST_PUBLISH before 10 F changes nothing; an unfinished run is
abandoned and counted; a finished one is published with its bridges, its freshness and request line 1, unless the gate
withholds and counts it. ANVIL_JOB_COMPLETE with no ended job changes nothing; of a user job it counts, drops and posts; of
a run in time it writes the header, advances the encoders and marks the run finished with its points and bridge slots.
INITIAL_ENCODING_DONE gives the encoder state of the running weights, or nothing where it met a poisoned line; ROW_FRAME
keeps the partner's row. Cites 09_forecaster_learning.md, 11_hall_fabric.md. -/
def Obligations.ForecastRunsStartAndPublish : Prop :=
  (∀ m : Mach, (m.time.count % 10 ≠ 0 ∨ m.fc.lastUpdate = m.time.count ∨ m.sys.tiles = 0 ∨ m.time.powered = false) →
    Gives .forecastRunStart m m) ∧
  (∀ m : Mach, m.time.count % 10 = 0 → m.fc.lastUpdate ≠ m.time.count → m.sys.tiles ≠ 0 → m.time.powered = true → m.fc.run = none →
    (m.forecastEn = false → Gives .forecastRunStart m { m.gateUpdate with fc.lastUpdate := m.time.count, fc.published := false }) ∧
    (m.forecastEn = true → ∃ k g w : Mach, k = m.gateUpdate.readSchedules m.time.count ∧
      g = (if k.fc.lastBank ≠ k.fcBank then { k with fc.modelGen := (k.fc.modelGen + 1) % 256, fc.lastBank := k.fcBank } else k) ∧
      w = (g.storeAll Config.planBuffer (wordsBytes (g.renderPlan m.time.count))).1 ∧
      (k.ready fnForecast = false → Gives .forecastRunStart m { k with fc.published := false }) ∧
      (k.ready fnForecast = true → k.forecastEn = true → m.gateUpdate.schedPoison = true → Gives .forecastRunStart m
        { k.orReg .avArithStat fPoison with fc.published := false }) ∧
      (k.ready fnForecast = true → k.forecastEn = true → m.gateUpdate.schedPoison = false → Gives .forecastRunStart m { w with
        anvil.jobs := w.anvil.jobs ++ [w.fcJob m.time.count k.fcBank]
        anvil.nextJob := w.anvil.nextJob + 1
        fc.schedAbsent := g.schedAbsentAt m.time.count
        fc.run := some ⟨m.time.count, (w.fcJob m.time.count k.fcBank).id, k.fcBank, w.bel.spPub.g, false, g.schedAbsentAt m.time.count,
          w.fc.modelGen, ((w.bank k.fcBank).gen).getD 0xFFFFFFFF, [], []⟩ }))) ∧
  (∀ m : Mach, m.fc.run = none → Gives .forecastPublish m m) ∧
  (∀ (m : Mach) (r : FcRun), m.fc.run = some r → m.time.count < r.c + 10 → Gives .forecastPublish m m) ∧
  (∀ (m : Mach) (r : FcRun), m.fc.run = some r → r.c + 10 ≤ m.time.count → r.fin = false → Gives .forecastPublish m
    { (m.gateUpdate.dropJob r.job).bump .avFcMiss 15 0 1 with fc.run := none, fc.published := false }) ∧
  (∀ (m : Mach) (r : FcRun), m.fc.run = some r → r.c + 10 ≤ m.time.count → r.fin = true → ∃ k : Mach,
    k = { m.gateUpdate with fc.run := none, fc.outs := m.fc.outs ++ [⟨r.c + 10, r.points.getD 100 0, r.points.getD 1000 0, r.points.getD 5000 0⟩] } ∧
    (k.fc.gateHeld = true → Gives .forecastPublish m { k.bump .avFcMiss 31 16 1 with fc.published := false }) ∧
    (k.fc.gateHeld = false → k.ready fnForecast = false → Gives .forecastPublish m { k with fc.published := false }) ∧
    (k.fc.gateHeld = false → k.ready fnForecast = true → Gives .forecastPublish m
      (((({ k with
        fc.pub := some ⟨r.c + 10, r.c, true, r.schedAbsent, r.modelGen, r.generation, r.points⟩
        fc.buf := !k.fc.buf
        fc.published := true } : Mach).countForecast).publishBridges r (r.c + 10)).reqLine 1))) ∧
  (∀ m : Mach, (∀ j, j ∈ m.anvil.jobs → j.phase ≠ .ended) → Gives .anvilJobComplete m m) ∧
  (∀ (m : Mach) (j : Job) (js : List Job) (e : JobEnd), m.anvil.jobs = j :: js → j.phase = .ended → m.lockWaits j = false → j.fin = some e →
    (∀ o, j.kind = .user → j.op = some o → Gives .anvilJobComplete m
      ((((((m.writeReplay j e).bump .avJobDone 31 0 1).sessionJobEnd j e.status).dropJob j.id).endOp o e.status (j.result e)))) ∧
    (∀ r, j.kind = .forecast → m.fc.run = some r → r.job = j.id → e.status = stOk → m.time.count ≤ r.c + 9 → ∃ (w : Mach) (ps : List Int),
      w = ((m.dropJob j.id).storeAll (Config.fcBuffer m.fc.buf) r.header).1 ∧ ps = w.fcPoints w.fc.buf ∧ Gives .anvilJobComplete m
        { w.advanceEncoders r.c with fc.run := some { r with fin := true, points := ps, bridges := w.runBridges r j.bridges ps } }) ∧
    (∀ r, j.kind = .forecast → m.fc.run = some r → r.job = j.id → e.status = stOk → r.c + 9 < m.time.count →
      Gives .anvilJobComplete m (m.dropJob j.id)) ∧
    (∀ r, j.kind = .forecast → m.fc.run = some r → r.job = j.id → e.status ≠ stOk → Gives .anvilJobComplete m
      { m.dropJob j.id with fc.run := none, fc.published := false })) ∧
  (∀ m : Mach, (m.ready fnAnvil = true → m.fcConditions = true → m.meetsPoison (m.encodeReads (m.runningCopy m.fcBank)) = true →
      Gives .initialEncodingDone m (m.poisonWork (m.encodeReads (m.runningCopy m.fcBank)))) ∧
    (m.ready fnAnvil = true → m.fcConditions = true → m.meetsPoison (m.encodeReads (m.runningCopy m.fcBank)) = false →
      Gives .initialEncodingDone m { m.otherBundles with fc.encoded := true, fc.encTo := m.time.count - 3, fc.enc := m.encodeAll m.runningWeights }) ∧
    ((m.ready fnAnvil = false ∨ m.fcConditions = false) → Gives .initialEncodingDone m m)) ∧
  ∀ (m : Mach) (n : Nat) (row : List Word), Gives (.rowFrame false n row) m m ∧
    ((∀ r, r ∈ m.fc.partnerRows → r.1 ≠ n) → Gives (.rowFrame true n row) m { m with fc.partnerRows := m.fc.partnerRows ++ [(n, row)] }) ∧
    (m.fc.partnerRows.any (fun r => r.1 == n) = true → Gives (.rowFrame true n row) m m)

/-- A package loads block by block; training runs by cycles of 100,000 F; its generations are made, completed, re-encoded and
adopted at their count. MODEL_LOAD_BLOCK of a load takes the next 64 KiB, and a suspension or cancellation takes hold behind
the block; the last block ends it with ST_OK and the package placed, or with ST_MODEL_DIGEST; a poisoned block ends it with
ST_MEM_POISON. AUTO_TRAIN_RUN starts TRAIN_RUN with tag 0x700, 8 steps and lag 3 where every condition of R282 and R284
holds, and only there. TRAINING_CYCLE_START at a multiple of 100,000 F begins the cycle of an acting trainer;
TRAINING_CYCLE_DONE, where the anvil is free for level 2, makes its generation if in time, sends it, and ends a run whose
cycles are used up; a poisoned line ends the cycle without one. TRAIN_CAP_PARK caps training while lower work waits and
train_cap is below 100. REENCODE_DONE encodes the oldest kept generation, or nothing where it met a poisoned line.
GENERATION_COMPLETE keeps a whole generation whose digest and package match, and drops another with its fault.
GENERATION_ADOPT at an announced count adopts the newest that may be, late or lagging as R283 and R288 say; its own is not
counted as late where disabled training withholds it. Cites 09_forecaster_learning.md. -/
def Obligations.TrainingRunsInCycles : Prop :=
  (∀ (m : Mach) (b : Nat), (∀ l, l ∈ m.fc.loads → l.bank ≠ b) → Gives (.modelLoadBlock b) m m) ∧
  (∀ (m : Mach) (l : LoadSt) (ls : List LoadSt) (o : Op), m.fc.loads = l :: ls → m.opById l.op = some o → o.resumeNote = none →
    (o.state = .suspended → Gives (.modelLoadBlock l.bank) m m) ∧
    (∀ a n : Nat, l.addr = some a → n = min 65536 (l.len - l.data.length) → o.state ≠ .suspended →
      (m.poisonIn (a + l.data.length) n = true →
        Gives (.modelLoadBlock l.bank) m ((m.checkRead (a + l.data.length) n).endLoad l stMemPoison)) ∧
      (∀ d : List Byte, d = l.data ++ m.bytes (a + l.data.length) n → m.poisonIn (a + l.data.length) n = false →
        (d.length < l.len → ∃ k : Mach, k = { m with fc.loads := m.fc.loads.map (fun x => if x.bank == l.bank then { x with data := d } else x) } ∧
          (o.state = .running → Gives (.modelLoadBlock l.bank) m k) ∧
          (o.state = .suspending → Gives (.modelLoadBlock l.bank) m ((k.setOp l.op .suspended).notify o.rt stSuspended [])) ∧
          (o.state = .cancelling → Gives (.modelLoadBlock l.bank) m (k.endLoad l stCancelled))) ∧
        (l.len ≤ d.length →
          (sha3_256 (d.drop 256) ≠ (pkgHdr d).digest → Gives (.modelLoadBlock l.bank) m (m.endLoad l stModelDigest)) ∧
          (sha3_256 (d.drop 256) = (pkgHdr d).digest →
            Gives (.modelLoadBlock l.bank) m ((m.placePackage l.bank d).endLoad l stOk))))) ∧
    (∀ d : List Byte, l.addr = none → o.state ≠ .suspended →
      d = l.data ++ (Config.builtinPackage.drop l.data.length).take (min 65536 (l.len - l.data.length)) → l.len ≤ d.length →
      Gives (.modelLoadBlock l.bank) m ((((m.placePackage l.bank d).setBank l.bank (fun k => { k with trainable := true })).setSt
        .avFcCtrl (putBit (m.rd .avFcCtrl) 8 false)).endLoad l stOk))) ∧
  (∀ m : Mach, (m.id.appRun = false ∨ bit (m.rd .avFcCtrl) 29 = false ∨ m.ready fnForecast = false ∨ m.trainEn = false ∨ m.opcodeHeld ocTrainRun = true ∨
    m.tagHeld 0x700 = true ∨ (m.trainCheck 0x308 0).isSome = true) → Gives .autoTrainRun m m) ∧
  (∀ m : Mach, m.id.appRun = true → bit (m.rd .avFcCtrl) 29 = true → m.ready fnForecast = true → m.trainEn = true →
    m.opcodeHeld ocTrainRun = false → m.tagHeld 0x700 = false →
    m.trainCheck 0x308 0 = none → ∃ (rt : RTo) (w : Mach) (o : Nat), rt = m.fwRt 0x700 ocTrainRun ∧
      m.addOp rt .fw = (w, o) ∧ Gives .autoTrainRun m
        (({ w with fc.train := some ⟨o, 0x700, 8, 3, 0, none, none⟩ } : Mach).reply rt stAccepted [])) ∧
  (∀ m : Mach, (m.fc.train = none ∨ m.time.count % 100000 ≠ 0 ∨ m.trainEn = false ∨ m.anvilOn = false ∨
    (m.bank m.fcBank).trainable = false) → Gives .trainingCycleStart m m) ∧
  (∀ (m : Mach) (t : TrainSt), m.fc.train = some t → (t.cycle.isSome = true ∨ m.trainLive t = false) → Gives .trainingCycleStart m m) ∧
  (∀ (m : Mach) (t : TrainSt) (o : Op), m.fc.train = some t → m.time.count % 100000 = 0 → 0 < m.time.count → t.cycle = none →
    m.opById t.op = some o → o.state = .running → o.resumeNote = none → m.trainEn = true → m.anvilOn = true →
    (m.bank m.fcBank).trainable = true →
    (m.acting = false → Gives .trainingCycleStart m m.yieldTraining) ∧
    (m.acting = true → ∃ k : Mach, k = (if m.fc.opt then m else m.putTrainArea 0 (Config.trainInit m.runningWeights)) ∧
      Gives .trainingCycleStart m { k with
        fc.train := some { t with cycle := some (m.time.count / 100000) }
        fc.opt := true
        anvil.trained := true })) ∧
  (∀ (m : Mach) (t : TrainSt) (n : Nat), m.fc.train = some t → t.cycle = some n → m.trainLive t = true → m.trainEn = true →
    m.acting = true → m.levelTwoRuns = true → ∃ k e : Mach, k = m.otherBundles.putTrainArea 0 (m.trainSteps t n t.steps) ∧
    e = (k.makeGeneration n t.lag).endCycle ∧
    (m.trainPoison = true → Gives .trainingCycleDone m ((m.checkReads m.trainReads).orReg .avArithStat fPoison).endCycle) ∧
    (m.trainPoison = false → 100000 * (n + t.lag) ≤ m.time.count → Gives .trainingCycleDone m k.endCycle) ∧
    (m.trainPoison = false → m.time.count < 100000 * (n + t.lag) →
      (e.fc.sending = none → Gives .trainingCycleDone m e) ∧
      (∀ x, e.fc.sending = some x → m.fc.sending ≠ some x → Gives .trainingCycleDone m (e.sendGeneration x)))) ∧
  (∀ (m : Mach) (t : TrainSt) (n : Nat), m.fc.train = some t → t.cycle = some n →
    (t.left = some 1 → m.endCycle = ({ m with fc.train := none } : Mach).endOp t.op stOk []) ∧
    (t.left = none → m.endCycle = { m with fc.train := some { t with cycle := none } }) ∧
    (∀ l, t.left = some (l + 2) → m.endCycle = { m with fc.train := some { t with cycle := none, left := some (l + 1) } })) ∧
  (∀ (m : Mach) (t : TrainSt), (m.fc.train = none ∨ (m.fc.train = some t ∧ (t.cycle = none ∨ (m.trainLive t = false ∨ m.trainEn = false) ∧ m.trainLast t = false)) ∨
    m.acting = false ∨ m.levelTwoRuns = false) → Gives .trainingCycleDone m m) ∧
  (∀ (m : Mach) (g : GenSt) (old new : List GenSt), m.fc.gens = old ++ g :: new → (∀ x, x ∈ old → x.kept = false ∨ x.encoded = true) →
    g.kept = true → g.encoded = false → m.levelTwoRuns = true → m.meetsPoison (m.encodeReads (m.receivingCopy m.fcBank)) = false →
    Gives .reencodeDone m { m.otherBundles with
      anvil.trained := true
      fc.gens := old ++ { g with encoded := true, encTo := m.time.count - 3, enc := m.encodeAll g.bytes } :: new }) ∧
  (∀ (m : Mach) (g : GenSt), g ∈ m.fc.gens → g.kept = true → g.encoded = false → m.levelTwoRuns = true →
    m.meetsPoison (m.encodeReads (m.receivingCopy m.fcBank)) = true →
    Gives .reencodeDone m (m.poisonWork (m.encodeReads (m.receivingCopy m.fcBank)))) ∧
  (∀ m : Mach, (m.levelTwoRuns = false ∨ ∀ g, g ∈ m.fc.gens → g.kept = false ∨ g.encoded = true) → Gives .reencodeDone m m) ∧
  (∀ m : Mach, (∀ d, d ∈ m.fc.due → d.1 ≠ m.time.count) → Gives .generationAdopt m m) ∧
  (∀ (m : Mach) (d : Nat × Nat) (ds : List (Nat × Nat)), m.fc.due = d :: ds → d.1 = m.time.count → ∃ k : Mach,
    k = { m with fc.due := m.fc.due.filter (fun d => decide (m.time.count < d.1)) } ∧
    ((∀ g, g ∈ m.fc.gens → m.adoptable g = false) → m.fc.gens.any (fun g => g.hdr.n == d.2 && m.withheld g) = true →
      Gives .generationAdopt m k) ∧
    ((∀ g, g ∈ m.fc.gens → m.adoptable g = false) → m.fc.gens.any (fun g => g.hdr.n == d.2 && m.withheld g) = false → Gives .generationAdopt m
      { k with fc.lagging := true, fc.late := satAdd m.fc.late 1 65535 }) ∧
    (∀ g, m.fc.gens = [g] → m.adoptable g = true → d.2 ≤ g.hdr.n → Gives .generationAdopt m (k.adopt g)) ∧
    (∀ g, m.fc.gens = [g] → m.adoptable g = true → g.hdr.n < d.2 → Gives .generationAdopt m
      { k.adopt g with fc.late := satAdd m.fc.late 1 65535 })) ∧
  (∀ (m : Mach) (j : Job), m.trainWork = true → m.rdField .avSchedCfg 6 0 < 100 → j ∈ m.anvil.jobs → 3 ≤ j.level →
    (j.phase = .queued ∨ j.phase = .parked) → Gives .trainCapPark m { m with anvil.capped := true }) ∧
  (∀ m : Mach, (m.trainWork = false ∨ 100 ≤ m.rdField .avSchedCfg 6 0 ∨ ∀ j, j ∈ m.anvil.jobs → j.level < 3) → Gives .trainCapPark m m) ∧
  (∀ m : Mach, (∀ g, g ∈ m.fc.gens → g.kept = true ∨ g.parts.length ≠ genFrames g.hdr) → Gives .generationComplete m m) ∧
  ∀ (m : Mach) (g : GenSt) (gs : List GenSt), m.fc.gens = g :: gs → g.kept = false → g.parts.length = genFrames g.hdr → ∃ k : Mach,
    k = { m with fc.gens := m.fc.gens.filter (fun h => h.hdr != g.hdr) } ∧
    (sha3_256 g.bytes ≠ g.hdr.digest → Gives .generationComplete m (k.raise srcForecast .corr (place g.hdr.trainer 0))) ∧
    (sha3_256 g.bytes = g.hdr.digest → g.hdr.package ≠ (m.bank m.fcBank).digest →
      Gives .generationComplete m (k.raise srcForecast .info (place g.hdr.trainer 0))) ∧
    (sha3_256 g.bytes = g.hdr.digest → g.hdr.package = (m.bank m.fcBank).digest → Gives .generationComplete m
      { m with fc.gens := m.fc.gens.map (fun h => if h.hdr == g.hdr then { h with kept := true } else h) })

/-- ANVIL_BUNDLE_ISSUE, ANVIL_PREEMPT, ANVIL_RESTORE, DIGEST_HASH_DONE and TILE_FAULT complete: a bundle issues whole or ends
its job; jobs park and are restored. ANVIL_BUNDLE_ISSUE computes a waiting layer of a hall step first. With no job that may
issue it changes nothing. Of a job that may: past the program's end it ends with ST_ANV_ILLEGAL; on a poisoned bundle or
descriptor table with ST_MEM_POISON; where a slot or a later part reports a status, none of the bundle's effects stand and
the job ends with it; else the part's effects and cycles stand, and at the bundle's end the ordinal advances, a session
takes the digests, HALT ends the job with ST_OK, and a tagged job stops after the wanted ordinal. ANVIL_PREEMPT saves and
parks the running job where lower work waits, counted, or where its level may not run. ANVIL_RESTORE ends a saved job whose
area is poisoned or changed and runs one whose area is intact; another T in fast mode withdraws the promise and ends its
session. DIGEST_HASH_DONE queues the job with the hash of its message, or ends it on poison. TILE_FAULT takes a present tile
out of the map with its SEVERE fault and stops what ran. Cites 07_anvil_architecture.md, 08_anvil_programs.md. -/
def Obligations.TheAnvilIssuesParksAndRestores : Prop :=
  (∀ m : Mach, m.levelOne = true → m.anvilFree 1 = true → Gives .anvilBundleIssue m m.stepForward) ∧
  (∀ m : Mach, (m.levelOne = false ∨ m.anvilFree 1 = false) → m.runningJob = none → m.nextUp = none → Gives .anvilBundleIssue m m) ∧
  (∀ (m : Mach) (j : Job), (m.levelOne = false ∨ m.anvilFree 1 = false) → m.runningJob = none → m.nextUp = some j →
    (j.phase ≠ .queued ∨ j.saved = true ∨ m.mayIssue j = false) → Gives .anvilBundleIssue m m) ∧
  (∀ (m : Mach) (j : Job), m.runningJob = some j → m.mayIssue j = false → Gives .anvilBundleIssue m m) ∧
  (∀ (m : Mach) (j : Job), (m.runningJob = some j ∨ (m.runningJob = none ∧ (m.levelOne = false ∨ m.anvilFree 1 = false) ∧
      m.nextUp = some j ∧ j.phase = .queued ∧ j.saved = false)) → m.mayIssue j = true → ∃ (w k : Mach) (r : Job) (x : Bx),
    w = (match j.op with | some o => m.noteResumed o | none => m) ∧
    r = (if j.issued then { j with phase := .running } else w.beginJob j) ∧ k = w.setJob j.id (fun _ => r) ∧
    x = { m := k, j := r, t := k.tilesNow, lines := [] } ∧
    (j.progLen ≤ j.pc → Gives .anvilBundleIssue m (k.stopJob j.id ⟨stAnvIllegal, j.pc, 0, 0⟩)) ∧
    (j.pc < j.progLen → ((j.issued = false ∧ k.poisonIn j.descTable (64 * j.descCount) = true) ∨ k.poisonIn (j.prog + 64 * j.pc) 64 = true) →
      Gives .anvilBundleIssue m ((k.checkReads ((if j.issued then [] else [(j.descTable, 64 * j.descCount)]) ++
        [(j.prog + 64 * j.pc, 64)])).stopAtBundle r stMemPoison 0 0)) ∧
    (j.pc < j.progLen → (j.issued = true ∨ k.poisonIn j.descTable (64 * j.descCount) = false) → k.poisonIn (j.prog + 64 * j.pc) 64 = false →
      (∀ st slot op : Nat, x.bundle (k.words (j.prog + 64 * j.pc) 16) = .error (st, slot, op) →
        Gives .anvilBundleIssue m ((k.slotPoison r (k.words (j.prog + 64 * j.pc) 16) st slot).stopAtBundle r st slot op)) ∧
      (∀ (y : Bx) (st slot op : Nat), x.bundle (k.words (j.prog + 64 * j.pc) 16) = .ok (y, none) → j.seq = none →
        x.whole (k.words (j.prog + 64 * j.pc) 16) partsMax = .error (st, slot, op) → Gives .anvilBundleIssue m
          ((k.slotPoison r (k.words (j.prog + 64 * j.pc) 16) st slot).stopAtBundle r st slot op)) ∧
      (∀ (y : Bx) (n : Nat) (v z : Mach) (d : Job), n = (if j.seq = none then 1 else 0) → v = y.m.bundleCycles.2 →
        z = (if j.seq = none then { v with anvil.busy := (v.anvil.busy + 1) % 2 ^ 64 } else v) →
        d = { y.j with ordDone := y.j.ordDone + n, cycles := y.j.cycles + y.m.bundleCycles.1 } →
        (x.bundle (k.words (j.prog + 64 * j.pc) 16) = .ok (y, none) →
          (j.seq = none → ∃ u, x.whole (k.words (j.prog + 64 * j.pc) 16) partsMax = .ok u) → Gives .anvilBundleIssue m (z.setJob j.id (fun _ => d))) ∧
        (∀ (fl : Flow) (hs : List DWord), x.bundle (k.words (j.prog + 64 * j.pc) 16) = .ok (y, some (fl, hs)) → ∃ (p q : Mach) (f : Job),
          f = d.flow fl ∧ p = z.setJob f.id (fun _ => f) ∧
          q = (if p.anvil.lock.state = .running ∧ p.anvil.lock.job = some f.id then
              ({ p with anvil.lock.digest := some (lockDigest f.ordDone f hs (k.words (j.prog + 64 * j.pc) 16)) } : Mach).lockCompare else p) ∧
          (fl = .halt → Gives .anvilBundleIssue m (q.stopJob f.id ⟨stOk, f.pc, 0, 0⟩)) ∧
          (fl ≠ .halt → (∀ o, f.op.bind q.opById = some o → f.stopOrd ≠ some f.ordDone ∨ f.stopped = true ∨ o.rt.tag = 0) →
            Gives .anvilBundleIssue m q) ∧
          (∀ o : Op, fl ≠ .halt → f.op.bind q.opById = some o → f.stopOrd = some f.ordDone → f.stopped = false → o.rt.tag ≠ 0 →
            Gives .anvilBundleIssue m ((q.setJob f.id (fun j => { j with stopped := true })).setOp o.id .suspending)))))) ∧
  (∀ m : Mach, m.runningJob = none → Gives .anvilPreempt m m) ∧
  (∀ (m : Mach) (j : Job) (p : Mach), m.runningJob = some j → p = (m.saveJob j m.tilesNow).setJob j.id (fun j => { j with phase := .parked, parkedOnce := true }) →
    (m.lowerWork j.level = true → Gives .anvilPreempt m (p.bump .avPreemptCnt 31 0 1)) ∧
    (m.lowerWork j.level = false → m.levelOn j.level = false → Gives .anvilPreempt m p) ∧
    (m.lowerWork j.level = false → m.levelOn j.level = true → Gives .anvilPreempt m m)) ∧
  (∀ m : Mach, (m.runningJob.isSome = true ∨ m.nextUp = none ∨ m.anvilOn = false) → Gives .anvilRestore m m) ∧
  (∀ (m : Mach) (j : Job), m.runningJob = none → m.nextUp = some j → m.anvilOn = true → (j.saved = false → Gives .anvilRestore m m) ∧
    (j.saved = true →
      (m.poisonIn j.save saveSize = true → Gives .anvilRestore m ((m.checkRead j.save saveSize).stopAtBundle j stMemPoison 0 0)) ∧
      (m.poisonIn j.save saveSize = false → m.word (j.save + saveCrcAt) ≠ crc32 (m.saveRest j.save) → Gives .anvilRestore m
        (m.stopJob j.id ⟨stSaveCorrupt, j.pc, 0, 0⟩)) ∧
      (m.poisonIn j.save saveSize = false → m.word (j.save + saveCrcAt) = crc32 (m.saveRest j.save) → ∃ w : Mach,
        w = m.setJob j.id (fun i => { i with phase := .running, saved := false, nonrepro := i.nonrepro || (!j.repro && j.tSave != m.tilesNow) }) ∧
        ((j.repro = true ∨ j.tSave = m.tilesNow) → Gives .anvilRestore m w) ∧
        (j.repro = false → j.tSave ≠ m.tilesNow → m.anvil.lock.job ≠ some j.id → Gives .anvilRestore m
          { w with ops := w.ops.map (fun o => if some o.id == j.op && o.rt.tag != 0 then { o with resumeNote := some stResumedNonrepro } else o) }) ∧
        (j.repro = false → j.tSave ≠ m.tilesNow → m.inSession j = true → ∃ n, Gives .anvilRestore m n ∧ n.anvil.lock.state = .ended ∧
          n.anvil.lock.result = stLsMismatch ∧ n.anvil.lock.sent = some (.jobEnd stResumedNonrepro j.ordDone) ∧ n.anvil.jobs = w.anvil.jobs ∧
          n.regs = m.regs ∧ n.mem = m.mem)))) ∧
  (∀ m : Mach, (∀ j, j ∈ m.anvil.jobs → j.phase ≠ .hashing) → Gives .digestHashDone m m) ∧
  (∀ (m : Mach) (j : Job) (js : List Job) (ds : List (List Word)) (msg : List Byte), m.anvil.jobs = j :: js → j.phase = .hashing →
    ds = (List.range j.descCount).map (fun d => m.words (j.descTable + 64 * d) 16) →
    msg = m.digestHead j ++ j.included.flatMap (m.packedTensor ds j.bases) →
    (m.digestPoison j ds = false → Gives .digestHashDone m
      (m.setJob j.id (fun j => { j with phase := .queued, digest := some (sha3_256 msg, msg.length) }))) ∧
    (m.digestPoison j ds = true → Gives .digestHashDone m ((((m.checkReads (m.digestReads j ds)).setJob j.id (fun j => { j with flags := j.flags ||| fPoison })).orReg
      .avArithStat fPoison).stopJob j.id ⟨stMemPoison, 0, 0, 0⟩))) ∧
  (∀ (m : Mach) (t : Nat) (p : Bool), (64 ≤ t ∨ m.tilesIn.testBit t = false) → Gives (.tileFault t p) m m) ∧
  ∀ (m : Mach) (t : Nat) (p : Bool), t < 64 → m.tilesIn.testBit t = true → ∃ w k : Mach,
    w = (if t < 32 then (m.wr .avTileMapLo (clearBit (m.rd .avTileMapLo) (t % 32))).wr .avTileFailLo (setBit (m.rd .avTileFailLo) (t % 32)) else
      (m.wr .avTileMapHi (clearBit (m.rd .avTileMapHi) (t % 32))).wr .avTileFailHi (setBit (m.rd .avTileFailHi) (t % 32))) ∧
    k = (w.raise (srcTile t) .severe (flag p 0)).stopAll stTileLost m.tilesNow (fun j => decide (j.phase = .running)) ∧
    Gives (.tileFault t p) m { k with anvil.jobs := k.anvil.jobs.map (fun j =>
      if decide (j.kind = .forecast) && (decide (j.phase = .running) || decide (j.phase = .parked)) then j.restart else j) }

/-- Slot 0 of a bundle: NOP, HALT, LOOP, BRNZ, SALU, step advance; sc0 reads 0 and discards writes; a LOOP runs its bundles the
times it names; the rest is illegal. For every bundle under way, slot 0 does what R221, R230 and R237 give: opcodes 0 and 7
go on, 1 halts, 2 opens a loop of imm[55:32] bundles imm[31:0] times unless that is 0 or four loops are open, 3 branches
where its scalar register is not 0 and the target lies in the program, 4 computes the 64-bit sum, difference, product, AND,
OR, XOR or copy into its destination, 6 adds imm to the step count; an opcode above 8 is illegal. Scalar register 0 reads 0
and keeps nothing. After a bundle, the pc goes on by one, to the branch target, into the loop, or back to the first bundle
of the innermost loop that ends there with repetitions left. Cites 08_anvil_programs.md. -/
def Obligations.SlotZeroRunsTheSequencer : Prop :=
  (∀ (x : Bx) (i : Ins), (i.op = 0 ∨ i.op = 7 → x.slot0 i = .ok (x, .next)) ∧ (i.op = 1 → x.slot0 i = .ok (x, .halt)) ∧
    (8 < i.op → x.slot0 i = .error stAnvIllegal)) ∧
  (∀ (x : Bx) (i : Ins) (n k : Nat), i.op = 2 → n < 16777216 → k < 4294967296 → i.imm = n * 4294967296 + k →
    ((k = 0 ∨ 4 ≤ x.j.loops.length) → x.slot0 i = .error stAnvIllegal) ∧
    (0 < k → x.j.loops.length < 4 → 0 < n → x.slot0 i = .ok (x, .loop (x.j.pc + n) k))) ∧
  (∀ (x : Bx) (i : Ins), i.op = 3 → i.imm < 2097152 →
    ((x.j.progLen ≤ i.imm ∨ 32 ≤ i.a) → x.slot0 i = .error stAnvIllegal) ∧
    (i.imm < x.j.progLen → i.a < 32 → x.j.scReg i.a ≠ 0 → x.slot0 i = .ok (x, .goto i.imm)) ∧
    (i.imm < x.j.progLen → i.a < 32 → x.j.scReg i.a = 0 → x.slot0 i = .ok (x, .next))) ∧
  (∀ (x : Bx) (i : Ins) (f : DWord → DWord → DWord), i.op = 4 → i.dst < 32 → i.a < 32 → i.b < 32 → i.sub < 6 →
    f = (match i.sub with | 0 => (· + ·) | 1 => (· - ·) | 2 => (· * ·) | 3 => (· &&& ·) | 4 => (· ||| ·) | _ => (· ^^^ ·)) →
    x.slot0 i = .ok ({ x with j := x.j.setSc i.dst (f (x.j.scReg i.a) (x.j.scReg i.b)) }, .next)) ∧
  (∀ (x : Bx) (i : Ins), i.op = 4 → i.sub = 8 → i.dst < 32 → i.a < 32 →
    x.slot0 i = .ok ({ x with j := x.j.setSc i.dst (BitVec.ofNat 64 i.imm) }, .next)) ∧
  (∀ (x : Bx) (i : Ins), i.op = 6 → x.slot0 i = .ok ({ x with j := { x.j with step := x.j.step + BitVec.ofNat 64 i.imm } }, .next)) ∧
  (∀ (j : Job) (k : Nat) (v : DWord), (j.setSc k v).scReg 0 = 0 ∧ (j.setSc 0 v) = j ∧
    (0 < k → k < j.sc.length → (j.setSc k v).scReg k = v) ∧ (∀ i, i ≠ k → (j.setSc k v).scReg i = j.scReg i)) ∧
  (∀ (j : Job) (last times : Nat), (j.flow (.loop last times)).pc = j.pc + 1 ∧
    (j.flow (.loop last times)).loops = ⟨j.pc + 1, last, times⟩ :: j.loops) ∧
  (∀ (j : Job) (f : LoopFrame) (fs : List LoopFrame), j.loops = f :: fs →
    (j.pc ≠ f.last → (j.flow .next).pc = j.pc + 1 ∧ (j.flow .next).loops = j.loops) ∧
    (j.pc = f.last → 1 < f.left → (j.flow .next).pc = f.first ∧ (j.flow .next).loops = { f with left := f.left - 1 } :: fs)) ∧
  ∀ (j : Job) (b : Nat), (j.flow (.goto b)).pc = b ∧ (j.loops = [] → (j.flow .next).pc = j.pc + 1)

/-- The lock-step commands complete: equal digests of one ordinal let a session go on; a difference starts the search; the
search, a lost port or the partner end it. LOCKSTEP_DIGEST that is not good is counted; outside a session it changes
nothing; of an equal ordinal with equal digests it clears both and notes the ordinal. LOCKSTEP_DIVERGENCE without two
different digests of one ordinal changes nothing; with them the session searches, naming the first slot and the first scalar
register that differ, and its job is suspended, or cancelled where that stands. LOCKSTEP_SEARCH_DONE ends the session with
ST_DIVERGED and the line found, and writes the event. LOCKSTEP_PORT_DOWN takes the link down and ends a session with
ST_LS_PARTNER; LOCKSTEP_PORT_UP brings it up where the unit is present. LOCKSTEP_PARTNER_OUTCOME decides a waiting launch
within 10 F, refuses it after, and takes the end of the partner's job: a withdrawn promise ends the session with
ST_LS_MISMATCH, a cancel or loss or the partner's reset with ST_LS_PARTNER, two ends with ST_OK or ST_DIVERGED; equal ends
with another status give a free result (the spec states none). Cites 10_reproducibility.md. -/
def Obligations.LockStepComparesTwoModules : Prop :=
  (∀ (m : Mach) (ord : Nat) (sl : List DWord) (sc : DWord), Gives (.lockstepDigest false ord sl sc) m (m.bump .avLsPort 15 0 1) ∧
    (m.anvil.lock.state ≠ .running → Gives (.lockstepDigest true ord sl sc) m m)) ∧
  (∀ (m : Mach) (d : LsDigest) (ord : Nat) (sl : List DWord) (sc : DWord), m.anvil.lock.state = .running → m.anvil.lock.digest = some d →
    (d.ord ≠ ord → Gives (.lockstepDigest true ord sl sc) m { m with anvil.lock.theirs := some (ord, sl, sc) }) ∧
    (d.ord = ord → d.slots = sl → d.scalar = sc → Gives (.lockstepDigest true ord sl sc) m
      { m with anvil.lock.theirs := none, anvil.lock.digest := none, anvil.lock.ord := ord }) ∧
    (d.ord = ord → (d.slots ≠ sl ∨ d.scalar ≠ sc) → Gives (.lockstepDigest true ord sl sc) m
      { m with anvil.lock.theirs := some (ord, sl, sc), anvil.lock.ord := ord })) ∧
  (∀ (m : Mach) (sc : List DWord), (m.anvil.lock.state ≠ .running ∨ m.anvil.lock.digest = none ∨ m.anvil.lock.theirs = none) →
    Gives (.lockstepDivergence sc) m m) ∧
  (∀ (m : Mach) (sc : List DWord) (d : LsDigest) (t : Nat × List DWord × DWord), m.anvil.lock.digest = some d →
    m.anvil.lock.theirs = some t → (d.ord ≠ t.1 ∨ (d.slots = t.2.1 ∧ d.scalar = t.2.2)) → Gives (.lockstepDivergence sc) m m) ∧
  (∀ (m : Mach) (sc : List DWord) (d : LsDigest) (t : Nat × List DWord × DWord), m.anvil.lock.digest = some d →
    m.anvil.lock.theirs = some t → m.anvil.lock.state = .running → d.ord = t.1 → (d.slots ≠ t.2.1 ∨ d.scalar ≠ t.2.2) → ∃ (i : Nat) (w : Mach),
    (d.scalar = t.2.2 → i = 0) ∧
    (d.scalar ≠ t.2.2 → i = ((((List.range 31).map (fun k => k + 1)).find? (fun k => d.sc.getD k 0 != sc.getD k 0)).getD 0)) ∧
    w = { m with anvil.lock := { m.anvil.lock with
      state := .searching, divSlot := firstDiff d.slots t.2.1, scalarDiff := d.scalar != t.2.2, scIdx := i } } ∧
    (∀ j, m.anvil.jobs.find? (fun j => some j.id == m.anvil.lock.job) = some j →
      (m.jobOpState j = .cancelling → Gives (.lockstepDivergence sc) m (w.cancelJob j)) ∧
      (m.jobOpState j ≠ .cancelling → Gives (.lockstepDivergence sc) m (w.suspendJob j m.tilesNow))) ∧
    (m.anvil.jobs.find? (fun j => some j.id == m.anvil.lock.job) = none → Gives (.lockstepDivergence sc) m w)) ∧
  (∀ (m : Mach) (hs : List (Nat × DWord)), m.anvil.lock.state ≠ .searching → Gives (.lockstepSearchDone hs) m m) ∧
  (∀ (m : Mach) (hs : List (Nat × DWord)) (d : LsDigest), m.anvil.lock.state = .searching → m.anvil.lock.digest = some d →
    ∃ (line : Option Nat) (k : Mach), line = (((d.feet.getD m.anvil.lock.divSlot []).flatMap (fun f => linesOf f.1 f.2)).foldl (fun l x => insertNat x l) []).find?
      (fun a => hs.any (fun h => h.1 == a && h.2 != lineHash m a)) ∧
    k = { m with anvil.lock := { m.anvil.lock with line := line, state := .ended, result := stDiverged, job := none, digest := none, theirs := none, ownEnd := none, theirEnd := none } } ∧
    Gives (.lockstepSearchDone hs) m (k.emit evLockstep .info [k.lsStat, BitVec.ofNat 32 m.anvil.lock.ord,
      BitVec.ofNat 32 (m.anvil.lock.ord / 4294967296), BitVec.ofNat 32 (line.getD 0), BitVec.ofNat 32 (line.getD 0 / 4294967296), 0, 0, 0])) ∧
  (∀ m : Mach, m.anvil.lock.state ≠ .running → m.anvil.lock.state ≠ .searching →
    Gives .lockstepPortDown m { m with anvil.lock.linkUp := false, anvil.lock.partnerM := false }) ∧
  (∀ m : Mach, m.anvil.lock.state = .running ∨ m.anvil.lock.state = .searching → ∃ n, Gives .lockstepPortDown m n ∧
    n.anvil.lock.linkUp = false ∧ n.anvil.lock.state = .ended ∧ n.anvil.lock.result = stLsPartner ∧ n.anvil.lock.job = none ∧
    n.regs = m.regs ∧ n.mem = m.mem ∧ n.anvil.jobs = m.anvil.jobs) ∧
  (∀ (m : Mach) (b : Bool), (m.sys.lockstep = false → Gives (.lockstepPortUp b) m m) ∧
    (m.sys.lockstep = true → Gives (.lockstepPortUp b) m { m with anvil.lock.linkUp := true, anvil.lock.partnerM := b })) ∧
  (∀ (m : Mach) (i : Nat) (p : Bool) (h : DWord) (t : Nat), m.anvil.lock.waiting = some i →
    (m.time.count ≤ (m.slot i).count + 10 → Gives (.lockstepPartnerOutcome (.checked p h t)) m (m.lockChecked i p h t)) ∧
    ((m.slot i).count + 10 < m.time.count → Gives (.lockstepPartnerOutcome (.checked p h t)) m (m.lockRefuse i stLsPartner)) ∧
    ((m.slot i).count + 10 ≤ m.time.count → Gives (.lockstepPartnerOutcome .missing) m (m.lockRefuse i stLsPartner)) ∧
    (m.time.count < (m.slot i).count + 10 → Gives (.lockstepPartnerOutcome .missing) m m)) ∧
  (∀ m : Mach, m.anvil.lock.waiting = none → (∀ p h t, Gives (.lockstepPartnerOutcome (.checked p h t)) m m) ∧
    Gives (.lockstepPartnerOutcome .missing) m m ∧
    (m.anvil.lock.state ≠ .running → m.anvil.lock.state ≠ .searching → Gives (.lockstepPartnerOutcome .reset) m m) ∧
    (m.anvil.lock.state = .running ∨ m.anvil.lock.state = .searching → Gives (.lockstepPartnerOutcome .reset) m (m.endSession stLsPartner))) ∧
  (∀ (m : Mach) (i st ord : Nat), m.anvil.lock.waiting = some i → Gives (.lockstepPartnerOutcome (.jobEnd st ord)) m m ∧
    Gives (.lockstepPartnerOutcome .reset) m (m.lockRefuse i stLsPartner)) ∧
  (∀ (m : Mach) (i st : Nat), m.lockRefuse i st =
    ({ m with anvil.lock.waiting := none } : Mach).finishSlot i st .fired (some (m.slot i).count) []) ∧
  ∀ (m : Mach) (st ord : Nat), m.anvil.lock.waiting = none →
    (m.anvil.lock.state ≠ .running → m.anvil.lock.state ≠ .searching → Gives (.lockstepPartnerOutcome (.jobEnd st ord)) m m) ∧
    (m.anvil.lock.state = .running ∨ m.anvil.lock.state = .searching →
      (st = stResumedNonrepro → Gives (.lockstepPartnerOutcome (.jobEnd st ord)) m (m.endSession stLsMismatch)) ∧
      ((st = stCancelled ∨ st = stTileLost ∨ st = stMemPoison ∨ st = stSaveCorrupt) →
        Gives (.lockstepPartnerOutcome (.jobEnd st ord)) m (m.endSession stLsPartner))) ∧
    (m.anvil.lock.state = .searching → st ≠ stResumedNonrepro → endsPartner st = false → Gives (.lockstepPartnerOutcome (.jobEnd st ord)) m m) ∧
    (m.anvil.lock.state = .running → st ≠ stResumedNonrepro → endsPartner st = false → ∃ w : Mach,
      w = { m with anvil.lock.theirEnd := some (st, ord) } ∧
      (m.anvil.lock.ownEnd = none → Gives (.lockstepPartnerOutcome (.jobEnd st ord)) m w) ∧
      (∀ a, m.anvil.lock.ownEnd = some a → a ≠ (st, ord) → Gives (.lockstepPartnerOutcome (.jobEnd st ord)) m (w.endSession stDiverged)) ∧
      (m.anvil.lock.ownEnd = some (st, ord) → st = stOk → Gives (.lockstepPartnerOutcome (.jobEnd st ord)) m (w.endSession stOk)) ∧
      (m.anvil.lock.ownEnd = some (st, ord) → st ≠ stOk → Gives (.lockstepPartnerOutcome (.jobEnd st ord)) m (w.take.2.endSession (w.take.1.toNat % 256))))

/-- The memory and temperature commands complete: errors are corrected or poison, counted; stacks leave and return; heat steps
and the thermal stop act. ECC_READ_ERROR and SCRUB_LINE act where a line is read with a check: the syndromes of its symbols
as read leave it, correct one symbol, written back and counted in its register and window, or find it uncorrectable, counted
with its SEVERE fault; the scrubber then rewrites it poisoned and counts a completed pass. Elsewhere nothing changes.
CE_WINDOW_END at a multiple of 6,000,000 F starts new windows with the configured threshold. STACK_OUT_OF_SERVICE of a stack
in service takes it out with a SEVERE fault; STACK_RETRAIN trains a stack that is out, one that was in service before after
6,000,000 F, which returns with nothing of its contents and an INFO fault; WATERMARK_ADVANCE only rises; STACK_HOT is noted.
THERMAL_STEP_CHANGE takes the next step, with a SEVERE fault at step 3; THERMAL_STOP at 115 °C stops the anvil, and ends
after 500,000 cool frames; COOLANT_INLET_LOW after 100 frames records once. Cites 07_anvil_architecture.md,
19_module_physical.md. -/
def Obligations.MemoryErrorsAndHeatAreHandled : Prop :=
  (∀ (m : Mach) (a : Nat) (es : List (Nat × Byte)), (m.lineHome (64 * (a / 64)) = none → Gives (.eccReadError a es) m m) ∧
    (m.scrubHome (64 * (a / 64)) = none → Gives (.scrubLine a es) m m)) ∧
  (∀ (m : Mach) (l off s : Nat), (m.space l = .sram off → m.lineHome l = some none ∧ m.scrubHome l = some none) ∧
    (m.space l = .stack s off →
      (m.lineHome l = some (some s) ↔ ((m.stackSt s).inService = true ∧ (off < (m.stackSt s).watermark ∨ l ∈ m.cleanLines))) ∧
      (m.scrubHome l = some (some s) ↔ ((m.stackSt s).inService = true ∧ off < (m.stackSt s).watermark)))) ∧
  (∀ (m : Mach) (a l : Nat) (h : Option Nat) (es : List (Nat × Byte)) (ys : List Byte), l = 64 * (a / 64) → m.lineHome l = some h →
    ys = m.symbolsRead l es →
    (findingOf (syndromes ys) = .good → Gives (.eccReadError a es) m m) ∧
    (∀ k d w, findingOf (syndromes ys) = .one k d → w = m.putSymbols l (addErrors ys [(k, d)]) →
      (∀ s, h = some s → Gives (.eccReadError a es) m
        (((w.eccLast l 1 k).bump (.avEccCeDram s) 31 0 1).setStack s (fun x => { x with winCe := x.winCe + 1 }))) ∧
      (h = none → ∃ v, v = (w.eccLast l 1 k).bump .avEccCeSram 31 0 1 ∧ Gives (.eccReadError a es) m
        { v with anvil.sliceCe := v.anvil.sliceCe.modify ((l - sramBase) / sliceBytes) (fun n => n + 1) })) ∧
    (findingOf (syndromes ys) = .bad → ∃ w v : Mach, w = { m with flawed := (l, m.flawOf l ++ es) :: m.flawed.filter (fun x => x.1 != l) } ∧
      v = ((w.eccLast l 2 255).bump .avEccUeCnt 15 0 1).raise (memFault h l).1 .severe (memFault h l).2 ∧
      Gives (.eccReadError a es) m (v.trainMeets l))) ∧
  (∀ (m : Mach) (a l : Nat) (h : Option Nat) (es : List (Nat × Byte)) (ys : List Byte), l = 64 * (a / 64) → m.scrubHome l = some h →
    ys = m.symbolsRead l es →
    (findingOf (syndromes ys) = .good → Gives (.scrubLine a es) m (m.scrubPass h l)) ∧
    (∀ k d, findingOf (syndromes ys) = .one k d → Gives (.scrubLine a es) m
      (((m.putSymbols l (addErrors ys [(k, d)])).countCorrected h l k).scrubPass h l)) ∧
    (findingOf (syndromes ys) = .bad → ∃ v : Mach,
      v = ((((m.putSymbols l ys).poisonLine l).eccLast l 3 255).bump .avEccUeCnt 15 0 1).raise (memFault h l).1 .severe (memFault h l).2 ∧
      Gives (.scrubLine a es) m ((v.trainMeets l).scrubPass h l))) ∧
  (∀ m : Mach, m.time.count % 6000000 ≠ 0 → Gives .ceWindowEnd m m) ∧
  (∀ m : Mach, m.time.count % 6000000 = 0 → (∀ i, i < 64 → m.anvil.sliceCe.getD i 0 < m.anvil.ceThresh) →
    (∀ s, s < 8 → (m.stackSt s).winCe < m.anvil.ceThresh) → Gives .ceWindowEnd m { m with
      anvil.sliceCe := List.replicate 64 0
      anvil.ceThresh := m.rdField .avEccCfg 31 16
      stks := m.stks.map (fun x => { x with winCe := 0 }) }) ∧
  (∀ m : Mach, m.time.count % 6000000 = 0 → ∃ k n : Mach, Gives .ceWindowEnd m n ∧
    k = (List.range 8).foldl (fun m' s => if m.anvil.ceThresh ≤ (m'.stackSt s).winCe then m'.raise (srcStack s) .corr 0 else m')
      ((List.range 64).foldl (fun m' i => if m.anvil.ceThresh ≤ m'.anvil.sliceCe.getD i 0 then
        m'.raise srcSram .corr (BitVec.ofNat 32 (i * sliceBytes / 64)) else m') m) ∧
    n.fault = k.fault ∧ n.regs = k.regs ∧ n.anvil.ceThresh = k.rdField .avEccCfg 31 16 ∧ n.anvil.sliceCe = List.replicate 64 0 ∧
    ∀ x, x ∈ n.stks → x.winCe = 0) ∧
  (∀ (m : Mach) (s : Nat) (h : Bool), ((m.stackSt s).inService = false → Gives (.stackOutOfService s h) m m) ∧
    ((m.stackSt s).inService = true → Gives (.stackOutOfService s h) m ((m.setStack s (fun x => { x with
      inService := false, trained := h, outBy := if h then 2 else 1, lastTry := m.time.count })).raise (srcStack s) .severe 0))) ∧
  (∀ (m : Mach) (s : Nat) (ok cool : Bool), (m.sys.stks.testBit s = false ∨ (m.stackSt s).inService = true) → Gives (.stackRetrain s ok cool) m m) ∧
  (∀ (m : Mach) (s : Nat) (cool : Bool), m.sys.stks.testBit s = true → (m.stackSt s).inService = false → (m.stackSt s).outBy = 0 →
    ((m.stackSt s).wasOut = false →
      Gives (.stackRetrain s true cool) m (m.setStack s (fun x => { x with trained := true, inService := true }))) ∧
    Gives (.stackRetrain s false cool) m ((m.setStack s (fun x => { x with outBy := 1, lastTry := m.time.count })).raise (srcStack s) .severe 0)) ∧
  (∀ (m : Mach) (s : Nat) (ok cool : Bool), m.sys.stks.testBit s = true → (m.stackSt s).inService = false → (m.stackSt s).outBy ≠ 0 →
    ((m.time.count < (m.stackSt s).lastTry + 6000000 ∨ ((m.stackSt s).outBy = 2 ∧ cool = false)) → Gives (.stackRetrain s ok cool) m m) ∧
    ((m.stackSt s).lastTry + 6000000 ≤ m.time.count → ((m.stackSt s).outBy = 2 → cool = true) →
      Gives (.stackRetrain s false cool) m (m.setStack s (fun x => { x with lastTry := m.time.count })))) ∧
  (∀ (m : Mach) (s : Nat) (cool : Bool) (f : Nat → Bool), m.sys.stks.testBit s = true → (m.stackSt s).inService = false →
    ((m.stackSt s).outBy = 0 → (m.stackSt s).wasOut = true) →
    ((m.stackSt s).outBy ≠ 0 → (m.stackSt s).lastTry + 6000000 ≤ m.time.count ∧ ((m.stackSt s).outBy = 2 → cool = true)) →
    (∀ l, f l = decide (l < dramBase + s * stackSize ∨ dramBase + s * stackSize + stackSize ≤ l)) →
    Gives (.stackRetrain s true cool) m ((({ m with
      poison := m.poison.filter f
      cleanLines := m.cleanLines.filter f
      flawed := m.flawed.filter (fun x => f x.1)
      fc.opt := if s = 0 then false else m.fc.opt } : Mach).setStack s
        (fun x => { x with inService := true, trained := true, outBy := 0, wasOut := false, returned := true, watermark := 0 })).raise
          (srcStack s) .info 0)) ∧
  (∀ (m : Mach) (s top : Nat), ((m.stackSt s).inService = true → (m.stackSt s).watermark < top → top ≤ stackSize → top % 64 = 0 →
      Gives (.watermarkAdvance s top) m (m.setStack s (fun x => { x with watermark := top }))) ∧
    ((m.stackSt s).inService = false ∨ top ≤ (m.stackSt s).watermark ∨ stackSize < top ∨ top % 64 ≠ 0 → Gives (.watermarkAdvance s top) m m)) ∧
  (∀ (m : Mach) (s : Nat) (h : Bool), (m.sys.stks.testBit s = true → Gives (.stackHot s h) m (m.setStack s (fun x => { x with hot := h }))) ∧
    (m.sys.stks.testBit s = false → Gives (.stackHot s h) m m)) ∧
  (∀ (m : Mach) (d s : Nat), d = m.phys.dieNext → s = max m.bel.snap.coolOwn d →
    (d = m.phys.dieStep → s = m.phys.modStep → Gives .thermalStepChange m m) ∧
    ((d ≠ m.phys.dieStep ∨ s ≠ m.phys.modStep) → (d ≠ 3 ∨ m.phys.dieStep = 3) →
      Gives .thermalStepChange m { m with phys := { m.phys with dieStep := d, modStep := s } }) ∧
    (d = 3 → m.phys.dieStep ≠ 3 → Gives .thermalStepChange m
      (({ m with phys := { m.phys with dieStep := d, modStep := s } } : Mach).raise srcThermal .severe (place m.bel.snap.coolantStep 0)))) ∧
  (∀ m : Mach, (m.phys.stopped = false → 1150 ≤ m.phys.die → Gives .thermalStop m
      { m.anvilOff with phys.stopped := true, phys.coolRun := 0, anvil.bist := false }) ∧
    (m.phys.stopped = true → 500000 ≤ m.phys.coolRun → Gives .thermalStop m { m with phys.stopped := false }) ∧
    ((m.phys.stopped = false → m.phys.die < 1150) → (m.phys.stopped = true → m.phys.coolRun < 500000) → Gives .thermalStop m m)) ∧
  ∀ m : Mach, (100 ≤ m.phys.inletLow → m.phys.inletFault = false → Gives .coolantInletLow m
      (({ m with phys.inletFault := true } : Mach).raise srcThermal .info (place m.bel.snap.coolantStep 0))) ∧
    ((m.phys.inletLow < 100 ∨ m.phys.inletFault = true) → Gives .coolantInletLow m m)

/-- Request lines rise once and are withdrawn with a loss; credit grows by rate up to its limit; start, disable and enable act
on a channel of the owner. DMA_REQUEST_LINE raises one of lines 0 to 5; a reserved line and one raised in this frame change
nothing, and a request that nothing acknowledged within 1 F is withdrawn, counted, before the new one rises.
DMA_REQUEST_WITHDRAW of an unacknowledged line 1 F old drops it and counts it in every bound channel. DMA_CREDIT_TICK adds
rate times 16 bytes to every running rate-limited channel, up to twice its burst, and touches nothing else. A start of an
enabled IDLE or HALTED channel loads the head and clears chain count and credit; of a RUNNING one it is discarded. A disable
drops everything but the address of the descriptor, its done, bad and chain counts left free. An enable makes a DISABLED
channel IDLE unless dma_en is 0. A class that does not own the channel gets the INFO fault only. Cites 15_dma.md. -/
def Obligations.DmaLinesCreditsAndChannelsAreControlled : Prop :=
  (∀ (m : Mach) (l : Nat), (6 ≤ l → Gives (.dmaRequestLine l) m m) ∧
    (l < 6 → (∃ x, x ∈ m.dma.lines ∧ x.line = l ∧ x.acked = []) →
      (∀ x, x ∈ m.dma.lines → x.line = l → x.acked = [] → m.time.count < x.since + 1) → Gives (.dmaRequestLine l) m m) ∧
    (l < 6 → (∃ x, x ∈ m.dma.lines ∧ x.line = l ∧ x.acked = [] ∧ x.since + 1 ≤ m.time.count) → ∃ w : Mach,
      w = ((List.range 32).filter (fun k => m.bound k l)).foldl (fun (x : Mach) k => x.bump (.dmChErr k) 23 16 1)
        ({ m with dma.lines := m.dma.lines.filter (fun x => x.line != l) } : Mach) ∧ w.dma.lines = m.dma.lines.filter (fun x => x.line != l) ∧
      Gives (.dmaRequestLine l) m { w with dma.lines := w.dma.lines ++ [⟨l, m.time.count, []⟩] }) ∧
    (l < 6 → (∀ x, x ∈ m.dma.lines → x.line = l → x.acked ≠ []) → Gives (.dmaRequestLine l) m
      { m with dma.lines := m.dma.lines.filter (fun x => x.line != l) ++ [⟨l, m.time.count, []⟩] })) ∧
  (∀ (m : Mach) (l : Nat), ((∃ x, x ∈ m.dma.lines ∧ x.line = l ∧ x.acked = [] ∧ x.since + 1 ≤ m.time.count) → Gives (.dmaRequestWithdraw l) m
      (((List.range 32).filter (fun k => m.bound k l)).foldl (fun (x : Mach) k => x.bump (.dmChErr k) 23 16 1)
        ({ m with dma.lines := m.dma.lines.filter (fun x => x.line != l) } : Mach))) ∧
    ((∀ x, x ∈ m.dma.lines → x.line = l → x.acked = [] → m.time.count < x.since + 1) → Gives (.dmaRequestWithdraw l) m m)) ∧
  (∀ m : Mach, ∃ n, Gives .dmaCreditTick m n ∧ n.regs = m.regs ∧ n.mem = m.mem ∧ ∀ c, c < 32 → n.ch c =
    if (m.ch c).state = 2 ∧ m.pacing c = 2 then { m.ch c with
      credit := min ((m.ch c).credit + m.rdField (.dmChCfg c) 11 0 * 16) (2 * m.burstMax c) } else m.ch c) ∧
  (∀ (m : Mach) (c : Cls) (n : Nat), m.lands c (.dmChCtrl n) true → chOwned c n = true →
    (((m.ch n).state = 1 ∨ (m.ch n).state = 3) → bit (m.rd (.dmChCtrl n)) 31 = true → m.en fnDma = true → Gives (.dmaChannelStart c n) m
      (((m.wr (.dmChCtrl n) 0x80000000).wr (.dmChChain n) 0).setCh n (fun x => { DmaCh.reset with
        state := 2
        cur := addr48 (m.rd (.dmChHeadLo n)) (m.rd (.dmChHeadHi n))
        next := addr48 (m.rd (.dmChHeadLo n)) (m.rd (.dmChHeadHi n))
        lastStatus := x.lastStatus }))) ∧
    ((m.ch n).state = 2 → Gives (.dmaChannelStart c n) m (m.wr (.dmChCtrl n) 0x80000000)) ∧
    ((m.ch n).state = 0 → m.en fnDma = true → Gives (.dmaChannelEnable c n) m
      ((m.wr (.dmChCtrl n) 0x80000000).setCh n (fun x => { x with state := 1 }))) ∧
    (((m.ch n).state ≠ 0 ∨ m.en fnDma = false) → Gives (.dmaChannelEnable c n) m (m.wr (.dmChCtrl n) 0x80000000)) ∧
    ((m.ch n).state = 0 → Gives (.dmaChannelDisable c n) m (m.wr (.dmChCtrl n) 0)) ∧
    ((m.ch n).state ≠ 0 → n < m.dma.chs.length → Regs.wf m.regs = true → ∃ k, Gives (.dmaChannelDisable c n) m k ∧
      k.ch n = { DmaCh.reset with cur := (m.ch n).cur, lastStatus := (m.ch n).lastStatus } ∧ k.mem = m.mem ∧ (∀ j, j ≠ n → k.ch j = m.ch j) ∧
      k.rd (.dmChDone n) = Config.freeWord m.free ∧ k.rd (.dmChBad n) = Config.freeWord (m.free + 1) ∧
      k.rd (.dmChChain n) = Config.freeWord (m.free + 2) ∧ k.rd (.dmChCtrl n) = 0)) ∧
  ∀ (m : Mach) (c : Cls) (n : Nat), m.lands c (.dmChCtrl n) true → chOwned c n = false →
    Gives (.dmaChannelStart c n) m (m.accessFault c (Reg.addr (.dmChCtrl n))) ∧
    Gives (.dmaChannelEnable c n) m (m.accessFault c (Reg.addr (.dmChCtrl n))) ∧
    Gives (.dmaChannelDisable c n) m (m.accessFault c (Reg.addr (.dmChCtrl n)))

/-- A descriptor is fetched once per chain step, its bursts move bytes, and it ends with its status written back; fences report
failed and late writes. DMA_DESCRIPTOR_FETCH of a running channel without a descriptor halts it at its chain limit or where
the fetch fails, and else takes the eight words, counts the chain and marks a bad form. DMA_BURST with no channel ready
changes nothing; a parity error marks the descriptor bad with 0x86; else the picked channel starts a burst, its line
acknowledged or its credit spent, or goes on with it, by beats: a beat reads up to a source line's end into the buffer, or
takes buffered bytes up to a destination line's end and writes the line, with free bytes where the ranges overlap as R459
forbids; the beats end with the burst, where another channel comes first, or on a failure. DMA_TARGET_TIMEOUT of a moving
descriptor marks it 0x82, a free value saying whether a write was lost; of a waiting fence it fails it. DMA_LATE_WRITE_ERROR
of a channel counts late_err with an INFO fault. DMA_DESCRIPTOR_DONE writes back a bad status, 0x85 for a list longer than
its length, starts the fence with its read-backs where one is asked, else writes 0x01. DMA_FENCE_DONE writes 0x02, or 0x82
after a failed write, and clears late_err. A write-back that fails halts the channel. Cites 15_dma.md. -/
def Obligations.DmaDescriptorsMoveAndEnd : Prop :=
  (∀ (m : Mach) (n : Nat) (d : List Byte), (32 ≤ n ∨ (m.ch n).state ≠ 2 ∨ (m.ch n).desc ≠ []) → Gives (.dmaDescriptorFetch n d) m m) ∧
  (∀ (m : Mach) (n : Nat) (d : List Byte), n < 32 → (m.ch n).state = 2 → (m.ch n).desc = [] →
    m.rdField (.dmChLimit n) 23 0 ≤ (m.rd (.dmChChain n)).toNat → Gives (.dmaDescriptorFetch n d) m (m.haltChannel n 1)) ∧
  (∀ (m : Mach) (n : Nat) (d : List Byte) (k : Mach), n < 32 → (m.ch n).state = 2 → (m.ch n).desc = [] →
    (m.rd (.dmChChain n)).toNat < m.rdField (.dmChLimit n) 23 0 → k = m.setCh n (fun c => { c with cur := c.next }) →
    (k.judge (chClass n) (m.ch n).next 32 false = .undecoded → Gives (.dmaDescriptorFetch n d) m (k.haltChannel n 2)) ∧
    (k.judge (chClass n) (m.ch n).next 32 false = .denied → Gives (.dmaDescriptorFetch n d) m
      ((k.deny (chClass n) (m.ch n).next false false).haltChannel n 2)) ∧
    (k.judge (chClass n) (m.ch n).next 32 false = .ok → (k.dmaRead n (m.ch n).next 32 d).status ≠ 0 → Gives (.dmaDescriptorFetch n d) m
      ((k.dmaRead n (m.ch n).next 32 d).m.haltChannel n 2)) ∧
    (k.judge (chClass n) (m.ch n).next 32 false = .ok → (k.dmaRead n (m.ch n).next 32 d).status = 0 → ∃ (w : List Word) (b v : Mach),
      w = bytesWords 8 (k.dmaRead n (m.ch n).next 32 d).bytes ∧ b = (k.dmaRead n (m.ch n).next 32 d).m.bump (.dmChChain n) 31 0 1 ∧
      v = ((b.descStatus n w).2.setCh n (fun c => { c with
        desc := w
        left := (wordAt w 1).toNat
        bad := 0
        fence := false
        srcAt := if bit (wordAt w 0) 4 then 0 else descSrc w
        srcLeft := if bit (wordAt w 0) 4 then 0 else (wordAt w 1).toNat
        srcIdx := 0
        dstAt := if bit (wordAt w 0) 5 then 0 else descDst w
        dstLeft := if bit (wordAt w 0) 5 then 0 else (wordAt w 1).toNat
        dstIdx := 0
        srcs := if bit (wordAt w 0) 4 then [] else [(descSrc w, (wordAt w 1).toNat)]
        dsts := if bit (wordAt w 0) 5 then [] else [(descDst w, (wordAt w 1).toNat)] })) ∧
      ((b.descStatus n w).1 = 0 → Gives (.dmaDescriptorFetch n d) m v) ∧
      ((b.descStatus n w).1 ≠ 0 → Gives (.dmaDescriptorFetch n d) m (v.markBad n (b.descStatus n w).1)))) ∧
  (∀ (m : Mach) (d : List Byte) (b : BurstIn), m.burstPick = none → Gives (.dmaBurst d b) m m) ∧
  (∀ (m : Mach) (d : List Byte) (n b : Nat) (w k : Mach), m.burstPick = some n →
    w = (if (m.ch n).inBurst = true then m else if m.pacing n = 1 then m.ackLine n else m) →
    k = (if (m.ch n).inBurst = true then m else { w.setCh n (fun c => { c with credit := c.credit - (if w.pacing n = 2 then m.burstLen n else 0), burst := m.burstLen n }) with dma.last := n }) →
    Gives (.dmaBurst d ⟨true, b⟩) m (k.markBad n 0x86) ∧ Gives (.dmaBurst d ⟨false, b⟩) m (Mach.beats n b k d)) ∧
  (∀ (m : Mach) (d : List Byte) (n f : Nat), Mach.beats n 0 m d = m ∧
    (((m.ch n).inBurst = false ∨ m.burstPick ≠ some n) → Mach.beats n (f + 1) m d = m) ∧
    (∀ (x : Moved) (w : Mach) (r : List Byte), (m.ch n).inBurst = true → m.burstPick = some n →
      (if (m.ch n).burst ≠ 0 then m.readBeat n d else m.writeBeat n d) = (x, w, r) →
      Mach.beats n (f + 1) m d = (match x with | .ok => Mach.beats n f w r | .bad st => w.markBad n st | .halt => w.haltChannel n 2))) ∧
  (∀ (m : Mach) (d : List Byte) (n k : Nat) (c : DmaCh) (io : DmaIo), c = m.ch n → c.srcLeft ≠ 0 →
    k = min c.burst (min c.srcLeft (64 - c.srcAt % 64)) → io = m.dmaRead n c.srcAt k d →
    (io.status ≠ 0 → m.readBeat n d = (.bad io.status, io.m, io.rest)) ∧
    (io.status = 0 → m.readBeat n d = (.ok, io.m.setCh n (fun c' => { c' with
      srcAt := c.srcAt + k, srcLeft := c.srcLeft - k, srcIdx := c.srcIdx, burst := c'.burst - k, buf := c'.buf ++ io.bytes }), io.rest))) ∧
  (∀ (m : Mach) (d : List Byte) (n k : Nat) (c : DmaCh) (w : Mach), c = m.ch n → c.dstLeft ≠ 0 →
    k = min c.buf.length (min c.dstLeft (64 - c.dstAt % 64)) → (c.line = [] ∨ c.dstAt = c.lineAt + c.line.length) →
    w = m.setCh n (fun c' => { c' with
      dstAt := c.dstAt + k, dstLeft := c.dstLeft - k, dstIdx := c.dstIdx, lineAt := if c.line.isEmpty then c.dstAt else c.lineAt, line := c.line ++ c.buf.take k, buf := c.buf.drop k }) →
    (((c.dstAt + k) % 64 = 0 ∨ c.left = c.line.length + k) → m.writeBeat n d = ((w.flushLine n).1, (w.flushLine n).2, d)) ∧
    ((c.dstAt + k) % 64 ≠ 0 → c.left ≠ c.line.length + k → m.writeBeat n d = (.ok, w, d))) ∧
  (∀ (m : Mach) (n : Nat) (c : DmaCh) (bs : List Byte) (w : Mach), c = m.ch n →
    w = (if c.overlapBad = true then ({ m with free := m.free + 1 } : Mach) else m).setCh n (fun c => { c with line := [] }) →
    (c.overlapBad = false → bs = c.line) → (c.overlapBad = true → bs = c.line.mapIdx (fun i _ => Config.overlapByte m.free (c.lineAt + i))) →
    ((w.dmaWrite n c.lineAt bs).2 = true → m.flushLine n =
      (.ok, ((w.dmaWrite n c.lineAt bs).1.setCh n (fun c => { c with left := c.left - bs.length })).noteTarget n c.lineAt)) ∧
    ((w.dmaWrite n c.lineAt bs).2 = false → m.flushLine n =
      (.bad 0x81, (w.dmaWrite n c.lineAt bs).1.setCh n (fun c => { c with failed := true })))) ∧
  (∀ (m : Mach) (n : Nat), ((m.ch n).moving = true → Gives (.dmaTargetTimeout n) m
      ((m.take.2.setCh n (fun c => { c with failed := c.failed || bit m.take.1 0 })).markBad n 0x82)) ∧
    ((m.ch n).moving = false → (m.ch n).state = 2 → (m.ch n).fence = true → Gives (.dmaTargetTimeout n) m
      (m.setCh n (fun c => { c with failed := true }))) ∧
    ((m.ch n).moving = false → ((m.ch n).state ≠ 2 ∨ (m.ch n).fence = false) → Gives (.dmaTargetTimeout n) m m)) ∧
  (∀ (m : Mach) (n : Nat), (n < 32 → Gives (.dmaLateWriteError n) m
      (((m.bump (.dmChErr n) 31 24 1).setCh n (fun c => { c with failed := true })).raise srcDma .info (place n 0))) ∧
    (32 ≤ n → Gives (.dmaLateWriteError n) m m)) ∧
  (∀ (m : Mach) (n : Nat), (32 ≤ n ∨ (m.ch n).state ≠ 2 ∨ (m.ch n).desc = [] ∨ (m.ch n).left ≠ 0 ∨ (m.ch n).fence = true) →
    Gives (.dmaDescriptorDone n) m m) ∧
  (∀ (m : Mach) (n : Nat), n < 32 → (m.ch n).state = 2 → (m.ch n).desc ≠ [] → (m.ch n).left = 0 → (m.ch n).fence = false →
    ((m.ch n).bad ≠ 0 → Gives (.dmaDescriptorDone n) m (m.writeBack n (m.ch n).bad)) ∧
    ((m.ch n).bad = 0 → (m.ch n).leftOver = true → Gives (.dmaDescriptorDone n) m ((m.markBad n 0x85).writeBack n 0x85)) ∧
    ((m.ch n).bad = 0 → (m.ch n).leftOver = false → bit (wordAt (m.ch n).desc 0) 7 = true →
      ∃ w, Gives (.dmaDescriptorDone n) m w ∧ (w.ch n).fence = true ∧
        (w.ch n).readBack = (m.ch n).hostLast.toList ++ (m.ch n).peerLast.map Prod.snd ∧ w.regs = m.regs ∧ w.mem = m.mem) ∧
    ((m.ch n).bad = 0 → (m.ch n).leftOver = false → bit (wordAt (m.ch n).desc 0) 7 = false →
      Gives (.dmaDescriptorDone n) m (m.writeBack n 0x01))) ∧
  (∀ (m : Mach) (n : Nat), (32 ≤ n ∨ (m.ch n).state ≠ 2 ∨ (m.ch n).fence = false) → Gives (.dmaFenceDone n) m m) ∧
  (∀ (m : Mach) (n : Nat) (w k : Mach), n < 32 → (m.ch n).state = 2 → (m.ch n).fence = true → w = m.setCh n (fun c => { c with readBack := [] }) →
    k = (w.markBad n 0x82).setCh n (fun c => { c with failed := false }) →
    ((m.ch n).failed = false → Gives (.dmaFenceDone n) m (w.writeBack n 0x02)) ∧
    ((m.ch n).failed = true → Gives (.dmaFenceDone n) m ((k.wr (.dmChErr n) (k.rd (.dmChErr n) &&& 0x00FFFFFF)).writeBack n 0x82))) ∧
  (∀ (m : Mach) (n st a : Nat), a = (m.ch n).cur + 3 →
    (m.judge (chClass n) a 1 true = .undecoded → m.writeBack n st = m.haltChannel n 3) ∧
    (m.judge (chClass n) a 1 true = .denied → m.writeBack n st = (m.deny (chClass n) a true false).haltChannel n 3) ∧
    (m.judge (chClass n) a 1 true = .ok → a < mailBase → m.writeBack n st = m.haltChannel n 3) ∧
    (m.judge (chClass n) a 1 true = .ok → regSize ≤ a → (m.dmaWrite n a [BitVec.ofNat 8 st]).2 = false →
      m.writeBack n st = (m.dmaWrite n a [BitVec.ofNat 8 st]).1.haltChannel n 3)) ∧
  ∀ (m : Mach) (n st a : Nat) (w v x : Mach), a = (m.ch n).cur + 3 → m.judge (chClass n) a 1 true = .ok →
    ((mailBase ≤ a ∧ a < regSize ∧ w = m.setByte a (BitVec.ofNat 8 st)) ∨ (regSize ≤ a ∧ m.dmaWrite n a [BitVec.ofNat 8 st] = (w, true))) →
    v = (if st < 0x80 then w.bump (.dmChDone n) 31 0 1 else w) →
    x = (if bit (wordAt (m.ch n).desc 0) 6 then (if n < 16 then v.msix (8 + n) else v.fwSignal (16 + n)) else v) →
    m.writeBack n st = x.setCh n (fun c => { c with
      desc := []
      lastStatus := st
      bad := 0
      fence := false
      next := descNext (m.ch n).desc
      state := if descNext (m.ch n).desc = 0 then 1 else 2 })

/-- A CXL.mem access goes through a committed decoder and the host windows; links come up and go down; decoders commit; the host
window carries requests. CXL_MEM_READ and CXL_MEM_WRITE change nothing with the link down; outside every committed decoder
they answer zeros as an unsupported request; a denied one is counted and answers poison, a denied write is dropped; a
permitted read answers the line with its poison; a write of a whole line clears its poison, and a part of a poisoned line is
dropped as an unsupported request. CXL_LINK_UP of a powered module in a legal mode brings the link up, with an INFO fault at
a lower rate or width than before. CXL_LINK_DOWN clears the link's state, decoders, MSI-X and SPDM connection, counted with
its CORR fault except on a hot reset. HDM_DECODER_COMMIT commits a decoder of one way whose range the device reports,
decoder 1 only with LPDDR5, and marks any other in error. HOST_WINDOW_ACCESS of an open window queues the request, and is
unsupported where the window is closed or unreached. Cites 16_cxl_and_memory.md. -/
def Obligations.TheCxlPortAnswersTheHost : Prop :=
  (∀ (m : Mach) (a : Nat) (bs : List (Option Byte)), (m.cxl.linkUp = false → Gives (.cxlMemRead a) m m ∧ Gives (.cxlMemWrite a bs) m m) ∧
    (m.cxl.linkUp = true → m.hdmAddr a = none → Gives (.cxlMemRead a) m (m.answer zeroLine false true) ∧
      Gives (.cxlMemWrite a bs) m (m.answer [] false true))) ∧
  (∀ (m : Mach) (a d l : Nat) (bs : List (Option Byte)), m.cxl.linkUp = true → m.hdmAddr a = some d → l = d / 64 * 64 →
    (m.judge .host l 64 false = .undecoded → Gives (.cxlMemRead a) m (m.answer zeroLine false true)) ∧
    (m.judge .host l 64 true = .undecoded → Gives (.cxlMemWrite a bs) m (m.answer [] false true)) ∧
    (m.judge .host l 64 false = .ok → m.sys.capValid = false → Gives (.cxlMemRead a) m ((m.deny .host l false true).answer zeroLine true false)) ∧
    (m.judge .host l 64 true = .ok → m.sys.capValid = false → Gives (.cxlMemWrite a bs) m ((m.deny .host l true true).answer [] false false))) ∧
  (∀ (m : Mach) (a d l : Nat), m.cxl.linkUp = true → m.hdmAddr a = some d → l = d / 64 * 64 →
    (m.judge .host l 64 false = .denied → Gives (.cxlMemRead a) m ((m.deny .host l false true).answer zeroLine true false)) ∧
    (m.judge .host l 64 false = .ok → m.sys.capValid = true → m.stackOut l = true → Gives (.cxlMemRead a) m (m.answer zeroLine true false)) ∧
    (m.judge .host l 64 false = .ok → m.sys.capValid = true → m.stackOut l = false →
      Gives (.cxlMemRead a) m ((m.checkRead l 64).answer (m.words l 16) (m.poisoned l) false))) ∧
  (∀ (m : Mach) (a d l : Nat) (bs : List (Option Byte)), m.cxl.linkUp = true → m.hdmAddr a = some d → l = d / 64 * 64 →
    (m.judge .host l 64 true = .denied → Gives (.cxlMemWrite a bs) m ((m.deny .host l true true).answer [] false false)) ∧
    (m.judge .host l 64 true = .ok → m.sys.capValid = true → m.stackOut l = true →
      Gives (.cxlMemWrite a bs) m ((m.bump .cxDenyCnt 31 24 1).answer [] false false)) ∧
    (m.judge .host l 64 true = .ok → m.sys.capValid = true → m.stackOut l = false →
      (bs.length = 64 → bs.all Option.isSome = true → Gives (.cxlMemWrite a bs) m
        (((m.setBytes l (mergeBytes (m.bytes l 64) bs)).cleanLine l).answer [] false false)) ∧
      ((bs.length ≠ 64 ∨ bs.all Option.isSome = false) → m.poisoned l = false → Gives (.cxlMemWrite a bs) m
        (((m.setBytes l (mergeBytes (m.bytes l 64) bs)).cleanLine l).answer [] false false)) ∧
      ((bs.length ≠ 64 ∨ bs.all Option.isSome = false) → m.poisoned l = true → Gives (.cxlMemWrite a bs) m ((m.checkRead l 64).answer [] false true)))) ∧
  (∀ (m : Mach) (s w : Nat) (f c e b : Bool) (x : Nat), (m.time.powered = false ∨ m.cxl.linkUp = true ∨ linkModeOk s w f = false) →
    Gives (.cxlLinkUp s w f c e b x) m m) ∧
  (∀ (m : Mach) (s w : Nat) (f c e b : Bool) (x : Nat) (k : Mach), m.time.powered = true → m.cxl.linkUp = false → linkModeOk s w f = true →
    k = { m with cxl.linkUp := true, cxl.speed := s, cxl.width := w, cxl.flit256 := f, cxl.cacheEn := c, cxl.memEn := e, cxl.bme := b, cxl.msixMask := x, cxl.wasRate := 16 * s + w } →
    ((m.cxl.wasRate = 0 ∨ (m.cxl.wasRate / 16 ≤ s ∧ m.cxl.wasRate % 16 ≤ w)) → Gives (.cxlLinkUp s w f c e b x) m k) ∧
    (m.cxl.wasRate ≠ 0 → (s < m.cxl.wasRate / 16 ∨ w < m.cxl.wasRate % 16) → Gives (.cxlLinkUp s w f c e b x) m
      ((k.bump .cxLinkErr 15 0 1).raise srcCxl .info 0))) ∧
  (∀ m : Mach, m.cxl.linkUp = false → Gives (.cxlLinkDown false) m m) ∧
  (∀ (m : Mach) (k : Mach), k = ({ m with cxl.linkUp := false, cxl.speed := 0, cxl.width := 0, cxl.flit256 := false, cxl.cacheEn := false, cxl.memEn := false, cxl.bme := false, cxl.dec0 := HdmDec.reset, cxl.dec1 := HdmDec.reset, cxl.msixMask := 0xFFFFFFFF, cxl.msixPend := 0, id.spdm := .start, id.vca := [], id.transcript := [], id.mTranscript := [] } : Mach).releaseRdown →
    Gives (.cxlLinkDown true) m k ∧
    (m.cxl.linkUp = true → Gives (.cxlLinkDown false) m ((k.bump .cxLinkErr 31 16 1).raise srcCxl .corr 0))) ∧
  (∀ (m : Mach) (hpa size skip ways : Nat), (ways = 1 → m.dpaOk skip size = true →
      Gives (.hdmDecoderCommit 0 hpa size skip ways) m { m with cxl.dec0 := ⟨true, false, hpa, size, skip⟩ }) ∧
    ((ways ≠ 1 ∨ m.dpaOk skip size = false) →
      Gives (.hdmDecoderCommit 0 hpa size skip ways) m { m with cxl.dec0 := ⟨false, true, hpa, size, skip⟩ }) ∧
    (∀ d, d = skip + (if m.cxl.dec0.committed then m.cxl.dec0.dpa + m.cxl.dec0.size else 0) →
      (ways = 1 → m.dpaOk d size = true → m.range2 ≠ 0 → Gives (.hdmDecoderCommit 1 hpa size skip ways) m { m with cxl.dec1 := ⟨true, false, hpa, size, d⟩ }) ∧
      ((ways ≠ 1 ∨ m.dpaOk d size = false ∨ m.range2 = 0) →
        Gives (.hdmDecoderCommit 1 hpa size skip ways) m { m with cxl.dec1 := ⟨false, true, hpa, size, d⟩ })) ∧
    (∀ i, 2 ≤ i → Gives (.hdmDecoderCommit i hpa size skip ways) m m)) ∧
  ∀ (m : Mach) (c : Cls) (a h : Nat) (w : Bool) (d : List Byte) (n : Nat),
    (m.judge c a d.length w = .undecoded → Gives (.hostWindowAccess c a w d n) m (m.answer [] false true)) ∧
    (m.judge c a d.length w = .denied → Gives (.hostWindowAccess c a w d n) m ((m.deny c a w (decide (c = .fw))).answer [] false true)) ∧
    (m.judge c a d.length w = .ok → m.space a = .host h →
      (m.hostOpen = false → Gives (.hostWindowAccess c a w d n) m (m.answer [] false true)) ∧
      (m.hostOpen = true → w = true → Gives (.hostWindowAccess c a w d n) m
        (({ m with cxl.hostReq := m.cxl.hostReq ++ [(true, h, d)] } : Mach).answer [] false false)) ∧
      (m.hostOpen = true → w = false → n = 0 → Gives (.hostWindowAccess c a w d n) m
        (({ m with cxl.hostReq := m.cxl.hostReq ++ [(false, h, [])] } : Mach).answer (bytesWords ((d.length + 3) / 4) d) false false)) ∧
      (m.hostOpen = true → w = false → n ≠ 0 → Gives (.hostWindowAccess c a w d n) m
        (({ m with cxl.hostReq := m.cxl.hostReq ++ [(false, h, [])] } : Mach).answer [] false true)))

/-- SPDM requests are answered in their order, GET_VERSION first; a wrong phase, version or parameter gives its error; without
power or link nothing answers. GET_VERSION of version 1.0 starts a connection and answers 1.2 and 1.3. GET_CAPABILITIES of
either version, next, takes it as the connection's; another phase gives UnexpectedRequest, another version VersionMismatch.
NEGOTIATE_ALGORITHMS with common algorithms opens the transcripts, and ends the connection without. GET_DIGESTS,
GET_CERTIFICATE, CHALLENGE and GET_MEASUREMENTS answer a negotiated connection in its version with the digest of the chain,
the part of it asked for, and the signed or unsigned records over a fresh nonce, extending or restarting their transcripts;
parameters out of range give InvalidRequest, and signatures and certificates without a certificate Unspecified. Any other
request gives UnsupportedRequest. The layouts are PRESUMED, log entry 20. Cites 17_identity_firmware.md. -/
def Obligations.SpdmAttestsTheModule : Prop :=
  (∀ (m : Mach) (r : SpdmReq) (code : Nat), (m.time.powered = false ∨ m.cxl.linkUp = false) → Gives (.getVersion r) m m ∧ Gives (.getCapabilities r) m m ∧
    Gives (.negotiateAlgorithms r) m m ∧ Gives (.getDigests r) m m ∧ Gives (.getCertificate r) m m ∧ Gives (.challenge r) m m ∧
    Gives (.getMeasurements r) m m ∧ Gives (.spdmUnsupportedRequest code r) m m) ∧
  (∀ (m : Mach) (r : SpdmReq), m.time.powered = true → m.cxl.linkUp = true →
    (r.version ≠ 0x10 → Gives (.getVersion r) m { m with id.response := spdmMsg 0x10 0x7F 0x41 0 [] }) ∧
    (r.version = 0x10 → ∃ resp, resp = spdmMsg 0x10 0x04 0 0 ([0, 2] ++ leBytes 2 0x1200 ++ leBytes 2 0x1300) ∧ Gives (.getVersion r) m
      { m with id.spdm := .version, id.vca := reqBytes r 0x84 ++ resp, id.transcript := [], id.mTranscript := [], id.response := resp }) ∧
    (m.id.spdm ≠ .version → Gives (.getCapabilities r) m { m with id.response := spdmMsg r.version 0x7F 0x04 0 [] }) ∧
    (m.id.spdm = .version → r.version ≠ 0x12 → r.version ≠ 0x13 → Gives (.getCapabilities r) m { m with id.response := spdmMsg 0x10 0x7F 0x41 0 [] }) ∧
    (m.id.spdm = .version → (r.version = 0x12 ∨ r.version = 0x13) → ∃ resp,
      resp = spdmMsg r.version 0x61 0 0 ([0, 17] ++ leBytes 2 0 ++ leBytes 4 0x16 ++ Config.spdmSizes) ∧ Gives (.getCapabilities r) m
        { m with id.spdm := .capabilities, id.spdmVer := r.version, id.vca := m.id.vca ++ reqBytes r 0xE1 ++ resp, id.response := resp }) ∧
    (m.id.spdm ≠ .capabilities → Gives (.negotiateAlgorithms r) m { m with id.response := spdmMsg r.version 0x7F 0x04 0 [] }) ∧
    (m.id.spdm = .capabilities → r.version = m.id.spdmVer → algorithmsCommon r.body = false → Gives (.negotiateAlgorithms r) m
      { m with id.response := spdmMsg r.version 0x7F 0x07 0xE3 [], id.spdm := .start, id.vca := [], id.transcript := [], id.mTranscript := [] }) ∧
    (m.id.spdm = .capabilities → r.version = m.id.spdmVer → algorithmsCommon r.body = true → ∃ n, Gives (.negotiateAlgorithms r) m n ∧
      n.id.spdm = .negotiated ∧ n.id.vca = m.id.vca ++ reqBytes r 0xE3 ++ n.id.response ∧ n.id.transcript = n.id.vca ∧
      n.id.mTranscript = n.id.vca ∧ n.mem = m.mem ∧ n.regs = m.regs)) ∧
  (∀ (m : Mach) (r : SpdmReq), m.time.powered = true → m.cxl.linkUp = true → m.id.spdm ≠ .negotiated → ∃ n,
    n = { m with id.response := spdmMsg r.version 0x7F 0x04 0 [] } ∧ Gives (.getDigests r) m n ∧ Gives (.getCertificate r) m n ∧
    Gives (.challenge r) m n ∧ Gives (.getMeasurements r) m n) ∧
  (∀ (m : Mach) (r : SpdmReq), m.time.powered = true → m.cxl.linkUp = true → m.id.spdm = .negotiated → r.version ≠ m.id.spdmVer → ∃ n,
    n = { m with id.response := spdmMsg r.version 0x7F 0x41 0 [] } ∧ Gives (.getDigests r) m n ∧ Gives (.getCertificate r) m n ∧
    Gives (.challenge r) m n ∧ Gives (.getMeasurements r) m n) ∧
  (∀ (m : Mach) (r : SpdmReq), m.time.powered = true → m.cxl.linkUp = true → m.id.spdm = .negotiated → r.version = m.id.spdmVer →
    (∃ resp, resp = spdmMsg r.version 0x01 0 1 (sha3_256 m.chain) ∧ Gives (.getDigests r) m
      { m with id.transcript := m.id.transcript ++ reqBytes r 0x81 ++ resp, id.response := resp }) ∧
    (m.id.certOk = false → Gives (.getCertificate r) m { m with id.response := spdmMsg r.version 0x7F 0x05 0 [] } ∧
      Gives (.challenge r) m { m with id.response := spdmMsg r.version 0x7F 0x05 0 [] }) ∧
    (m.id.certOk = true → (r.param1 ≠ 0 ∨ m.chain.length ≤ leNat (r.body.take 2)) →
      Gives (.getCertificate r) m { m with id.response := spdmMsg r.version 0x7F 0x01 0 [] }) ∧
    (m.id.certOk = true → r.param1 = 0 → leNat (r.body.take 2) < m.chain.length → ∃ part resp,
      part = (m.chain.drop (leNat (r.body.take 2))).take (leNat ((r.body.drop 2).take 2)) ∧
      resp = spdmMsg r.version 0x02 0 0 (leBytes 2 part.length ++ leBytes 2 (m.chain.length - leNat (r.body.take 2) - part.length) ++ part) ∧
      Gives (.getCertificate r) m { m with id.transcript := m.id.transcript ++ reqBytes r 0x82 ++ resp, id.response := resp }) ∧
    (m.id.certOk = true → r.param1 = 0 → ∃ body n sig, body = spdmMsg r.version 0x03 0 1 (sha3_256 (m.nonce 8).2.chain ++ (m.nonce 8).1 ++
        (if r.param2 = 0 then [] else sha3_256 ((m.nonce 8).2.measBlocks (if r.param2 = 1 then [1, 2] else [1, 2, 3, 4, 5, 6, 7]))) ++
        leBytes 2 0 ++ reqContext r 32) ∧
      sig = (m.nonce 8).2.spdmSign r.version "responder-challenge_auth signing" ((m.nonce 8).2.id.transcript ++ reqBytes r 0x83 ++ body) ∧
      n = { (m.nonce 8).2 with id.transcript := (m.nonce 8).2.id.vca, id.response := body ++ sig } ∧ Gives (.challenge r) m n) ∧
    (m.id.certOk = true → r.param1 ≠ 0 → Gives (.challenge r) m { m with id.response := spdmMsg r.version 0x7F 0x01 0 [] }) ∧
    (r.param1 % 2 = 1 → m.id.certOk = false → Gives (.getMeasurements r) m { m with id.response := spdmMsg r.version 0x7F 0x05 0 [] }) ∧
    ((r.param1 % 2 = 1 → m.id.certOk = true) → r.param2 ≠ 0 → r.param2 ≠ 255 → (m.measurement r.param2).isNone = true →
      Gives (.getMeasurements r) m { m with id.response := spdmMsg r.version 0x7F 0x01 0 [] }) ∧
    (∀ is : List Nat, ((r.param2 = 0 ∧ is = []) ∨ (r.param2 = 255 ∧ is = [1, 2, 3, 4, 5, 6, 7]) ∨
        (r.param2 ≠ 0 ∧ r.param2 ≠ 255 ∧ is = [r.param2] ∧ (m.measurement r.param2).isSome = true)) →
      ∃ (w : Mach) (rec body sig : List Byte), w = (m.nonce 8).2 ∧ rec = w.measBlocks is ∧
      body = spdmMsg r.version 0x60 (if r.param2 = 0 then 7 else 0) 0 (leBytes 1 is.length ++ leBytes 3 rec.length ++ rec ++ (m.nonce 8).1 ++
        leBytes 2 0 ++ reqContext r (if r.param1 % 2 = 1 then 33 else 0)) ∧
      sig = w.spdmSign r.version "responder-measurements signing" (w.id.mTranscript ++ reqBytes r 0xE0 ++ body) ∧
      (r.param1 % 2 = 0 → Gives (.getMeasurements r) m
        { w with id.mTranscript := w.id.mTranscript ++ reqBytes r 0xE0 ++ body, id.response := body }) ∧
      (r.param1 % 2 = 1 → m.id.certOk = true → Gives (.getMeasurements r) m
        { w with id.mTranscript := w.id.vca, id.response := body ++ sig }))) ∧
  ∀ (m : Mach) (r : SpdmReq) (code : Nat), m.time.powered = true → m.cxl.linkUp = true → code ∉ [0x81, 0x82, 0x83, 0x84, 0xE0, 0xE1, 0xE3] →
    Gives (.spdmUnsupportedRequest code r) m { m with id.response := spdmMsg r.version 0x7F 0x07 code [] }

/-- Update actions are refused to FW and PEER, while busy, without a key or in a wrong state; else they act and report; the
recorder stores, freezes and thaws. STAGE, COMMIT, DISCARD, TOKEN and END_TEST of FW or PEER change nothing but the INFO
fault; while a copy runs they report ST_UPD_BUSY; without a key ST_UPD_KEY. STAGE of a region the host may read starts the
copy with the inactive slot empty; STAGE_DONE reports STAGED or FAILED. COMMIT ends each trial, raising its floor, with a
record for each kind; DISCARD empties the staged slot; TOKEN starts factory test of a module out of service; END_TEST ends
it; each reports ST_BAD_STATE where there is nothing to act on; each end writes its FIRMWARE record. EVENT_RECORD_STORE
stores the oldest queued record of a mounted, unfrozen recorder and raises line 5. FREEZE_EFFECT freezes once pending, at a
frame after the write; AUTO_THAW after 1,000,000 idle frames thaws with an INFO fault; FLASH_WRITE_FAIL retires a block,
counted, with its faults. Cites 17_identity_firmware.md, 18_bringup_recorder.md. -/
def Obligations.FirmwareUpdatesAndTheRecorderFollowTheirRules : Prop :=
  (∀ (m : Mach) (c : Cls), m.lands c .idUpdCtrl true → (c = .fw ∨ c = .peer) → ∃ n, n = m.accessFault c (Reg.addr .idUpdCtrl) ∧
    Gives (.stage c) m n ∧ Gives (.updCommit c) m n ∧ Gives (.discard c) m n ∧ Gives (.token c) m n ∧ Gives (.endTest c) m n) ∧
  (∀ (m : Mach) (c : Cls), m.lands c .idUpdCtrl true → (c = .host ∨ c = .tk) → m.id.updState = 1 → ∃ n, n = { m with id.updStatus := stUpdBusy } ∧
    Gives (.stage c) m n ∧ Gives (.updCommit c) m n ∧ Gives (.discard c) m n ∧ Gives (.token c) m n ∧ Gives (.endTest c) m n) ∧
  (∀ (m : Mach) (c : Cls), m.lands c .idUpdCtrl true → (c = .host ∨ c = .tk) → m.id.updState ≠ 1 → m.id.pufOk = false →
    Gives (.stage c) m (m.updEnds 3 stUpdKey) ∧ ∃ n, n = m.updEnds m.id.updState stUpdKey ∧
    Gives (.updCommit c) m n ∧ Gives (.discard c) m n ∧ Gives (.token c) m n ∧ Gives (.endTest c) m n) ∧
  (∀ (m : Mach) (c : Cls), m.lands c .idUpdCtrl true → (c = .host ∨ c = .tk) → m.id.updState ≠ 1 → m.id.pufOk = true →
    (∀ k, m.imageKind m.updAddr = some k → (m.slots2 k).trial = true → Gives (.stage c) m (m.updEnds 3 stBadState)) ∧
    (∀ k, m.imageKind m.updAddr = some k → (m.slots2 k).trial = false → m.judge .host m.updAddr (m.rd .idUpdLen).toNat false = .denied →
      Gives (.stage c) m ((m.deny .host m.updAddr false false).updEnds 3 stRegion)) ∧
    (∀ k w, m.imageKind m.updAddr = some k → (m.slots2 k).trial = false → m.judge .host m.updAddr (m.rd .idUpdLen).toNat false = .ok →
      w = m.setSlots2 k { (m.slots2 k).put (!(m.slots2 k).runSlot) none with staged := false } →
      Gives (.stage c) m { w with id.job := some ⟨m.updAddr, (m.rd .idUpdLen).toNat⟩, id.updState := 1, id.updKind := k }) ∧
    ((∀ k, m.imageKind m.updAddr = some k → (m.slots2 k).trial = false) → m.judge .host m.updAddr (m.rd .idUpdLen).toNat false = .undecoded →
      Gives (.stage c) m (m.updEnds 3 stRegion)) ∧
    (m.imageKind m.updAddr = none → m.judge .host m.updAddr (m.rd .idUpdLen).toNat false = .denied →
      Gives (.stage c) m ((m.deny .host m.updAddr false false).updEnds 3 stRegion)) ∧
    (m.imageKind m.updAddr = none → m.judge .host m.updAddr (m.rd .idUpdLen).toNat false = .ok →
      Gives (.stage c) m { m with id.job := some ⟨m.updAddr, (m.rd .idUpdLen).toNat⟩, id.updState := 1, id.updKind := false }) ∧
    (m.id.tk.trial = false → m.id.app.trial = false → Gives (.updCommit c) m (m.updEnds m.id.updState stBadState)) ∧
    ((m.id.tk.trial = true ∨ m.id.app.trial = true) → ∃ (k a b : Mach),
      k = ({ m with id.tk := m.id.tk.commit, id.app := m.id.app.commit } : Mach).updReport m.id.updState stOk ∧
      a = (if m.id.tk.trial = true then k.fwRecord false m.id.tk.runSlot ((m.id.tk.running.map Image.version).getD 0) stOk else k) ∧
      b = (if m.id.app.trial = true then a.fwRecord true m.id.app.runSlot ((m.id.app.running.map Image.version).getD 0) stOk else a) ∧
      Gives (.updCommit c) m b) ∧
    (m.anyStaged = false → Gives (.discard c) m (m.updEnds m.id.updState stBadState)) ∧
    (m.anyStaged = true → ∃ (k : Bool) (p : SlotPair), k = (if (m.slots2 m.id.updKind).staged then m.id.updKind else !m.id.updKind) ∧
      p = m.slots2 k ∧ Gives (.discard c) m (((m.setSlots2 k { p.put (!p.runSlot) none with staged := false }).updReport 0 stOk).fwRecord k
        (!p.runSlot) (((p.at (!p.runSlot)).map Image.version).getD 0) stOk)) ∧
    (m.tokenOk = false → Gives (.token c) m ((m.checkRead m.updAddr 2452).updEnds m.id.updState stUpdSig)) ∧
    (m.tokenOk = true → m.outOfService = false → Gives (.token c) m ((m.checkRead m.updAddr 2452).updEnds m.id.updState stBadState)) ∧
    (m.tokenOk = true → m.outOfService = true → Gives (.token c) m (({ m.checkRead m.updAddr 2452 with fault.testMode := true } : Mach).updEnds m.id.updState stOk)) ∧
    (m.fault.testMode = false → Gives (.endTest c) m (m.updEnds m.id.updState stBadState)) ∧
    (m.fault.testMode = true → Gives (.endTest c) m (m.endTestMode.updEnds m.id.updState stOk))) ∧
  (∀ (m : Mach) (state status : Nat), m.updEnds state status = (m.updReport state status).fwRecord m.id.updKind false 0 status) ∧
  (∀ p : SlotPair, (p.trial = false → p.commit = p) ∧
    (p.trial = true → p.commit = { p with trial := false, floor := max p.floor ((p.running.map Image.svn).getD 0) })) ∧
  (∀ m : Mach, m.id.job = none → Gives .stageDone m m) ∧
  (∀ (m : Mach) (j : StageJob) (k : Mach), m.id.job = some j → k = { m.checkRead j.addr j.len with id.job := none } →
    (∀ st, k.verifyImage (m.cleanBytes j.addr j.len) j.len = .error st → Gives .stageDone m (k.updEnds 3 st)) ∧
    (∀ app img, k.verifyImage (m.cleanBytes j.addr j.len) j.len = .ok (app, img) → ∃ w : Mach,
      w = k.setSlots2 app { (k.slots2 app).put (!(k.slots2 app).runSlot) (some img) with staged := true } ∧
      Gives .stageDone m ((({ w with id.updKind := app } : Mach).updReport 2 stOk).fwRecord app (!(k.slots2 app).runSlot) img.version stOk))) ∧
  (∀ m : Mach, (m.ev.mounted = false ∨ m.ev.frozen = true ∨ m.ev.queue = []) → Gives .eventRecordStore m m) ∧
  (∀ (m : Mach) (r : EvRec) (rs : List EvRec), m.ev.mounted = true → m.ev.frozen = false → m.ev.queue = r :: rs → Gives .eventRecordStore m
    (({ m with
      ev.queue := rs
      ev.stored := ⟨m.ev.nextSeq, r⟩ :: keepStored (m.areaBytes - r.length) 1048575 m.ev.stored
      ev.nextSeq := (m.ev.nextSeq + 1) % 4294967296 } : Mach).reqLine 5)) ∧
  (∀ m : Mach, ((m.ev.freezePending = false ∨ m.ev.freezeNew = true) → Gives .freezeEffect m m) ∧ (m.ev.freezePending = true → m.ev.freezeNew = false → Gives .freezeEffect m
    { m with ev.freezePending := false, ev.frozen := true, ev.freezeStart := m.time.count, ev.idle := 0, ev.lostInFreeze := 0 })) ∧
  (∀ m : Mach, ((m.ev.frozen = false ∨ m.ev.idle < 1000000) → Gives .autoThaw m m) ∧
    (m.ev.frozen = true → 1000000 ≤ m.ev.idle → Gives .autoThaw m (m.thaw.raise srcRecorder .info 3))) ∧
  ∀ m k : Mach, k = ({ m with ev.retired := m.ev.retired + 1 } : Mach).raise srcRecorder .corr 1 →
    ((k.ev.retired * 20 ≤ Config.flashBlocks + 1 ∨ k.ev.retiredFault = true) → Gives .flashWriteFail m k) ∧
    (Config.flashBlocks + 1 < k.ev.retired * 20 → k.ev.retiredFault = false → Gives .flashWriteFail m
      (({ k with ev.retiredFault := true } : Mach).raise srcRecorder .severe 2))
end

