-- ==== Sys2Proof/Laws/Exec.lean ====
section
/-! SUPPORT. What every arm of `exec` is: the module changed by one function, the queue kept. One lemma for each command, true by
`rfl`, and what follows for all of them. -/

namespace Sys2Proof.Machine

@[simp] theorem exec_powerGood (p : PowerInputs) (s : State) : exec (.powerGood p) s =
    s.on (fun m => m.powerUp p) := rfl

@[simp] theorem exec_recorderMount (ok : Bool) (s : State) : exec (.recorderMount ok) s =
    s.on (fun m => m.mountRecorder ok) := rfl

@[simp] theorem exec_bringupLoad (s : State) : exec .bringupLoad s =
    s.on Mach.bringupLoad := rfl

@[simp] theorem exec_bringupLoadTimeout (s : State) : exec .bringupLoadTimeout s =
    s.on Mach.bringupTimeout := rfl

@[simp] theorem exec_configSave (s : State) : exec .configSave s =
    s.on Mach.saveConfig := rfl

@[simp] theorem exec_tileSelfTest (failed : Nat) (s : State) : exec (.tileSelfTest failed) s =
    s.on (fun m => m.tileSelfTest failed) := rfl

@[simp] theorem exec_builtinPackageLoad (s : State) : exec .builtinPackageLoad s =
    s.on Mach.loadBuiltin := rfl

@[simp] theorem exec_readinessLimitFault (n : Nat) (s : State) : exec (.readinessLimitFault n) s =
    s.on (fun m => m.readinessLimit n) := rfl

@[simp] theorem exec_strike (f : FrameIn) (s : State) : exec (.strike f) s =
    s.on (fun m => m.strike f) := rfl

@[simp] theorem exec_setpointMissingFault (s : State) : exec .setpointMissingFault s =
    s.on Mach.setpointMissing := rfl

@[simp] theorem exec_cellLimitsStaleFault (s : State) : exec .cellLimitsStaleFault s =
    s.on Mach.limitsFault := rfl

@[simp] theorem exec_brakeHoldFault (s : State) : exec .brakeHoldFault s =
    s.on Mach.brakeHoldFault := rfl

@[simp] theorem exec_capMessageSend (s : State) : exec .capMessageSend s =
    s.on Mach.sendCaps := rfl

@[simp] theorem exec_capMessageRepeat (s : State) : exec .capMessageRepeat s =
    s.on Mach.repeatCaps := rfl

@[simp] theorem exec_trayReport (tray cap draw release : Nat) (s : State) : exec (.trayReport tray cap draw release) s =
    s.on (fun m => m.trayReport tray cap draw release) := rfl

@[simp] theorem exec_trayReportMissed (tray : Nat) (s : State) : exec (.trayReportMissed tray) s =
    s.on (fun m => m.trayMissed tray) := rfl

@[simp] theorem exec_coolantStepChange (s : State) : exec .coolantStepChange s =
    s.on Mach.coolantChange := rfl

@[simp] theorem exec_coolantStep3Fault (s : State) : exec .coolantStep3Fault s =
    s.on Mach.coolantStep3 := rfl

@[simp] theorem exec_gridScheduleStep (s : State) : exec .gridScheduleStep s =
    s.on Mach.schedStep := rfl

@[simp] theorem exec_swapHoldTimeout (k j : Nat) (s : State) : exec (.swapHoldTimeout k j) s =
    s.on (fun m => m.holdTimeout k j) := rfl

@[simp] theorem exec_bridgeFade (k : Nat) (s : State) : exec (.bridgeFade k) s =
    s.on (fun m => m.bridgeFade k) := rfl

@[simp] theorem exec_loopStop (k : Nat) (s : State) : exec (.loopStop k) s =
    s.on (fun m => m.stopLoop k) := rfl

@[simp] theorem exec_followingErrorFault (k : Nat) (s : State) : exec (.followingErrorFault k) s =
    s.on (fun m => m.followingFault k) := rfl

@[simp] theorem exec_stageFeedbackFrame (n : Nat) (f : FeedbackIn) (s : State) : exec (.stageFeedbackFrame n f) s =
    s.on (fun m => m.feedback n f) := rfl

@[simp] theorem exec_stageLinkLock (n : Nat) (s : State) : exec (.stageLinkLock n) s =
    s.on (fun m => m.linkLock n) := rfl

@[simp] theorem exec_stageLinkLockLoss (n : Nat) (s : State) : exec (.stageLinkLockLoss n) s =
    s.on (fun m => m.linkLoss n) := rfl

@[simp] theorem exec_stageLinkMissFault (n : Nat) (s : State) : exec (.stageLinkMissFault n) s =
    s.on (fun m => m.linkMissFault n) := rfl

@[simp] theorem exec_outputLateFault (n : Nat) (s : State) : exec (.outputLateFault n) s =
    s.on (fun m => m.outputLateFault n) := rfl

@[simp] theorem exec_commitValidation (s : State) : exec .commitValidation s =
    s.on Mach.commitWindow := rfl

@[simp] theorem exec_commitApply (s : State) : exec .commitApply s =
    s.on (fun m => m.applyCommit.readiness) := rfl

@[simp] theorem exec_loopTestPhase (s : State) : exec .loopTestPhase s =
    s.on Mach.testPhase := rfl

@[simp] theorem exec_loopTestAbort (s : State) : exec .loopTestAbort s =
    s.on Mach.testAbortNow := rfl

@[simp] theorem exec_launchRevalidate (s : State) : exec .launchRevalidate s =
    s.on Mach.revalidate := rfl

@[simp] theorem exec_transactionTimeout (s : State) : exec .transactionTimeout s =
    s.on Mach.txnTimeout := rfl

@[simp] theorem exec_setPoint (p : Packet) (s : State) : exec (.setPoint p) s =
    s.on (fun m => m.servePacket ocSetPoint p) := rfl

@[simp] theorem exec_setCap (p : Packet) (s : State) : exec (.setCap p) s =
    s.on (fun m => m.servePacket ocSetCap p) := rfl

@[simp] theorem exec_launchArm (p : Packet) (s : State) : exec (.launchArm p) s =
    s.on (fun m => m.servePacket ocLaunchArm p) := rfl

@[simp] theorem exec_launchDisarm (p : Packet) (s : State) : exec (.launchDisarm p) s =
    s.on (fun m => m.servePacket ocLaunchDisarm p) := rfl

@[simp] theorem exec_cfgBegin (p : Packet) (s : State) : exec (.cfgBegin p) s =
    s.on (fun m => m.servePacket ocCfgBegin p) := rfl

@[simp] theorem exec_cfgCommit (p : Packet) (s : State) : exec (.cfgCommit p) s =
    s.on (fun m => m.servePacket ocCfgCommit p) := rfl

@[simp] theorem exec_cfgRollback (p : Packet) (s : State) : exec (.cfgRollback p) s =
    s.on (fun m => m.servePacket ocCfgRollback p) := rfl

@[simp] theorem exec_opSuspend (p : Packet) (s : State) : exec (.opSuspend p) s =
    s.on (fun m => m.servePacket ocOpSuspend p) := rfl

@[simp] theorem exec_opResume (p : Packet) (s : State) : exec (.opResume p) s =
    s.on (fun m => m.servePacket ocOpResume p) := rfl

@[simp] theorem exec_opCancel (p : Packet) (s : State) : exec (.opCancel p) s =
    s.on (fun m => m.servePacket ocOpCancel p) := rfl

@[simp] theorem exec_opQuery (p : Packet) (s : State) : exec (.opQuery p) s =
    s.on (fun m => m.servePacket ocOpQuery p) := rfl

@[simp] theorem exec_safePointReached (op : Nat) (s : State) : exec (.safePointReached op) s =
    s.on (fun m => m.safePoint op) := rfl

@[simp] theorem exec_avJobSubmit (p : Packet) (s : State) : exec (.avJobSubmit p) s =
    s.on (fun m => m.servePacket ocAvJobSubmit p) := rfl

@[simp] theorem exec_modelLoad (p : Packet) (s : State) : exec (.modelLoad p) s =
    s.on (fun m => m.servePacket ocModelLoad p) := rfl

@[simp] theorem exec_modelLoadBlock (bank : Nat) (s : State) : exec (.modelLoadBlock bank) s =
    s.on (fun m => m.loadBlock bank) := rfl

@[simp] theorem exec_trainRun (p : Packet) (s : State) : exec (.trainRun p) s =
    s.on (fun m => m.servePacket ocTrainRun p) := rfl

@[simp] theorem exec_autoTrainRun (s : State) : exec .autoTrainRun s =
    s.on Mach.autoTrain := rfl

@[simp] theorem exec_capacitySweep (p : Packet) (s : State) : exec (.capacitySweep p) s =
    s.on (fun m => m.servePacket ocCapacitySweep p) := rfl

@[simp] theorem exec_balanceCampaign (p : Packet) (s : State) : exec (.balanceCampaign p) s =
    s.on (fun m => m.servePacket ocBalanceCampaign p) := rfl

@[simp] theorem exec_sliceReplace (p : Packet) (s : State) : exec (.sliceReplace p) s =
    s.on (fun m => m.servePacket ocSliceReplace p) := rfl

@[simp] theorem exec_quench (p : Packet) (s : State) : exec (.quench p) s =
    s.on (fun m => m.servePacket ocQuench p) := rfl

@[simp] theorem exec_faultRead (p : Packet) (s : State) : exec (.faultRead p) s =
    s.on (fun m => m.servePacket ocFaultRead p) := rfl

@[simp] theorem exec_recFreeze (p : Packet) (s : State) : exec (.recFreeze p) s =
    s.on (fun m => m.servePacket ocRecFreeze (fixW4 p true)) := rfl

@[simp] theorem exec_recThaw (p : Packet) (s : State) : exec (.recThaw p) s =
    s.on (fun m => m.servePacket ocRecFreeze (fixW4 p false)) := rfl

@[simp] theorem exec_recRead (p : Packet) (s : State) : exec (.recRead p) s =
    s.on (fun m => m.servePacket ocRecRead p) := rfl

@[simp] theorem exec_claimRelease (p : Packet) (s : State) : exec (.claimRelease p) s =
    s.on (fun m => m.servePacket ocClaimRelease p) := rfl

@[simp] theorem exec_getIdentity (p : Packet) (s : State) : exec (.getIdentity p) s =
    s.on (fun m => m.servePacket ocGetIdentity p) := rfl

@[simp] theorem exec_applicationReset (p : Packet) (s : State) : exec (.applicationReset p) s =
    s.on (fun m => m.servePacket ocModuleReset (fixW4 p false)) := rfl

@[simp] theorem exec_fullReset (p : Packet) (s : State) : exec (.fullReset p) s =
    s.on (fun m => m.servePacket ocModuleReset (fixW4 p true)) := rfl

@[simp] theorem exec_resetExecute (s : State) : exec .resetExecute s =
    s.on Mach.resetExecute := rfl

@[simp] theorem exec_badOpcodePacket (op : Nat) (p : Packet) (s : State) : exec (.badOpcodePacket op p) s =
    s.on (fun m => if knownOp (op % 256) && !(isIsland p.ring && !islandOp (op % 256)) then m else m.servePacket op p) := rfl

@[simp] theorem exec_ringDoorbell (c : Cls) (n : Nat) (v : Word) (s : State) : exec (.ringDoorbell c n v) s =
    s.on (fun m => m.writeNamed c (.cxCmdTail n) v) := rfl

@[simp] theorem exec_ringEnable (c : Cls) (n : Nat) (v : Word) (s : State) : exec (.ringEnable c n v) s =
    s.on (fun m => m.writeNamed c (.cxCmdCtrl n) (setBit v 31)) := rfl

@[simp] theorem exec_ringDisable (c : Cls) (n : Nat) (v : Word) (s : State) : exec (.ringDisable c n v) s =
    s.on (fun m => m.writeNamed c (.cxCmdCtrl n) (clearBit v 31)) := rfl

@[simp] theorem exec_statusHeadWrite (c : Cls) (n : Nat) (v : Word) (s : State) : exec (.statusHeadWrite c n v) s =
    s.on (fun m => m.writeNamed c (.cxStsHead n) v) := rfl

@[simp] theorem exec_statusPost (ring tag op status : Nat) (answer : Word × List Word) (s : State) : exec (.statusPost ring tag op status answer) s =
    s.on (fun m => m.notify ⟨ring, (m.ring ring).epoch, tag, op, answer.1⟩ status answer.2) := rfl

@[simp] theorem exec_stagedWrite (c : Cls) (addr : Nat) (v : Word) (s : State) : exec (.stagedWrite c addr v) s =
    s.on (fun m => m.busWrite c addr v) := rfl

@[simp] theorem exec_registerWrite (c : Cls) (addr : Nat) (v : Word) (s : State) : exec (.registerWrite c addr v) s =
    s.on (fun m => m.busWrite c addr v) := rfl

@[simp] theorem exec_readClear (c : Cls) (addr : Nat) (s : State) : exec (.readClear c addr) s =
    s.on (fun m => m.busRead c addr) := rfl

@[simp] theorem exec_latchingRead (c : Cls) (addr : Nat) (s : State) : exec (.latchingRead c addr) s =
    s.on (fun m => m.busRead c addr) := rfl

@[simp] theorem exec_fcAck (c : Cls) (v : Word) (s : State) : exec (.fcAck c v) s =
    s.on (fun m => m.writeNamed c .fcAck v) := rfl

@[simp] theorem exec_fcRaise (c : Cls) (v : Word) (s : State) : exec (.fcRaise c v) s =
    s.on (fun m => m.writeNamed c .fcRaise v) := rfl

@[simp] theorem exec_releaseRequest (c : Cls) (v : Word) (s : State) : exec (.releaseRequest c v) s =
    s.on (fun m => m.writeNamed c .fcRelease v) := rfl

@[simp] theorem exec_releaseDecision (s : State) : exec .releaseDecision s =
    s.on Mach.decideRelease := rfl

@[simp] theorem exec_quenchEnd (s : State) : exec .quenchEnd s =
    s.on Mach.endQuench := rfl

@[simp] theorem exec_injectReleasePair (c : Cls) (source : Nat) (cls : FCls) (s : State) : exec (.injectReleasePair c source cls) s =
    s.on (fun m => m.writeNamed c .fcInj (injWord 0 0 source cls)) := rfl

@[simp] theorem exec_injectForceFault (c : Cls) (source : Nat) (cls : FCls) (kind : Nat) (s : State) : exec (.injectForceFault c source cls kind) s =
    s.on (fun m => m.writeNamed c .fcInj (injWord 1 kind source cls)) := rfl

@[simp] theorem exec_injectForceNoFault (c : Cls) (source : Nat) (cls : FCls) (s : State) : exec (.injectForceNoFault c source cls) s =
    s.on (fun m => m.writeNamed c .fcInj (injWord 2 0 source cls)) := rfl

@[simp] theorem exec_injectForceNoncomp (c : Cls) (source : Nat) (cls : FCls) (s : State) : exec (.injectForceNoncomp c source cls) s =
    s.on (fun m => m.writeNamed c .fcInj (injWord 3 0 source cls)) := rfl

@[simp] theorem exec_faultPairChange (changes : List PairChange) (cycle : Nat) (s : State) : exec (.faultPairChange changes cycle) s =
    s.on (fun m => (orderChanges changes).foldl (Mach.acceptChange cycle) m) := rfl

@[simp] theorem exec_pairNoncomplementary (source : Nat) (cls : FCls) (cycle : Nat) (s : State) : exec (.pairNoncomplementary source cls cycle) s =
    s.on (fun m => if !m.monitors source cls || m.fault.wiring.contains (source, cls) || m.isForced source cls then m else (m.setWiring (source, cls) true).faultAt source cls kindWiring 0 ⟨cycle, false, false⟩) := rfl

@[simp] theorem exec_pairWiringClear (source : Nat) (cls : FCls) (faulted : Bool) (kind : Nat) (detail : Word) (cycle : Nat) (s : State) : exec (.pairWiringClear source cls faulted kind detail cycle) s =
    execPairWiringClear source cls faulted kind detail cycle s := rfl

@[simp] theorem exec_faultEscalation (s : State) : exec .faultEscalation s =
    s.on Mach.quenchDecide := rfl

@[simp] theorem exec_collectorParityError (offset : Nat) (s : State) : exec (.collectorParityError offset) s =
    execCollectorParityError offset s := rfl

@[simp] theorem exec_pairFrame (f : PairFrame) (s : State) : exec (.pairFrame f) s =
    s.on (fun m => m.pairFrameIn f) := rfl

@[simp] theorem exec_claimTake (s : State) : exec .claimTake s =
    s.on Mach.claimTake := rfl

@[simp] theorem exec_claimGiveUp (s : State) : exec .claimGiveUp s =
    s.on Mach.claimGiveUp := rfl

@[simp] theorem exec_alignmentSegment (good : Bool) (index : Nat) (seg : AlignSeg) (s : State) : exec (.alignmentSegment good index seg) s =
    s.on (fun m => m.alignSegment good index seg) := rfl

@[simp] theorem exec_alignmentFail (s : State) : exec .alignmentFail s =
    s.on Mach.alignFailRow := rfl

@[simp] theorem exec_rowFrame (good : Bool) (n : Nat) (row : List Word) (s : State) : exec (.rowFrame good n row) s =
    s.on (fun m => m.partnerRow good n row) := rfl

@[simp] theorem exec_pairLinkDown (s : State) : exec .pairLinkDown s =
    s.on Mach.pairDown := rfl

@[simp] theorem exec_feedLoss (b : Bool) (quarterVolts : Nat) (s : State) : exec (.feedLoss b quarterVolts) s =
    s.on (fun m => m.feedLoss b quarterVolts) := rfl

@[simp] theorem exec_feedReturn (b : Bool) (quarterVolts : Nat) (s : State) : exec (.feedReturn b quarterVolts) s =
    s.on (fun m => m.feedReturn b quarterVolts) := rfl

@[simp] theorem exec_ejectorOpen (s : State) : exec .ejectorOpen s =
    s.on Mach.ejector := rfl

@[simp] theorem exec_plcaNodeTake (heard other : Bool) (s : State) : exec (.plcaNodeTake heard other) s =
    s.on (fun m => m.plcaTake heard other) := rfl

@[simp] theorem exec_holdoverEntry (s : State) : exec .holdoverEntry s =
    s.on Mach.holdover := rfl

@[simp] theorem exec_ident (h : PeerHdr) (serial pos link variant plan : Nat) (verdict : Bool) (s : State) : exec (.ident h serial pos link variant plan verdict) s =
    s.on (fun m => m.receive (.ident h serial pos link variant plan verdict)) := rfl

@[simp] theorem exec_leave (h : PeerHdr) (pos : Nat) (s : State) : exec (.leave h pos) s =
    s.on (fun m => m.receive (.leave h pos)) := rfl

@[simp] theorem exec_health (h : PeerHdr) (oma0 oma1 : Int) (s : State) : exec (.health h oma0 oma1) s =
    s.on (fun m => m.receive (.health h oma0 oma1)) := rfl

@[simp] theorem exec_timeExchange (h : PeerHdr) (offset : Int) (count : Nat) (s : State) : exec (.timeExchange h offset count) s =
    s.on (fun m => m.receive (.timeExchange h offset count)) := rfl

@[simp] theorem exec_superframe (h : PeerHdr) (msg : SfMsg) (s : State) : exec (.superframe h msg) s =
    s.on (fun m => m.receive (.superframe h msg)) := rfl

@[simp] theorem exec_superframeSend (s : State) : exec .superframeSend s =
    s.on Mach.superframeSend := rfl

@[simp] theorem exec_report (h : PeerHdr) (r : Report) (s : State) : exec (.report h r) s =
    s.on (fun m => m.receive (.report h r)) := rfl

@[simp] theorem exec_reportSend (s : State) : exec .reportSend s =
    s.on Mach.reportSend := rfl

@[simp] theorem exec_table (h : PeerHdr) (k : Nat) (rs : List Report) (s : State) : exec (.table h k rs) s =
    s.on (fun m => m.receive (.table h k rs)) := rfl

@[simp] theorem exec_tableSend (s : State) : exec .tableSend s =
    s.on Mach.tableSend := rfl

@[simp] theorem exec_hallStep (s : State) : exec .hallStep s =
    s.on Mach.hallStep := rfl

@[simp] theorem exec_partialSums (h : PeerHdr) (k layer level slice : Nat) (down : Bool) (sum : List Word) (s : State) : exec (.partialSums h k layer level slice down sum) s =
    s.on (fun m => m.receive (.partialSums h k layer level slice down sum)) := rfl

@[simp] theorem exec_claim (h : PeerHdr) (term pos takeover : Nat) (s : State) : exec (.claim h term pos takeover) s =
    s.on (fun m => m.receive (.claim h term pos takeover)) := rfl

@[simp] theorem exec_mastershipClaim (s : State) : exec .mastershipClaim s =
    s.on Mach.claimMastership := rfl

@[simp] theorem exec_becomeMaster (s : State) : exec .becomeMaster s =
    s.on Mach.becomeMaster := rfl

@[simp] theorem exec_claimExpiry (s : State) : exec .claimExpiry s =
    s.on Mach.claimExpiry := rfl

@[simp] theorem exec_masterStepDown (s : State) : exec .masterStepDown s =
    s.on Mach.masterStepDown := rfl

@[simp] theorem exec_moduleDeclaredLeft (s : State) : exec .moduleDeclaredLeft s =
    s.on Mach.declareMissing := rfl

@[simp] theorem exec_sliceCopy (h : PeerHdr) (slice block blocks : Nat) (data : List Byte) (s : State) : exec (.sliceCopy h slice block blocks data) s =
    s.on (fun m => m.receive (.sliceCopy h slice block blocks data)) := rfl

@[simp] theorem exec_gen (h : PeerHdr) (g : GenHdr) (index : Nat) (data : List Byte) (s : State) : exec (.gen h g index data) s =
    s.on (fun m => m.receive (.gen h g index data)) := rfl

@[simp] theorem exec_xferAck (h : PeerHdr) (slice : Option Nat) (n : Nat) (held : List Nat) (s : State) : exec (.xferAck h slice n held) s =
    s.on (fun m => m.receive (.xferAck h slice n held)) := rfl

@[simp] theorem exec_generationComplete (s : State) : exec .generationComplete s =
    s.on Mach.generationComplete := rfl

@[simp] theorem exec_peerRetransmit (n seq : Nat) (s : State) : exec (.peerRetransmit n seq) s =
    s.on (fun m => m.retransmit n seq) := rfl

@[simp] theorem exec_peerFrameLost (n seq : Nat) (s : State) : exec (.peerFrameLost n seq) s =
    s.on (fun m => m.frameLost n seq) := rfl

@[simp] theorem exec_peerLinkDown (n : Nat) (s : State) : exec (.peerLinkDown n) s =
    s.on (fun m => m.linkFails n) := rfl

@[simp] theorem exec_peerLinkLock (n : Nat) (s : State) : exec (.peerLinkLock n) s =
    s.on (fun m => m.peerLock n) := rfl

@[simp] theorem exec_linkHealthMeasure (ms : List OptRead) (s : State) : exec (.linkHealthMeasure ms) s =
    s.on (fun m => m.measure ms) := rfl

@[simp] theorem exec_planLoad (c : Cls) (v : Word) (s : State) : exec (.planLoad c v) s =
    s.on (fun m => m.writeNamed c .plPlanCtrl v) := rfl

@[simp] theorem exec_planLoadDone (s : State) : exec .planLoadDone s =
    s.on Mach.planLoaded := rfl

@[simp] theorem exec_maintTakeOut (c : Cls) (link : Nat) (s : State) : exec (.maintTakeOut c link) s =
    s.on (fun m => m.writeNamed c .plMaint (place 1 30 ||| place (link % 64) 24)) := rfl

@[simp] theorem exec_maintVerify (c : Cls) (link : Nat) (s : State) : exec (.maintVerify c link) s =
    s.on (fun m => m.writeNamed c .plMaint (place 2 30 ||| place (link % 64) 24)) := rfl

@[simp] theorem exec_maintVerifyDone (r : OptRead) (s : State) : exec (.maintVerifyDone r) s =
    s.on (fun m => m.maintDone r) := rfl

@[simp] theorem exec_cellSweepStart (s : State) : exec .cellSweepStart s =
    s.on Mach.sweepStart := rfl

@[simp] theorem exec_ringSampleReturn (p : Nat) (returned : Option Nat) (a b : Nat) (s : State) : exec (.ringSampleReturn p returned a b) s =
    s.on (fun m => m.sampleReturn p returned a b) := rfl

@[simp] theorem exec_ringRead (p : Nat) (fromB : Bool) (s : State) : exec (.ringRead p fromB) s =
    s.on (fun m => m.ringRead p fromB) := rfl

@[simp] theorem exec_ringReadTimeout (p : Nat) (fromB : Bool) (s : State) : exec (.ringReadTimeout p fromB) s =
    s.on (fun m => m.readTimeout p fromB) := rfl

@[simp] theorem exec_ringData (p : Nat) (d : CellData) (s : State) : exec (.ringData p d) s =
    s.on (fun m => m.ringData p d) := rfl

@[simp] theorem exec_balSend (p : Nat) (s : State) : exec (.balSend p) s =
    s.on (fun m => m.balSend p) := rfl

@[simp] theorem exec_stopbal (s : State) : exec .stopbal s =
    s.on Mach.sendStopbal := rfl

@[simp] theorem exec_cellRingPublish (s : State) : exec .cellRingPublish s =
    s.on (fun m => m.cellPublish) := rfl

@[simp] theorem exec_forecastRunStart (s : State) : exec .forecastRunStart s =
    s.on Mach.startUpdate := rfl

@[simp] theorem exec_forecastPublish (s : State) : exec .forecastPublish s =
    s.on Mach.publishForecast := rfl

@[simp] theorem exec_trainingCycleStart (s : State) : exec .trainingCycleStart s =
    s.on Mach.cycleStart := rfl

@[simp] theorem exec_trainingCycleDone (s : State) : exec .trainingCycleDone s =
    s.on Mach.cycleEnds := rfl

@[simp] theorem exec_reencodeDone (s : State) : exec .reencodeDone s =
    s.on Mach.reencoded := rfl

@[simp] theorem exec_generationAdopt (s : State) : exec .generationAdopt s =
    s.on Mach.adoptGeneration := rfl

@[simp] theorem exec_trainCapPark (s : State) : exec .trainCapPark s =
    s.on Mach.trainPark := rfl

@[simp] theorem exec_anvilBundleIssue (s : State) : exec .anvilBundleIssue s =
    s.on Mach.anvilIssue := rfl

@[simp] theorem exec_anvilPreempt (s : State) : exec .anvilPreempt s =
    s.on Mach.preempt := rfl

@[simp] theorem exec_anvilRestore (s : State) : exec .anvilRestore s =
    s.on Mach.restoreNext := rfl

@[simp] theorem exec_anvilJobComplete (s : State) : exec .anvilJobComplete s =
    s.on Mach.jobComplete := rfl

@[simp] theorem exec_digestHashDone (s : State) : exec .digestHashDone s =
    s.on Mach.digestDone := rfl

@[simp] theorem exec_tileFault (t : Nat) (parity : Bool) (s : State) : exec (.tileFault t parity) s =
    s.on (fun m => m.tileFault t parity) := rfl

@[simp] theorem exec_thermalStepChange (s : State) : exec .thermalStepChange s =
    s.on Mach.thermalStep := rfl

@[simp] theorem exec_thermalStop (s : State) : exec .thermalStop s =
    s.on Mach.thermalStop := rfl

@[simp] theorem exec_lockstepDigest (good : Bool) (ord : Nat) (slots : List DWord) (scalar : DWord) (s : State) : exec (.lockstepDigest good ord slots scalar) s =
    s.on (fun m => m.lockDigestFrame good ord slots scalar) := rfl

@[simp] theorem exec_lockstepDivergence (sc : List DWord) (s : State) : exec (.lockstepDivergence sc) s =
    s.on (fun m => m.lockDiverge sc) := rfl

@[simp] theorem exec_lockstepSearchDone (hashes : List (Nat × DWord)) (s : State) : exec (.lockstepSearchDone hashes) s =
    s.on (fun m => m.lockSearched hashes) := rfl

@[simp] theorem exec_lockstepPortDown (s : State) : exec .lockstepPortDown s =
    s.on Mach.lockPortDown := rfl

@[simp] theorem exec_eccReadError (line : Nat) (errs : List (Nat × Byte)) (s : State) : exec (.eccReadError line errs) s =
    s.on (fun m => m.eccRead line errs) := rfl

@[simp] theorem exec_scrubLine (line : Nat) (errs : List (Nat × Byte)) (s : State) : exec (.scrubLine line errs) s =
    s.on (fun m => m.scrub line errs) := rfl

@[simp] theorem exec_ceWindowEnd (s : State) : exec .ceWindowEnd s =
    s.on Mach.ceWindow := rfl

@[simp] theorem exec_stackOutOfService (stack : Nat) (hot : Bool) (s : State) : exec (.stackOutOfService stack hot) s =
    s.on (fun m => m.stackLeaves stack hot) := rfl

@[simp] theorem exec_stackRetrain (stack : Nat) (ok cool : Bool) (s : State) : exec (.stackRetrain stack ok cool) s =
    s.on (fun m => m.stackRetrain stack ok cool) := rfl

@[simp] theorem exec_watermarkAdvance (stack top : Nat) (s : State) : exec (.watermarkAdvance stack top) s =
    s.on (fun m => m.watermarkTo stack top) := rfl

@[simp] theorem exec_dmaChannelStart (c : Cls) (ch : Nat) (s : State) : exec (.dmaChannelStart c ch) s =
    s.on (fun m => m.writeNamed c (.dmChCtrl ch) 0xC0000000) := rfl

@[simp] theorem exec_dmaChannelDisable (c : Cls) (ch : Nat) (s : State) : exec (.dmaChannelDisable c ch) s =
    s.on (fun m => m.writeNamed c (.dmChCtrl ch) 0) := rfl

@[simp] theorem exec_dmaChannelEnable (c : Cls) (ch : Nat) (s : State) : exec (.dmaChannelEnable c ch) s =
    s.on (fun m => m.writeNamed c (.dmChCtrl ch) 0x80000000) := rfl

@[simp] theorem exec_dmaDescriptorFetch (ch : Nat) (data : List Byte) (s : State) : exec (.dmaDescriptorFetch ch data) s =
    s.on (fun m => m.dmaFetch ch data) := rfl

@[simp] theorem exec_dmaBurst (data : List Byte) (b : BurstIn) (s : State) : exec (.dmaBurst data b) s =
    s.on (fun m => m.dmaBurst data b) := rfl

@[simp] theorem exec_dmaDescriptorDone (ch : Nat) (s : State) : exec (.dmaDescriptorDone ch) s =
    s.on (fun m => m.dmaDone ch) := rfl

@[simp] theorem exec_dmaFenceDone (ch : Nat) (s : State) : exec (.dmaFenceDone ch) s =
    s.on (fun m => m.dmaFenceDone ch) := rfl

@[simp] theorem exec_dmaRequestLine (line : Nat) (s : State) : exec (.dmaRequestLine line) s =
    s.on (fun m => if line < 6 then m.reqLine line else m) := rfl

@[simp] theorem exec_dmaRequestWithdraw (line : Nat) (s : State) : exec (.dmaRequestWithdraw line) s =
    s.on (fun m => m.withdrawLine line) := rfl

@[simp] theorem exec_dmaCreditTick (s : State) : exec .dmaCreditTick s =
    s.on Mach.creditTick := rfl

@[simp] theorem exec_dmaTargetTimeout (ch : Nat) (s : State) : exec (.dmaTargetTimeout ch) s =
    s.on (fun m => m.dmaTimeout ch) := rfl

@[simp] theorem exec_dmaLateWriteError (ch : Nat) (s : State) : exec (.dmaLateWriteError ch) s =
    s.on (fun m => m.dmaLateError ch) := rfl

@[simp] theorem exec_cxlMemRead (addr : Nat) (s : State) : exec (.cxlMemRead addr) s =
    s.on (fun m => m.memRead addr) := rfl

@[simp] theorem exec_cxlMemWrite (addr : Nat) (bytes : List (Option Byte)) (s : State) : exec (.cxlMemWrite addr bytes) s =
    s.on (fun m => m.memWrite addr bytes) := rfl

@[simp] theorem exec_cxlLinkUp (speed width : Nat) (flit256 cacheEn memEn bme : Bool) (msixMask : Nat) (s : State) : exec (.cxlLinkUp speed width flit256 cacheEn memEn bme msixMask) s =
    s.on (fun m => m.linkUp speed width flit256 cacheEn memEn bme msixMask) := rfl

@[simp] theorem exec_cxlLinkDown (hotReset : Bool) (s : State) : exec (.cxlLinkDown hotReset) s =
    s.on (fun m => m.linkDown hotReset) := rfl

@[simp] theorem exec_hdmDecoderCommit (i hpa size skip ways : Nat) (s : State) : exec (.hdmDecoderCommit i hpa size skip ways) s =
    s.on (fun m => m.hdmCommit i hpa size skip ways) := rfl

@[simp] theorem exec_rdownNodata (ring : Nat) (s : State) : exec (.rdownNodata ring) s =
    s.on (fun m => m.rdownDone ring) := rfl

@[simp] theorem exec_hostWindowAccess (c : Cls) (addr : Nat) (write : Bool) (data : List Byte) (answer : Nat) (s : State) : exec (.hostWindowAccess c addr write data answer) s =
    s.on (fun m => m.hostAccess c addr write data answer) := rfl

@[simp] theorem exec_getVersion (r : SpdmReq) (s : State) : exec (.getVersion r) s =
    s.on (fun m => m.doe (fun m => m.spdmVersion r)) := rfl

@[simp] theorem exec_getCapabilities (r : SpdmReq) (s : State) : exec (.getCapabilities r) s =
    s.on (fun m => m.doe (fun m => m.spdmCapabilities r)) := rfl

@[simp] theorem exec_negotiateAlgorithms (r : SpdmReq) (s : State) : exec (.negotiateAlgorithms r) s =
    s.on (fun m => m.doe (fun m => m.spdmNegotiate r)) := rfl

@[simp] theorem exec_getDigests (r : SpdmReq) (s : State) : exec (.getDigests r) s =
    s.on (fun m => m.doe (fun m => m.spdmDigests r)) := rfl

@[simp] theorem exec_getCertificate (r : SpdmReq) (s : State) : exec (.getCertificate r) s =
    s.on (fun m => m.doe (fun m => m.spdmCertificate r)) := rfl

@[simp] theorem exec_challenge (r : SpdmReq) (s : State) : exec (.challenge r) s =
    s.on (fun m => m.doe (fun m => m.spdmChallenge r)) := rfl

@[simp] theorem exec_getMeasurements (r : SpdmReq) (s : State) : exec (.getMeasurements r) s =
    s.on (fun m => m.doe (fun m => m.spdmMeasurements r)) := rfl

@[simp] theorem exec_spdmUnsupportedRequest (code : Nat) (r : SpdmReq) (s : State) : exec (.spdmUnsupportedRequest code r) s =
    s.on (fun m => m.doe (fun m => if code ∈ [0x81, 0x82, 0x83, 0x84, 0xE0, 0xE1, 0xE3] then m else m.spdmError r.version 0x07 code)) := rfl

@[simp] theorem exec_stage (c : Cls) (s : State) : exec (.stage c) s =
    s.on (fun m => m.writeNamed c .idUpdCtrl (place 1 29)) := rfl

@[simp] theorem exec_stageDone (s : State) : exec .stageDone s =
    s.on Mach.stageDone := rfl

@[simp] theorem exec_updCommit (c : Cls) (s : State) : exec (.updCommit c) s =
    s.on (fun m => m.writeNamed c .idUpdCtrl (place 2 29)) := rfl

@[simp] theorem exec_discard (c : Cls) (s : State) : exec (.discard c) s =
    s.on (fun m => m.writeNamed c .idUpdCtrl (place 3 29)) := rfl

@[simp] theorem exec_token (c : Cls) (s : State) : exec (.token c) s =
    s.on (fun m => m.writeNamed c .idUpdCtrl (place 4 29)) := rfl

@[simp] theorem exec_endTest (c : Cls) (s : State) : exec (.endTest c) s =
    s.on (fun m => m.writeNamed c .idUpdCtrl (place 5 29)) := rfl

@[simp] theorem exec_eventRecordStore (s : State) : exec .eventRecordStore s =
    s.on Mach.storeRecord := rfl

@[simp] theorem exec_freezeEffect (s : State) : exec .freezeEffect s =
    s.on Mach.freezeEffect := rfl

@[simp] theorem exec_autoThaw (s : State) : exec .autoThaw s =
    s.on Mach.autoThaw := rfl

@[simp] theorem exec_operatingTimeSave (s : State) : exec .operatingTimeSave s =
    s.on Mach.saveOpSec := rfl

@[simp] theorem exec_flashWriteFail (s : State) : exec .flashWriteFail s =
    s.on Mach.flashFail := rfl

@[simp] theorem exec_suspectClear (c : Cls) (v : Word) (s : State) : exec (.suspectClear c v) s =
    s.on (fun m => m.writeNamed c .prStat v) := rfl

@[simp] theorem exec_pairLinkUp (partnerHolding : Bool) (time : PartnerTime) (partnerCount : Nat) (s : State) : exec (.pairLinkUp partnerHolding time partnerCount) s =
    s.on (fun m => m.pairLinkUp partnerHolding time partnerCount) := rfl

@[simp] theorem exec_lockstepPortUp (partnerM : Bool) (s : State) : exec (.lockstepPortUp partnerM) s =
    s.on (fun m => m.lockPortUp partnerM) := rfl

@[simp] theorem exec_lockstepPartnerOutcome (o : LsOutcome) (s : State) : exec (.lockstepPartnerOutcome o) s =
    s.on (fun m => m.lockOutcome o) := rfl

@[simp] theorem exec_holdUpEnd (s : State) : exec .holdUpEnd s =
    s.on Mach.holdUpEnd := rfl

@[simp] theorem exec_brakeNNetChange (low : Bool) (s : State) : exec (.brakeNNetChange low) s =
    s.on (fun m => m.brakeNetChange low) := rfl

@[simp] theorem exec_coolantInletLow (s : State) : exec .coolantInletLow s =
    s.on Mach.inletCold := rfl

@[simp] theorem exec_stackHot (stack : Nat) (hot : Bool) (s : State) : exec (.stackHot stack hot) s =
    s.on (fun m => m.stackHot stack hot) := rfl

@[simp] theorem exec_initialEncodingDone (s : State) : exec .initialEncodingDone s =
    s.on Mach.initialEncoding := rfl

@[simp] theorem exec_holdingWithoutStandby (s : State) : exec .holdingWithoutStandby s =
    s.on Mach.aloneFault := rfl

@[simp] theorem exec_sliceCopyRestart (s : State) : exec .sliceCopyRestart s =
    s.on Mach.copyRestart := rfl

@[simp] theorem exec_identRepeat (s : State) : exec .identRepeat s =
    s.on Mach.identRepeat := rfl

@[simp] theorem exec_absentUnitRead (c : Cls) (addr : Nat) (s : State) : exec (.absentUnitRead c addr) s =
    s.on (fun m => m.busRead c addr) := rfl

/-- Every command changes the module by one function and keeps the queue. -/
theorem exec_on (c : Instr) : ∃ f : Mach → Mach, ∀ s, exec c s = s.on f := by
  cases c
  · exact ⟨_, exec_powerGood _⟩
  · exact ⟨_, exec_recorderMount _⟩
  · exact ⟨_, exec_bringupLoad⟩
  · exact ⟨_, exec_bringupLoadTimeout⟩
  · exact ⟨_, exec_configSave⟩
  · exact ⟨_, exec_tileSelfTest _⟩
  · exact ⟨_, exec_builtinPackageLoad⟩
  · exact ⟨_, exec_readinessLimitFault _⟩
  · exact ⟨_, exec_strike _⟩
  · exact ⟨_, exec_setpointMissingFault⟩
  · exact ⟨_, exec_cellLimitsStaleFault⟩
  · exact ⟨_, exec_brakeHoldFault⟩
  · exact ⟨_, exec_capMessageSend⟩
  · exact ⟨_, exec_capMessageRepeat⟩
  · exact ⟨_, exec_trayReport _ _ _ _⟩
  · exact ⟨_, exec_trayReportMissed _⟩
  · exact ⟨_, exec_coolantStepChange⟩
  · exact ⟨_, exec_coolantStep3Fault⟩
  · exact ⟨_, exec_gridScheduleStep⟩
  · exact ⟨_, exec_swapHoldTimeout _ _⟩
  · exact ⟨_, exec_bridgeFade _⟩
  · exact ⟨_, exec_loopStop _⟩
  · exact ⟨_, exec_followingErrorFault _⟩
  · exact ⟨_, exec_stageFeedbackFrame _ _⟩
  · exact ⟨_, exec_stageLinkLock _⟩
  · exact ⟨_, exec_stageLinkLockLoss _⟩
  · exact ⟨_, exec_stageLinkMissFault _⟩
  · exact ⟨_, exec_outputLateFault _⟩
  · exact ⟨_, exec_commitValidation⟩
  · exact ⟨_, exec_commitApply⟩
  · exact ⟨_, exec_loopTestPhase⟩
  · exact ⟨_, exec_loopTestAbort⟩
  · exact ⟨_, exec_launchRevalidate⟩
  · exact ⟨_, exec_transactionTimeout⟩
  · exact ⟨_, exec_setPoint _⟩
  · exact ⟨_, exec_setCap _⟩
  · exact ⟨_, exec_launchArm _⟩
  · exact ⟨_, exec_launchDisarm _⟩
  · exact ⟨_, exec_cfgBegin _⟩
  · exact ⟨_, exec_cfgCommit _⟩
  · exact ⟨_, exec_cfgRollback _⟩
  · exact ⟨_, exec_opSuspend _⟩
  · exact ⟨_, exec_opResume _⟩
  · exact ⟨_, exec_opCancel _⟩
  · exact ⟨_, exec_opQuery _⟩
  · exact ⟨_, exec_safePointReached _⟩
  · exact ⟨_, exec_avJobSubmit _⟩
  · exact ⟨_, exec_modelLoad _⟩
  · exact ⟨_, exec_modelLoadBlock _⟩
  · exact ⟨_, exec_trainRun _⟩
  · exact ⟨_, exec_autoTrainRun⟩
  · exact ⟨_, exec_capacitySweep _⟩
  · exact ⟨_, exec_balanceCampaign _⟩
  · exact ⟨_, exec_sliceReplace _⟩
  · exact ⟨_, exec_quench _⟩
  · exact ⟨_, exec_faultRead _⟩
  · exact ⟨_, exec_recFreeze _⟩
  · exact ⟨_, exec_recThaw _⟩
  · exact ⟨_, exec_recRead _⟩
  · exact ⟨_, exec_claimRelease _⟩
  · exact ⟨_, exec_getIdentity _⟩
  · exact ⟨_, exec_applicationReset _⟩
  · exact ⟨_, exec_fullReset _⟩
  · exact ⟨_, exec_resetExecute⟩
  · exact ⟨_, exec_badOpcodePacket _ _⟩
  · exact ⟨_, exec_ringDoorbell _ _ _⟩
  · exact ⟨_, exec_ringEnable _ _ _⟩
  · exact ⟨_, exec_ringDisable _ _ _⟩
  · exact ⟨_, exec_statusHeadWrite _ _ _⟩
  · exact ⟨_, exec_statusPost _ _ _ _ _⟩
  · exact ⟨_, exec_stagedWrite _ _ _⟩
  · exact ⟨_, exec_registerWrite _ _ _⟩
  · exact ⟨_, exec_readClear _ _⟩
  · exact ⟨_, exec_latchingRead _ _⟩
  · exact ⟨_, exec_fcAck _ _⟩
  · exact ⟨_, exec_fcRaise _ _⟩
  · exact ⟨_, exec_releaseRequest _ _⟩
  · exact ⟨_, exec_releaseDecision⟩
  · exact ⟨_, exec_quenchEnd⟩
  · exact ⟨_, exec_injectReleasePair _ _ _⟩
  · exact ⟨_, exec_injectForceFault _ _ _ _⟩
  · exact ⟨_, exec_injectForceNoFault _ _ _⟩
  · exact ⟨_, exec_injectForceNoncomp _ _ _⟩
  · exact ⟨_, exec_faultPairChange _ _⟩
  · exact ⟨_, exec_pairNoncomplementary _ _ _⟩
  · exact ⟨_, exec_pairWiringClear _ _ _ _ _ _⟩
  · exact ⟨_, exec_faultEscalation⟩
  · exact ⟨_, exec_collectorParityError _⟩
  · exact ⟨_, exec_pairFrame _⟩
  · exact ⟨_, exec_claimTake⟩
  · exact ⟨_, exec_claimGiveUp⟩
  · exact ⟨_, exec_alignmentSegment _ _ _⟩
  · exact ⟨_, exec_alignmentFail⟩
  · exact ⟨_, exec_rowFrame _ _ _⟩
  · exact ⟨_, exec_pairLinkDown⟩
  · exact ⟨_, exec_feedLoss _ _⟩
  · exact ⟨_, exec_feedReturn _ _⟩
  · exact ⟨_, exec_ejectorOpen⟩
  · exact ⟨_, exec_plcaNodeTake _ _⟩
  · exact ⟨_, exec_holdoverEntry⟩
  · exact ⟨_, exec_ident _ _ _ _ _ _ _⟩
  · exact ⟨_, exec_leave _ _⟩
  · exact ⟨_, exec_health _ _ _⟩
  · exact ⟨_, exec_timeExchange _ _ _⟩
  · exact ⟨_, exec_superframe _ _⟩
  · exact ⟨_, exec_superframeSend⟩
  · exact ⟨_, exec_report _ _⟩
  · exact ⟨_, exec_reportSend⟩
  · exact ⟨_, exec_table _ _ _⟩
  · exact ⟨_, exec_tableSend⟩
  · exact ⟨_, exec_hallStep⟩
  · exact ⟨_, exec_partialSums _ _ _ _ _ _ _⟩
  · exact ⟨_, exec_claim _ _ _ _⟩
  · exact ⟨_, exec_mastershipClaim⟩
  · exact ⟨_, exec_becomeMaster⟩
  · exact ⟨_, exec_claimExpiry⟩
  · exact ⟨_, exec_masterStepDown⟩
  · exact ⟨_, exec_moduleDeclaredLeft⟩
  · exact ⟨_, exec_sliceCopy _ _ _ _ _⟩
  · exact ⟨_, exec_gen _ _ _ _⟩
  · exact ⟨_, exec_xferAck _ _ _ _⟩
  · exact ⟨_, exec_generationComplete⟩
  · exact ⟨_, exec_peerRetransmit _ _⟩
  · exact ⟨_, exec_peerFrameLost _ _⟩
  · exact ⟨_, exec_peerLinkDown _⟩
  · exact ⟨_, exec_peerLinkLock _⟩
  · exact ⟨_, exec_linkHealthMeasure _⟩
  · exact ⟨_, exec_planLoad _ _⟩
  · exact ⟨_, exec_planLoadDone⟩
  · exact ⟨_, exec_maintTakeOut _ _⟩
  · exact ⟨_, exec_maintVerify _ _⟩
  · exact ⟨_, exec_maintVerifyDone _⟩
  · exact ⟨_, exec_cellSweepStart⟩
  · exact ⟨_, exec_ringSampleReturn _ _ _ _⟩
  · exact ⟨_, exec_ringRead _ _⟩
  · exact ⟨_, exec_ringReadTimeout _ _⟩
  · exact ⟨_, exec_ringData _ _⟩
  · exact ⟨_, exec_balSend _⟩
  · exact ⟨_, exec_stopbal⟩
  · exact ⟨_, exec_cellRingPublish⟩
  · exact ⟨_, exec_forecastRunStart⟩
  · exact ⟨_, exec_forecastPublish⟩
  · exact ⟨_, exec_trainingCycleStart⟩
  · exact ⟨_, exec_trainingCycleDone⟩
  · exact ⟨_, exec_reencodeDone⟩
  · exact ⟨_, exec_generationAdopt⟩
  · exact ⟨_, exec_trainCapPark⟩
  · exact ⟨_, exec_anvilBundleIssue⟩
  · exact ⟨_, exec_anvilPreempt⟩
  · exact ⟨_, exec_anvilRestore⟩
  · exact ⟨_, exec_anvilJobComplete⟩
  · exact ⟨_, exec_digestHashDone⟩
  · exact ⟨_, exec_tileFault _ _⟩
  · exact ⟨_, exec_thermalStepChange⟩
  · exact ⟨_, exec_thermalStop⟩
  · exact ⟨_, exec_lockstepDigest _ _ _ _⟩
  · exact ⟨_, exec_lockstepDivergence _⟩
  · exact ⟨_, exec_lockstepSearchDone _⟩
  · exact ⟨_, exec_lockstepPortDown⟩
  · exact ⟨_, exec_eccReadError _ _⟩
  · exact ⟨_, exec_scrubLine _ _⟩
  · exact ⟨_, exec_ceWindowEnd⟩
  · exact ⟨_, exec_stackOutOfService _ _⟩
  · exact ⟨_, exec_stackRetrain _ _ _⟩
  · exact ⟨_, exec_watermarkAdvance _ _⟩
  · exact ⟨_, exec_dmaChannelStart _ _⟩
  · exact ⟨_, exec_dmaChannelDisable _ _⟩
  · exact ⟨_, exec_dmaChannelEnable _ _⟩
  · exact ⟨_, exec_dmaDescriptorFetch _ _⟩
  · exact ⟨_, exec_dmaBurst _ _⟩
  · exact ⟨_, exec_dmaDescriptorDone _⟩
  · exact ⟨_, exec_dmaFenceDone _⟩
  · exact ⟨_, exec_dmaRequestLine _⟩
  · exact ⟨_, exec_dmaRequestWithdraw _⟩
  · exact ⟨_, exec_dmaCreditTick⟩
  · exact ⟨_, exec_dmaTargetTimeout _⟩
  · exact ⟨_, exec_dmaLateWriteError _⟩
  · exact ⟨_, exec_cxlMemRead _⟩
  · exact ⟨_, exec_cxlMemWrite _ _⟩
  · exact ⟨_, exec_cxlLinkUp _ _ _ _ _ _ _⟩
  · exact ⟨_, exec_cxlLinkDown _⟩
  · exact ⟨_, exec_hdmDecoderCommit _ _ _ _ _⟩
  · exact ⟨_, exec_rdownNodata _⟩
  · exact ⟨_, exec_hostWindowAccess _ _ _ _ _⟩
  · exact ⟨_, exec_getVersion _⟩
  · exact ⟨_, exec_getCapabilities _⟩
  · exact ⟨_, exec_negotiateAlgorithms _⟩
  · exact ⟨_, exec_getDigests _⟩
  · exact ⟨_, exec_getCertificate _⟩
  · exact ⟨_, exec_challenge _⟩
  · exact ⟨_, exec_getMeasurements _⟩
  · exact ⟨_, exec_spdmUnsupportedRequest _ _⟩
  · exact ⟨_, exec_stage _⟩
  · exact ⟨_, exec_stageDone⟩
  · exact ⟨_, exec_updCommit _⟩
  · exact ⟨_, exec_discard _⟩
  · exact ⟨_, exec_token _⟩
  · exact ⟨_, exec_endTest _⟩
  · exact ⟨_, exec_eventRecordStore⟩
  · exact ⟨_, exec_freezeEffect⟩
  · exact ⟨_, exec_autoThaw⟩
  · exact ⟨_, exec_operatingTimeSave⟩
  · exact ⟨_, exec_flashWriteFail⟩
  · exact ⟨_, exec_suspectClear _ _⟩
  · exact ⟨_, exec_pairLinkUp _ _ _⟩
  · exact ⟨_, exec_lockstepPortUp _⟩
  · exact ⟨_, exec_lockstepPartnerOutcome _⟩
  · exact ⟨_, exec_holdUpEnd⟩
  · exact ⟨_, exec_brakeNNetChange _⟩
  · exact ⟨_, exec_coolantInletLow⟩
  · exact ⟨_, exec_stackHot _ _⟩
  · exact ⟨_, exec_initialEncodingDone⟩
  · exact ⟨_, exec_holdingWithoutStandby⟩
  · exact ⟨_, exec_sliceCopyRestart⟩
  · exact ⟨_, exec_identRepeat⟩
  · exact ⟨_, exec_absentUnitRead _ _⟩

/-- What a command's function does to a module is what it gives. -/
theorem Gives.of_on {c : Instr} {m n : Mach} {f : Mach → Mach} (h : ∀ s, exec c s = s.on f) (e : f m = n) : Gives c m n := by
  intro q; rw [h]; subst e; rfl

/-- A command completes with what holds of its function's result, after what every command ends with. -/
theorem Completes.of_on {c : Instr} {m : Mach} {p : Mach → Prop} {f : Mach → Mach} (h : ∀ s, exec c s = s.on f)
    (e : p (settle m (f m))) : Completes c m p := fun q => ⟨_, by rw [h]; rfl, e⟩

/-- A command that gives a module completes with what holds of it. -/
theorem Gives.completes {c : Instr} {m n : Mach} {p : Mach → Prop} (h : Gives c m n) (e : p (settle m n)) : Completes c m p :=
  fun q => ⟨_, h q, e⟩

end Sys2Proof.Machine
end

