-- ==== Sys2Proof/Laws/Sparse.lean ====
section
/-! SUPPORT. The canonical sparse tables: what setting an index does, that the canonical form is kept, and that two canonical
tables that read alike are equal. -/

namespace Sys2Proof.Machine

variable {w : Nat}

@[simp] theorem sget_nil (a : Nat) : sget ([] : Sparse w) a = 0 := rfl

theorem swfFrom_mono {n k : Nat} (h : n ≤ k) : ∀ {t : Sparse w}, swfFrom k t = true → swfFrom n t = true
  | [], _ => rfl
  | (a, v) :: r, ht => by
    simp only [swfFrom, Bool.and_eq_true, decide_eq_true_eq] at ht ⊢
    exact ⟨⟨Nat.le_trans h ht.1.1, ht.1.2⟩, ht.2⟩

/-- An index below all of a canonical table's holds 0. -/
theorem sget_below {n a : Nat} (h : a < n) : ∀ {t : Sparse w}, swfFrom n t = true → sget t a = 0
  | [], _ => rfl
  | (k, v) :: r, ht => by
    simp only [swfFrom, Bool.and_eq_true, decide_eq_true_eq] at ht
    have : k ≠ a := by omega
    simp only [sget, if_neg this]
    exact sget_below (n := k + 1) (by omega) ht.2

/-- Every other index reads as before, whatever the table. -/
theorem sget_sset_ne (x : BitVec w) {a b : Nat} (h : b ≠ a) : ∀ t : Sparse w, sget (sset t a x) b = sget t b
  | [] => by
    have h' : a ≠ b := fun e => h e.symm
    simp only [sset]; split <;> simp [sget, h']
  | (k, v) :: r => by
    have h' : a ≠ b := fun e => h e.symm
    simp only [sset]
    split
    · split <;> simp [sget, h']
    · split
      · next e => subst e; split <;> simp [sget, h']
      · simp only [sget]; rw [sget_sset_ne x h r]

/-- The index set reads as set, in a canonical table. -/
theorem sget_sset_self (a : Nat) (x : BitVec w) : ∀ {n : Nat} {t : Sparse w}, swfFrom n t = true → sget (sset t a x) a = x
  | _, [], _ => by simp only [sset]; split <;> simp_all [sget]
  | n, (k, v) :: r, ht => by
    simp only [swfFrom, Bool.and_eq_true, decide_eq_true_eq] at ht
    simp only [sset]
    split
    · next hlt =>
      split
      · next hx =>
        have : k ≠ a := by omega
        simp only [sget, if_neg this, hx]
        exact sget_below (n := k + 1) (by omega) ht.2
      · simp [sget]
    · split
      · next e =>
        subst e
        split
        · next hx => rw [hx]; exact sget_below (n := a + 1) (by omega) ht.2
        · simp [sget]
      · next h1 h2 =>
        have : k ≠ a := fun e => h2 e.symm
        simp only [sget, if_neg this]
        exact sget_sset_self a x ht.2

/-- Setting an index keeps the canonical form. -/
theorem sset_wf (a : Nat) (x : BitVec w) : ∀ {n : Nat} {t : Sparse w}, n ≤ a → swfFrom n t = true → swfFrom n (sset t a x) = true
  | n, [], hn, _ => by simp only [sset]; split <;> simp_all [swfFrom]
  | n, (k, v) :: r, hn, ht => by
    have ht' := ht
    simp only [swfFrom, Bool.and_eq_true, decide_eq_true_eq] at ht
    simp only [sset]
    split
    · next hlt =>
      split
      · exact ht'
      · next hx =>
        simp only [swfFrom, Bool.and_eq_true, decide_eq_true_eq]
        exact ⟨⟨hn, hx⟩, ⟨by omega, ht.1.2⟩, ht.2⟩
    · split
      · next e =>
        subst e
        split
        · exact swfFrom_mono (by omega) ht.2
        · next hx =>
          simp only [swfFrom, Bool.and_eq_true, decide_eq_true_eq]
          exact ⟨⟨hn, hx⟩, ht.2⟩
      · next h1 h2 =>
        simp only [swfFrom, Bool.and_eq_true, decide_eq_true_eq]
        exact ⟨ht.1, sset_wf a x (by omega) ht.2⟩

/-- The canonical table that `snorm` makes of any table. -/
theorem snorm_wf : ∀ t : Sparse w, swf (snorm t) = true
  | [] => rfl
  | (k, v) :: r => sset_wf k v (Nat.zero_le k) (snorm_wf r)

/-- `snorm` changes no reading. -/
@[simp] theorem sget_snorm : ∀ (t : Sparse w) (a : Nat), sget (snorm t) a = sget t a
  | [], _ => rfl
  | (k, v) :: r, a => by
    by_cases h : a = k
    · subst h
      simp only [snorm, sget, if_true]
      exact sget_sset_self a v (snorm_wf r)
    · have h' : k ≠ a := fun e => h e.symm
      simp only [snorm, sget, if_neg h']
      rw [sget_sset_ne v h, sget_snorm r a]

/-- One byte written reads back (canonical memory). -/
theorem byte_setByte_self (m : Mach) (a : Nat) (b : Byte) (h : swf m.mem = true) : (m.setByte a b).byte a = b :=
  sget_sset_self a b h

/-- One byte written leaves every other byte alone. -/
theorem byte_setByte_ne (m : Mach) {a c : Nat} (b : Byte) (h : c ≠ a) : (m.setByte a b).byte c = m.byte c :=
  sget_sset_ne b h m.mem

/-- Every memory operation is a run of byte writes, which keep the canonical form. -/
theorem setByte_wf (m : Mach) (a : Nat) (b : Byte) (h : Memory.wf m.mem = true) : Memory.wf (m.setByte a b).mem = true :=
  sset_wf a b (Nat.zero_le a) h

/-- Bytes written keep the canonical form of memory. -/
theorem setBytes_wf : ∀ (bs : List Byte) (m : Mach) (a : Nat), Memory.wf m.mem = true → Memory.wf (m.setBytes a bs).mem = true
  | [], _, _, h => h
  | b :: bs, m, a, h => setBytes_wf bs (m.setByte a b) (a + 1) (setByte_wf m a b h)

/-- A register written keeps the canonical form of the register file. -/
theorem wr_wf (m : Mach) (r : Reg) (v : Word) (h : Regs.wf m.regs = true) : Regs.wf (m.wr r v).regs = true :=
  sset_wf r.addr _ (Nat.zero_le _) h

end Sys2Proof.Machine
end

