-- ==== Sys2Proof/Laws/State.lean ====
section
/-! SUPPORT. Field by field, what the named updates of the module leave alone: true by unfolding, so that no later proof opens a
record update. -/

namespace Sys2Proof.Machine

variable (m : Mach)

/-! `Mach.wr` changes regs. -/

@[simp] theorem wr_mem (r : Reg) (v : Word) : (m.wr r v).mem = m.mem := rfl
@[simp] theorem wr_poison (r : Reg) (v : Word) : (m.wr r v).poison = m.poison := rfl
@[simp] theorem wr_flawed (r : Reg) (v : Word) : (m.wr r v).flawed = m.flawed := rfl
@[simp] theorem wr_cleanLines (r : Reg) (v : Word) : (m.wr r v).cleanLines = m.cleanLines := rfl
@[simp] theorem wr_sys (r : Reg) (v : Word) : (m.wr r v).sys = m.sys := rfl
@[simp] theorem wr_time (r : Reg) (v : Word) : (m.wr r v).time = m.time := rfl
@[simp] theorem wr_rings (r : Reg) (v : Word) : (m.wr r v).rings = m.rings := rfl
@[simp] theorem wr_txn (r : Reg) (v : Word) : (m.wr r v).txn = m.txn := rfl
@[simp] theorem wr_slots (r : Reg) (v : Word) : (m.wr r v).slots = m.slots := rfl
@[simp] theorem wr_ops (r : Reg) (v : Word) : (m.wr r v).ops = m.ops := rfl
@[simp] theorem wr_nextOp (r : Reg) (v : Word) : (m.wr r v).nextOp = m.nextOp := rfl
@[simp] theorem wr_fault (r : Reg) (v : Word) : (m.wr r v).fault = m.fault := rfl
@[simp] theorem wr_ev (r : Reg) (v : Word) : (m.wr r v).ev = m.ev := rfl
@[simp] theorem wr_pair (r : Reg) (v : Word) : (m.wr r v).pair = m.pair := rfl
@[simp] theorem wr_cxl (r : Reg) (v : Word) : (m.wr r v).cxl = m.cxl := rfl
@[simp] theorem wr_id (r : Reg) (v : Word) : (m.wr r v).id = m.id := rfl
@[simp] theorem wr_phys (r : Reg) (v : Word) : (m.wr r v).phys = m.phys := rfl
@[simp] theorem wr_bel (r : Reg) (v : Word) : (m.wr r v).bel = m.bel := rfl
@[simp] theorem wr_fc (r : Reg) (v : Word) : (m.wr r v).fc = m.fc := rfl
@[simp] theorem wr_anvil (r : Reg) (v : Word) : (m.wr r v).anvil = m.anvil := rfl
@[simp] theorem wr_eng (r : Reg) (v : Word) : (m.wr r v).eng = m.eng := rfl
@[simp] theorem wr_stks (r : Reg) (v : Word) : (m.wr r v).stks = m.stks := rfl
@[simp] theorem wr_peers (r : Reg) (v : Word) : (m.wr r v).peers = m.peers := rfl
@[simp] theorem wr_hall (r : Reg) (v : Word) : (m.wr r v).hall = m.hall := rfl
@[simp] theorem wr_cell (r : Reg) (v : Word) : (m.wr r v).cell = m.cell := rfl
@[simp] theorem wr_dma (r : Reg) (v : Word) : (m.wr r v).dma = m.dma := rfl
@[simp] theorem wr_free (r : Reg) (v : Word) : (m.wr r v).free = m.free := rfl
@[simp] theorem wr_lastRead (r : Reg) (v : Word) : (m.wr r v).lastRead = m.lastRead := rfl

/-! `Mach.wrField` changes regs. -/

@[simp] theorem wrField_mem (r : Reg) (hi lo v : Nat) : (m.wrField r hi lo v).mem = m.mem := rfl
@[simp] theorem wrField_poison (r : Reg) (hi lo v : Nat) : (m.wrField r hi lo v).poison = m.poison := rfl
@[simp] theorem wrField_flawed (r : Reg) (hi lo v : Nat) : (m.wrField r hi lo v).flawed = m.flawed := rfl
@[simp] theorem wrField_cleanLines (r : Reg) (hi lo v : Nat) : (m.wrField r hi lo v).cleanLines = m.cleanLines := rfl
@[simp] theorem wrField_sys (r : Reg) (hi lo v : Nat) : (m.wrField r hi lo v).sys = m.sys := rfl
@[simp] theorem wrField_time (r : Reg) (hi lo v : Nat) : (m.wrField r hi lo v).time = m.time := rfl
@[simp] theorem wrField_rings (r : Reg) (hi lo v : Nat) : (m.wrField r hi lo v).rings = m.rings := rfl
@[simp] theorem wrField_txn (r : Reg) (hi lo v : Nat) : (m.wrField r hi lo v).txn = m.txn := rfl
@[simp] theorem wrField_slots (r : Reg) (hi lo v : Nat) : (m.wrField r hi lo v).slots = m.slots := rfl
@[simp] theorem wrField_ops (r : Reg) (hi lo v : Nat) : (m.wrField r hi lo v).ops = m.ops := rfl
@[simp] theorem wrField_nextOp (r : Reg) (hi lo v : Nat) : (m.wrField r hi lo v).nextOp = m.nextOp := rfl
@[simp] theorem wrField_fault (r : Reg) (hi lo v : Nat) : (m.wrField r hi lo v).fault = m.fault := rfl
@[simp] theorem wrField_ev (r : Reg) (hi lo v : Nat) : (m.wrField r hi lo v).ev = m.ev := rfl
@[simp] theorem wrField_pair (r : Reg) (hi lo v : Nat) : (m.wrField r hi lo v).pair = m.pair := rfl
@[simp] theorem wrField_cxl (r : Reg) (hi lo v : Nat) : (m.wrField r hi lo v).cxl = m.cxl := rfl
@[simp] theorem wrField_id (r : Reg) (hi lo v : Nat) : (m.wrField r hi lo v).id = m.id := rfl
@[simp] theorem wrField_phys (r : Reg) (hi lo v : Nat) : (m.wrField r hi lo v).phys = m.phys := rfl
@[simp] theorem wrField_bel (r : Reg) (hi lo v : Nat) : (m.wrField r hi lo v).bel = m.bel := rfl
@[simp] theorem wrField_fc (r : Reg) (hi lo v : Nat) : (m.wrField r hi lo v).fc = m.fc := rfl
@[simp] theorem wrField_anvil (r : Reg) (hi lo v : Nat) : (m.wrField r hi lo v).anvil = m.anvil := rfl
@[simp] theorem wrField_eng (r : Reg) (hi lo v : Nat) : (m.wrField r hi lo v).eng = m.eng := rfl
@[simp] theorem wrField_stks (r : Reg) (hi lo v : Nat) : (m.wrField r hi lo v).stks = m.stks := rfl
@[simp] theorem wrField_peers (r : Reg) (hi lo v : Nat) : (m.wrField r hi lo v).peers = m.peers := rfl
@[simp] theorem wrField_hall (r : Reg) (hi lo v : Nat) : (m.wrField r hi lo v).hall = m.hall := rfl
@[simp] theorem wrField_cell (r : Reg) (hi lo v : Nat) : (m.wrField r hi lo v).cell = m.cell := rfl
@[simp] theorem wrField_dma (r : Reg) (hi lo v : Nat) : (m.wrField r hi lo v).dma = m.dma := rfl
@[simp] theorem wrField_free (r : Reg) (hi lo v : Nat) : (m.wrField r hi lo v).free = m.free := rfl
@[simp] theorem wrField_lastRead (r : Reg) (hi lo v : Nat) : (m.wrField r hi lo v).lastRead = m.lastRead := rfl

/-! `Mach.orReg` changes regs. -/

@[simp] theorem orReg_mem (r : Reg) (v : Word) : (m.orReg r v).mem = m.mem := rfl
@[simp] theorem orReg_poison (r : Reg) (v : Word) : (m.orReg r v).poison = m.poison := rfl
@[simp] theorem orReg_flawed (r : Reg) (v : Word) : (m.orReg r v).flawed = m.flawed := rfl
@[simp] theorem orReg_cleanLines (r : Reg) (v : Word) : (m.orReg r v).cleanLines = m.cleanLines := rfl
@[simp] theorem orReg_sys (r : Reg) (v : Word) : (m.orReg r v).sys = m.sys := rfl
@[simp] theorem orReg_time (r : Reg) (v : Word) : (m.orReg r v).time = m.time := rfl
@[simp] theorem orReg_rings (r : Reg) (v : Word) : (m.orReg r v).rings = m.rings := rfl
@[simp] theorem orReg_txn (r : Reg) (v : Word) : (m.orReg r v).txn = m.txn := rfl
@[simp] theorem orReg_slots (r : Reg) (v : Word) : (m.orReg r v).slots = m.slots := rfl
@[simp] theorem orReg_ops (r : Reg) (v : Word) : (m.orReg r v).ops = m.ops := rfl
@[simp] theorem orReg_nextOp (r : Reg) (v : Word) : (m.orReg r v).nextOp = m.nextOp := rfl
@[simp] theorem orReg_fault (r : Reg) (v : Word) : (m.orReg r v).fault = m.fault := rfl
@[simp] theorem orReg_ev (r : Reg) (v : Word) : (m.orReg r v).ev = m.ev := rfl
@[simp] theorem orReg_pair (r : Reg) (v : Word) : (m.orReg r v).pair = m.pair := rfl
@[simp] theorem orReg_cxl (r : Reg) (v : Word) : (m.orReg r v).cxl = m.cxl := rfl
@[simp] theorem orReg_id (r : Reg) (v : Word) : (m.orReg r v).id = m.id := rfl
@[simp] theorem orReg_phys (r : Reg) (v : Word) : (m.orReg r v).phys = m.phys := rfl
@[simp] theorem orReg_bel (r : Reg) (v : Word) : (m.orReg r v).bel = m.bel := rfl
@[simp] theorem orReg_fc (r : Reg) (v : Word) : (m.orReg r v).fc = m.fc := rfl
@[simp] theorem orReg_anvil (r : Reg) (v : Word) : (m.orReg r v).anvil = m.anvil := rfl
@[simp] theorem orReg_eng (r : Reg) (v : Word) : (m.orReg r v).eng = m.eng := rfl
@[simp] theorem orReg_stks (r : Reg) (v : Word) : (m.orReg r v).stks = m.stks := rfl
@[simp] theorem orReg_peers (r : Reg) (v : Word) : (m.orReg r v).peers = m.peers := rfl
@[simp] theorem orReg_hall (r : Reg) (v : Word) : (m.orReg r v).hall = m.hall := rfl
@[simp] theorem orReg_cell (r : Reg) (v : Word) : (m.orReg r v).cell = m.cell := rfl
@[simp] theorem orReg_dma (r : Reg) (v : Word) : (m.orReg r v).dma = m.dma := rfl
@[simp] theorem orReg_free (r : Reg) (v : Word) : (m.orReg r v).free = m.free := rfl
@[simp] theorem orReg_lastRead (r : Reg) (v : Word) : (m.orReg r v).lastRead = m.lastRead := rfl

/-! `Mach.bump` changes regs. -/

@[simp] theorem bump_mem (r : Reg) (hi lo d : Nat) : (m.bump r hi lo d).mem = m.mem := rfl
@[simp] theorem bump_poison (r : Reg) (hi lo d : Nat) : (m.bump r hi lo d).poison = m.poison := rfl
@[simp] theorem bump_flawed (r : Reg) (hi lo d : Nat) : (m.bump r hi lo d).flawed = m.flawed := rfl
@[simp] theorem bump_cleanLines (r : Reg) (hi lo d : Nat) : (m.bump r hi lo d).cleanLines = m.cleanLines := rfl
@[simp] theorem bump_sys (r : Reg) (hi lo d : Nat) : (m.bump r hi lo d).sys = m.sys := rfl
@[simp] theorem bump_time (r : Reg) (hi lo d : Nat) : (m.bump r hi lo d).time = m.time := rfl
@[simp] theorem bump_rings (r : Reg) (hi lo d : Nat) : (m.bump r hi lo d).rings = m.rings := rfl
@[simp] theorem bump_txn (r : Reg) (hi lo d : Nat) : (m.bump r hi lo d).txn = m.txn := rfl
@[simp] theorem bump_slots (r : Reg) (hi lo d : Nat) : (m.bump r hi lo d).slots = m.slots := rfl
@[simp] theorem bump_ops (r : Reg) (hi lo d : Nat) : (m.bump r hi lo d).ops = m.ops := rfl
@[simp] theorem bump_nextOp (r : Reg) (hi lo d : Nat) : (m.bump r hi lo d).nextOp = m.nextOp := rfl
@[simp] theorem bump_fault (r : Reg) (hi lo d : Nat) : (m.bump r hi lo d).fault = m.fault := rfl
@[simp] theorem bump_ev (r : Reg) (hi lo d : Nat) : (m.bump r hi lo d).ev = m.ev := rfl
@[simp] theorem bump_pair (r : Reg) (hi lo d : Nat) : (m.bump r hi lo d).pair = m.pair := rfl
@[simp] theorem bump_cxl (r : Reg) (hi lo d : Nat) : (m.bump r hi lo d).cxl = m.cxl := rfl
@[simp] theorem bump_id (r : Reg) (hi lo d : Nat) : (m.bump r hi lo d).id = m.id := rfl
@[simp] theorem bump_phys (r : Reg) (hi lo d : Nat) : (m.bump r hi lo d).phys = m.phys := rfl
@[simp] theorem bump_bel (r : Reg) (hi lo d : Nat) : (m.bump r hi lo d).bel = m.bel := rfl
@[simp] theorem bump_fc (r : Reg) (hi lo d : Nat) : (m.bump r hi lo d).fc = m.fc := rfl
@[simp] theorem bump_anvil (r : Reg) (hi lo d : Nat) : (m.bump r hi lo d).anvil = m.anvil := rfl
@[simp] theorem bump_eng (r : Reg) (hi lo d : Nat) : (m.bump r hi lo d).eng = m.eng := rfl
@[simp] theorem bump_stks (r : Reg) (hi lo d : Nat) : (m.bump r hi lo d).stks = m.stks := rfl
@[simp] theorem bump_peers (r : Reg) (hi lo d : Nat) : (m.bump r hi lo d).peers = m.peers := rfl
@[simp] theorem bump_hall (r : Reg) (hi lo d : Nat) : (m.bump r hi lo d).hall = m.hall := rfl
@[simp] theorem bump_cell (r : Reg) (hi lo d : Nat) : (m.bump r hi lo d).cell = m.cell := rfl
@[simp] theorem bump_dma (r : Reg) (hi lo d : Nat) : (m.bump r hi lo d).dma = m.dma := rfl
@[simp] theorem bump_free (r : Reg) (hi lo d : Nat) : (m.bump r hi lo d).free = m.free := rfl
@[simp] theorem bump_lastRead (r : Reg) (hi lo d : Nat) : (m.bump r hi lo d).lastRead = m.lastRead := rfl

/-! `Mach.setByte` changes mem. -/

@[simp] theorem setByte_regs (a : Nat) (b : Byte) : (m.setByte a b).regs = m.regs := rfl
@[simp] theorem setByte_poison (a : Nat) (b : Byte) : (m.setByte a b).poison = m.poison := rfl
@[simp] theorem setByte_flawed (a : Nat) (b : Byte) : (m.setByte a b).flawed = m.flawed := rfl
@[simp] theorem setByte_cleanLines (a : Nat) (b : Byte) : (m.setByte a b).cleanLines = m.cleanLines := rfl
@[simp] theorem setByte_sys (a : Nat) (b : Byte) : (m.setByte a b).sys = m.sys := rfl
@[simp] theorem setByte_time (a : Nat) (b : Byte) : (m.setByte a b).time = m.time := rfl
@[simp] theorem setByte_rings (a : Nat) (b : Byte) : (m.setByte a b).rings = m.rings := rfl
@[simp] theorem setByte_txn (a : Nat) (b : Byte) : (m.setByte a b).txn = m.txn := rfl
@[simp] theorem setByte_slots (a : Nat) (b : Byte) : (m.setByte a b).slots = m.slots := rfl
@[simp] theorem setByte_ops (a : Nat) (b : Byte) : (m.setByte a b).ops = m.ops := rfl
@[simp] theorem setByte_nextOp (a : Nat) (b : Byte) : (m.setByte a b).nextOp = m.nextOp := rfl
@[simp] theorem setByte_fault (a : Nat) (b : Byte) : (m.setByte a b).fault = m.fault := rfl
@[simp] theorem setByte_ev (a : Nat) (b : Byte) : (m.setByte a b).ev = m.ev := rfl
@[simp] theorem setByte_pair (a : Nat) (b : Byte) : (m.setByte a b).pair = m.pair := rfl
@[simp] theorem setByte_cxl (a : Nat) (b : Byte) : (m.setByte a b).cxl = m.cxl := rfl
@[simp] theorem setByte_id (a : Nat) (b : Byte) : (m.setByte a b).id = m.id := rfl
@[simp] theorem setByte_phys (a : Nat) (b : Byte) : (m.setByte a b).phys = m.phys := rfl
@[simp] theorem setByte_bel (a : Nat) (b : Byte) : (m.setByte a b).bel = m.bel := rfl
@[simp] theorem setByte_fc (a : Nat) (b : Byte) : (m.setByte a b).fc = m.fc := rfl
@[simp] theorem setByte_anvil (a : Nat) (b : Byte) : (m.setByte a b).anvil = m.anvil := rfl
@[simp] theorem setByte_eng (a : Nat) (b : Byte) : (m.setByte a b).eng = m.eng := rfl
@[simp] theorem setByte_stks (a : Nat) (b : Byte) : (m.setByte a b).stks = m.stks := rfl
@[simp] theorem setByte_peers (a : Nat) (b : Byte) : (m.setByte a b).peers = m.peers := rfl
@[simp] theorem setByte_hall (a : Nat) (b : Byte) : (m.setByte a b).hall = m.hall := rfl
@[simp] theorem setByte_cell (a : Nat) (b : Byte) : (m.setByte a b).cell = m.cell := rfl
@[simp] theorem setByte_dma (a : Nat) (b : Byte) : (m.setByte a b).dma = m.dma := rfl
@[simp] theorem setByte_free (a : Nat) (b : Byte) : (m.setByte a b).free = m.free := rfl
@[simp] theorem setByte_lastRead (a : Nat) (b : Byte) : (m.setByte a b).lastRead = m.lastRead := rfl

/-! `Mach.setRing` changes rings. -/

@[simp] theorem setRing_regs (n : Nat) (f : RingSt → RingSt) : (m.setRing n f).regs = m.regs := rfl
@[simp] theorem setRing_mem (n : Nat) (f : RingSt → RingSt) : (m.setRing n f).mem = m.mem := rfl
@[simp] theorem setRing_poison (n : Nat) (f : RingSt → RingSt) : (m.setRing n f).poison = m.poison := rfl
@[simp] theorem setRing_flawed (n : Nat) (f : RingSt → RingSt) : (m.setRing n f).flawed = m.flawed := rfl
@[simp] theorem setRing_cleanLines (n : Nat) (f : RingSt → RingSt) : (m.setRing n f).cleanLines = m.cleanLines := rfl
@[simp] theorem setRing_sys (n : Nat) (f : RingSt → RingSt) : (m.setRing n f).sys = m.sys := rfl
@[simp] theorem setRing_time (n : Nat) (f : RingSt → RingSt) : (m.setRing n f).time = m.time := rfl
@[simp] theorem setRing_txn (n : Nat) (f : RingSt → RingSt) : (m.setRing n f).txn = m.txn := rfl
@[simp] theorem setRing_slots (n : Nat) (f : RingSt → RingSt) : (m.setRing n f).slots = m.slots := rfl
@[simp] theorem setRing_ops (n : Nat) (f : RingSt → RingSt) : (m.setRing n f).ops = m.ops := rfl
@[simp] theorem setRing_nextOp (n : Nat) (f : RingSt → RingSt) : (m.setRing n f).nextOp = m.nextOp := rfl
@[simp] theorem setRing_fault (n : Nat) (f : RingSt → RingSt) : (m.setRing n f).fault = m.fault := rfl
@[simp] theorem setRing_ev (n : Nat) (f : RingSt → RingSt) : (m.setRing n f).ev = m.ev := rfl
@[simp] theorem setRing_pair (n : Nat) (f : RingSt → RingSt) : (m.setRing n f).pair = m.pair := rfl
@[simp] theorem setRing_cxl (n : Nat) (f : RingSt → RingSt) : (m.setRing n f).cxl = m.cxl := rfl
@[simp] theorem setRing_id (n : Nat) (f : RingSt → RingSt) : (m.setRing n f).id = m.id := rfl
@[simp] theorem setRing_phys (n : Nat) (f : RingSt → RingSt) : (m.setRing n f).phys = m.phys := rfl
@[simp] theorem setRing_bel (n : Nat) (f : RingSt → RingSt) : (m.setRing n f).bel = m.bel := rfl
@[simp] theorem setRing_fc (n : Nat) (f : RingSt → RingSt) : (m.setRing n f).fc = m.fc := rfl
@[simp] theorem setRing_anvil (n : Nat) (f : RingSt → RingSt) : (m.setRing n f).anvil = m.anvil := rfl
@[simp] theorem setRing_eng (n : Nat) (f : RingSt → RingSt) : (m.setRing n f).eng = m.eng := rfl
@[simp] theorem setRing_stks (n : Nat) (f : RingSt → RingSt) : (m.setRing n f).stks = m.stks := rfl
@[simp] theorem setRing_peers (n : Nat) (f : RingSt → RingSt) : (m.setRing n f).peers = m.peers := rfl
@[simp] theorem setRing_hall (n : Nat) (f : RingSt → RingSt) : (m.setRing n f).hall = m.hall := rfl
@[simp] theorem setRing_cell (n : Nat) (f : RingSt → RingSt) : (m.setRing n f).cell = m.cell := rfl
@[simp] theorem setRing_dma (n : Nat) (f : RingSt → RingSt) : (m.setRing n f).dma = m.dma := rfl
@[simp] theorem setRing_free (n : Nat) (f : RingSt → RingSt) : (m.setRing n f).free = m.free := rfl
@[simp] theorem setRing_lastRead (n : Nat) (f : RingSt → RingSt) : (m.setRing n f).lastRead = m.lastRead := rfl

/-! `Mach.setOp` changes ops. -/

@[simp] theorem setOp_regs (i : Nat) (st : OpState) : (m.setOp i st).regs = m.regs := rfl
@[simp] theorem setOp_mem (i : Nat) (st : OpState) : (m.setOp i st).mem = m.mem := rfl
@[simp] theorem setOp_poison (i : Nat) (st : OpState) : (m.setOp i st).poison = m.poison := rfl
@[simp] theorem setOp_flawed (i : Nat) (st : OpState) : (m.setOp i st).flawed = m.flawed := rfl
@[simp] theorem setOp_cleanLines (i : Nat) (st : OpState) : (m.setOp i st).cleanLines = m.cleanLines := rfl
@[simp] theorem setOp_sys (i : Nat) (st : OpState) : (m.setOp i st).sys = m.sys := rfl
@[simp] theorem setOp_time (i : Nat) (st : OpState) : (m.setOp i st).time = m.time := rfl
@[simp] theorem setOp_rings (i : Nat) (st : OpState) : (m.setOp i st).rings = m.rings := rfl
@[simp] theorem setOp_txn (i : Nat) (st : OpState) : (m.setOp i st).txn = m.txn := rfl
@[simp] theorem setOp_slots (i : Nat) (st : OpState) : (m.setOp i st).slots = m.slots := rfl
@[simp] theorem setOp_nextOp (i : Nat) (st : OpState) : (m.setOp i st).nextOp = m.nextOp := rfl
@[simp] theorem setOp_fault (i : Nat) (st : OpState) : (m.setOp i st).fault = m.fault := rfl
@[simp] theorem setOp_ev (i : Nat) (st : OpState) : (m.setOp i st).ev = m.ev := rfl
@[simp] theorem setOp_pair (i : Nat) (st : OpState) : (m.setOp i st).pair = m.pair := rfl
@[simp] theorem setOp_cxl (i : Nat) (st : OpState) : (m.setOp i st).cxl = m.cxl := rfl
@[simp] theorem setOp_id (i : Nat) (st : OpState) : (m.setOp i st).id = m.id := rfl
@[simp] theorem setOp_phys (i : Nat) (st : OpState) : (m.setOp i st).phys = m.phys := rfl
@[simp] theorem setOp_bel (i : Nat) (st : OpState) : (m.setOp i st).bel = m.bel := rfl
@[simp] theorem setOp_fc (i : Nat) (st : OpState) : (m.setOp i st).fc = m.fc := rfl
@[simp] theorem setOp_anvil (i : Nat) (st : OpState) : (m.setOp i st).anvil = m.anvil := rfl
@[simp] theorem setOp_eng (i : Nat) (st : OpState) : (m.setOp i st).eng = m.eng := rfl
@[simp] theorem setOp_stks (i : Nat) (st : OpState) : (m.setOp i st).stks = m.stks := rfl
@[simp] theorem setOp_peers (i : Nat) (st : OpState) : (m.setOp i st).peers = m.peers := rfl
@[simp] theorem setOp_hall (i : Nat) (st : OpState) : (m.setOp i st).hall = m.hall := rfl
@[simp] theorem setOp_cell (i : Nat) (st : OpState) : (m.setOp i st).cell = m.cell := rfl
@[simp] theorem setOp_dma (i : Nat) (st : OpState) : (m.setOp i st).dma = m.dma := rfl
@[simp] theorem setOp_free (i : Nat) (st : OpState) : (m.setOp i st).free = m.free := rfl
@[simp] theorem setOp_lastRead (i : Nat) (st : OpState) : (m.setOp i st).lastRead = m.lastRead := rfl

/-! `Mach.setPeer` changes peers. -/

@[simp] theorem setPeer_regs (n : Nat) (f : PeerLinkSt → PeerLinkSt) : (m.setPeer n f).regs = m.regs := rfl
@[simp] theorem setPeer_mem (n : Nat) (f : PeerLinkSt → PeerLinkSt) : (m.setPeer n f).mem = m.mem := rfl
@[simp] theorem setPeer_poison (n : Nat) (f : PeerLinkSt → PeerLinkSt) : (m.setPeer n f).poison = m.poison := rfl
@[simp] theorem setPeer_flawed (n : Nat) (f : PeerLinkSt → PeerLinkSt) : (m.setPeer n f).flawed = m.flawed := rfl
@[simp] theorem setPeer_cleanLines (n : Nat) (f : PeerLinkSt → PeerLinkSt) : (m.setPeer n f).cleanLines = m.cleanLines := rfl
@[simp] theorem setPeer_sys (n : Nat) (f : PeerLinkSt → PeerLinkSt) : (m.setPeer n f).sys = m.sys := rfl
@[simp] theorem setPeer_time (n : Nat) (f : PeerLinkSt → PeerLinkSt) : (m.setPeer n f).time = m.time := rfl
@[simp] theorem setPeer_rings (n : Nat) (f : PeerLinkSt → PeerLinkSt) : (m.setPeer n f).rings = m.rings := rfl
@[simp] theorem setPeer_txn (n : Nat) (f : PeerLinkSt → PeerLinkSt) : (m.setPeer n f).txn = m.txn := rfl
@[simp] theorem setPeer_slots (n : Nat) (f : PeerLinkSt → PeerLinkSt) : (m.setPeer n f).slots = m.slots := rfl
@[simp] theorem setPeer_ops (n : Nat) (f : PeerLinkSt → PeerLinkSt) : (m.setPeer n f).ops = m.ops := rfl
@[simp] theorem setPeer_nextOp (n : Nat) (f : PeerLinkSt → PeerLinkSt) : (m.setPeer n f).nextOp = m.nextOp := rfl
@[simp] theorem setPeer_fault (n : Nat) (f : PeerLinkSt → PeerLinkSt) : (m.setPeer n f).fault = m.fault := rfl
@[simp] theorem setPeer_ev (n : Nat) (f : PeerLinkSt → PeerLinkSt) : (m.setPeer n f).ev = m.ev := rfl
@[simp] theorem setPeer_pair (n : Nat) (f : PeerLinkSt → PeerLinkSt) : (m.setPeer n f).pair = m.pair := rfl
@[simp] theorem setPeer_cxl (n : Nat) (f : PeerLinkSt → PeerLinkSt) : (m.setPeer n f).cxl = m.cxl := rfl
@[simp] theorem setPeer_id (n : Nat) (f : PeerLinkSt → PeerLinkSt) : (m.setPeer n f).id = m.id := rfl
@[simp] theorem setPeer_phys (n : Nat) (f : PeerLinkSt → PeerLinkSt) : (m.setPeer n f).phys = m.phys := rfl
@[simp] theorem setPeer_bel (n : Nat) (f : PeerLinkSt → PeerLinkSt) : (m.setPeer n f).bel = m.bel := rfl
@[simp] theorem setPeer_fc (n : Nat) (f : PeerLinkSt → PeerLinkSt) : (m.setPeer n f).fc = m.fc := rfl
@[simp] theorem setPeer_anvil (n : Nat) (f : PeerLinkSt → PeerLinkSt) : (m.setPeer n f).anvil = m.anvil := rfl
@[simp] theorem setPeer_eng (n : Nat) (f : PeerLinkSt → PeerLinkSt) : (m.setPeer n f).eng = m.eng := rfl
@[simp] theorem setPeer_stks (n : Nat) (f : PeerLinkSt → PeerLinkSt) : (m.setPeer n f).stks = m.stks := rfl
@[simp] theorem setPeer_hall (n : Nat) (f : PeerLinkSt → PeerLinkSt) : (m.setPeer n f).hall = m.hall := rfl
@[simp] theorem setPeer_cell (n : Nat) (f : PeerLinkSt → PeerLinkSt) : (m.setPeer n f).cell = m.cell := rfl
@[simp] theorem setPeer_dma (n : Nat) (f : PeerLinkSt → PeerLinkSt) : (m.setPeer n f).dma = m.dma := rfl
@[simp] theorem setPeer_free (n : Nat) (f : PeerLinkSt → PeerLinkSt) : (m.setPeer n f).free = m.free := rfl
@[simp] theorem setPeer_lastRead (n : Nat) (f : PeerLinkSt → PeerLinkSt) : (m.setPeer n f).lastRead = m.lastRead := rfl

/-! `Mach.setStack` changes stks. -/

@[simp] theorem setStack_regs (n : Nat) (f : StackSt → StackSt) : (m.setStack n f).regs = m.regs := rfl
@[simp] theorem setStack_mem (n : Nat) (f : StackSt → StackSt) : (m.setStack n f).mem = m.mem := rfl
@[simp] theorem setStack_poison (n : Nat) (f : StackSt → StackSt) : (m.setStack n f).poison = m.poison := rfl
@[simp] theorem setStack_flawed (n : Nat) (f : StackSt → StackSt) : (m.setStack n f).flawed = m.flawed := rfl
@[simp] theorem setStack_cleanLines (n : Nat) (f : StackSt → StackSt) : (m.setStack n f).cleanLines = m.cleanLines := rfl
@[simp] theorem setStack_sys (n : Nat) (f : StackSt → StackSt) : (m.setStack n f).sys = m.sys := rfl
@[simp] theorem setStack_time (n : Nat) (f : StackSt → StackSt) : (m.setStack n f).time = m.time := rfl
@[simp] theorem setStack_rings (n : Nat) (f : StackSt → StackSt) : (m.setStack n f).rings = m.rings := rfl
@[simp] theorem setStack_txn (n : Nat) (f : StackSt → StackSt) : (m.setStack n f).txn = m.txn := rfl
@[simp] theorem setStack_slots (n : Nat) (f : StackSt → StackSt) : (m.setStack n f).slots = m.slots := rfl
@[simp] theorem setStack_ops (n : Nat) (f : StackSt → StackSt) : (m.setStack n f).ops = m.ops := rfl
@[simp] theorem setStack_nextOp (n : Nat) (f : StackSt → StackSt) : (m.setStack n f).nextOp = m.nextOp := rfl
@[simp] theorem setStack_fault (n : Nat) (f : StackSt → StackSt) : (m.setStack n f).fault = m.fault := rfl
@[simp] theorem setStack_ev (n : Nat) (f : StackSt → StackSt) : (m.setStack n f).ev = m.ev := rfl
@[simp] theorem setStack_pair (n : Nat) (f : StackSt → StackSt) : (m.setStack n f).pair = m.pair := rfl
@[simp] theorem setStack_cxl (n : Nat) (f : StackSt → StackSt) : (m.setStack n f).cxl = m.cxl := rfl
@[simp] theorem setStack_id (n : Nat) (f : StackSt → StackSt) : (m.setStack n f).id = m.id := rfl
@[simp] theorem setStack_phys (n : Nat) (f : StackSt → StackSt) : (m.setStack n f).phys = m.phys := rfl
@[simp] theorem setStack_bel (n : Nat) (f : StackSt → StackSt) : (m.setStack n f).bel = m.bel := rfl
@[simp] theorem setStack_fc (n : Nat) (f : StackSt → StackSt) : (m.setStack n f).fc = m.fc := rfl
@[simp] theorem setStack_anvil (n : Nat) (f : StackSt → StackSt) : (m.setStack n f).anvil = m.anvil := rfl
@[simp] theorem setStack_eng (n : Nat) (f : StackSt → StackSt) : (m.setStack n f).eng = m.eng := rfl
@[simp] theorem setStack_peers (n : Nat) (f : StackSt → StackSt) : (m.setStack n f).peers = m.peers := rfl
@[simp] theorem setStack_hall (n : Nat) (f : StackSt → StackSt) : (m.setStack n f).hall = m.hall := rfl
@[simp] theorem setStack_cell (n : Nat) (f : StackSt → StackSt) : (m.setStack n f).cell = m.cell := rfl
@[simp] theorem setStack_dma (n : Nat) (f : StackSt → StackSt) : (m.setStack n f).dma = m.dma := rfl
@[simp] theorem setStack_free (n : Nat) (f : StackSt → StackSt) : (m.setStack n f).free = m.free := rfl
@[simp] theorem setStack_lastRead (n : Nat) (f : StackSt → StackSt) : (m.setStack n f).lastRead = m.lastRead := rfl

/-! `Mach.setPort` changes cell. -/

@[simp] theorem setPort_regs (n : Nat) (f : PortSt → PortSt) : (m.setPort n f).regs = m.regs := rfl
@[simp] theorem setPort_mem (n : Nat) (f : PortSt → PortSt) : (m.setPort n f).mem = m.mem := rfl
@[simp] theorem setPort_poison (n : Nat) (f : PortSt → PortSt) : (m.setPort n f).poison = m.poison := rfl
@[simp] theorem setPort_flawed (n : Nat) (f : PortSt → PortSt) : (m.setPort n f).flawed = m.flawed := rfl
@[simp] theorem setPort_cleanLines (n : Nat) (f : PortSt → PortSt) : (m.setPort n f).cleanLines = m.cleanLines := rfl
@[simp] theorem setPort_sys (n : Nat) (f : PortSt → PortSt) : (m.setPort n f).sys = m.sys := rfl
@[simp] theorem setPort_time (n : Nat) (f : PortSt → PortSt) : (m.setPort n f).time = m.time := rfl
@[simp] theorem setPort_rings (n : Nat) (f : PortSt → PortSt) : (m.setPort n f).rings = m.rings := rfl
@[simp] theorem setPort_txn (n : Nat) (f : PortSt → PortSt) : (m.setPort n f).txn = m.txn := rfl
@[simp] theorem setPort_slots (n : Nat) (f : PortSt → PortSt) : (m.setPort n f).slots = m.slots := rfl
@[simp] theorem setPort_ops (n : Nat) (f : PortSt → PortSt) : (m.setPort n f).ops = m.ops := rfl
@[simp] theorem setPort_nextOp (n : Nat) (f : PortSt → PortSt) : (m.setPort n f).nextOp = m.nextOp := rfl
@[simp] theorem setPort_fault (n : Nat) (f : PortSt → PortSt) : (m.setPort n f).fault = m.fault := rfl
@[simp] theorem setPort_ev (n : Nat) (f : PortSt → PortSt) : (m.setPort n f).ev = m.ev := rfl
@[simp] theorem setPort_pair (n : Nat) (f : PortSt → PortSt) : (m.setPort n f).pair = m.pair := rfl
@[simp] theorem setPort_cxl (n : Nat) (f : PortSt → PortSt) : (m.setPort n f).cxl = m.cxl := rfl
@[simp] theorem setPort_id (n : Nat) (f : PortSt → PortSt) : (m.setPort n f).id = m.id := rfl
@[simp] theorem setPort_phys (n : Nat) (f : PortSt → PortSt) : (m.setPort n f).phys = m.phys := rfl
@[simp] theorem setPort_bel (n : Nat) (f : PortSt → PortSt) : (m.setPort n f).bel = m.bel := rfl
@[simp] theorem setPort_fc (n : Nat) (f : PortSt → PortSt) : (m.setPort n f).fc = m.fc := rfl
@[simp] theorem setPort_anvil (n : Nat) (f : PortSt → PortSt) : (m.setPort n f).anvil = m.anvil := rfl
@[simp] theorem setPort_eng (n : Nat) (f : PortSt → PortSt) : (m.setPort n f).eng = m.eng := rfl
@[simp] theorem setPort_stks (n : Nat) (f : PortSt → PortSt) : (m.setPort n f).stks = m.stks := rfl
@[simp] theorem setPort_peers (n : Nat) (f : PortSt → PortSt) : (m.setPort n f).peers = m.peers := rfl
@[simp] theorem setPort_hall (n : Nat) (f : PortSt → PortSt) : (m.setPort n f).hall = m.hall := rfl
@[simp] theorem setPort_dma (n : Nat) (f : PortSt → PortSt) : (m.setPort n f).dma = m.dma := rfl
@[simp] theorem setPort_free (n : Nat) (f : PortSt → PortSt) : (m.setPort n f).free = m.free := rfl
@[simp] theorem setPort_lastRead (n : Nat) (f : PortSt → PortSt) : (m.setPort n f).lastRead = m.lastRead := rfl

/-! `Mach.setCh` changes dma. -/

@[simp] theorem setCh_regs (n : Nat) (f : DmaCh → DmaCh) : (m.setCh n f).regs = m.regs := rfl
@[simp] theorem setCh_mem (n : Nat) (f : DmaCh → DmaCh) : (m.setCh n f).mem = m.mem := rfl
@[simp] theorem setCh_poison (n : Nat) (f : DmaCh → DmaCh) : (m.setCh n f).poison = m.poison := rfl
@[simp] theorem setCh_flawed (n : Nat) (f : DmaCh → DmaCh) : (m.setCh n f).flawed = m.flawed := rfl
@[simp] theorem setCh_cleanLines (n : Nat) (f : DmaCh → DmaCh) : (m.setCh n f).cleanLines = m.cleanLines := rfl
@[simp] theorem setCh_sys (n : Nat) (f : DmaCh → DmaCh) : (m.setCh n f).sys = m.sys := rfl
@[simp] theorem setCh_time (n : Nat) (f : DmaCh → DmaCh) : (m.setCh n f).time = m.time := rfl
@[simp] theorem setCh_rings (n : Nat) (f : DmaCh → DmaCh) : (m.setCh n f).rings = m.rings := rfl
@[simp] theorem setCh_txn (n : Nat) (f : DmaCh → DmaCh) : (m.setCh n f).txn = m.txn := rfl
@[simp] theorem setCh_slots (n : Nat) (f : DmaCh → DmaCh) : (m.setCh n f).slots = m.slots := rfl
@[simp] theorem setCh_ops (n : Nat) (f : DmaCh → DmaCh) : (m.setCh n f).ops = m.ops := rfl
@[simp] theorem setCh_nextOp (n : Nat) (f : DmaCh → DmaCh) : (m.setCh n f).nextOp = m.nextOp := rfl
@[simp] theorem setCh_fault (n : Nat) (f : DmaCh → DmaCh) : (m.setCh n f).fault = m.fault := rfl
@[simp] theorem setCh_ev (n : Nat) (f : DmaCh → DmaCh) : (m.setCh n f).ev = m.ev := rfl
@[simp] theorem setCh_pair (n : Nat) (f : DmaCh → DmaCh) : (m.setCh n f).pair = m.pair := rfl
@[simp] theorem setCh_cxl (n : Nat) (f : DmaCh → DmaCh) : (m.setCh n f).cxl = m.cxl := rfl
@[simp] theorem setCh_id (n : Nat) (f : DmaCh → DmaCh) : (m.setCh n f).id = m.id := rfl
@[simp] theorem setCh_phys (n : Nat) (f : DmaCh → DmaCh) : (m.setCh n f).phys = m.phys := rfl
@[simp] theorem setCh_bel (n : Nat) (f : DmaCh → DmaCh) : (m.setCh n f).bel = m.bel := rfl
@[simp] theorem setCh_fc (n : Nat) (f : DmaCh → DmaCh) : (m.setCh n f).fc = m.fc := rfl
@[simp] theorem setCh_anvil (n : Nat) (f : DmaCh → DmaCh) : (m.setCh n f).anvil = m.anvil := rfl
@[simp] theorem setCh_eng (n : Nat) (f : DmaCh → DmaCh) : (m.setCh n f).eng = m.eng := rfl
@[simp] theorem setCh_stks (n : Nat) (f : DmaCh → DmaCh) : (m.setCh n f).stks = m.stks := rfl
@[simp] theorem setCh_peers (n : Nat) (f : DmaCh → DmaCh) : (m.setCh n f).peers = m.peers := rfl
@[simp] theorem setCh_hall (n : Nat) (f : DmaCh → DmaCh) : (m.setCh n f).hall = m.hall := rfl
@[simp] theorem setCh_cell (n : Nat) (f : DmaCh → DmaCh) : (m.setCh n f).cell = m.cell := rfl
@[simp] theorem setCh_free (n : Nat) (f : DmaCh → DmaCh) : (m.setCh n f).free = m.free := rfl
@[simp] theorem setCh_lastRead (n : Nat) (f : DmaCh → DmaCh) : (m.setCh n f).lastRead = m.lastRead := rfl

/-! `Mach.setLink` changes eng. -/

@[simp] theorem setLink_regs (n : Nat) (f : StageLinkSt → StageLinkSt) : (m.setLink n f).regs = m.regs := rfl
@[simp] theorem setLink_mem (n : Nat) (f : StageLinkSt → StageLinkSt) : (m.setLink n f).mem = m.mem := rfl
@[simp] theorem setLink_poison (n : Nat) (f : StageLinkSt → StageLinkSt) : (m.setLink n f).poison = m.poison := rfl
@[simp] theorem setLink_flawed (n : Nat) (f : StageLinkSt → StageLinkSt) : (m.setLink n f).flawed = m.flawed := rfl
@[simp] theorem setLink_cleanLines (n : Nat) (f : StageLinkSt → StageLinkSt) : (m.setLink n f).cleanLines = m.cleanLines := rfl
@[simp] theorem setLink_sys (n : Nat) (f : StageLinkSt → StageLinkSt) : (m.setLink n f).sys = m.sys := rfl
@[simp] theorem setLink_time (n : Nat) (f : StageLinkSt → StageLinkSt) : (m.setLink n f).time = m.time := rfl
@[simp] theorem setLink_rings (n : Nat) (f : StageLinkSt → StageLinkSt) : (m.setLink n f).rings = m.rings := rfl
@[simp] theorem setLink_txn (n : Nat) (f : StageLinkSt → StageLinkSt) : (m.setLink n f).txn = m.txn := rfl
@[simp] theorem setLink_slots (n : Nat) (f : StageLinkSt → StageLinkSt) : (m.setLink n f).slots = m.slots := rfl
@[simp] theorem setLink_ops (n : Nat) (f : StageLinkSt → StageLinkSt) : (m.setLink n f).ops = m.ops := rfl
@[simp] theorem setLink_nextOp (n : Nat) (f : StageLinkSt → StageLinkSt) : (m.setLink n f).nextOp = m.nextOp := rfl
@[simp] theorem setLink_fault (n : Nat) (f : StageLinkSt → StageLinkSt) : (m.setLink n f).fault = m.fault := rfl
@[simp] theorem setLink_ev (n : Nat) (f : StageLinkSt → StageLinkSt) : (m.setLink n f).ev = m.ev := rfl
@[simp] theorem setLink_pair (n : Nat) (f : StageLinkSt → StageLinkSt) : (m.setLink n f).pair = m.pair := rfl
@[simp] theorem setLink_cxl (n : Nat) (f : StageLinkSt → StageLinkSt) : (m.setLink n f).cxl = m.cxl := rfl
@[simp] theorem setLink_id (n : Nat) (f : StageLinkSt → StageLinkSt) : (m.setLink n f).id = m.id := rfl
@[simp] theorem setLink_phys (n : Nat) (f : StageLinkSt → StageLinkSt) : (m.setLink n f).phys = m.phys := rfl
@[simp] theorem setLink_bel (n : Nat) (f : StageLinkSt → StageLinkSt) : (m.setLink n f).bel = m.bel := rfl
@[simp] theorem setLink_fc (n : Nat) (f : StageLinkSt → StageLinkSt) : (m.setLink n f).fc = m.fc := rfl
@[simp] theorem setLink_anvil (n : Nat) (f : StageLinkSt → StageLinkSt) : (m.setLink n f).anvil = m.anvil := rfl
@[simp] theorem setLink_stks (n : Nat) (f : StageLinkSt → StageLinkSt) : (m.setLink n f).stks = m.stks := rfl
@[simp] theorem setLink_peers (n : Nat) (f : StageLinkSt → StageLinkSt) : (m.setLink n f).peers = m.peers := rfl
@[simp] theorem setLink_hall (n : Nat) (f : StageLinkSt → StageLinkSt) : (m.setLink n f).hall = m.hall := rfl
@[simp] theorem setLink_cell (n : Nat) (f : StageLinkSt → StageLinkSt) : (m.setLink n f).cell = m.cell := rfl
@[simp] theorem setLink_dma (n : Nat) (f : StageLinkSt → StageLinkSt) : (m.setLink n f).dma = m.dma := rfl
@[simp] theorem setLink_free (n : Nat) (f : StageLinkSt → StageLinkSt) : (m.setLink n f).free = m.free := rfl
@[simp] theorem setLink_lastRead (n : Nat) (f : StageLinkSt → StageLinkSt) : (m.setLink n f).lastRead = m.lastRead := rfl

/-! `Mach.setLoop` changes eng. -/

@[simp] theorem setLoop_regs (k : Nat) (l : LoopSt) : (m.setLoop k l).regs = m.regs := rfl
@[simp] theorem setLoop_mem (k : Nat) (l : LoopSt) : (m.setLoop k l).mem = m.mem := rfl
@[simp] theorem setLoop_poison (k : Nat) (l : LoopSt) : (m.setLoop k l).poison = m.poison := rfl
@[simp] theorem setLoop_flawed (k : Nat) (l : LoopSt) : (m.setLoop k l).flawed = m.flawed := rfl
@[simp] theorem setLoop_cleanLines (k : Nat) (l : LoopSt) : (m.setLoop k l).cleanLines = m.cleanLines := rfl
@[simp] theorem setLoop_sys (k : Nat) (l : LoopSt) : (m.setLoop k l).sys = m.sys := rfl
@[simp] theorem setLoop_time (k : Nat) (l : LoopSt) : (m.setLoop k l).time = m.time := rfl
@[simp] theorem setLoop_rings (k : Nat) (l : LoopSt) : (m.setLoop k l).rings = m.rings := rfl
@[simp] theorem setLoop_txn (k : Nat) (l : LoopSt) : (m.setLoop k l).txn = m.txn := rfl
@[simp] theorem setLoop_slots (k : Nat) (l : LoopSt) : (m.setLoop k l).slots = m.slots := rfl
@[simp] theorem setLoop_ops (k : Nat) (l : LoopSt) : (m.setLoop k l).ops = m.ops := rfl
@[simp] theorem setLoop_nextOp (k : Nat) (l : LoopSt) : (m.setLoop k l).nextOp = m.nextOp := rfl
@[simp] theorem setLoop_fault (k : Nat) (l : LoopSt) : (m.setLoop k l).fault = m.fault := rfl
@[simp] theorem setLoop_ev (k : Nat) (l : LoopSt) : (m.setLoop k l).ev = m.ev := rfl
@[simp] theorem setLoop_pair (k : Nat) (l : LoopSt) : (m.setLoop k l).pair = m.pair := rfl
@[simp] theorem setLoop_cxl (k : Nat) (l : LoopSt) : (m.setLoop k l).cxl = m.cxl := rfl
@[simp] theorem setLoop_id (k : Nat) (l : LoopSt) : (m.setLoop k l).id = m.id := rfl
@[simp] theorem setLoop_phys (k : Nat) (l : LoopSt) : (m.setLoop k l).phys = m.phys := rfl
@[simp] theorem setLoop_bel (k : Nat) (l : LoopSt) : (m.setLoop k l).bel = m.bel := rfl
@[simp] theorem setLoop_fc (k : Nat) (l : LoopSt) : (m.setLoop k l).fc = m.fc := rfl
@[simp] theorem setLoop_anvil (k : Nat) (l : LoopSt) : (m.setLoop k l).anvil = m.anvil := rfl
@[simp] theorem setLoop_stks (k : Nat) (l : LoopSt) : (m.setLoop k l).stks = m.stks := rfl
@[simp] theorem setLoop_peers (k : Nat) (l : LoopSt) : (m.setLoop k l).peers = m.peers := rfl
@[simp] theorem setLoop_hall (k : Nat) (l : LoopSt) : (m.setLoop k l).hall = m.hall := rfl
@[simp] theorem setLoop_cell (k : Nat) (l : LoopSt) : (m.setLoop k l).cell = m.cell := rfl
@[simp] theorem setLoop_dma (k : Nat) (l : LoopSt) : (m.setLoop k l).dma = m.dma := rfl
@[simp] theorem setLoop_free (k : Nat) (l : LoopSt) : (m.setLoop k l).free = m.free := rfl
@[simp] theorem setLoop_lastRead (k : Nat) (l : LoopSt) : (m.setLoop k l).lastRead = m.lastRead := rfl

/-! `Mach.setTray` changes bel. -/

@[simp] theorem setTray_regs (n : Nat) (f : TraySt → TraySt) : (m.setTray n f).regs = m.regs := rfl
@[simp] theorem setTray_mem (n : Nat) (f : TraySt → TraySt) : (m.setTray n f).mem = m.mem := rfl
@[simp] theorem setTray_poison (n : Nat) (f : TraySt → TraySt) : (m.setTray n f).poison = m.poison := rfl
@[simp] theorem setTray_flawed (n : Nat) (f : TraySt → TraySt) : (m.setTray n f).flawed = m.flawed := rfl
@[simp] theorem setTray_cleanLines (n : Nat) (f : TraySt → TraySt) : (m.setTray n f).cleanLines = m.cleanLines := rfl
@[simp] theorem setTray_sys (n : Nat) (f : TraySt → TraySt) : (m.setTray n f).sys = m.sys := rfl
@[simp] theorem setTray_time (n : Nat) (f : TraySt → TraySt) : (m.setTray n f).time = m.time := rfl
@[simp] theorem setTray_rings (n : Nat) (f : TraySt → TraySt) : (m.setTray n f).rings = m.rings := rfl
@[simp] theorem setTray_txn (n : Nat) (f : TraySt → TraySt) : (m.setTray n f).txn = m.txn := rfl
@[simp] theorem setTray_slots (n : Nat) (f : TraySt → TraySt) : (m.setTray n f).slots = m.slots := rfl
@[simp] theorem setTray_ops (n : Nat) (f : TraySt → TraySt) : (m.setTray n f).ops = m.ops := rfl
@[simp] theorem setTray_nextOp (n : Nat) (f : TraySt → TraySt) : (m.setTray n f).nextOp = m.nextOp := rfl
@[simp] theorem setTray_fault (n : Nat) (f : TraySt → TraySt) : (m.setTray n f).fault = m.fault := rfl
@[simp] theorem setTray_ev (n : Nat) (f : TraySt → TraySt) : (m.setTray n f).ev = m.ev := rfl
@[simp] theorem setTray_pair (n : Nat) (f : TraySt → TraySt) : (m.setTray n f).pair = m.pair := rfl
@[simp] theorem setTray_cxl (n : Nat) (f : TraySt → TraySt) : (m.setTray n f).cxl = m.cxl := rfl
@[simp] theorem setTray_id (n : Nat) (f : TraySt → TraySt) : (m.setTray n f).id = m.id := rfl
@[simp] theorem setTray_phys (n : Nat) (f : TraySt → TraySt) : (m.setTray n f).phys = m.phys := rfl
@[simp] theorem setTray_fc (n : Nat) (f : TraySt → TraySt) : (m.setTray n f).fc = m.fc := rfl
@[simp] theorem setTray_anvil (n : Nat) (f : TraySt → TraySt) : (m.setTray n f).anvil = m.anvil := rfl
@[simp] theorem setTray_eng (n : Nat) (f : TraySt → TraySt) : (m.setTray n f).eng = m.eng := rfl
@[simp] theorem setTray_stks (n : Nat) (f : TraySt → TraySt) : (m.setTray n f).stks = m.stks := rfl
@[simp] theorem setTray_peers (n : Nat) (f : TraySt → TraySt) : (m.setTray n f).peers = m.peers := rfl
@[simp] theorem setTray_hall (n : Nat) (f : TraySt → TraySt) : (m.setTray n f).hall = m.hall := rfl
@[simp] theorem setTray_cell (n : Nat) (f : TraySt → TraySt) : (m.setTray n f).cell = m.cell := rfl
@[simp] theorem setTray_dma (n : Nat) (f : TraySt → TraySt) : (m.setTray n f).dma = m.dma := rfl
@[simp] theorem setTray_free (n : Nat) (f : TraySt → TraySt) : (m.setTray n f).free = m.free := rfl
@[simp] theorem setTray_lastRead (n : Nat) (f : TraySt → TraySt) : (m.setTray n f).lastRead = m.lastRead := rfl

/-! `Mach.setBank` changes fc. -/

@[simp] theorem setBank_regs (b : Nat) (f : BankSt → BankSt) : (m.setBank b f).regs = m.regs := rfl
@[simp] theorem setBank_mem (b : Nat) (f : BankSt → BankSt) : (m.setBank b f).mem = m.mem := rfl
@[simp] theorem setBank_poison (b : Nat) (f : BankSt → BankSt) : (m.setBank b f).poison = m.poison := rfl
@[simp] theorem setBank_flawed (b : Nat) (f : BankSt → BankSt) : (m.setBank b f).flawed = m.flawed := rfl
@[simp] theorem setBank_cleanLines (b : Nat) (f : BankSt → BankSt) : (m.setBank b f).cleanLines = m.cleanLines := rfl
@[simp] theorem setBank_sys (b : Nat) (f : BankSt → BankSt) : (m.setBank b f).sys = m.sys := rfl
@[simp] theorem setBank_time (b : Nat) (f : BankSt → BankSt) : (m.setBank b f).time = m.time := rfl
@[simp] theorem setBank_rings (b : Nat) (f : BankSt → BankSt) : (m.setBank b f).rings = m.rings := rfl
@[simp] theorem setBank_txn (b : Nat) (f : BankSt → BankSt) : (m.setBank b f).txn = m.txn := rfl
@[simp] theorem setBank_slots (b : Nat) (f : BankSt → BankSt) : (m.setBank b f).slots = m.slots := rfl
@[simp] theorem setBank_ops (b : Nat) (f : BankSt → BankSt) : (m.setBank b f).ops = m.ops := rfl
@[simp] theorem setBank_nextOp (b : Nat) (f : BankSt → BankSt) : (m.setBank b f).nextOp = m.nextOp := rfl
@[simp] theorem setBank_fault (b : Nat) (f : BankSt → BankSt) : (m.setBank b f).fault = m.fault := rfl
@[simp] theorem setBank_ev (b : Nat) (f : BankSt → BankSt) : (m.setBank b f).ev = m.ev := rfl
@[simp] theorem setBank_pair (b : Nat) (f : BankSt → BankSt) : (m.setBank b f).pair = m.pair := rfl
@[simp] theorem setBank_cxl (b : Nat) (f : BankSt → BankSt) : (m.setBank b f).cxl = m.cxl := rfl
@[simp] theorem setBank_id (b : Nat) (f : BankSt → BankSt) : (m.setBank b f).id = m.id := rfl
@[simp] theorem setBank_phys (b : Nat) (f : BankSt → BankSt) : (m.setBank b f).phys = m.phys := rfl
@[simp] theorem setBank_bel (b : Nat) (f : BankSt → BankSt) : (m.setBank b f).bel = m.bel := rfl
@[simp] theorem setBank_anvil (b : Nat) (f : BankSt → BankSt) : (m.setBank b f).anvil = m.anvil := rfl
@[simp] theorem setBank_eng (b : Nat) (f : BankSt → BankSt) : (m.setBank b f).eng = m.eng := rfl
@[simp] theorem setBank_stks (b : Nat) (f : BankSt → BankSt) : (m.setBank b f).stks = m.stks := rfl
@[simp] theorem setBank_peers (b : Nat) (f : BankSt → BankSt) : (m.setBank b f).peers = m.peers := rfl
@[simp] theorem setBank_hall (b : Nat) (f : BankSt → BankSt) : (m.setBank b f).hall = m.hall := rfl
@[simp] theorem setBank_cell (b : Nat) (f : BankSt → BankSt) : (m.setBank b f).cell = m.cell := rfl
@[simp] theorem setBank_dma (b : Nat) (f : BankSt → BankSt) : (m.setBank b f).dma = m.dma := rfl
@[simp] theorem setBank_free (b : Nat) (f : BankSt → BankSt) : (m.setBank b f).free = m.free := rfl
@[simp] theorem setBank_lastRead (b : Nat) (f : BankSt → BankSt) : (m.setBank b f).lastRead = m.lastRead := rfl

/-! `Mach.setJob` changes anvil. -/

@[simp] theorem setJob_regs (i : Nat) (f : Job → Job) : (m.setJob i f).regs = m.regs := rfl
@[simp] theorem setJob_mem (i : Nat) (f : Job → Job) : (m.setJob i f).mem = m.mem := rfl
@[simp] theorem setJob_poison (i : Nat) (f : Job → Job) : (m.setJob i f).poison = m.poison := rfl
@[simp] theorem setJob_flawed (i : Nat) (f : Job → Job) : (m.setJob i f).flawed = m.flawed := rfl
@[simp] theorem setJob_cleanLines (i : Nat) (f : Job → Job) : (m.setJob i f).cleanLines = m.cleanLines := rfl
@[simp] theorem setJob_sys (i : Nat) (f : Job → Job) : (m.setJob i f).sys = m.sys := rfl
@[simp] theorem setJob_time (i : Nat) (f : Job → Job) : (m.setJob i f).time = m.time := rfl
@[simp] theorem setJob_rings (i : Nat) (f : Job → Job) : (m.setJob i f).rings = m.rings := rfl
@[simp] theorem setJob_txn (i : Nat) (f : Job → Job) : (m.setJob i f).txn = m.txn := rfl
@[simp] theorem setJob_slots (i : Nat) (f : Job → Job) : (m.setJob i f).slots = m.slots := rfl
@[simp] theorem setJob_ops (i : Nat) (f : Job → Job) : (m.setJob i f).ops = m.ops := rfl
@[simp] theorem setJob_nextOp (i : Nat) (f : Job → Job) : (m.setJob i f).nextOp = m.nextOp := rfl
@[simp] theorem setJob_fault (i : Nat) (f : Job → Job) : (m.setJob i f).fault = m.fault := rfl
@[simp] theorem setJob_ev (i : Nat) (f : Job → Job) : (m.setJob i f).ev = m.ev := rfl
@[simp] theorem setJob_pair (i : Nat) (f : Job → Job) : (m.setJob i f).pair = m.pair := rfl
@[simp] theorem setJob_cxl (i : Nat) (f : Job → Job) : (m.setJob i f).cxl = m.cxl := rfl
@[simp] theorem setJob_id (i : Nat) (f : Job → Job) : (m.setJob i f).id = m.id := rfl
@[simp] theorem setJob_phys (i : Nat) (f : Job → Job) : (m.setJob i f).phys = m.phys := rfl
@[simp] theorem setJob_bel (i : Nat) (f : Job → Job) : (m.setJob i f).bel = m.bel := rfl
@[simp] theorem setJob_fc (i : Nat) (f : Job → Job) : (m.setJob i f).fc = m.fc := rfl
@[simp] theorem setJob_eng (i : Nat) (f : Job → Job) : (m.setJob i f).eng = m.eng := rfl
@[simp] theorem setJob_stks (i : Nat) (f : Job → Job) : (m.setJob i f).stks = m.stks := rfl
@[simp] theorem setJob_peers (i : Nat) (f : Job → Job) : (m.setJob i f).peers = m.peers := rfl
@[simp] theorem setJob_hall (i : Nat) (f : Job → Job) : (m.setJob i f).hall = m.hall := rfl
@[simp] theorem setJob_cell (i : Nat) (f : Job → Job) : (m.setJob i f).cell = m.cell := rfl
@[simp] theorem setJob_dma (i : Nat) (f : Job → Job) : (m.setJob i f).dma = m.dma := rfl
@[simp] theorem setJob_free (i : Nat) (f : Job → Job) : (m.setJob i f).free = m.free := rfl
@[simp] theorem setJob_lastRead (i : Nat) (f : Job → Job) : (m.setJob i f).lastRead = m.lastRead := rfl

/-! `Mach.dropJob` changes anvil. -/

@[simp] theorem dropJob_regs (i : Nat) : (m.dropJob i).regs = m.regs := rfl
@[simp] theorem dropJob_mem (i : Nat) : (m.dropJob i).mem = m.mem := rfl
@[simp] theorem dropJob_poison (i : Nat) : (m.dropJob i).poison = m.poison := rfl
@[simp] theorem dropJob_flawed (i : Nat) : (m.dropJob i).flawed = m.flawed := rfl
@[simp] theorem dropJob_cleanLines (i : Nat) : (m.dropJob i).cleanLines = m.cleanLines := rfl
@[simp] theorem dropJob_sys (i : Nat) : (m.dropJob i).sys = m.sys := rfl
@[simp] theorem dropJob_time (i : Nat) : (m.dropJob i).time = m.time := rfl
@[simp] theorem dropJob_rings (i : Nat) : (m.dropJob i).rings = m.rings := rfl
@[simp] theorem dropJob_txn (i : Nat) : (m.dropJob i).txn = m.txn := rfl
@[simp] theorem dropJob_slots (i : Nat) : (m.dropJob i).slots = m.slots := rfl
@[simp] theorem dropJob_ops (i : Nat) : (m.dropJob i).ops = m.ops := rfl
@[simp] theorem dropJob_nextOp (i : Nat) : (m.dropJob i).nextOp = m.nextOp := rfl
@[simp] theorem dropJob_fault (i : Nat) : (m.dropJob i).fault = m.fault := rfl
@[simp] theorem dropJob_ev (i : Nat) : (m.dropJob i).ev = m.ev := rfl
@[simp] theorem dropJob_pair (i : Nat) : (m.dropJob i).pair = m.pair := rfl
@[simp] theorem dropJob_cxl (i : Nat) : (m.dropJob i).cxl = m.cxl := rfl
@[simp] theorem dropJob_id (i : Nat) : (m.dropJob i).id = m.id := rfl
@[simp] theorem dropJob_phys (i : Nat) : (m.dropJob i).phys = m.phys := rfl
@[simp] theorem dropJob_bel (i : Nat) : (m.dropJob i).bel = m.bel := rfl
@[simp] theorem dropJob_fc (i : Nat) : (m.dropJob i).fc = m.fc := rfl
@[simp] theorem dropJob_eng (i : Nat) : (m.dropJob i).eng = m.eng := rfl
@[simp] theorem dropJob_stks (i : Nat) : (m.dropJob i).stks = m.stks := rfl
@[simp] theorem dropJob_peers (i : Nat) : (m.dropJob i).peers = m.peers := rfl
@[simp] theorem dropJob_hall (i : Nat) : (m.dropJob i).hall = m.hall := rfl
@[simp] theorem dropJob_cell (i : Nat) : (m.dropJob i).cell = m.cell := rfl
@[simp] theorem dropJob_dma (i : Nat) : (m.dropJob i).dma = m.dma := rfl
@[simp] theorem dropJob_free (i : Nat) : (m.dropJob i).free = m.free := rfl
@[simp] theorem dropJob_lastRead (i : Nat) : (m.dropJob i).lastRead = m.lastRead := rfl

/-! `Mach.poisonLine` changes poison and flawed. -/

@[simp] theorem poisonLine_regs (l : Nat) : (m.poisonLine l).regs = m.regs := rfl
@[simp] theorem poisonLine_mem (l : Nat) : (m.poisonLine l).mem = m.mem := rfl
@[simp] theorem poisonLine_cleanLines (l : Nat) : (m.poisonLine l).cleanLines = m.cleanLines := rfl
@[simp] theorem poisonLine_sys (l : Nat) : (m.poisonLine l).sys = m.sys := rfl
@[simp] theorem poisonLine_time (l : Nat) : (m.poisonLine l).time = m.time := rfl
@[simp] theorem poisonLine_rings (l : Nat) : (m.poisonLine l).rings = m.rings := rfl
@[simp] theorem poisonLine_txn (l : Nat) : (m.poisonLine l).txn = m.txn := rfl
@[simp] theorem poisonLine_slots (l : Nat) : (m.poisonLine l).slots = m.slots := rfl
@[simp] theorem poisonLine_ops (l : Nat) : (m.poisonLine l).ops = m.ops := rfl
@[simp] theorem poisonLine_nextOp (l : Nat) : (m.poisonLine l).nextOp = m.nextOp := rfl
@[simp] theorem poisonLine_fault (l : Nat) : (m.poisonLine l).fault = m.fault := rfl
@[simp] theorem poisonLine_ev (l : Nat) : (m.poisonLine l).ev = m.ev := rfl
@[simp] theorem poisonLine_pair (l : Nat) : (m.poisonLine l).pair = m.pair := rfl
@[simp] theorem poisonLine_cxl (l : Nat) : (m.poisonLine l).cxl = m.cxl := rfl
@[simp] theorem poisonLine_id (l : Nat) : (m.poisonLine l).id = m.id := rfl
@[simp] theorem poisonLine_phys (l : Nat) : (m.poisonLine l).phys = m.phys := rfl
@[simp] theorem poisonLine_bel (l : Nat) : (m.poisonLine l).bel = m.bel := rfl
@[simp] theorem poisonLine_fc (l : Nat) : (m.poisonLine l).fc = m.fc := rfl
@[simp] theorem poisonLine_anvil (l : Nat) : (m.poisonLine l).anvil = m.anvil := rfl
@[simp] theorem poisonLine_eng (l : Nat) : (m.poisonLine l).eng = m.eng := rfl
@[simp] theorem poisonLine_stks (l : Nat) : (m.poisonLine l).stks = m.stks := rfl
@[simp] theorem poisonLine_peers (l : Nat) : (m.poisonLine l).peers = m.peers := rfl
@[simp] theorem poisonLine_hall (l : Nat) : (m.poisonLine l).hall = m.hall := rfl
@[simp] theorem poisonLine_cell (l : Nat) : (m.poisonLine l).cell = m.cell := rfl
@[simp] theorem poisonLine_dma (l : Nat) : (m.poisonLine l).dma = m.dma := rfl
@[simp] theorem poisonLine_free (l : Nat) : (m.poisonLine l).free = m.free := rfl
@[simp] theorem poisonLine_lastRead (l : Nat) : (m.poisonLine l).lastRead = m.lastRead := rfl

/-! `Mach.answer` changes cxl and lastRead. -/

@[simp] theorem answer_regs (ws : List Word) (p u : Bool) : (m.answer ws p u).regs = m.regs := rfl
@[simp] theorem answer_mem (ws : List Word) (p u : Bool) : (m.answer ws p u).mem = m.mem := rfl
@[simp] theorem answer_poison (ws : List Word) (p u : Bool) : (m.answer ws p u).poison = m.poison := rfl
@[simp] theorem answer_flawed (ws : List Word) (p u : Bool) : (m.answer ws p u).flawed = m.flawed := rfl
@[simp] theorem answer_cleanLines (ws : List Word) (p u : Bool) : (m.answer ws p u).cleanLines = m.cleanLines := rfl
@[simp] theorem answer_sys (ws : List Word) (p u : Bool) : (m.answer ws p u).sys = m.sys := rfl
@[simp] theorem answer_time (ws : List Word) (p u : Bool) : (m.answer ws p u).time = m.time := rfl
@[simp] theorem answer_rings (ws : List Word) (p u : Bool) : (m.answer ws p u).rings = m.rings := rfl
@[simp] theorem answer_txn (ws : List Word) (p u : Bool) : (m.answer ws p u).txn = m.txn := rfl
@[simp] theorem answer_slots (ws : List Word) (p u : Bool) : (m.answer ws p u).slots = m.slots := rfl
@[simp] theorem answer_ops (ws : List Word) (p u : Bool) : (m.answer ws p u).ops = m.ops := rfl
@[simp] theorem answer_nextOp (ws : List Word) (p u : Bool) : (m.answer ws p u).nextOp = m.nextOp := rfl
@[simp] theorem answer_fault (ws : List Word) (p u : Bool) : (m.answer ws p u).fault = m.fault := rfl
@[simp] theorem answer_ev (ws : List Word) (p u : Bool) : (m.answer ws p u).ev = m.ev := rfl
@[simp] theorem answer_pair (ws : List Word) (p u : Bool) : (m.answer ws p u).pair = m.pair := rfl
@[simp] theorem answer_id (ws : List Word) (p u : Bool) : (m.answer ws p u).id = m.id := rfl
@[simp] theorem answer_phys (ws : List Word) (p u : Bool) : (m.answer ws p u).phys = m.phys := rfl
@[simp] theorem answer_bel (ws : List Word) (p u : Bool) : (m.answer ws p u).bel = m.bel := rfl
@[simp] theorem answer_fc (ws : List Word) (p u : Bool) : (m.answer ws p u).fc = m.fc := rfl
@[simp] theorem answer_anvil (ws : List Word) (p u : Bool) : (m.answer ws p u).anvil = m.anvil := rfl
@[simp] theorem answer_eng (ws : List Word) (p u : Bool) : (m.answer ws p u).eng = m.eng := rfl
@[simp] theorem answer_stks (ws : List Word) (p u : Bool) : (m.answer ws p u).stks = m.stks := rfl
@[simp] theorem answer_peers (ws : List Word) (p u : Bool) : (m.answer ws p u).peers = m.peers := rfl
@[simp] theorem answer_hall (ws : List Word) (p u : Bool) : (m.answer ws p u).hall = m.hall := rfl
@[simp] theorem answer_cell (ws : List Word) (p u : Bool) : (m.answer ws p u).cell = m.cell := rfl
@[simp] theorem answer_dma (ws : List Word) (p u : Bool) : (m.answer ws p u).dma = m.dma := rfl
@[simp] theorem answer_free (ws : List Word) (p u : Bool) : (m.answer ws p u).free = m.free := rfl

/-! `Mach.updReport` changes id. -/

@[simp] theorem updReport_regs (s t : Nat) : (m.updReport s t).regs = m.regs := rfl
@[simp] theorem updReport_mem (s t : Nat) : (m.updReport s t).mem = m.mem := rfl
@[simp] theorem updReport_poison (s t : Nat) : (m.updReport s t).poison = m.poison := rfl
@[simp] theorem updReport_flawed (s t : Nat) : (m.updReport s t).flawed = m.flawed := rfl
@[simp] theorem updReport_cleanLines (s t : Nat) : (m.updReport s t).cleanLines = m.cleanLines := rfl
@[simp] theorem updReport_sys (s t : Nat) : (m.updReport s t).sys = m.sys := rfl
@[simp] theorem updReport_time (s t : Nat) : (m.updReport s t).time = m.time := rfl
@[simp] theorem updReport_rings (s t : Nat) : (m.updReport s t).rings = m.rings := rfl
@[simp] theorem updReport_txn (s t : Nat) : (m.updReport s t).txn = m.txn := rfl
@[simp] theorem updReport_slots (s t : Nat) : (m.updReport s t).slots = m.slots := rfl
@[simp] theorem updReport_ops (s t : Nat) : (m.updReport s t).ops = m.ops := rfl
@[simp] theorem updReport_nextOp (s t : Nat) : (m.updReport s t).nextOp = m.nextOp := rfl
@[simp] theorem updReport_fault (s t : Nat) : (m.updReport s t).fault = m.fault := rfl
@[simp] theorem updReport_ev (s t : Nat) : (m.updReport s t).ev = m.ev := rfl
@[simp] theorem updReport_pair (s t : Nat) : (m.updReport s t).pair = m.pair := rfl
@[simp] theorem updReport_cxl (s t : Nat) : (m.updReport s t).cxl = m.cxl := rfl
@[simp] theorem updReport_phys (s t : Nat) : (m.updReport s t).phys = m.phys := rfl
@[simp] theorem updReport_bel (s t : Nat) : (m.updReport s t).bel = m.bel := rfl
@[simp] theorem updReport_fc (s t : Nat) : (m.updReport s t).fc = m.fc := rfl
@[simp] theorem updReport_anvil (s t : Nat) : (m.updReport s t).anvil = m.anvil := rfl
@[simp] theorem updReport_eng (s t : Nat) : (m.updReport s t).eng = m.eng := rfl
@[simp] theorem updReport_stks (s t : Nat) : (m.updReport s t).stks = m.stks := rfl
@[simp] theorem updReport_peers (s t : Nat) : (m.updReport s t).peers = m.peers := rfl
@[simp] theorem updReport_hall (s t : Nat) : (m.updReport s t).hall = m.hall := rfl
@[simp] theorem updReport_cell (s t : Nat) : (m.updReport s t).cell = m.cell := rfl
@[simp] theorem updReport_dma (s t : Nat) : (m.updReport s t).dma = m.dma := rfl
@[simp] theorem updReport_free (s t : Nat) : (m.updReport s t).free = m.free := rfl
@[simp] theorem updReport_lastRead (s t : Nat) : (m.updReport s t).lastRead = m.lastRead := rfl

/-! `Mach.spdmSend` changes id. -/

@[simp] theorem spdmSend_regs (bs : List Byte) : (m.spdmSend bs).regs = m.regs := rfl
@[simp] theorem spdmSend_mem (bs : List Byte) : (m.spdmSend bs).mem = m.mem := rfl
@[simp] theorem spdmSend_poison (bs : List Byte) : (m.spdmSend bs).poison = m.poison := rfl
@[simp] theorem spdmSend_flawed (bs : List Byte) : (m.spdmSend bs).flawed = m.flawed := rfl
@[simp] theorem spdmSend_cleanLines (bs : List Byte) : (m.spdmSend bs).cleanLines = m.cleanLines := rfl
@[simp] theorem spdmSend_sys (bs : List Byte) : (m.spdmSend bs).sys = m.sys := rfl
@[simp] theorem spdmSend_time (bs : List Byte) : (m.spdmSend bs).time = m.time := rfl
@[simp] theorem spdmSend_rings (bs : List Byte) : (m.spdmSend bs).rings = m.rings := rfl
@[simp] theorem spdmSend_txn (bs : List Byte) : (m.spdmSend bs).txn = m.txn := rfl
@[simp] theorem spdmSend_slots (bs : List Byte) : (m.spdmSend bs).slots = m.slots := rfl
@[simp] theorem spdmSend_ops (bs : List Byte) : (m.spdmSend bs).ops = m.ops := rfl
@[simp] theorem spdmSend_nextOp (bs : List Byte) : (m.spdmSend bs).nextOp = m.nextOp := rfl
@[simp] theorem spdmSend_fault (bs : List Byte) : (m.spdmSend bs).fault = m.fault := rfl
@[simp] theorem spdmSend_ev (bs : List Byte) : (m.spdmSend bs).ev = m.ev := rfl
@[simp] theorem spdmSend_pair (bs : List Byte) : (m.spdmSend bs).pair = m.pair := rfl
@[simp] theorem spdmSend_cxl (bs : List Byte) : (m.spdmSend bs).cxl = m.cxl := rfl
@[simp] theorem spdmSend_phys (bs : List Byte) : (m.spdmSend bs).phys = m.phys := rfl
@[simp] theorem spdmSend_bel (bs : List Byte) : (m.spdmSend bs).bel = m.bel := rfl
@[simp] theorem spdmSend_fc (bs : List Byte) : (m.spdmSend bs).fc = m.fc := rfl
@[simp] theorem spdmSend_anvil (bs : List Byte) : (m.spdmSend bs).anvil = m.anvil := rfl
@[simp] theorem spdmSend_eng (bs : List Byte) : (m.spdmSend bs).eng = m.eng := rfl
@[simp] theorem spdmSend_stks (bs : List Byte) : (m.spdmSend bs).stks = m.stks := rfl
@[simp] theorem spdmSend_peers (bs : List Byte) : (m.spdmSend bs).peers = m.peers := rfl
@[simp] theorem spdmSend_hall (bs : List Byte) : (m.spdmSend bs).hall = m.hall := rfl
@[simp] theorem spdmSend_cell (bs : List Byte) : (m.spdmSend bs).cell = m.cell := rfl
@[simp] theorem spdmSend_dma (bs : List Byte) : (m.spdmSend bs).dma = m.dma := rfl
@[simp] theorem spdmSend_free (bs : List Byte) : (m.spdmSend bs).free = m.free := rfl
@[simp] theorem spdmSend_lastRead (bs : List Byte) : (m.spdmSend bs).lastRead = m.lastRead := rfl

/-! `Mach.hasRead` changes regs and rings. -/


/-! `Mach.tracks` changes regs and rings and ops and nextOp. -/

@[simp] theorem tracks_mem (o : Nat) (p : Packet) : (m.tracks o p).mem = m.mem := rfl
@[simp] theorem tracks_poison (o : Nat) (p : Packet) : (m.tracks o p).poison = m.poison := rfl
@[simp] theorem tracks_flawed (o : Nat) (p : Packet) : (m.tracks o p).flawed = m.flawed := rfl
@[simp] theorem tracks_cleanLines (o : Nat) (p : Packet) : (m.tracks o p).cleanLines = m.cleanLines := rfl
@[simp] theorem tracks_sys (o : Nat) (p : Packet) : (m.tracks o p).sys = m.sys := rfl
@[simp] theorem tracks_time (o : Nat) (p : Packet) : (m.tracks o p).time = m.time := rfl
@[simp] theorem tracks_txn (o : Nat) (p : Packet) : (m.tracks o p).txn = m.txn := rfl
@[simp] theorem tracks_slots (o : Nat) (p : Packet) : (m.tracks o p).slots = m.slots := rfl
@[simp] theorem tracks_fault (o : Nat) (p : Packet) : (m.tracks o p).fault = m.fault := rfl
@[simp] theorem tracks_ev (o : Nat) (p : Packet) : (m.tracks o p).ev = m.ev := rfl
@[simp] theorem tracks_pair (o : Nat) (p : Packet) : (m.tracks o p).pair = m.pair := rfl
@[simp] theorem tracks_cxl (o : Nat) (p : Packet) : (m.tracks o p).cxl = m.cxl := rfl
@[simp] theorem tracks_id (o : Nat) (p : Packet) : (m.tracks o p).id = m.id := rfl
@[simp] theorem tracks_phys (o : Nat) (p : Packet) : (m.tracks o p).phys = m.phys := rfl
@[simp] theorem tracks_bel (o : Nat) (p : Packet) : (m.tracks o p).bel = m.bel := rfl
@[simp] theorem tracks_fc (o : Nat) (p : Packet) : (m.tracks o p).fc = m.fc := rfl
@[simp] theorem tracks_anvil (o : Nat) (p : Packet) : (m.tracks o p).anvil = m.anvil := rfl
@[simp] theorem tracks_eng (o : Nat) (p : Packet) : (m.tracks o p).eng = m.eng := rfl
@[simp] theorem tracks_stks (o : Nat) (p : Packet) : (m.tracks o p).stks = m.stks := rfl
@[simp] theorem tracks_peers (o : Nat) (p : Packet) : (m.tracks o p).peers = m.peers := rfl
@[simp] theorem tracks_hall (o : Nat) (p : Packet) : (m.tracks o p).hall = m.hall := rfl
@[simp] theorem tracks_cell (o : Nat) (p : Packet) : (m.tracks o p).cell = m.cell := rfl
@[simp] theorem tracks_dma (o : Nat) (p : Packet) : (m.tracks o p).dma = m.dma := rfl
@[simp] theorem tracks_free (o : Nat) (p : Packet) : (m.tracks o p).free = m.free := rfl
@[simp] theorem tracks_lastRead (o : Nat) (p : Packet) : (m.tracks o p).lastRead = m.lastRead := rfl

/-! `Mach.heard` changes peers and hall. -/

@[simp] theorem heard_regs (h : PeerHdr) : (m.heard h).regs = m.regs := rfl
@[simp] theorem heard_mem (h : PeerHdr) : (m.heard h).mem = m.mem := rfl
@[simp] theorem heard_poison (h : PeerHdr) : (m.heard h).poison = m.poison := rfl
@[simp] theorem heard_flawed (h : PeerHdr) : (m.heard h).flawed = m.flawed := rfl
@[simp] theorem heard_cleanLines (h : PeerHdr) : (m.heard h).cleanLines = m.cleanLines := rfl
@[simp] theorem heard_sys (h : PeerHdr) : (m.heard h).sys = m.sys := rfl
@[simp] theorem heard_time (h : PeerHdr) : (m.heard h).time = m.time := rfl
@[simp] theorem heard_rings (h : PeerHdr) : (m.heard h).rings = m.rings := rfl
@[simp] theorem heard_txn (h : PeerHdr) : (m.heard h).txn = m.txn := rfl
@[simp] theorem heard_slots (h : PeerHdr) : (m.heard h).slots = m.slots := rfl
@[simp] theorem heard_ops (h : PeerHdr) : (m.heard h).ops = m.ops := rfl
@[simp] theorem heard_nextOp (h : PeerHdr) : (m.heard h).nextOp = m.nextOp := rfl
@[simp] theorem heard_fault (h : PeerHdr) : (m.heard h).fault = m.fault := rfl
@[simp] theorem heard_ev (h : PeerHdr) : (m.heard h).ev = m.ev := rfl
@[simp] theorem heard_pair (h : PeerHdr) : (m.heard h).pair = m.pair := rfl
@[simp] theorem heard_cxl (h : PeerHdr) : (m.heard h).cxl = m.cxl := rfl
@[simp] theorem heard_id (h : PeerHdr) : (m.heard h).id = m.id := rfl
@[simp] theorem heard_phys (h : PeerHdr) : (m.heard h).phys = m.phys := rfl
@[simp] theorem heard_bel (h : PeerHdr) : (m.heard h).bel = m.bel := rfl
@[simp] theorem heard_fc (h : PeerHdr) : (m.heard h).fc = m.fc := rfl
@[simp] theorem heard_anvil (h : PeerHdr) : (m.heard h).anvil = m.anvil := rfl
@[simp] theorem heard_eng (h : PeerHdr) : (m.heard h).eng = m.eng := rfl
@[simp] theorem heard_stks (h : PeerHdr) : (m.heard h).stks = m.stks := rfl
@[simp] theorem heard_cell (h : PeerHdr) : (m.heard h).cell = m.cell := rfl
@[simp] theorem heard_dma (h : PeerHdr) : (m.heard h).dma = m.dma := rfl
@[simp] theorem heard_free (h : PeerHdr) : (m.heard h).free = m.free := rfl
@[simp] theorem heard_lastRead (h : PeerHdr) : (m.heard h).lastRead = m.lastRead := rfl

/-! A free value taken moves the counter of the free values and nothing else. -/

@[simp] theorem take_fst : m.take.1 = Config.freeWord m.free := rfl
@[simp] theorem take_free : m.take.2.free = m.free + 1 := rfl
@[simp] theorem take_regs : m.take.2.regs = m.regs := rfl
@[simp] theorem take_mem : m.take.2.mem = m.mem := rfl
@[simp] theorem take_poison : m.take.2.poison = m.poison := rfl
@[simp] theorem take_flawed : m.take.2.flawed = m.flawed := rfl
@[simp] theorem take_cleanLines : m.take.2.cleanLines = m.cleanLines := rfl
@[simp] theorem take_sys : m.take.2.sys = m.sys := rfl
@[simp] theorem take_time : m.take.2.time = m.time := rfl
@[simp] theorem take_rings : m.take.2.rings = m.rings := rfl
@[simp] theorem take_txn : m.take.2.txn = m.txn := rfl
@[simp] theorem take_slots : m.take.2.slots = m.slots := rfl
@[simp] theorem take_ops : m.take.2.ops = m.ops := rfl
@[simp] theorem take_nextOp : m.take.2.nextOp = m.nextOp := rfl
@[simp] theorem take_fault : m.take.2.fault = m.fault := rfl
@[simp] theorem take_ev : m.take.2.ev = m.ev := rfl
@[simp] theorem take_pair : m.take.2.pair = m.pair := rfl
@[simp] theorem take_cxl : m.take.2.cxl = m.cxl := rfl
@[simp] theorem take_id : m.take.2.id = m.id := rfl
@[simp] theorem take_phys : m.take.2.phys = m.phys := rfl
@[simp] theorem take_bel : m.take.2.bel = m.bel := rfl
@[simp] theorem take_fc : m.take.2.fc = m.fc := rfl
@[simp] theorem take_anvil : m.take.2.anvil = m.anvil := rfl
@[simp] theorem take_eng : m.take.2.eng = m.eng := rfl
@[simp] theorem take_stks : m.take.2.stks = m.stks := rfl
@[simp] theorem take_peers : m.take.2.peers = m.peers := rfl
@[simp] theorem take_hall : m.take.2.hall = m.hall := rfl
@[simp] theorem take_cell : m.take.2.cell = m.cell := rfl
@[simp] theorem take_dma : m.take.2.dma = m.dma := rfl
@[simp] theorem take_lastRead : m.take.2.lastRead = m.lastRead := rfl

/-! What the lists that hold the units' parts read after an update. -/

theorem getD_modify_self {α : Type} (l : List α) (i : Nat) (f : α → α) (d : α) (h : i < l.length) :
    (l.modify i f).getD i d = f (l.getD i d) := by
  simp [List.getD_eq_getElem?_getD, h]

theorem getD_modify_ne {α : Type} (l : List α) {i j : Nat} (f : α → α) (d : α) (h : j ≠ i) :
    (l.modify i f).getD j d = l.getD j d := by
  simp [List.getD_eq_getElem?_getD, Ne.symm h]

theorem ring_setRing (n : Nat) (f : RingSt → RingSt) (h : n < m.rings.length) : (m.setRing n f).ring n = f (m.ring n) :=
  getD_modify_self _ _ _ _ h
theorem ring_setRing_ne {n k : Nat} (f : RingSt → RingSt) (h : k ≠ n) : (m.setRing n f).ring k = m.ring k := getD_modify_ne _ _ _ h
theorem peer_setPeer (n : Nat) (f : PeerLinkSt → PeerLinkSt) (h : n < m.peers.length) : (m.setPeer n f).peer n = f (m.peer n) :=
  getD_modify_self _ _ _ _ h
theorem peer_setPeer_ne {n k : Nat} (f : PeerLinkSt → PeerLinkSt) (h : k ≠ n) : (m.setPeer n f).peer k = m.peer k :=
  getD_modify_ne _ _ _ h
theorem stackSt_setStack (n : Nat) (f : StackSt → StackSt) (h : n < m.stks.length) : (m.setStack n f).stackSt n = f (m.stackSt n) :=
  getD_modify_self _ _ _ _ h
theorem stackSt_setStack_ne {n k : Nat} (f : StackSt → StackSt) (h : k ≠ n) : (m.setStack n f).stackSt k = m.stackSt k :=
  getD_modify_ne _ _ _ h
theorem port_setPort (n : Nat) (f : PortSt → PortSt) (h : n < m.cell.ports.length) : (m.setPort n f).port n = f (m.port n) :=
  getD_modify_self _ _ _ _ h
theorem port_setPort_ne {n k : Nat} (f : PortSt → PortSt) (h : k ≠ n) : (m.setPort n f).port k = m.port k := getD_modify_ne _ _ _ h
theorem ch_setCh (n : Nat) (f : DmaCh → DmaCh) (h : n < m.dma.chs.length) : (m.setCh n f).ch n = f (m.ch n) :=
  getD_modify_self _ _ _ _ h
theorem ch_setCh_ne {n k : Nat} (f : DmaCh → DmaCh) (h : k ≠ n) : (m.setCh n f).ch k = m.ch k := getD_modify_ne _ _ _ h

end Sys2Proof.Machine
end

