-- ==== Sys2Proof/Laws/Ops.lean ====
section
/-! SUPPORT. What the operations that many commands share can do, said once: reading and writing registers, what every command
ends with, hearing a peer's frame, and reaching a register. -/

namespace Sys2Proof.Machine

/-! ## Registers -/

/-- A register written leaves every register at another address alone, in canonical form or not. -/
theorem rd_wr_ne (m : Mach) {r r' : Reg} (v : Word) (h : r'.addr ≠ r.addr) : (m.wr r v).rd r' = m.rd r' :=
  congrArg (· ^^^ r'.reset) (sget_sset_ne _ h m.regs)

/-- In canonical form a register reads what was written. -/
theorem rd_wr_self (m : Mach) (r : Reg) (v : Word) (h : Regs.wf m.regs = true) : (m.wr r v).rd r = v := by
  have e := sget_sset_self r.addr (v ^^^ r.reset) h
  simp only [Mach.wr, Mach.rd, e]
  rw [BitVec.xor_assoc, BitVec.xor_self, BitVec.xor_zero]

/-- Reading a register looks at the register file only. -/
theorem rd_congr {m n : Mach} (h : n.regs = m.regs) (r : Reg) : n.rd r = m.rd r := congrArg (fun t => sget t r.addr ^^^ r.reset) h

/-- Reading a field of a register looks at the register file only. -/
theorem rdField_congr {m n : Mach} (h : n.regs = m.regs) (r : Reg) (hi lo : Nat) : n.rdField r hi lo = m.rdField r hi lo := by
  unfold Mach.rdField; rw [rd_congr h]

/-- Reading a byte looks at the memory only. -/
theorem byte_congr {m n : Mach} (h : n.mem = m.mem) (a : Nat) : n.byte a = m.byte a := congrArg (fun t => sget t a) h

/-! ## What every command ends with -/

/-- `settle` leaves every byte of memory readable as it was. -/
@[simp] theorem byte_settle (m n : Mach) (a : Nat) : (settle m n).byte a = n.byte a := by
  simp only [settle, Mach.byte]; split <;> simp [Mach.orReg, Mach.wr]

/-- `settle` may touch `FC_STAT` and no other register. -/
theorem rd_settle_ne (m n : Mach) {r : Reg} (h : r.addr ≠ Reg.addr .fcStat) : (settle m n).rd r = n.rd r := by
  simp only [settle, Mach.rd, sget_snorm]
  split
  · exact rd_wr_ne n _ h
  · rfl

/-- The tables stand in canonical form after every command. -/
theorem settle_canonical (m n : Mach) : (settle m n).canonical = true := by
  simp only [settle, Mach.canonical, Bool.and_eq_true]; exact ⟨snorm_wf _, snorm_wf _⟩

@[simp] theorem settle_poison (m n : Mach) : (settle m n).poison = n.poison := by unfold settle; split <;> rfl
@[simp] theorem settle_flawed (m n : Mach) : (settle m n).flawed = n.flawed := by unfold settle; split <;> rfl
@[simp] theorem settle_cleanLines (m n : Mach) : (settle m n).cleanLines = n.cleanLines := by unfold settle; split <;> rfl
@[simp] theorem settle_sys (m n : Mach) : (settle m n).sys = n.sys := by unfold settle; split <;> rfl
@[simp] theorem settle_time (m n : Mach) : (settle m n).time = n.time := by unfold settle; split <;> rfl
@[simp] theorem settle_rings (m n : Mach) : (settle m n).rings = n.rings := by unfold settle; split <;> rfl
@[simp] theorem settle_txn (m n : Mach) : (settle m n).txn = n.txn := by unfold settle; split <;> rfl
@[simp] theorem settle_slots (m n : Mach) : (settle m n).slots = n.slots := by unfold settle; split <;> rfl
@[simp] theorem settle_ops (m n : Mach) : (settle m n).ops = n.ops := by unfold settle; split <;> rfl
@[simp] theorem settle_nextOp (m n : Mach) : (settle m n).nextOp = n.nextOp := by unfold settle; split <;> rfl
@[simp] theorem settle_fault (m n : Mach) : (settle m n).fault = n.fault := by unfold settle; split <;> rfl
@[simp] theorem settle_ev (m n : Mach) : (settle m n).ev = n.ev := by unfold settle; split <;> rfl
@[simp] theorem settle_pair (m n : Mach) : (settle m n).pair = n.pair := by unfold settle; split <;> rfl
@[simp] theorem settle_cxl (m n : Mach) : (settle m n).cxl = n.cxl := by unfold settle; split <;> rfl
@[simp] theorem settle_id (m n : Mach) : (settle m n).id = n.id := by unfold settle; split <;> rfl
@[simp] theorem settle_phys (m n : Mach) : (settle m n).phys = n.phys := by unfold settle; split <;> rfl
@[simp] theorem settle_bel (m n : Mach) : (settle m n).bel = n.bel := by unfold settle; split <;> rfl
@[simp] theorem settle_fc (m n : Mach) : (settle m n).fc = n.fc := by unfold settle; split <;> rfl
@[simp] theorem settle_anvil (m n : Mach) : (settle m n).anvil = n.anvil := by unfold settle; split <;> rfl
@[simp] theorem settle_eng (m n : Mach) : (settle m n).eng = n.eng := by unfold settle; split <;> rfl
@[simp] theorem settle_stks (m n : Mach) : (settle m n).stks = n.stks := by unfold settle; split <;> rfl
@[simp] theorem settle_peers (m n : Mach) : (settle m n).peers = n.peers := by unfold settle; split <;> rfl
@[simp] theorem settle_hall (m n : Mach) : (settle m n).hall = n.hall := by unfold settle; split <;> rfl
@[simp] theorem settle_cell (m n : Mach) : (settle m n).cell = n.cell := by unfold settle; split <;> rfl
@[simp] theorem settle_dma (m n : Mach) : (settle m n).dma = n.dma := by unfold settle; split <;> rfl
@[simp] theorem settle_free (m n : Mach) : (settle m n).free = n.free := by unfold settle; split <;> rfl
@[simp] theorem settle_lastRead (m n : Mach) : (settle m n).lastRead = n.lastRead := by unfold settle; split <;> rfl

/-! ## Reaching a register (R10, R491, R497) -/

/-- A write that lands is the register's own write. The hypotheses on the map are `EveryRegisterHasItsOwnAddress`. -/
theorem writeNamed_lands {m : Mach} {c : Cls} {r : Reg} (v : Word) (h : m.lands c r true) (ho : Reg.ofAddr r.addr = some r)
    (hw : wordAddr r.addr = true) (hm : ¬ (mailBase ≤ r.addr ∧ r.addr < mailBase + 0x10000)) :
    m.writeNamed c r v = m.writeReg c r v := by
  obtain ⟨h1, h2, h3, h4⟩ := h
  simp only [Mach.writeNamed, Mach.busWrite, h1, h2, h3, h4, hw, ho, if_neg hm]
  simp

/-- A register number outside the map names nothing: the write changes nothing. -/
theorem writeNamed_outside {m : Mach} {c : Cls} {r : Reg} (v : Word) (h : r.inRange = false) : m.writeNamed c r v = m := by
  simp [Mach.writeNamed, h]

/-! ## Hearing a peer (R321, R323) -/

/-- A link changed is the changed link. -/
theorem peer_setPeer_at (m : Mach) (n : Nat) (f : PeerLinkSt → PeerLinkSt) (h : n < m.peers.length) :
    (m.setPeer n f).peer n = f (m.peer n) := by
  simp [Mach.peer, Mach.setPeer, List.getD, h]

/-- Two changes of one link are one. -/
theorem setPeer_setPeer (m : Mach) (n : Nat) (f g : PeerLinkSt → PeerLinkSt) :
    (m.setPeer n f).setPeer n g = m.setPeer n (fun l => g (f l)) := by
  simp only [Mach.setPeer, List.modify_modify_eq]; rfl

/-- Changes of a link that agree on it are the same change. -/
theorem setPeer_congr (m : Mach) {n : Nat} {f g : PeerLinkSt → PeerLinkSt} (h : f (m.peer n) = g (m.peer n)) :
    m.setPeer n f = m.setPeer n g := by
  have e : m.peers.modify n f = m.peers.modify n g := by
    refine List.ext_getElem? fun k => ?_
    simp only [List.getElem?_modify]
    by_cases hk : n = k
    · subst hk
      cases hx : m.peers[n]? with
      | none => simp
      | some x => simpa [Mach.peer, List.getD, hx] using h
    · simp [hk]
  simp only [Mach.setPeer, e]

/-- A sound frame that is the next one of its link, with nothing waiting there, is heard and does its work. -/
theorem receive_heard {m : Mach} {i : Instr} {h : PeerHdr} {t : FrameType} (e : frameOf i = some (h, t)) (H : m.hears h t) :
    m.receive i = (m.heard h).frameWork i := by
  obtain ⟨h1, h0, h2, h3, h4, h5, h6, h7, h8⟩ := H
  have hst : ¬ ((m.peer h.link).st = .down ∨ (m.peer h.link).st = .training ∨ (m.peer h.link).st = .maint) := by
    simp only [Mach.carriesType, Mach.carries] at h8
    split at h8 <;> simp at h8
    · rcases h8 with h | h | h <;> simp [h]
    · simp [h8.1]
  have htag : (decide (t ≠ FrameType.ident) && h.planTag != m.planTag) = false := by rcases h3 with h3 | h3 <;> simp [h3]
  have habove : seqAbove h.seq (m.peer h.link).rx = true := by
    rw [h4, PeerLinkSt.due, seqAbove]; simp; omega
  have hp : (m.noteHeader h).peer h.link = (m.peer h.link).noted h := peer_setPeer_at m h.link (fun l => l.noted h) h0
  have hl : h.link < (m.noteHeader h).peers.length := by simpa [Mach.noteHeader, Mach.setPeer] using h0
  have hn : ((m.peer h.link).noted h).keep h.seq i = { (m.peer h.link).noted h with early := [(h.seq, i)] } := by
    simp [PeerLinkSt.keep, PeerLinkSt.noted, habove, h5]
  have hk : ((m.noteHeader h).setPeer h.link (fun l => l.keep h.seq i)).peer h.link =
      { (m.peer h.link).noted h with early := [(h.seq, i)] } := by
    rw [peer_setPeer_at _ _ _ hl, hp, hn]
  have hq : ((m.noteHeader h).setPeer h.link (fun l => l.keep h.seq i)).setPeer h.link PeerLinkSt.passed = m.heard h := by
    rw [setPeer_setPeer, Mach.heard]
    refine setPeer_congr _ ?_
    rw [hp, hn]
    simp [PeerLinkSt.passed, PeerLinkSt.noted, PeerLinkSt.due, h5, h6, h7, h4]
  have hc : (m.heard h).carriesType h.link t = true := by
    have e : (m.heard h).peer h.link = { (m.peer h.link).noted h with rx := h.seq } := by
      rw [Mach.heard, peer_setPeer_at _ _ _ hl, hp]
    simpa [Mach.carriesType, Mach.carries, e, PeerLinkSt.noted] using h8
  obtain ⟨l, hk, hs, hu, he⟩ : ∃ l, ((m.noteHeader h).setPeer h.link (fun l => l.keep h.seq i)).peer h.link = l ∧ l.skips = [] ∧
      l.due = h.seq ∧ l.early = [(h.seq, i)] :=
    ⟨_, hk, by simp [PeerLinkSt.noted, h6, h7], by rw [h4]; rfl, rfl⟩
  simp only [Mach.receive, e]
  rw [if_neg (by simpa [Nat.not_le.2 h1] using hst), if_neg (by rw [h2, htag]; simp), hk, hs, he]
  simp only [List.length_cons, List.length_nil, Nat.zero_add, Nat.add_zero, Mach.deliverDue, hk, hs, hu, he, hq]
  simp [Mach.inTurn, e, hc]

end Sys2Proof.Machine
end

