-- ==== Sys2Proof/Laws/Packets.lean ====
section
/-! SUPPORT. The path of a packet (R59–R62): what reading one leaves, what a failing check answers, and which operation serves each
opcode. -/

namespace Sys2Proof.Machine

/-- A packet that the ring does not give changes nothing. -/
theorem servePacket_unread {m : Mach} {op : Nat} {p : Packet} (h : m.mayRead p = false) : m.servePacket op p = m := by
  simp [Mach.servePacket, h]

/-- A packet that is read meets the first five checks, and then its opcode. -/
theorem servePacket_read {m : Mach} {op : Nat} {p : Packet} (hop : op < 256) (ht : p.tag < 2048) (hr : m.mayRead p = true) :
    m.servePacket op p = ((m.hasRead p).packetCheck op p (m.rd (.cxCmdSeq p.ring))).elim
      ((m.hasRead p).serveOp op (m.backTo op p) p) (fun x => (m.hasRead p).reply (m.backTo op p) x.1 x.2) := by
  have e1 : p.tag % 2048 = p.tag := Nat.mod_eq_of_lt ht
  have e2 : op % 256 = op := Nat.mod_eq_of_lt hop
  have hp : ({ p with tag := p.tag % 2048 } : Packet) = p := by rw [e1]
  rw [Mach.servePacket, hp, e1, e2, hr]
  simp only [Bool.not_true, Bool.false_eq_true, if_false]
  show (match (m.hasRead p).packetCheck op p (m.rd (.cxCmdSeq p.ring)) with
    | some x => (m.hasRead p).reply (m.backTo op p) x.1 x.2
    | none => (m.hasRead p).serveOp op (m.backTo op p) p) = _
  cases (m.hasRead p).packetCheck op p (m.rd (.cxCmdSeq p.ring)) <;> rfl

/-- A failing check is answered with its status. -/
theorem servePacket_refused {m : Mach} {op : Nat} {p : Packet} {st : Nat} {res : List Word} (hop : op < 256)
    (h : m.judges op p (some (st, res))) : m.servePacket op p = (m.hasRead p).reply (m.backTo op p) st res := by
  rw [servePacket_read hop h.1 h.2.1, h.2.2]; rfl

/-- A packet past the first five checks meets its opcode. -/
theorem servePacket_served {m : Mach} {op : Nat} {p : Packet} (hop : op < 256) (h : m.serves op p) :
    m.servePacket op p = (m.hasRead p).serveOp op (m.backTo op p) p := by
  rw [servePacket_read hop h.1.1 h.1.2.1, h.1.2.2]; rfl

@[simp] theorem serveOp_setPoint (m : Mach) (rt : RTo) (p : Packet) : m.serveOp ocSetPoint rt p =
    m.opSetPoint rt (field (p.word 4) 15 0) (p.word 5).toNat := rfl

@[simp] theorem serveOp_setCap (m : Mach) (rt : RTo) (p : Packet) : m.serveOp ocSetCap rt p =
    m.opSetCap rt (field (p.word 4) 6 0) (p.word 5) := rfl

@[simp] theorem serveOp_launchArm (m : Mach) (rt : RTo) (p : Packet) : m.serveOp ocLaunchArm rt p =
    m.opLaunchArm rt p.cls (launchOf p) (p.word 6) (p.word 7) := rfl

@[simp] theorem serveOp_launchDisarm (m : Mach) (rt : RTo) (p : Packet) : m.serveOp ocLaunchDisarm rt p =
    m.opLaunchDisarm rt (field (p.word 4) 10 0) := rfl

@[simp] theorem serveOp_cfgBegin (m : Mach) (rt : RTo) (p : Packet) : m.serveOp ocCfgBegin rt p =
    m.opCfgBegin rt p.cls := rfl

@[simp] theorem serveOp_cfgCommit (m : Mach) (rt : RTo) (p : Packet) : m.serveOp ocCfgCommit rt p =
    m.opCfgCommit rt p.cls (launchOf p) := rfl

@[simp] theorem serveOp_cfgRollback (m : Mach) (rt : RTo) (p : Packet) : m.serveOp ocCfgRollback rt p =
    m.opCfgRollback rt := rfl

theorem serveOp_opSuspend (m : Mach) (rt : RTo) (p : Packet) (h : m.id.appRun = true) : m.serveOp ocOpSuspend rt p =
    (m.serveSuspend rt (field (p.word 4) 10 0)) := by
  unfold Mach.serveOp; rw [h]; rfl

theorem serveOp_opResume (m : Mach) (rt : RTo) (p : Packet) (h : m.id.appRun = true) : m.serveOp ocOpResume rt p =
    (m.serveResume rt (field (p.word 4) 10 0)) := by
  unfold Mach.serveOp; rw [h]; rfl

theorem serveOp_opCancel (m : Mach) (rt : RTo) (p : Packet) (h : m.id.appRun = true) : m.serveOp ocOpCancel rt p =
    (m.opCancel rt (field (p.word 4) 10 0)) := by
  unfold Mach.serveOp; rw [h]; rfl

theorem serveOp_opQuery (m : Mach) (rt : RTo) (p : Packet) (h : m.id.appRun = true) : m.serveOp ocOpQuery rt p =
    (m.opQuery rt (field (p.word 4) 10 0)) := by
  unfold Mach.serveOp; rw [h]; rfl

theorem serveOp_avJobSubmit (m : Mach) (rt : RTo) (p : Packet) (h : m.id.appRun = true) : m.serveOp ocAvJobSubmit rt p =
    (m.opJobSubmit rt p.cls (addr48 (p.word 4) (p.word 5)) (addr48 (p.word 8) (p.word 9)) (p.word 6) (p.word 7) (p.word 10)) := by
  unfold Mach.serveOp; rw [h]; rfl

theorem serveOp_modelLoad (m : Mach) (rt : RTo) (p : Packet) (h : m.id.appRun = true) : m.serveOp ocModelLoad rt p =
    (m.opModelLoad rt p.cls (p.word 4) (addr48 (p.word 5) (p.word 6)) (p.word 7).toNat) := by
  unfold Mach.serveOp; rw [h]; rfl

theorem serveOp_trainRun (m : Mach) (rt : RTo) (p : Packet) (h : m.id.appRun = true) : m.serveOp ocTrainRun rt p =
    (m.opTrainRun rt p.cls (p.word 4) (p.word 5) (p.word 6)) := by
  unfold Mach.serveOp; rw [h]; rfl

theorem serveOp_capacitySweep (m : Mach) (rt : RTo) (p : Packet) (h : m.id.appRun = true) : m.serveOp ocCapacitySweep rt p =
    (match m.capsCheck (p.word 4) (p.word 5) with
      | some st => m.reply rt st []
      | none => m.startCaps rt p.cls (p.word 4) (p.word 5)) := by
  unfold Mach.serveOp; rw [h]; rfl

theorem serveOp_balanceCampaign (m : Mach) (rt : RTo) (p : Packet) (h : m.id.appRun = true) : m.serveOp ocBalanceCampaign rt p =
    (match m.campCheck (p.word 4) with
      | some st => m.reply rt st []
      | none => m.startCampaign rt p.cls (p.word 4) (p.word 5)) := by
  unfold Mach.serveOp; rw [h]; rfl

theorem serveOp_sliceReplace (m : Mach) (rt : RTo) (p : Packet) (h : m.id.appRun = true) : m.serveOp ocSliceReplace rt p =
    (m.opSliceReplace rt p.cls (p.word 4)) := by
  unfold Mach.serveOp; rw [h]; rfl

@[simp] theorem serveOp_quench (m : Mach) (rt : RTo) (p : Packet) : m.serveOp ocQuench rt p =
    m.opQuench rt p.cls := rfl

@[simp] theorem serveOp_faultRead (m : Mach) (rt : RTo) (p : Packet) : m.serveOp ocFaultRead rt p =
    m.opFaultRead rt (field (p.word 4) 7 0) := rfl

@[simp] theorem serveOp_recFreeze (m : Mach) (rt : RTo) (p : Packet) : m.serveOp ocRecFreeze rt p =
    (if bit (p.word 4) 0 then m.opRecFreeze rt else m.opRecThaw rt) := rfl

@[simp] theorem serveOp_recRead (m : Mach) (rt : RTo) (p : Packet) : m.serveOp ocRecRead rt p =
    m.opRecRead rt (p.word 4).toNat (field (p.word 5) 15 0) := rfl

@[simp] theorem serveOp_claimRelease (m : Mach) (rt : RTo) (p : Packet) : m.serveOp ocClaimRelease rt p =
    m.opClaimRelease rt := rfl

@[simp] theorem serveOp_getIdentity (m : Mach) (rt : RTo) (p : Packet) : m.serveOp ocGetIdentity rt p =
    m.opGetIdentity rt := rfl

@[simp] theorem serveOp_moduleReset (m : Mach) (rt : RTo) (p : Packet) : m.serveOp ocModuleReset rt p =
    m.opModuleReset rt (bit (p.word 4) 0) (bit (p.word 4) 1) := rfl

/-! Reading a packet touches its ring and its register `CX_CMD_SEQ_n` only. -/

@[simp] theorem hasRead_mem (m : Mach) (p : Packet) : (m.hasRead p).mem = m.mem := rfl

@[simp] theorem hasRead_poison (m : Mach) (p : Packet) : (m.hasRead p).poison = m.poison := rfl

@[simp] theorem hasRead_flawed (m : Mach) (p : Packet) : (m.hasRead p).flawed = m.flawed := rfl

@[simp] theorem hasRead_cleanLines (m : Mach) (p : Packet) : (m.hasRead p).cleanLines = m.cleanLines := rfl

@[simp] theorem hasRead_sys (m : Mach) (p : Packet) : (m.hasRead p).sys = m.sys := rfl

@[simp] theorem hasRead_time (m : Mach) (p : Packet) : (m.hasRead p).time = m.time := rfl

@[simp] theorem hasRead_txn (m : Mach) (p : Packet) : (m.hasRead p).txn = m.txn := rfl

@[simp] theorem hasRead_slots (m : Mach) (p : Packet) : (m.hasRead p).slots = m.slots := rfl

@[simp] theorem hasRead_ops (m : Mach) (p : Packet) : (m.hasRead p).ops = m.ops := rfl

@[simp] theorem hasRead_nextOp (m : Mach) (p : Packet) : (m.hasRead p).nextOp = m.nextOp := rfl

@[simp] theorem hasRead_fault (m : Mach) (p : Packet) : (m.hasRead p).fault = m.fault := rfl

@[simp] theorem hasRead_ev (m : Mach) (p : Packet) : (m.hasRead p).ev = m.ev := rfl

@[simp] theorem hasRead_pair (m : Mach) (p : Packet) : (m.hasRead p).pair = m.pair := rfl

@[simp] theorem hasRead_cxl (m : Mach) (p : Packet) : (m.hasRead p).cxl = m.cxl := rfl

@[simp] theorem hasRead_id (m : Mach) (p : Packet) : (m.hasRead p).id = m.id := rfl

@[simp] theorem hasRead_phys (m : Mach) (p : Packet) : (m.hasRead p).phys = m.phys := rfl

@[simp] theorem hasRead_bel (m : Mach) (p : Packet) : (m.hasRead p).bel = m.bel := rfl

@[simp] theorem hasRead_fc (m : Mach) (p : Packet) : (m.hasRead p).fc = m.fc := rfl

@[simp] theorem hasRead_anvil (m : Mach) (p : Packet) : (m.hasRead p).anvil = m.anvil := rfl

@[simp] theorem hasRead_eng (m : Mach) (p : Packet) : (m.hasRead p).eng = m.eng := rfl

@[simp] theorem hasRead_stks (m : Mach) (p : Packet) : (m.hasRead p).stks = m.stks := rfl

@[simp] theorem hasRead_peers (m : Mach) (p : Packet) : (m.hasRead p).peers = m.peers := rfl

@[simp] theorem hasRead_hall (m : Mach) (p : Packet) : (m.hasRead p).hall = m.hall := rfl

@[simp] theorem hasRead_cell (m : Mach) (p : Packet) : (m.hasRead p).cell = m.cell := rfl

@[simp] theorem hasRead_dma (m : Mach) (p : Packet) : (m.hasRead p).dma = m.dma := rfl

@[simp] theorem hasRead_free (m : Mach) (p : Packet) : (m.hasRead p).free = m.free := rfl

@[simp] theorem hasRead_lastRead (m : Mach) (p : Packet) : (m.hasRead p).lastRead = m.lastRead := rfl

/-- A packet with one bit of word 4 fixed is the same packet to its ring. -/
@[simp] theorem hasRead_fixW4 (m : Mach) (p : Packet) (b : Bool) : m.hasRead (fixW4 p b) = m.hasRead p := rfl

@[simp] theorem backTo_fixW4 (m : Mach) (op : Nat) (p : Packet) (b : Bool) : m.backTo op (fixW4 p b) = m.backTo op p := rfl

end Sys2Proof.Machine
end

