-- ==== Sys2Proof/Laws/Records.lean ====
section
/-! SUPPORT. What the writing of a fault record or an event record can change, said once: `still` is the module without it, and every
operation that records keeps it. -/

namespace Sys2Proof.Machine

/-- The module without what a record touches: the fault list and its sequence number, the fault vector, the records' queues and losses,
the MSI-X bits, the mark that a SEVERE record was written, the registers and the free counter. -/
def Mach.still (m : Mach) : Mach :=
  { m with
    regs := []
    fault.recs := []
    fault.nextSeq := 0
    fault.signalled := false
    fault.pushed := []
    fault.monitored := []
    ev.queue := []
    ev.hold := []
    ev.lostInFreeze := 0
    cxl.msixPend := 0
    cxl.msixSent := []
    eng.test.severe := false
    free := 0 }

theorem still_bump (m : Mach) (r : Reg) (hi lo k : Nat) : (m.bump r hi lo k).still = m.still := rfl

theorem still_msix (m : Mach) (v : Nat) : (m.msix v).still = m.still := by
  unfold Mach.msix; split <;> [rfl; split <;> rfl]

theorem still_seePair (m : Mach) (p : Nat × FCls) : (m.seePair p).still = m.still := by
  unfold Mach.seePair; split <;> rfl

theorem still_countFault (m : Mach) (c : FCls) : (m.countFault c).still = m.still := by cases c <;> rfl

theorem still_signalFault (m : Mach) : m.signalFault.still = m.still := by
  unfold Mach.signalFault Mach.msix
  split
  · split <;> [rfl; split <;> rfl]
  · rfl

theorem still_holdRec (m : Mach) (r : EvRec) : (m.holdRec r).still = m.still := by
  unfold Mach.holdRec; dsimp only; split <;> [rfl; split <;> rfl]

theorem still_emitCore (m : Mach) (r : EvRec) : (m.emitCore r).still = m.still := by
  unfold Mach.emitCore
  split
  · rfl
  · split
    · exact still_holdRec m r
    · split <;> rfl

theorem still_placeRec (m : Mach) (r : FaultRec) : (m.placeRec r).still = m.still := by
  have h : ∀ n : Mach, ({ n with eng := { n.eng with test := { n.eng.test with severe := true } } } : Mach).still = n.still := fun _ => rfl
  unfold Mach.placeRec
  dsimp only
  split
  · rw [h, still_emitCore, still_signalFault, still_countFault]; rfl
  · rw [still_emitCore, still_signalFault, still_countFault]; rfl

theorem still_recordLoop : ∀ (fuel : Nat) (m : Mach) (r : FaultRec), (m.recordLoop fuel r).still = m.still
  | 0, m, r => still_placeRec m r
  | fuel + 1, m, r => by
    unfold Mach.recordLoop
    dsimp only
    split
    · exact still_placeRec m r
    · split
      · exact still_placeRec m r
      · split
        · exact still_placeRec m r
        · split
          · rw [still_recordLoop fuel]; exact still_placeRec m r
          · exact still_placeRec m r

theorem still_afterLoss (a m : Mach) : (afterLoss a m).still = m.still := by
  unfold afterLoss
  split
  · dsimp only; rw [still_recordLoop]; rfl
  · rfl

/-- A fault accepted changes nothing but what records touch. -/
theorem still_faultAt (m : Mach) (s : Nat) (c : FCls) (k : Nat) (d : Word) (h : FaultHow) : (m.faultAt s c k d h).still = m.still :=
  (still_afterLoss _ _).trans (still_recordLoop _ _ _)

/-- A fault that a unit reports changes nothing but what records touch. -/
theorem still_raiseKind (m : Mach) (s : Nat) (c : FCls) (k : Nat) (d : Word) : (m.raiseKind s c k d).still = m.still := by
  unfold Mach.raiseKind
  split
  · rfl
  · exact (still_faultAt _ _ _ _ _ _).trans (still_seePair m _)

/-- An event record changes nothing but what records touch. -/
theorem still_emit (m : Mach) (t : Nat) (c : FCls) (p : List Word) : (m.emit t c p).still = m.still :=
  (still_afterLoss _ _).trans (still_emitCore _ _)

/-! ## Registers -/

/-- A register that no record touches: neither the fault counts, nor the fault status, nor the recorder's losses. -/
def Reg.unlogged (r : Reg) : Prop := r.addr ≠ Reg.addr .fcCount ∧ r.addr ≠ Reg.addr .fcStat ∧ r.addr ≠ Reg.addr .evLost

theorem rd_countFault (m : Mach) (c : FCls) {r : Reg} (h : r.unlogged) : (m.countFault c).rd r = m.rd r := by
  cases c <;> exact rd_wr_ne m _ h.1

theorem rd_signalFault (m : Mach) {r : Reg} (h : r.unlogged) : m.signalFault.rd r = m.rd r := by
  refine (rd_wr_ne _ _ h.2.1).trans (rd_congr ?_ r)
  unfold Mach.msix
  split <;> [(dsimp only; split <;> [rfl; split <;> rfl]); rfl]

theorem rd_emitCore (m : Mach) (e : EvRec) {r : Reg} (h : r.unlogged) : (m.emitCore e).rd r = m.rd r := by
  unfold Mach.emitCore Mach.holdRec
  dsimp only
  split
  · exact rd_wr_ne m _ h.2.2
  · split
    · split
      · rfl
      · split <;> exact rd_wr_ne m _ h.2.2
    · split
      · rfl
      · exact rd_wr_ne m _ h.2.2

theorem rd_placeRec (m : Mach) (f : FaultRec) {r : Reg} (h : r.unlogged) : (m.placeRec f).rd r = m.rd r := by
  unfold Mach.placeRec
  dsimp only
  split <;> exact (rd_emitCore _ _ h).trans ((rd_signalFault _ h).trans (rd_countFault _ _ h))

theorem rd_recordLoop {r : Reg} (h : r.unlogged) : ∀ (fuel : Nat) (m : Mach) (f : FaultRec), (m.recordLoop fuel f).rd r = m.rd r
  | 0, m, f => rd_placeRec m f h
  | fuel + 1, m, f => by
    unfold Mach.recordLoop
    dsimp only
    split
    · exact rd_placeRec m f h
    · split
      · exact rd_placeRec m f h
      · split
        · exact rd_placeRec m f h
        · split
          · exact (rd_recordLoop h fuel _ _).trans (rd_placeRec m f h)
          · exact rd_placeRec m f h

theorem rd_afterLoss (a m : Mach) {r : Reg} (h : r.unlogged) : (afterLoss a m).rd r = m.rd r := by
  unfold afterLoss
  split
  · exact rd_recordLoop h _ _ _
  · rfl

/-- A fault accepted leaves every other register alone. -/
theorem rd_faultAt (m : Mach) (s : Nat) (c : FCls) (k : Nat) (d : Word) (w : FaultHow) {r : Reg} (h : r.unlogged) :
    (m.faultAt s c k d w).rd r = m.rd r := (rd_afterLoss _ _ h).trans (rd_recordLoop h _ _ _)

theorem rd_seePair (m : Mach) (p : Nat × FCls) (r : Reg) : (m.seePair p).rd r = m.rd r := by
  unfold Mach.seePair; split <;> rfl

/-- A fault that a unit reports leaves every other register alone. -/
theorem rd_raiseKind (m : Mach) (s : Nat) (c : FCls) (k : Nat) (d : Word) {r : Reg} (h : r.unlogged) :
    (m.raiseKind s c k d).rd r = m.rd r := by
  unfold Mach.raiseKind
  split
  · rfl
  · exact (rd_faultAt _ _ _ _ _ _ h).trans (rd_seePair m _ r)

/-- An event record leaves every other register alone. -/
theorem rd_emit (m : Mach) (t : Nat) (c : FCls) (p : List Word) {r : Reg} (h : r.unlogged) : (m.emit t c p).rd r = m.rd r :=
  (rd_afterLoss _ _ h).trans (rd_emitCore _ _ h)

/-! ## Field by field -/

/-! `Mach.raiseKind`. -/

@[simp] theorem raiseKind_mem (m : Mach) (s : Nat) (c : FCls) (k : Nat) (d : Word) : (m.raiseKind s c k d).mem = m.mem := (congrArg Mach.mem (still_raiseKind m s c k d) :)
@[simp] theorem raiseKind_poison (m : Mach) (s : Nat) (c : FCls) (k : Nat) (d : Word) : (m.raiseKind s c k d).poison = m.poison := (congrArg Mach.poison (still_raiseKind m s c k d) :)
@[simp] theorem raiseKind_flawed (m : Mach) (s : Nat) (c : FCls) (k : Nat) (d : Word) : (m.raiseKind s c k d).flawed = m.flawed := (congrArg Mach.flawed (still_raiseKind m s c k d) :)
@[simp] theorem raiseKind_cleanLines (m : Mach) (s : Nat) (c : FCls) (k : Nat) (d : Word) : (m.raiseKind s c k d).cleanLines = m.cleanLines := (congrArg Mach.cleanLines (still_raiseKind m s c k d) :)
@[simp] theorem raiseKind_sys (m : Mach) (s : Nat) (c : FCls) (k : Nat) (d : Word) : (m.raiseKind s c k d).sys = m.sys := (congrArg Mach.sys (still_raiseKind m s c k d) :)
@[simp] theorem raiseKind_time (m : Mach) (s : Nat) (c : FCls) (k : Nat) (d : Word) : (m.raiseKind s c k d).time = m.time := (congrArg Mach.time (still_raiseKind m s c k d) :)
@[simp] theorem raiseKind_rings (m : Mach) (s : Nat) (c : FCls) (k : Nat) (d : Word) : (m.raiseKind s c k d).rings = m.rings := (congrArg Mach.rings (still_raiseKind m s c k d) :)
@[simp] theorem raiseKind_txn (m : Mach) (s : Nat) (c : FCls) (k : Nat) (d : Word) : (m.raiseKind s c k d).txn = m.txn := (congrArg Mach.txn (still_raiseKind m s c k d) :)
@[simp] theorem raiseKind_slots (m : Mach) (s : Nat) (c : FCls) (k : Nat) (d : Word) : (m.raiseKind s c k d).slots = m.slots := (congrArg Mach.slots (still_raiseKind m s c k d) :)
@[simp] theorem raiseKind_ops (m : Mach) (s : Nat) (c : FCls) (k : Nat) (d : Word) : (m.raiseKind s c k d).ops = m.ops := (congrArg Mach.ops (still_raiseKind m s c k d) :)
@[simp] theorem raiseKind_nextOp (m : Mach) (s : Nat) (c : FCls) (k : Nat) (d : Word) : (m.raiseKind s c k d).nextOp = m.nextOp := (congrArg Mach.nextOp (still_raiseKind m s c k d) :)
@[simp] theorem raiseKind_pair (m : Mach) (s : Nat) (c : FCls) (k : Nat) (d : Word) : (m.raiseKind s c k d).pair = m.pair := (congrArg Mach.pair (still_raiseKind m s c k d) :)
@[simp] theorem raiseKind_id (m : Mach) (s : Nat) (c : FCls) (k : Nat) (d : Word) : (m.raiseKind s c k d).id = m.id := (congrArg Mach.id (still_raiseKind m s c k d) :)
@[simp] theorem raiseKind_phys (m : Mach) (s : Nat) (c : FCls) (k : Nat) (d : Word) : (m.raiseKind s c k d).phys = m.phys := (congrArg Mach.phys (still_raiseKind m s c k d) :)
@[simp] theorem raiseKind_bel (m : Mach) (s : Nat) (c : FCls) (k : Nat) (d : Word) : (m.raiseKind s c k d).bel = m.bel := (congrArg Mach.bel (still_raiseKind m s c k d) :)
@[simp] theorem raiseKind_fc (m : Mach) (s : Nat) (c : FCls) (k : Nat) (d : Word) : (m.raiseKind s c k d).fc = m.fc := (congrArg Mach.fc (still_raiseKind m s c k d) :)
@[simp] theorem raiseKind_anvil (m : Mach) (s : Nat) (c : FCls) (k : Nat) (d : Word) : (m.raiseKind s c k d).anvil = m.anvil := (congrArg Mach.anvil (still_raiseKind m s c k d) :)
@[simp] theorem raiseKind_stks (m : Mach) (s : Nat) (c : FCls) (k : Nat) (d : Word) : (m.raiseKind s c k d).stks = m.stks := (congrArg Mach.stks (still_raiseKind m s c k d) :)
@[simp] theorem raiseKind_peers (m : Mach) (s : Nat) (c : FCls) (k : Nat) (d : Word) : (m.raiseKind s c k d).peers = m.peers := (congrArg Mach.peers (still_raiseKind m s c k d) :)
@[simp] theorem raiseKind_hall (m : Mach) (s : Nat) (c : FCls) (k : Nat) (d : Word) : (m.raiseKind s c k d).hall = m.hall := (congrArg Mach.hall (still_raiseKind m s c k d) :)
@[simp] theorem raiseKind_cell (m : Mach) (s : Nat) (c : FCls) (k : Nat) (d : Word) : (m.raiseKind s c k d).cell = m.cell := (congrArg Mach.cell (still_raiseKind m s c k d) :)
@[simp] theorem raiseKind_dma (m : Mach) (s : Nat) (c : FCls) (k : Nat) (d : Word) : (m.raiseKind s c k d).dma = m.dma := (congrArg Mach.dma (still_raiseKind m s c k d) :)
@[simp] theorem raiseKind_lastRead (m : Mach) (s : Nat) (c : FCls) (k : Nat) (d : Word) : (m.raiseKind s c k d).lastRead = m.lastRead := (congrArg Mach.lastRead (still_raiseKind m s c k d) :)
@[simp] theorem raiseKind_active (m : Mach) (s : Nat) (c : FCls) (k : Nat) (d : Word) : (m.raiseKind s c k d).fault.active = m.fault.active := (congrArg (fun n => n.fault.active) (still_raiseKind m s c k d) :)
@[simp] theorem raiseKind_wiring (m : Mach) (s : Nat) (c : FCls) (k : Nat) (d : Word) : (m.raiseKind s c k d).fault.wiring = m.fault.wiring := (congrArg (fun n => n.fault.wiring) (still_raiseKind m s c k d) :)
@[simp] theorem raiseKind_forced (m : Mach) (s : Nat) (c : FCls) (k : Nat) (d : Word) : (m.raiseKind s c k d).fault.forced = m.fault.forced := (congrArg (fun n => n.fault.forced) (still_raiseKind m s c k d) :)
@[simp] theorem raiseKind_testMode (m : Mach) (s : Nat) (c : FCls) (k : Nat) (d : Word) : (m.raiseKind s c k d).fault.testMode = m.fault.testMode := (congrArg (fun n => n.fault.testMode) (still_raiseKind m s c k d) :)
@[simp] theorem raiseKind_quench (m : Mach) (s : Nat) (c : FCls) (k : Nat) (d : Word) : (m.raiseKind s c k d).fault.quench = m.fault.quench := (congrArg (fun n => n.fault.quench) (still_raiseKind m s c k d) :)
@[simp] theorem raiseKind_parity (m : Mach) (s : Nat) (c : FCls) (k : Nat) (d : Word) : (m.raiseKind s c k d).fault.parity = m.fault.parity := (congrArg (fun n => n.fault.parity) (still_raiseKind m s c k d) :)
@[simp] theorem raiseKind_quenchCmds (m : Mach) (s : Nat) (c : FCls) (k : Nat) (d : Word) : (m.raiseKind s c k d).fault.quenchCmds = m.fault.quenchCmds := (congrArg (fun n => n.fault.quenchCmds) (still_raiseKind m s c k d) :)
@[simp] theorem raiseKind_release (m : Mach) (s : Nat) (c : FCls) (k : Nat) (d : Word) : (m.raiseKind s c k d).fault.release = m.fault.release := (congrArg (fun n => n.fault.release) (still_raiseKind m s c k d) :)
@[simp] theorem raiseKind_mounted (m : Mach) (s : Nat) (c : FCls) (k : Nat) (d : Word) : (m.raiseKind s c k d).ev.mounted = m.ev.mounted := (congrArg (fun n => n.ev.mounted) (still_raiseKind m s c k d) :)
@[simp] theorem raiseKind_stored (m : Mach) (s : Nat) (c : FCls) (k : Nat) (d : Word) : (m.raiseKind s c k d).ev.stored = m.ev.stored := (congrArg (fun n => n.ev.stored) (still_raiseKind m s c k d) :)
@[simp] theorem raiseKind_opSec (m : Mach) (s : Nat) (c : FCls) (k : Nat) (d : Word) : (m.raiseKind s c k d).ev.opSec = m.ev.opSec := (congrArg (fun n => n.ev.opSec) (still_raiseKind m s c k d) :)
@[simp] theorem raiseKind_frozen (m : Mach) (s : Nat) (c : FCls) (k : Nat) (d : Word) : (m.raiseKind s c k d).ev.frozen = m.ev.frozen := (congrArg (fun n => n.ev.frozen) (still_raiseKind m s c k d) :)
@[simp] theorem raiseKind_powerGoodQueued (m : Mach) (s : Nat) (c : FCls) (k : Nat) (d : Word) : (m.raiseKind s c k d).ev.powerGoodQueued = m.ev.powerGoodQueued := (congrArg (fun n => n.ev.powerGoodQueued) (still_raiseKind m s c k d) :)
@[simp] theorem raiseKind_retired (m : Mach) (s : Nat) (c : FCls) (k : Nat) (d : Word) : (m.raiseKind s c k d).ev.retired = m.ev.retired := (congrArg (fun n => n.ev.retired) (still_raiseKind m s c k d) :)
@[simp] theorem raiseKind_linkUp (m : Mach) (s : Nat) (c : FCls) (k : Nat) (d : Word) : (m.raiseKind s c k d).cxl.linkUp = m.cxl.linkUp := (congrArg (fun n => n.cxl.linkUp) (still_raiseKind m s c k d) :)
@[simp] theorem raiseKind_loops (m : Mach) (s : Nat) (c : FCls) (k : Nat) (d : Word) : (m.raiseKind s c k d).eng.loops = m.eng.loops := (congrArg (fun n => n.eng.loops) (still_raiseKind m s c k d) :)
@[simp] theorem raiseKind_links (m : Mach) (s : Nat) (c : FCls) (k : Nat) (d : Word) : (m.raiseKind s c k d).eng.links = m.eng.links := (congrArg (fun n => n.eng.links) (still_raiseKind m s c k d) :)

/-! `Mach.raise`. -/

@[simp] theorem raise_mem (m : Mach) (s : Nat) (c : FCls) (d : Word) : (m.raise s c d).mem = m.mem := (congrArg Mach.mem (still_raiseKind m s c kindGeneral d) :)
@[simp] theorem raise_poison (m : Mach) (s : Nat) (c : FCls) (d : Word) : (m.raise s c d).poison = m.poison := (congrArg Mach.poison (still_raiseKind m s c kindGeneral d) :)
@[simp] theorem raise_flawed (m : Mach) (s : Nat) (c : FCls) (d : Word) : (m.raise s c d).flawed = m.flawed := (congrArg Mach.flawed (still_raiseKind m s c kindGeneral d) :)
@[simp] theorem raise_cleanLines (m : Mach) (s : Nat) (c : FCls) (d : Word) : (m.raise s c d).cleanLines = m.cleanLines := (congrArg Mach.cleanLines (still_raiseKind m s c kindGeneral d) :)
@[simp] theorem raise_sys (m : Mach) (s : Nat) (c : FCls) (d : Word) : (m.raise s c d).sys = m.sys := (congrArg Mach.sys (still_raiseKind m s c kindGeneral d) :)
@[simp] theorem raise_time (m : Mach) (s : Nat) (c : FCls) (d : Word) : (m.raise s c d).time = m.time := (congrArg Mach.time (still_raiseKind m s c kindGeneral d) :)
@[simp] theorem raise_rings (m : Mach) (s : Nat) (c : FCls) (d : Word) : (m.raise s c d).rings = m.rings := (congrArg Mach.rings (still_raiseKind m s c kindGeneral d) :)
@[simp] theorem raise_txn (m : Mach) (s : Nat) (c : FCls) (d : Word) : (m.raise s c d).txn = m.txn := (congrArg Mach.txn (still_raiseKind m s c kindGeneral d) :)
@[simp] theorem raise_slots (m : Mach) (s : Nat) (c : FCls) (d : Word) : (m.raise s c d).slots = m.slots := (congrArg Mach.slots (still_raiseKind m s c kindGeneral d) :)
@[simp] theorem raise_ops (m : Mach) (s : Nat) (c : FCls) (d : Word) : (m.raise s c d).ops = m.ops := (congrArg Mach.ops (still_raiseKind m s c kindGeneral d) :)
@[simp] theorem raise_nextOp (m : Mach) (s : Nat) (c : FCls) (d : Word) : (m.raise s c d).nextOp = m.nextOp := (congrArg Mach.nextOp (still_raiseKind m s c kindGeneral d) :)
@[simp] theorem raise_pair (m : Mach) (s : Nat) (c : FCls) (d : Word) : (m.raise s c d).pair = m.pair := (congrArg Mach.pair (still_raiseKind m s c kindGeneral d) :)
@[simp] theorem raise_id (m : Mach) (s : Nat) (c : FCls) (d : Word) : (m.raise s c d).id = m.id := (congrArg Mach.id (still_raiseKind m s c kindGeneral d) :)
@[simp] theorem raise_phys (m : Mach) (s : Nat) (c : FCls) (d : Word) : (m.raise s c d).phys = m.phys := (congrArg Mach.phys (still_raiseKind m s c kindGeneral d) :)
@[simp] theorem raise_bel (m : Mach) (s : Nat) (c : FCls) (d : Word) : (m.raise s c d).bel = m.bel := (congrArg Mach.bel (still_raiseKind m s c kindGeneral d) :)
@[simp] theorem raise_fc (m : Mach) (s : Nat) (c : FCls) (d : Word) : (m.raise s c d).fc = m.fc := (congrArg Mach.fc (still_raiseKind m s c kindGeneral d) :)
@[simp] theorem raise_anvil (m : Mach) (s : Nat) (c : FCls) (d : Word) : (m.raise s c d).anvil = m.anvil := (congrArg Mach.anvil (still_raiseKind m s c kindGeneral d) :)
@[simp] theorem raise_stks (m : Mach) (s : Nat) (c : FCls) (d : Word) : (m.raise s c d).stks = m.stks := (congrArg Mach.stks (still_raiseKind m s c kindGeneral d) :)
@[simp] theorem raise_peers (m : Mach) (s : Nat) (c : FCls) (d : Word) : (m.raise s c d).peers = m.peers := (congrArg Mach.peers (still_raiseKind m s c kindGeneral d) :)
@[simp] theorem raise_hall (m : Mach) (s : Nat) (c : FCls) (d : Word) : (m.raise s c d).hall = m.hall := (congrArg Mach.hall (still_raiseKind m s c kindGeneral d) :)
@[simp] theorem raise_cell (m : Mach) (s : Nat) (c : FCls) (d : Word) : (m.raise s c d).cell = m.cell := (congrArg Mach.cell (still_raiseKind m s c kindGeneral d) :)
@[simp] theorem raise_dma (m : Mach) (s : Nat) (c : FCls) (d : Word) : (m.raise s c d).dma = m.dma := (congrArg Mach.dma (still_raiseKind m s c kindGeneral d) :)
@[simp] theorem raise_lastRead (m : Mach) (s : Nat) (c : FCls) (d : Word) : (m.raise s c d).lastRead = m.lastRead := (congrArg Mach.lastRead (still_raiseKind m s c kindGeneral d) :)
@[simp] theorem raise_active (m : Mach) (s : Nat) (c : FCls) (d : Word) : (m.raise s c d).fault.active = m.fault.active := (congrArg (fun n => n.fault.active) (still_raiseKind m s c kindGeneral d) :)
@[simp] theorem raise_wiring (m : Mach) (s : Nat) (c : FCls) (d : Word) : (m.raise s c d).fault.wiring = m.fault.wiring := (congrArg (fun n => n.fault.wiring) (still_raiseKind m s c kindGeneral d) :)
@[simp] theorem raise_forced (m : Mach) (s : Nat) (c : FCls) (d : Word) : (m.raise s c d).fault.forced = m.fault.forced := (congrArg (fun n => n.fault.forced) (still_raiseKind m s c kindGeneral d) :)
@[simp] theorem raise_testMode (m : Mach) (s : Nat) (c : FCls) (d : Word) : (m.raise s c d).fault.testMode = m.fault.testMode := (congrArg (fun n => n.fault.testMode) (still_raiseKind m s c kindGeneral d) :)
@[simp] theorem raise_quench (m : Mach) (s : Nat) (c : FCls) (d : Word) : (m.raise s c d).fault.quench = m.fault.quench := (congrArg (fun n => n.fault.quench) (still_raiseKind m s c kindGeneral d) :)
@[simp] theorem raise_parity (m : Mach) (s : Nat) (c : FCls) (d : Word) : (m.raise s c d).fault.parity = m.fault.parity := (congrArg (fun n => n.fault.parity) (still_raiseKind m s c kindGeneral d) :)
@[simp] theorem raise_quenchCmds (m : Mach) (s : Nat) (c : FCls) (d : Word) : (m.raise s c d).fault.quenchCmds = m.fault.quenchCmds := (congrArg (fun n => n.fault.quenchCmds) (still_raiseKind m s c kindGeneral d) :)
@[simp] theorem raise_release (m : Mach) (s : Nat) (c : FCls) (d : Word) : (m.raise s c d).fault.release = m.fault.release := (congrArg (fun n => n.fault.release) (still_raiseKind m s c kindGeneral d) :)
@[simp] theorem raise_mounted (m : Mach) (s : Nat) (c : FCls) (d : Word) : (m.raise s c d).ev.mounted = m.ev.mounted := (congrArg (fun n => n.ev.mounted) (still_raiseKind m s c kindGeneral d) :)
@[simp] theorem raise_stored (m : Mach) (s : Nat) (c : FCls) (d : Word) : (m.raise s c d).ev.stored = m.ev.stored := (congrArg (fun n => n.ev.stored) (still_raiseKind m s c kindGeneral d) :)
@[simp] theorem raise_opSec (m : Mach) (s : Nat) (c : FCls) (d : Word) : (m.raise s c d).ev.opSec = m.ev.opSec := (congrArg (fun n => n.ev.opSec) (still_raiseKind m s c kindGeneral d) :)
@[simp] theorem raise_frozen (m : Mach) (s : Nat) (c : FCls) (d : Word) : (m.raise s c d).ev.frozen = m.ev.frozen := (congrArg (fun n => n.ev.frozen) (still_raiseKind m s c kindGeneral d) :)
@[simp] theorem raise_powerGoodQueued (m : Mach) (s : Nat) (c : FCls) (d : Word) : (m.raise s c d).ev.powerGoodQueued = m.ev.powerGoodQueued := (congrArg (fun n => n.ev.powerGoodQueued) (still_raiseKind m s c kindGeneral d) :)
@[simp] theorem raise_retired (m : Mach) (s : Nat) (c : FCls) (d : Word) : (m.raise s c d).ev.retired = m.ev.retired := (congrArg (fun n => n.ev.retired) (still_raiseKind m s c kindGeneral d) :)
@[simp] theorem raise_linkUp (m : Mach) (s : Nat) (c : FCls) (d : Word) : (m.raise s c d).cxl.linkUp = m.cxl.linkUp := (congrArg (fun n => n.cxl.linkUp) (still_raiseKind m s c kindGeneral d) :)
@[simp] theorem raise_loops (m : Mach) (s : Nat) (c : FCls) (d : Word) : (m.raise s c d).eng.loops = m.eng.loops := (congrArg (fun n => n.eng.loops) (still_raiseKind m s c kindGeneral d) :)
@[simp] theorem raise_links (m : Mach) (s : Nat) (c : FCls) (d : Word) : (m.raise s c d).eng.links = m.eng.links := (congrArg (fun n => n.eng.links) (still_raiseKind m s c kindGeneral d) :)

/-! `Mach.faultAt`. -/

@[simp] theorem faultAt_mem (m : Mach) (s : Nat) (c : FCls) (k : Nat) (d : Word) (h : FaultHow) : (m.faultAt s c k d h).mem = m.mem := (congrArg Mach.mem (still_faultAt m s c k d h) :)
@[simp] theorem faultAt_poison (m : Mach) (s : Nat) (c : FCls) (k : Nat) (d : Word) (h : FaultHow) : (m.faultAt s c k d h).poison = m.poison := (congrArg Mach.poison (still_faultAt m s c k d h) :)
@[simp] theorem faultAt_flawed (m : Mach) (s : Nat) (c : FCls) (k : Nat) (d : Word) (h : FaultHow) : (m.faultAt s c k d h).flawed = m.flawed := (congrArg Mach.flawed (still_faultAt m s c k d h) :)
@[simp] theorem faultAt_cleanLines (m : Mach) (s : Nat) (c : FCls) (k : Nat) (d : Word) (h : FaultHow) : (m.faultAt s c k d h).cleanLines = m.cleanLines := (congrArg Mach.cleanLines (still_faultAt m s c k d h) :)
@[simp] theorem faultAt_sys (m : Mach) (s : Nat) (c : FCls) (k : Nat) (d : Word) (h : FaultHow) : (m.faultAt s c k d h).sys = m.sys := (congrArg Mach.sys (still_faultAt m s c k d h) :)
@[simp] theorem faultAt_time (m : Mach) (s : Nat) (c : FCls) (k : Nat) (d : Word) (h : FaultHow) : (m.faultAt s c k d h).time = m.time := (congrArg Mach.time (still_faultAt m s c k d h) :)
@[simp] theorem faultAt_rings (m : Mach) (s : Nat) (c : FCls) (k : Nat) (d : Word) (h : FaultHow) : (m.faultAt s c k d h).rings = m.rings := (congrArg Mach.rings (still_faultAt m s c k d h) :)
@[simp] theorem faultAt_txn (m : Mach) (s : Nat) (c : FCls) (k : Nat) (d : Word) (h : FaultHow) : (m.faultAt s c k d h).txn = m.txn := (congrArg Mach.txn (still_faultAt m s c k d h) :)
@[simp] theorem faultAt_slots (m : Mach) (s : Nat) (c : FCls) (k : Nat) (d : Word) (h : FaultHow) : (m.faultAt s c k d h).slots = m.slots := (congrArg Mach.slots (still_faultAt m s c k d h) :)
@[simp] theorem faultAt_ops (m : Mach) (s : Nat) (c : FCls) (k : Nat) (d : Word) (h : FaultHow) : (m.faultAt s c k d h).ops = m.ops := (congrArg Mach.ops (still_faultAt m s c k d h) :)
@[simp] theorem faultAt_nextOp (m : Mach) (s : Nat) (c : FCls) (k : Nat) (d : Word) (h : FaultHow) : (m.faultAt s c k d h).nextOp = m.nextOp := (congrArg Mach.nextOp (still_faultAt m s c k d h) :)
@[simp] theorem faultAt_pair (m : Mach) (s : Nat) (c : FCls) (k : Nat) (d : Word) (h : FaultHow) : (m.faultAt s c k d h).pair = m.pair := (congrArg Mach.pair (still_faultAt m s c k d h) :)
@[simp] theorem faultAt_id (m : Mach) (s : Nat) (c : FCls) (k : Nat) (d : Word) (h : FaultHow) : (m.faultAt s c k d h).id = m.id := (congrArg Mach.id (still_faultAt m s c k d h) :)
@[simp] theorem faultAt_phys (m : Mach) (s : Nat) (c : FCls) (k : Nat) (d : Word) (h : FaultHow) : (m.faultAt s c k d h).phys = m.phys := (congrArg Mach.phys (still_faultAt m s c k d h) :)
@[simp] theorem faultAt_bel (m : Mach) (s : Nat) (c : FCls) (k : Nat) (d : Word) (h : FaultHow) : (m.faultAt s c k d h).bel = m.bel := (congrArg Mach.bel (still_faultAt m s c k d h) :)
@[simp] theorem faultAt_fc (m : Mach) (s : Nat) (c : FCls) (k : Nat) (d : Word) (h : FaultHow) : (m.faultAt s c k d h).fc = m.fc := (congrArg Mach.fc (still_faultAt m s c k d h) :)
@[simp] theorem faultAt_anvil (m : Mach) (s : Nat) (c : FCls) (k : Nat) (d : Word) (h : FaultHow) : (m.faultAt s c k d h).anvil = m.anvil := (congrArg Mach.anvil (still_faultAt m s c k d h) :)
@[simp] theorem faultAt_stks (m : Mach) (s : Nat) (c : FCls) (k : Nat) (d : Word) (h : FaultHow) : (m.faultAt s c k d h).stks = m.stks := (congrArg Mach.stks (still_faultAt m s c k d h) :)
@[simp] theorem faultAt_peers (m : Mach) (s : Nat) (c : FCls) (k : Nat) (d : Word) (h : FaultHow) : (m.faultAt s c k d h).peers = m.peers := (congrArg Mach.peers (still_faultAt m s c k d h) :)
@[simp] theorem faultAt_hall (m : Mach) (s : Nat) (c : FCls) (k : Nat) (d : Word) (h : FaultHow) : (m.faultAt s c k d h).hall = m.hall := (congrArg Mach.hall (still_faultAt m s c k d h) :)
@[simp] theorem faultAt_cell (m : Mach) (s : Nat) (c : FCls) (k : Nat) (d : Word) (h : FaultHow) : (m.faultAt s c k d h).cell = m.cell := (congrArg Mach.cell (still_faultAt m s c k d h) :)
@[simp] theorem faultAt_dma (m : Mach) (s : Nat) (c : FCls) (k : Nat) (d : Word) (h : FaultHow) : (m.faultAt s c k d h).dma = m.dma := (congrArg Mach.dma (still_faultAt m s c k d h) :)
@[simp] theorem faultAt_lastRead (m : Mach) (s : Nat) (c : FCls) (k : Nat) (d : Word) (h : FaultHow) : (m.faultAt s c k d h).lastRead = m.lastRead := (congrArg Mach.lastRead (still_faultAt m s c k d h) :)
@[simp] theorem faultAt_active (m : Mach) (s : Nat) (c : FCls) (k : Nat) (d : Word) (h : FaultHow) : (m.faultAt s c k d h).fault.active = m.fault.active := (congrArg (fun n => n.fault.active) (still_faultAt m s c k d h) :)
@[simp] theorem faultAt_wiring (m : Mach) (s : Nat) (c : FCls) (k : Nat) (d : Word) (h : FaultHow) : (m.faultAt s c k d h).fault.wiring = m.fault.wiring := (congrArg (fun n => n.fault.wiring) (still_faultAt m s c k d h) :)
@[simp] theorem faultAt_forced (m : Mach) (s : Nat) (c : FCls) (k : Nat) (d : Word) (h : FaultHow) : (m.faultAt s c k d h).fault.forced = m.fault.forced := (congrArg (fun n => n.fault.forced) (still_faultAt m s c k d h) :)
@[simp] theorem faultAt_testMode (m : Mach) (s : Nat) (c : FCls) (k : Nat) (d : Word) (h : FaultHow) : (m.faultAt s c k d h).fault.testMode = m.fault.testMode := (congrArg (fun n => n.fault.testMode) (still_faultAt m s c k d h) :)
@[simp] theorem faultAt_quench (m : Mach) (s : Nat) (c : FCls) (k : Nat) (d : Word) (h : FaultHow) : (m.faultAt s c k d h).fault.quench = m.fault.quench := (congrArg (fun n => n.fault.quench) (still_faultAt m s c k d h) :)
@[simp] theorem faultAt_parity (m : Mach) (s : Nat) (c : FCls) (k : Nat) (d : Word) (h : FaultHow) : (m.faultAt s c k d h).fault.parity = m.fault.parity := (congrArg (fun n => n.fault.parity) (still_faultAt m s c k d h) :)
@[simp] theorem faultAt_quenchCmds (m : Mach) (s : Nat) (c : FCls) (k : Nat) (d : Word) (h : FaultHow) : (m.faultAt s c k d h).fault.quenchCmds = m.fault.quenchCmds := (congrArg (fun n => n.fault.quenchCmds) (still_faultAt m s c k d h) :)
@[simp] theorem faultAt_release (m : Mach) (s : Nat) (c : FCls) (k : Nat) (d : Word) (h : FaultHow) : (m.faultAt s c k d h).fault.release = m.fault.release := (congrArg (fun n => n.fault.release) (still_faultAt m s c k d h) :)
@[simp] theorem faultAt_mounted (m : Mach) (s : Nat) (c : FCls) (k : Nat) (d : Word) (h : FaultHow) : (m.faultAt s c k d h).ev.mounted = m.ev.mounted := (congrArg (fun n => n.ev.mounted) (still_faultAt m s c k d h) :)
@[simp] theorem faultAt_stored (m : Mach) (s : Nat) (c : FCls) (k : Nat) (d : Word) (h : FaultHow) : (m.faultAt s c k d h).ev.stored = m.ev.stored := (congrArg (fun n => n.ev.stored) (still_faultAt m s c k d h) :)
@[simp] theorem faultAt_opSec (m : Mach) (s : Nat) (c : FCls) (k : Nat) (d : Word) (h : FaultHow) : (m.faultAt s c k d h).ev.opSec = m.ev.opSec := (congrArg (fun n => n.ev.opSec) (still_faultAt m s c k d h) :)
@[simp] theorem faultAt_frozen (m : Mach) (s : Nat) (c : FCls) (k : Nat) (d : Word) (h : FaultHow) : (m.faultAt s c k d h).ev.frozen = m.ev.frozen := (congrArg (fun n => n.ev.frozen) (still_faultAt m s c k d h) :)
@[simp] theorem faultAt_powerGoodQueued (m : Mach) (s : Nat) (c : FCls) (k : Nat) (d : Word) (h : FaultHow) : (m.faultAt s c k d h).ev.powerGoodQueued = m.ev.powerGoodQueued := (congrArg (fun n => n.ev.powerGoodQueued) (still_faultAt m s c k d h) :)
@[simp] theorem faultAt_retired (m : Mach) (s : Nat) (c : FCls) (k : Nat) (d : Word) (h : FaultHow) : (m.faultAt s c k d h).ev.retired = m.ev.retired := (congrArg (fun n => n.ev.retired) (still_faultAt m s c k d h) :)
@[simp] theorem faultAt_linkUp (m : Mach) (s : Nat) (c : FCls) (k : Nat) (d : Word) (h : FaultHow) : (m.faultAt s c k d h).cxl.linkUp = m.cxl.linkUp := (congrArg (fun n => n.cxl.linkUp) (still_faultAt m s c k d h) :)
@[simp] theorem faultAt_loops (m : Mach) (s : Nat) (c : FCls) (k : Nat) (d : Word) (h : FaultHow) : (m.faultAt s c k d h).eng.loops = m.eng.loops := (congrArg (fun n => n.eng.loops) (still_faultAt m s c k d h) :)
@[simp] theorem faultAt_links (m : Mach) (s : Nat) (c : FCls) (k : Nat) (d : Word) (h : FaultHow) : (m.faultAt s c k d h).eng.links = m.eng.links := (congrArg (fun n => n.eng.links) (still_faultAt m s c k d h) :)

/-! `Mach.emit`. -/

@[simp] theorem emit_mem (m : Mach) (t : Nat) (c : FCls) (p : List Word) : (m.emit t c p).mem = m.mem := (congrArg Mach.mem (still_emit m t c p) :)
@[simp] theorem emit_poison (m : Mach) (t : Nat) (c : FCls) (p : List Word) : (m.emit t c p).poison = m.poison := (congrArg Mach.poison (still_emit m t c p) :)
@[simp] theorem emit_flawed (m : Mach) (t : Nat) (c : FCls) (p : List Word) : (m.emit t c p).flawed = m.flawed := (congrArg Mach.flawed (still_emit m t c p) :)
@[simp] theorem emit_cleanLines (m : Mach) (t : Nat) (c : FCls) (p : List Word) : (m.emit t c p).cleanLines = m.cleanLines := (congrArg Mach.cleanLines (still_emit m t c p) :)
@[simp] theorem emit_sys (m : Mach) (t : Nat) (c : FCls) (p : List Word) : (m.emit t c p).sys = m.sys := (congrArg Mach.sys (still_emit m t c p) :)
@[simp] theorem emit_time (m : Mach) (t : Nat) (c : FCls) (p : List Word) : (m.emit t c p).time = m.time := (congrArg Mach.time (still_emit m t c p) :)
@[simp] theorem emit_rings (m : Mach) (t : Nat) (c : FCls) (p : List Word) : (m.emit t c p).rings = m.rings := (congrArg Mach.rings (still_emit m t c p) :)
@[simp] theorem emit_txn (m : Mach) (t : Nat) (c : FCls) (p : List Word) : (m.emit t c p).txn = m.txn := (congrArg Mach.txn (still_emit m t c p) :)
@[simp] theorem emit_slots (m : Mach) (t : Nat) (c : FCls) (p : List Word) : (m.emit t c p).slots = m.slots := (congrArg Mach.slots (still_emit m t c p) :)
@[simp] theorem emit_ops (m : Mach) (t : Nat) (c : FCls) (p : List Word) : (m.emit t c p).ops = m.ops := (congrArg Mach.ops (still_emit m t c p) :)
@[simp] theorem emit_nextOp (m : Mach) (t : Nat) (c : FCls) (p : List Word) : (m.emit t c p).nextOp = m.nextOp := (congrArg Mach.nextOp (still_emit m t c p) :)
@[simp] theorem emit_pair (m : Mach) (t : Nat) (c : FCls) (p : List Word) : (m.emit t c p).pair = m.pair := (congrArg Mach.pair (still_emit m t c p) :)
@[simp] theorem emit_id (m : Mach) (t : Nat) (c : FCls) (p : List Word) : (m.emit t c p).id = m.id := (congrArg Mach.id (still_emit m t c p) :)
@[simp] theorem emit_phys (m : Mach) (t : Nat) (c : FCls) (p : List Word) : (m.emit t c p).phys = m.phys := (congrArg Mach.phys (still_emit m t c p) :)
@[simp] theorem emit_bel (m : Mach) (t : Nat) (c : FCls) (p : List Word) : (m.emit t c p).bel = m.bel := (congrArg Mach.bel (still_emit m t c p) :)
@[simp] theorem emit_fc (m : Mach) (t : Nat) (c : FCls) (p : List Word) : (m.emit t c p).fc = m.fc := (congrArg Mach.fc (still_emit m t c p) :)
@[simp] theorem emit_anvil (m : Mach) (t : Nat) (c : FCls) (p : List Word) : (m.emit t c p).anvil = m.anvil := (congrArg Mach.anvil (still_emit m t c p) :)
@[simp] theorem emit_stks (m : Mach) (t : Nat) (c : FCls) (p : List Word) : (m.emit t c p).stks = m.stks := (congrArg Mach.stks (still_emit m t c p) :)
@[simp] theorem emit_peers (m : Mach) (t : Nat) (c : FCls) (p : List Word) : (m.emit t c p).peers = m.peers := (congrArg Mach.peers (still_emit m t c p) :)
@[simp] theorem emit_hall (m : Mach) (t : Nat) (c : FCls) (p : List Word) : (m.emit t c p).hall = m.hall := (congrArg Mach.hall (still_emit m t c p) :)
@[simp] theorem emit_cell (m : Mach) (t : Nat) (c : FCls) (p : List Word) : (m.emit t c p).cell = m.cell := (congrArg Mach.cell (still_emit m t c p) :)
@[simp] theorem emit_dma (m : Mach) (t : Nat) (c : FCls) (p : List Word) : (m.emit t c p).dma = m.dma := (congrArg Mach.dma (still_emit m t c p) :)
@[simp] theorem emit_lastRead (m : Mach) (t : Nat) (c : FCls) (p : List Word) : (m.emit t c p).lastRead = m.lastRead := (congrArg Mach.lastRead (still_emit m t c p) :)
@[simp] theorem emit_active (m : Mach) (t : Nat) (c : FCls) (p : List Word) : (m.emit t c p).fault.active = m.fault.active := (congrArg (fun n => n.fault.active) (still_emit m t c p) :)
@[simp] theorem emit_wiring (m : Mach) (t : Nat) (c : FCls) (p : List Word) : (m.emit t c p).fault.wiring = m.fault.wiring := (congrArg (fun n => n.fault.wiring) (still_emit m t c p) :)
@[simp] theorem emit_forced (m : Mach) (t : Nat) (c : FCls) (p : List Word) : (m.emit t c p).fault.forced = m.fault.forced := (congrArg (fun n => n.fault.forced) (still_emit m t c p) :)
@[simp] theorem emit_testMode (m : Mach) (t : Nat) (c : FCls) (p : List Word) : (m.emit t c p).fault.testMode = m.fault.testMode := (congrArg (fun n => n.fault.testMode) (still_emit m t c p) :)
@[simp] theorem emit_quench (m : Mach) (t : Nat) (c : FCls) (p : List Word) : (m.emit t c p).fault.quench = m.fault.quench := (congrArg (fun n => n.fault.quench) (still_emit m t c p) :)
@[simp] theorem emit_parity (m : Mach) (t : Nat) (c : FCls) (p : List Word) : (m.emit t c p).fault.parity = m.fault.parity := (congrArg (fun n => n.fault.parity) (still_emit m t c p) :)
@[simp] theorem emit_quenchCmds (m : Mach) (t : Nat) (c : FCls) (p : List Word) : (m.emit t c p).fault.quenchCmds = m.fault.quenchCmds := (congrArg (fun n => n.fault.quenchCmds) (still_emit m t c p) :)
@[simp] theorem emit_release (m : Mach) (t : Nat) (c : FCls) (p : List Word) : (m.emit t c p).fault.release = m.fault.release := (congrArg (fun n => n.fault.release) (still_emit m t c p) :)
@[simp] theorem emit_mounted (m : Mach) (t : Nat) (c : FCls) (p : List Word) : (m.emit t c p).ev.mounted = m.ev.mounted := (congrArg (fun n => n.ev.mounted) (still_emit m t c p) :)
@[simp] theorem emit_stored (m : Mach) (t : Nat) (c : FCls) (p : List Word) : (m.emit t c p).ev.stored = m.ev.stored := (congrArg (fun n => n.ev.stored) (still_emit m t c p) :)
@[simp] theorem emit_opSec (m : Mach) (t : Nat) (c : FCls) (p : List Word) : (m.emit t c p).ev.opSec = m.ev.opSec := (congrArg (fun n => n.ev.opSec) (still_emit m t c p) :)
@[simp] theorem emit_frozen (m : Mach) (t : Nat) (c : FCls) (p : List Word) : (m.emit t c p).ev.frozen = m.ev.frozen := (congrArg (fun n => n.ev.frozen) (still_emit m t c p) :)
@[simp] theorem emit_powerGoodQueued (m : Mach) (t : Nat) (c : FCls) (p : List Word) : (m.emit t c p).ev.powerGoodQueued = m.ev.powerGoodQueued := (congrArg (fun n => n.ev.powerGoodQueued) (still_emit m t c p) :)
@[simp] theorem emit_retired (m : Mach) (t : Nat) (c : FCls) (p : List Word) : (m.emit t c p).ev.retired = m.ev.retired := (congrArg (fun n => n.ev.retired) (still_emit m t c p) :)
@[simp] theorem emit_linkUp (m : Mach) (t : Nat) (c : FCls) (p : List Word) : (m.emit t c p).cxl.linkUp = m.cxl.linkUp := (congrArg (fun n => n.cxl.linkUp) (still_emit m t c p) :)
@[simp] theorem emit_loops (m : Mach) (t : Nat) (c : FCls) (p : List Word) : (m.emit t c p).eng.loops = m.eng.loops := (congrArg (fun n => n.eng.loops) (still_emit m t c p) :)
@[simp] theorem emit_links (m : Mach) (t : Nat) (c : FCls) (p : List Word) : (m.emit t c p).eng.links = m.eng.links := (congrArg (fun n => n.eng.links) (still_emit m t c p) :)

end Sys2Proof.Machine
end

