-- ==== Sys2Proof/Tests/Slice0.lean ====
section
/-! SUPPORT. Tests of the model: the well-formedness checks refuse ill-formed terms; for each statement with hypotheses, states and
operands that meet them, clause by clause; and small tests of single steps with expected values from the spec's text. -/

namespace Sys2Proof.Tests

set_option Elab.async false

open Sys2Proof Sys2Proof.Machine

/-! ## The states -/

/-- The module at reset. -/
abbrev off : Mach := Mach.reset

/-- A module with power and both images running. -/
def on : Mach := { Mach.reset with time.powered := true, id.tkRun := true, id.appRun := true, id.pufOk := true }

/-- A module every function of which is enabled and ready. -/
def all (m : Mach) : Mach := (m.wr .syReady 0xFFFFFFFF).wr .syFuncEn 0xFFFFFFFF

/-- A module with a ring enabled, 256 packets long. -/
def ringed (m : Mach) (n : Nat) : Mach := m.wr (.cxCmdCtrl n) 0x80000008

/-- Ring 0 of HOST, ring 6 of FW and ring 7 of TK enabled. -/
def rings : Mach := ringed (ringed (ringed on 0) 6) 7

/-- A packet from the ring's class with the expected seq 0 and its words from word 2 on. -/
def pk (n tag : Nat) (ws : List Word) : Packet := ⟨n, ringClass n, tag, false, 0, ws ++ List.replicate (14 - ws.length) 0⟩

/-- An operation under a tag. -/
def op (st : OpState) : Op := ⟨0, ⟨0, 0, 5, ocTrainRun, 0⟩, .host, st, false, 0, none, 0⟩

/-- A launch slot armed for a count under tag 5. -/
def armed (n : Nat) : LaunchSlot :=
  { LaunchSlot.reset with state := .armed, tag := 5, count := n, reply := some ⟨0, 0, 5, ocLaunchArm, 0⟩ }

/-- A module with an operation under tag 5 in a state. -/
def opped (m : Mach) (st : OpState) : Mach := { m with ops := [op st] }

/-- A module with one launch armed. -/
def slotted (m : Mach) (n : Nat) : Mach := { m with slots := [armed n] }

/-- A module whose tracker is full. -/
def full (m : Mach) : Mach := { m with ops := List.replicate 2048 (op .running) }

/-- A module with a transaction in a state, of TK. -/
def open' (m : Mach) (st : TxnState) : Mach := { m with txn.state := st, txn.owner := .tk }

/-- A ring that holds four notifications of tag 5. -/
def heldBack (m : Mach) : Mach :=
  { m with rings := [{ RingSt.reset with held := List.replicate 4 ⟨⟨0, 0, 5, ocTrainRun, 0⟩, stSuspended, none, [], false, .nothing⟩ }] }

/-- HOST's window 0 covers the first 256 MiB, for reads and writes. -/
def windowed (m : Mach) : Mach := ((m.wr (.cxRwBaseLo 0 0) 3).wr (.cxRwSize 0 0) 0x1000)

/-- A job that has not begun. -/
def job : Job :=
  { id := 0, kind := .user, op := none, level := 3, cls := .tk, mode := 1, save := 0x1000, prog := 0, progLen := 2, descTable := 0,
    descCount := 0, bases := [0, 0, 0, 0], seed := 0, stepStart := 0, block := none, digestReq := false, incl := [], stopOrd := none,
    digest := none, phase := .queued, issued := false, pc := 0, loops := [], sc := List.replicate 32 0, step := 0, descs := [],
    planes := [], seq := none, ordDone := 0, cycles := 0, flags := 0, varUsed := false, parkedOnce := false, nonrepro := false, stopped := false,
    tFirst := 0, tSave := 0, saved := false, bridges := [], fin := none }

/-- A module past cap_valid. -/
def up : Mach := { on with sys.capValid := true, sys.tiles := 0xFF }

/-- A module as in factory test mode. -/
def lab : Mach := { up with fault.testMode := true }

/-- The module with pair `(source, class)` in fault. -/
def faulted (m : Mach) (s : Nat) (c : FCls) : Mach := m.setActive (s, c) true

/-- The module in quench for a cause. -/
def quenched (m : Mach) (c : QCause) : Mach := { m with fault.quench.active := true, fault.quench.cause := c }

/-- What POWER_GOOD finds: the lever closed, both feeds at 48 V, nothing readable. -/
def power : PowerInputs := ⟨0, true, 192, 192, true, false, [], [], 0, 0, 0, 0, false, false, none, none⟩

/-- A variant record of variant 2: its fields, at their offsets (R507). -/
def record : List Byte :=
  [0x43, 0x45, 0x52, 0x56, 0x01, 0x02, 0, 0] ++ List.replicate 8 0 ++ List.replicate 8 0 ++ [0, 0x08, 0, 0] ++ List.replicate 36 0

/-- A module that holds the claim, with the dispatch running. -/
def holder : Mach := { all up with pair.holding := true, bel.started := true }

/-- A link with a role and lock. -/
def linked : Mach := { up.wr .bdStageRole 1 with eng.links := [{ StageLinkSt.reset with lock := true }] }

/-- A feedback frame of link 0 at the count 0. -/
def fbk : FeedbackIn := ⟨false, true, 0xC3, 0, 0, 0, 0, 0, [], 0, 0, 0⟩

/-- Loop 0 in a state. -/
def looped (l : LoopSt) : Mach := { up with eng.loops := [l] }

/-- A good pair frame at count 0. -/
def pf : PairFrame := ⟨true, 0, 0, false, false, false, false, false, false, false, false, 0, 0, 0, 0, 0, 0, 0, 0⟩

/-- A module with one peer link in service to position 1, at position 0. -/
def peered : Mach :=
  { up with sys.links := 1, sys.strapOk := true, sys.master := true, time.inDomain := true, time.state := .locked,
            peers := [{ PeerLinkSt.reset with st := .service, farOk := true, farPos := some 1 }] }

/-- A frame without payload of a type on link 0, from position 1 to a position, the next in sequence. -/
def hd (t : FrameType) (plan dst : Nat) : PeerHdr :=
  let h : PeerHdr := ⟨0, t.code, 0, 0, [], 0, [], 1, dst, 1, 0, 0, plan⟩
  { h with crc := crc32 (wordsBytes (headerWords h)) }

/-- Two modules of a shelf, joined by link 0 of each (R328 to R330). -/
def image : List Byte :=
  [0x31, 0x4E, 0x4C, 0x50, 0x01, 0x01, 1, 0, 1, 0, 0, 0, 0, 0, 0, 0] ++ List.replicate 16 0 ++ [0, 0] ++ List.replicate 30 0xFF
    ++ [0, 0, 5, 0] ++ List.replicate 28 0 ++ [0, 0, 0, 0, 1, 0, 0, 0] ++ List.replicate 24 0

/-- The image with its CRC-32. -/
def sealed : List Byte := image ++ [0xA1, 0x10, 0xE1, 0xD1]

/-- The plan of the image. -/
def plan : Plan := planOf sealed

/-- A module with the plan applied. -/
def planned (m : Mach) : Mach := { m with hall.active := some 0, hall.bufs := [some plan, none] }

/-- The master of the domain at a count. -/
def master (n : Nat) : Mach := { planned peered with hall.isMaster := true, hall.master := some 0, time.count := n }

/-- A module of the plan whose parent is position 1. -/
def follower (n : Nat) : Mach := { planned peered with hall.master := some 1, time.count := n }

/-- A report of superframe `k`. -/
def rep (k : Nat) : Report := ⟨1, k, false, false, false, false, 0, false, 0, 0, 0, 0, 0, 0, 0, 0, []⟩

/-- A message of superframe 0 and a term. -/
def sf (t : Nat) : SfMsg := ⟨0, t, 1, 0, 1, 0, none, [], [], [], []⟩

/-- A generation of one block. -/
def gen (n : Nat) : GenHdr := ⟨n, 100000, [], [], 4096, 1⟩

/-- Sixteen bytes of the image. -/
def part (i : Nat) : List Byte := (image.drop (16 * i)).take 16

theorem image_parts : image = part 0 ++ part 1 ++ part 2 ++ part 3 ++ part 4 ++ part 5 ++ part 6 ++ part 7 := by decide +kernel
theorem crc_part0 : (part 0).foldl crc32Byte 0xFFFFFFFF = 1882827378 := by decide +kernel
theorem crc_part1 : (part 1).foldl crc32Byte 1882827378 = 1191174713 := by decide +kernel
theorem crc_part2 : (part 2).foldl crc32Byte 1191174713 = 1754707137 := by decide +kernel
theorem crc_part3 : (part 3).foldl crc32Byte 1754707137 = 1313645266 := by decide +kernel
theorem crc_part4 : (part 4).foldl crc32Byte 1313645266 = 3578063597 := by decide +kernel
theorem crc_part5 : (part 5).foldl crc32Byte 3578063597 = 3952751611 := by decide +kernel
theorem crc_part6 : (part 6).foldl crc32Byte 3952751611 = 3784948584 := by decide +kernel
theorem crc_part7 : (part 7).foldl crc32Byte 3784948584 = 773779294 := by decide +kernel

theorem image_crc : crc32 image = 0xD1E110A1 := by
  unfold crc32
  rw [image_parts]
  simp only [List.foldl_append, crc_part0, crc_part1, crc_part2, crc_part3, crc_part4, crc_part5, crc_part6, crc_part7]
  decide

theorem sealed_crc : crc32 (sealed.take 128) = 0xD1E110A1 := by
  rw [show sealed.take 128 = image by decide +kernel]; exact image_crc

theorem sealed_checks : peered.planCheck sealed = 0 := by
  unfold Mach.planCheck
  rw [if_neg, if_neg, if_neg]
  · decide +kernel
  · decide +kernel
  · simp only [not_or]
    refine ⟨by decide +kernel, by decide +kernel, by decide +kernel, ?_⟩
    rw [not_not]
    exact ((congrArg (fun n => crc32 (List.take n sealed)) (a₂ := 128) (by decide +kernel)).trans sealed_crc).trans (by decide +kernel)

/-- The module with the image in memory. -/
def holding : Mach := { peered with mem := (((List.range 132).map (fun i => (0x1000000 + i, sealed.getD i 0))).filter (fun x => x.2 != 0)) }

/-- A module whose only peer link is in a state. -/
def linkIn (st : LinkState) : Mach := { peered with peers := [{ PeerLinkSt.reset with st := st }] }

/-- A frame of the module's own plan. -/
def hdp (m : Mach) (t : FrameType) : PeerHdr := hd t m.planTag 0

/-- A primary role of slice 0. -/
def role0 : Role := ⟨0, true, [], none, [], [], false⟩

/-- A module whose anvil may run. -/
def hot : Mach := { (all up).wr .avTileMapLo 1 with anvil.bist := true }

/-- Port 0 in a state, enabled, with two units. -/
def ported (p : PortSt) : Mach := { (((all up).wr .crCtrl 1).wr (.crPcfg 0) 0x200) with sys.cfgLoaded := true, cell.ports := [p] }

/-- A unit that answered in this sweep. -/
def read : UnitSt := { UnitSt.reset with got := true }

/-- A cell data frame of unit 1. -/
def cd : CellData :=
  let d : CellData := ⟨false, 3, 1, 0, 0, 0, [], 0, [], [], [], 0, [], 0, 0, [], []⟩
  { d with crc := crc16 (dataBytes d) }

/-- A forecaster run of count 0 by job 0. -/
def run (f : Bool) : FcRun := ⟨0, 0, 0, 0, f, false, 0, 0, [], []⟩

/-- A module with jobs. -/
def jobs (js : List Job) : Mach := { hot with anvil.jobs := js }

/-- A running job whose program is two bundles of zeros. -/
def going : Job := { job with phase := .running, issued := true, prog := sramBase }

/-- A digest of ordinal 1. -/
def dig (x : DWord) : LsDigest := ⟨1, [x], 0, [], [], 0⟩

/-- A lock-step session in a state. -/
def locked (s : LsState) : Mach :=
  { jobs [going] with anvil.lock.state := s, anvil.lock.job := some 0, anvil.lock.digest := some (dig 5), anvil.lock.theirs := some (1, [6], 0) }

/-- Stack 0 in a state. -/
def stacked (s : StackSt) : Mach := { up with sys.stks := 1, stks := s :: List.replicate 7 StackSt.reset }

/-- Training under way in a cycle. -/
def training (c : Option Nat) (l : Option Nat) : Mach := { hot with fc.train := some ⟨0, 0, 8, 3, 0, l, c⟩, ops := [op .running] }

/-- Channel 31, of TK, in a state. -/
def chan (c : DmaCh) : Mach := { all up with dma.chs := List.replicate 31 DmaCh.reset ++ [c] }

/-- A descriptor that copies 64 bytes from SRAM to SRAM. -/
def desc : DmaCh :=
  { DmaCh.reset with state := 2, desc := [0, 64, 0, 0x80, 0x1000, 0x80, 0, 0], left := 64, srcAt := sramBase, srcLeft := 64,
                     dstAt := sramBase + 0x1000, dstLeft := 64 }

/-- A module with its CXL link up and decoder 0 over SRAM, the windows open to HOST. -/
def cxl : Mach := { ((up.wr (.cxRwBaseHi 0 0) 0x80).wr (.cxRwBaseLo 0 0) 3).wr (.cxRwSize 0 0) 0x2000 with
  cxl.linkUp := true, cxl.bme := true, cxl.dec0 := ⟨true, false, 0x1000000, 0x10000000, 0⟩ }

/-- An SPDM request. -/
def req (v p1 p2 : Nat) : SpdmReq := ⟨v, p1, p2, []⟩

/-- A module in an SPDM phase. -/
def spdm (p : SpdmPhase) : Mach := { cxl with id.spdm := p, id.spdmVer := 0x12, id.certOk := true }

/-- An event record. -/
def evr : EvRec := ⟨0, .info, [], 0, 0, 0, false, false, false⟩

/-- Without stacks and poisoned lines nothing is poisoned. -/
theorem clean_memory (m : Mach) (a n : Nat) (hs : m.sys.stks = 0) (hp : m.poison = []) (hf : m.flawed = []) : m.poisonIn a n = false := by
  have h : ∀ l, m.stackOf l = none := by
    intro l
    unfold Mach.stackOf Mach.space
    simp only [hs, Nat.zero_testBit]
    split
    · rename_i h
      repeat' split at h
      all_goals simp_all
    · rfl
  simp only [Mach.poisonIn, List.any_eq_false]
  intro l _
  simp [Mach.poisoned, Mach.isFlawed, Mach.stackOut, h, hp, hf]

/-- The shelf of positions 0 and 1. -/
def shelf0 : ShelfEnt := ⟨0, 0, true, true, 1, 2, 0, 0⟩

/-- A job whose state lies in its save area. -/
def parked : Job := { job with saved := true, phase := .parked }

/-- Bytes away from the one written read as before. -/
theorem bytes_setByte_out (m : Mach) (a : Nat) (b : Byte) : ∀ (n c : Nat), c + n ≤ a ∨ a < c → (m.setByte a b).bytes c n = m.bytes c n
  | 0, _, _ => rfl
  | n + 1, c, h => by
    show (m.setByte a b).byte c :: (m.setByte a b).bytes (c + 1) n = m.byte c :: m.bytes (c + 1) n
    rw [byte_setByte_ne m b (show c ≠ a by omega), bytes_setByte_out m a b n (c + 1) (by omega)]

/-- Bytes away from the word written read as before. -/
theorem bytes_setWord_out (m : Mach) (a : Nat) (w : Word) (n c : Nat) (h : c + n ≤ a ∨ a + 4 ≤ c) :
    (m.setBytes a (wordBytes w)).bytes c n = m.bytes c n := by
  simp only [wordBytes, leBytes, Mach.setBytes]
  rw [bytes_setByte_out _ _ _ _ _ (by omega), bytes_setByte_out _ _ _ _ _ (by omega), bytes_setByte_out _ _ _ _ _ (by omega),
    bytes_setByte_out _ _ _ _ _ (by omega)]

/-- A word written reads back. -/
theorem word_setWord (m : Mach) (a : Nat) (w : Word) (h : swf m.mem = true) : (m.setBytes a (wordBytes w)).word a = w := by
  have h1 : ∀ (k : Mach) (c : Nat) (b : Byte), swf k.mem = true → swf (k.setByte c b).mem = true := fun k c b => setByte_wf k c b
  simp only [wordBytes, leBytes, Mach.setBytes, Mach.word, Mach.bytes]
  rw [byte_setByte_ne _ _ (show a ≠ a + 1 + 1 + 1 by omega), byte_setByte_ne _ _ (show a ≠ a + 1 + 1 by omega),
    byte_setByte_ne _ _ (show a ≠ a + 1 by omega), byte_setByte_self _ _ _ h,
    byte_setByte_ne _ _ (show a + 1 ≠ a + 1 + 1 + 1 by omega), byte_setByte_ne _ _ (show a + 1 ≠ a + 1 + 1 by omega),
    byte_setByte_self _ _ _ (h1 _ _ _ h), byte_setByte_ne _ _ (show a + 1 + 1 ≠ a + 1 + 1 + 1 by omega),
    byte_setByte_self _ _ _ (h1 _ _ _ (h1 _ _ _ h)), byte_setByte_self _ _ _ (h1 _ _ _ (h1 _ _ _ (h1 _ _ _ h)))]
  apply BitVec.eq_of_toNat_eq
  have := w.isLt
  simp only [leNat, BitVec.toNat_ofNat]
  omega

/-- A save area can hold any image of its CRC-32. -/
theorem save_holds (f : Word → Word) : ∃ t : Sparse 8,
    ({ jobs [parked] with mem := t } : Mach).word (parked.save + saveCrcAt) = f (crc32 (({ jobs [parked] with mem := t } : Mach).saveRest parked.save)) :=
  let m := jobs [parked]
  let w := f (crc32 (m.saveRest parked.save))
  have hr : (m.setBytes (parked.save + saveCrcAt) (wordBytes w)).saveRest parked.save = m.saveRest parked.save := by
    unfold Mach.saveRest
    rw [bytes_setWord_out _ _ _ _ _ (Or.inl (by omega)), bytes_setWord_out _ _ _ _ _ (Or.inr (by omega))]
  ⟨(m.setBytes (parked.save + saveCrcAt) (wordBytes w)).mem, by
    show (m.setBytes (parked.save + saveCrcAt) (wordBytes w)).word _ = f (crc32 ((m.setBytes (parked.save + saveCrcAt) (wordBytes w)).saveRest _))
    rw [hr, word_setWord _ _ _ (by decide +kernel)]⟩

/-- A bundle goes on to the next one, outside a lock-step session. -/
def goesOn (x : Bx) (ws : List Word) : Bool :=
  match x.bundle ws with
  | .ok (y, some (.next, _)) => decide (y.m.anvil.lock.state ≠ .running)
  | _ => false

/-- A bundle halts its job. -/
def haltsAt (x : Bx) (ws : List Word) : Bool :=
  match x.bundle ws with
  | .ok (_, some (.halt, _)) => true
  | _ => false

/-- The status, slot and opcode a bundle stops with. -/
def stopsWith (x : Bx) (ws : List Word) : Option (Nat × Nat × Nat) :=
  match x.bundle ws with
  | .error e => some e
  | .ok _ => none

/-- The status of channel 31's next read beat; none where the channel halts. -/
def readStatus (m : Mach) : Option Nat :=
  match (m.readBeat 31 []).1 with
  | .ok => some 0
  | .bad st => some st
  | .halt => none

/-- Channel 31 within a burst of 64 bytes. -/
def bursting : DmaCh := { desc with burst := 64 }

/-- Channel 31 with a line's bytes in its buffer. -/
def filled : DmaCh := { desc with srcLeft := 0, buf := List.replicate 64 1 }

/-- The status with which an image fails. -/
def imageStatus (m : Mach) (bs : List Byte) : Option Nat :=
  match m.verifyImage bs bs.length with
  | .error st => some st
  | .ok _ => none

/-- Bytes placed at an address, canonically. -/
def placed (a : Nat) (bs : List Byte) : Sparse 8 := ((List.range bs.length).map (fun i => (a + i, bs.getD i 0))).filter (fun x => x.2 != 0)

/-- A job record: two blocks of SRAM for program and descriptors, one bundle, one descriptor, one tile (R253). -/
def jobRec : List Byte :=
  [0x42, 0x4A, 0x56, 0x41, 0, 1, 0, 0, 0, 0x10, 0, 0, 0x80, 0, 0, 0, 1, 0, 0, 0, 1, 0, 0, 0, 0, 0x20, 0, 0, 0x80, 0, 0, 0] ++ List.replicate 32 0 ++ [1]

/-- A package header without weights, with an inference block of 128 bytes (R274). -/
def pkgRec : List Byte := [0x47, 0x4B, 0x50, 0x4D, 1, 1, 0, 0, 0, 0, 0, 0, 0, 0, 0, 0, 0, 1, 0, 0, 0x80]

/-- FW's ring on a module whose anvil may run, SRAM open to FW, with a job record and a package in memory. -/
def submit : Mach := { ((((ringed hot 6).wr (.cxRwBaseHi 2 0) 0x80).wr (.cxRwBaseLo 2 0) 3).wr (.cxRwSize 2 0) 0x2000) with
  mem := placed sramBase jobRec ++ placed (sramBase + 0x4000) pkgRec }

/-- Its packets. -/
def pJob : Packet := pk 6 0x700 [0, 0, 0, 0x80, 0, 0, 0x100000, 0x80]
def pPkg : Packet := pk 6 0x700 [0, 0, 2, 0x4000, 0x80, 0x1000]

/-- The token of serial 0 and power cycle 0, at the update address 0 of a module out of service (R518). -/
def lawful : Mach :=
  { up.wr .syFuncEn 0 with mem := ([(0, 0x4E), (1, 0x4B), (2, 0x54), (3, 0x54)] : List (Nat × Byte)) }

/-- Which job is next does not rest on memory. -/
theorem nextUp_mem (m : Mach) (t : Sparse 8) : ({ m with mem := t } : Mach).nextUp = m.nextUp := by
  unfold Mach.nextUp
  rfl

/-- The other ports of a module whose port 0 sweeps are at rest. -/
theorem idle_ports (q : Nat) (h : q < 4) (hq : q ≠ 0) :
    (({ ported { PortSt.reset with sweep := some 0, ring := 5 } with time.count := 1000 } : Mach).port q).sweep = none := by
  rcases (show q = 1 ∨ q = 2 ∨ q = 3 by omega) with rfl | rfl | rfl <;> decide +kernel


theorem EveryStepKeepsTheForm_met :
    (State.reset.canonical = true) ∧
    (step State.reset = .next State.reset) ∧
    (Reaches State.reset State.reset) := 
  ⟨by decide +kernel,
   by rfl,
   by exact .refl _⟩

theorem CanonicalTables_met :
    (swf ([(1, 2)] : Sparse 8) = true) ∧
    (swf ([(1, 0)] : Sparse 8) = false) ∧
    (swf ([(2, 1), (1, 1)] : Sparse 8) = false) := by decide +kernel

theorem RegistersReadBack_met :
    (off.canonical = true) ∧
    (Reg.addr (.dmChCtrl 31) ≠ Reg.addr (.dmChCtrl 30)) := by decide +kernel

theorem RegistersHaveAddresses_met :
    ((Reg.dmChCtrl 31).inRange = true) ∧
    ((Reg.dmChCtrl 32).inRange = false) := by decide +kernel

theorem SvcChange_met :
    (off.canonical = true) ∧
    (∃ n, exec (.tileSelfTest 0) ⟨{ on with sys.capValid := true, sys.tiles := 1 }, []⟩ = .next ⟨n, []⟩ ∧ ({ on with sys.capValid := true, sys.tiles := 1 } :
    Mach).cap1 ≠ n.cap1) := 
  ⟨by decide +kernel,
   by exact ⟨_, rfl, by decide +kernel⟩⟩

theorem AFaultWritesItsRecord_met :
    (off.fault.recs.length < 256 ∧ off.ev.frozen = false ∧ off.canonical = true) ∧
    ((2, FCls.fatal) ∈ (faulted up 2 .fatal).fault.active ∧ (2, FCls.fatal) ∉ off.fault.active ∧ (2, FCls.fatal) ∉ off.fault.wiring ∧
    off.isForced 2 .fatal = false) := by decide +kernel

theorem PacketChecks_met :
    (on.mayRead (pk 0 1 []) = false) ∧
    (rings.judges ocSetPoint { pk 0 1 [] with seq := 1 } (some (stBadSeq, [0]))) ∧
    (rings.judges ocSetPoint { pk 0 1 [] with cls := .fw } (some (stClassMismatch, []))) ∧
    (rings.judges ocSliceReplace (pk 0 1 []) (some (stNotPermitted, []))) ∧
    (rings.judges ocSetPoint (pk 0 0x5FF []) none) ∧
    (rings.judges ocSetPoint (pk 0 0x600 []) (some (stTagRange, []))) ∧
    (knownOp 0xFF = false) ∧
    (ringClass 8 = .host ∧ isIsland 8 = true ∧ islandOp ocSetPoint = false ∧ knownOp ocSetPoint = true) ∧
    (Cls.host ∉ classesOf ocSliceReplace) := by unfold Mach.judges; decide +kernel

theorem UnknownOpcode_met :
    (knownOp 0xFF = false ∧ rings.mayRead (pk 0 0x7FF []) = true ∧ (pk 0 0x7FF []).seq = rings.rd (.cxCmdSeq 0) ∧ (pk 0 0 []).cls =
    ringClass 0) := by decide +kernel

theorem CfgBegin_met :
    (rings.serves ocCfgBegin (pk 0 1 []) ∧ rings.txn.state = .idle) ∧
    (({ rings with txn.state := .opened } : Mach).serves ocCfgBegin (pk 6 0x700 [])) := by unfold Mach.serves Mach.judges; decide +kernel

theorem CfgRollback_met :
    (({ rings with txn.state := .opened } : Mach).serves ocCfgRollback (pk 0 1 [])) ∧
    (({ rings with txn.state := .validating } : Mach).serves ocCfgRollback (pk 7 0x7FF [])) ∧
    (rings.serves ocCfgRollback (pk 6 0 [])) ∧
    (({ rings with txn.state := .opened } : Mach).classCheck ocCfgRollback .fw 0 = some stNotPermitted ∧ ({ rings with txn.state := .opened } : Mach).classCheck
    ocCfgRollback .tk 0 = none) := by unfold Mach.serves Mach.judges; decide +kernel

theorem OpQuery_met :
    ((opped rings .suspended).serves ocOpQuery (pk 0 1 [0, 0, 5]) ∧ ((opped rings .suspended).hasRead (pk 0 1 [0, 0, 5])).opHolding 5
    = some (op .suspended)) ∧
    ((slotted rings 9).serves ocOpQuery (pk 0 1 [0, 0, 5]) ∧ ((slotted rings 9).hasRead (pk 0 1 [0, 0, 5])).opHolding 5 = none ∧
    ((slotted rings 9).hasRead (pk 0 1 [0, 0, 5])).tagLaunch 5 = some (⟨0, 0, 5, ocLaunchArm, 0⟩, 0)) ∧
    (rings.serves ocOpQuery (pk 0 1 [0, 0, 5]) ∧ (rings.hasRead (pk 0 1 [0, 0, 5])).opHolding 5 = none ∧ (rings.hasRead (pk 0 1 [0, 0, 5])).tagLaunch
    5 = none) := by unfold Mach.serves Mach.judges; decide +kernel

theorem CfgCommit_met :
    ((({ rings with txn.state := .opened } : Mach).serves ocCfgCommit (pk 0 1 []) ∧ launchOf (pk 0 1 []) = 0 ∧ (rings.hasRead (pk 0 1 [])).inFlight
    < 2048) ∧
    (({ full rings with txn.state := .opened } : Mach).serves ocCfgCommit (pk 0 1 [0, 0, 9]) ∧ launchOf (pk 0 1 [0, 0, 9]) ≠ 0 ∧ 2048
    ≤ (({ full rings with txn.state := .opened } : Mach).hasRead (pk 0 1 [0, 0, 9])).inFlight) ∧
    (rings.serves ocCfgCommit (pk 6 0x700 []) ∧ rings.txn.state = .idle) ∧
    (({ rings with txn.state := .validating } : Mach).serves ocCfgCommit (pk 0 1 [])) ∧
    ((open' on .validating).txn.winAt ≠ some on.time.count ∧ (open' on .validating).txn.applyAt = none)) ∧
    ((({ open' on .validating with txn.commit := some (⟨0, 0, 1, 0, 0⟩, 0) } : Mach).txn.commit = some (⟨0, 0, 1, 0, 0⟩, 0)) ∧
    (windowsFor (on.txn.staged.length) ≤ on.txn.windows + 1 ∧ windowsFor 8192 = 1 ∧ on.txn.windows + 1 < windowsFor 8193) ∧
    (({ open' on .validating with txn.windows := 1, txn.winAt := some 0 } : Mach).validate [] .host false = none ∧ ({ open' on .validating with txn.windows := 1, txn.winAt := some 0 }
    : Mach).validate [] .host true ≠ none) ∧
    (({ open' on .validating with txn.winAt := some 0 } : Mach).txn.winAt = some on.time.count ∧ on.txn.state ≠ .validating) ∧
    (({ open' on .validating with txn.commit := some (⟨0, 0, 1, 0, 0⟩, 0), txn.applyAt := some 0 } : Mach).txn.applyAt = some 0 ∧ 0 ≤
    on.time.count ∧ on.time.count < 1)) ∧
    ((({ open' on .opened with txn.age := 10000 } : Mach).txn.age = 10000 ∧ on.txn.age < 10000) ∧
    ((slotted on 5).slots[0]? = some (armed 5) ∧ ¬ ((armed 5).state = .armed ∧ (armed 5).action = actCommit ∧ (armed 5).count = on.time.count + 1))) := 
  ⟨by unfold Mach.serves Mach.judges; decide +kernel,
   by decide +kernel,
   by decide +kernel⟩

theorem Launches_met :
    ((launchWindow 0 1 = some stLaunchLate ∧ launchWindow 0 2 = none ∧ launchWindow 0 4294967296 = none ∧ launchWindow 0 4294967297 =
    some stLaunchRange) ∧
    (rings.serves ocLaunchArm (pk 0 1 [1, 0, 0, 0, 0, 1]) ∧ bit ((pk 0 1 [1, 0, 0, 0, 0, 1]).word 6) 31 = false ∧ (rings.hasRead (pk 0 1 [1, 0, 0, 0, 0,
    1])).actionCheck 0 1 false ≠ none) ∧
    (rings.serves ocLaunchArm (pk 0 1 [0, 0, 0, 0, 1, 1]) ∧ (rings.hasRead (pk 0 1 [2])).actionCheck actPolicy 1 false = none) ∧
    ((rings.hasRead (pk 0 1 [2])).actionCheck actPolicy 1 true = none ∨ rings.hall.isMaster = false) ∧
    (launchOf (pk 0 1 [0, 0, 299]) < rings.time.count + 300 ∧ rings.time.count + 300 ≤ launchOf (pk 0 1 [0, 0, 300]) ∧ launchWindow
    rings.time.count 300 = none)) ∧
    ((launchOf (pk 0 1 [0, 0, 2]) = 2 ∧ (rings.hasRead (pk 0 1 [2])).freeSlot 0 12 = some 0 ∧ (rings.hasRead (pk 0 1 [2])).inFlight <
    2048 ∧ 2048 ≤ ((full rings).hasRead (pk 0 1 [2])).inFlight) ∧
    (({ rings with slots := List.replicate 12 (armed 9) } : Mach).freeSlot 0 12 = none) ∧
    (rings.serves ocLaunchDisarm (pk 0 1 [0, 0, 5]) ∧ (rings.hasRead (pk 0 1 [0, 0, 5])).disarmable 5 = none) ∧
    ((slotted rings 2).serves ocLaunchDisarm (pk 0 1 [0, 0, 5]) ∧ ((slotted rings 2).hasRead (pk 0 1 [0, 0, 5])).disarmable 5 = some 0
    ∧ (armed 2).domain = none ∧ rings.time.count + 2 ≤ 2) ∧
    (((slotted rings 1).slot 0).count < rings.time.count + 2 ∧ ({ armed 2 with domain := some (0, 0) } : LaunchSlot).domain = some (0, 0))) := 
  ⟨by unfold Mach.serves Mach.judges; decide +kernel,
   by unfold Mach.serves Mach.judges; decide +kernel⟩

theorem Operations_met :
    (((opped rings .running).serves ocOpSuspend (pk 0 1 [0, 0, 5]) ∧ ((opped rings .running).hasRead (pk 0 1 [0, 0, 5])).opByTag 5 =
    some (op .running) ∧ ((opped rings .running).hasRead (pk 0 1 [0, 0, 5])).noteFull (op .running) = false) ∧
    ((heldBack (opped rings .running)).serves ocOpSuspend (pk 7 0x7F0 [0, 0, 5]) ∧ ((heldBack (opped rings .running)).hasRead (pk 7 0x7F0 [0, 0, 5])).noteFull
    (op .running) = true) ∧
    ((opped rings .running).serves ocOpCancel (pk 7 0x7F0 [0, 0, 5]) ∧ (opped rings .suspended).serves ocOpCancel (pk 0 1 [0, 0, 5]) ∧
    (opped rings .cancelling).serves ocOpCancel (pk 0 1 [0, 0, 5]))) ∧
    (((opped rings .suspended).serves ocOpResume (pk 0 1 [0, 0, 5]) ∧ (opped rings .suspended).serves ocOpSuspend (pk 0 1 [0, 0, 5]) ∧
    (opped rings .running).serves ocOpResume (pk 0 1 [0, 0, 5])) ∧
    (((opped rings .suspended).setOp 0 .running).opById 0 = some { op .running with changed := 0 } ∧ ((opped rings .suspended).jobOfOp 0).isNone
    = true ∧ rings.hall.replace.all (fun x => x.op != 0) = true ∧ rings.plan = none) ∧
    (({ opped rings .suspended with anvil.jobs := [{ job with op := some 0 }] } : Mach).jobOfOp 0 = some { job with op := some 0 } ∧
    rings.fault.quench.active = false)) ∧
    (((slotted rings 9).serves ocOpSuspend (pk 0 1 [0, 0, 5]) ∧ (slotted rings 9).serves ocOpResume (pk 0 1 [0, 0, 5]) ∧ (slotted rings 9).serves
    ocOpCancel (pk 0 1 [0, 0, 5]) ∧ ((slotted rings 9).hasRead (pk 0 1 [0, 0, 5])).opByTag 5 = none) ∧
    (on.opById 0 = none ∧ (opped on .suspending).opById 0 = some (op .suspending) ∧ { op .running with ended := true }.ended = true ∧
    rings.hall.replace.any (fun r => r.op == 0 && r.copy.isSome) = false ∧ (opped on .suspending).midSweep 0 = false) ∧
    ((opped on .cancelling).loadOf 0 = none ∧ ({ opped on .cancelling with fc.loads := [⟨0, 0, none, 0, []⟩] } : Mach).loadOf 0 = some
    ⟨0, 0, none, 0, []⟩ ∧ job.phase ≠ .ended ∧ rings.cell.camp = none ∧ rings.fc.train = none)) ∧
    ((((heldBack (opped rings .suspended)).hasRead (pk 0 1 [0, 0, 5])).noteFull (op .suspended) = true ∧ ((opped rings .suspended).hasRead (pk 0 1 [0, 0,
    5])).noteFull (op .suspended) = false) ∧
    ((({ quenched rings .command with ops := [{ op .running with rt := ⟨0, 0, 5, ocCapacitySweep, 0⟩ }] } : Mach).quenchCellOps.opById 0).any
    (fun x => x.state != .running) = true) ∧
    (({ planned (opped rings .running) with hall.replace := some ⟨0, [], none, 0⟩ } : Mach).plan = some plan ∧ ({ planned (opped rings .running) with hall.replace := some ⟨0, [], none, 0⟩ }
    : Mach).jobOfOp 0 = none) ∧
    (rings.hall.replace = none ∧ ({ rings with hall.replace := some ⟨0, [], none, 0⟩ } : Mach).hall.replace.isSome = true)) := 
  ⟨by unfold Mach.serves Mach.judges; decide +kernel,
   by unfold Mach.serves Mach.judges; decide +kernel,
   by unfold Mach.serves Mach.judges; decide +kernel,
   by decide +kernel⟩

theorem LongOperations_met :
    (((rings.serves ocAvJobSubmit (pk 0 1 []) ∧ (rings.hasRead (pk 0 1 [])).jobCheck .host [] 0 0 0 0 0 = some stUnitAbsent)) ∧
    (rings.serves ocModelLoad (pk 0 1 []) ∧ (rings.hasRead (pk 0 1 [])).modelCheck .host 0 0 0 = some stUnitAbsent) ∧
    (({ all rings with sys.train := true, fc.banks := [{ BankSt.reset with valid := true, trainable := true }] } : Mach).serves
    ocTrainRun (pk 0 1 [0, 0, 0x240]) ∧ (({ all rings with sys.train := true, fc.banks := [{ BankSt.reset with valid := true, trainable := true }] } : Mach).hasRead
    (pk 0 1 [0, 0, 0x240])).trainCheck 0x240 0 = none) ∧
    (rings.serves ocTrainRun (pk 0 1 []) ∧ (rings.hasRead (pk 0 1 [])).trainCheck 0 0 = some stUnitAbsent)) ∧
    ((rings.serves ocCapacitySweep (pk 0 1 []) ∧ (rings.hasRead (pk 0 1 [])).capsCheck 0 0 = some stBadParam) ∧
    ((({ (((all rings).wr .crCtrl 0xF).wr (.bdString 1) 0x400) with cell.ports := [{ PortSt.reset with ring := 2 }] } : Mach).hasRead (pk 0 1 [0, 0, 0,
    10])).capsCheck 0 10 = none ∧ (((all rings).wr .crCtrl 0xF).wr (.bdString 1) 0x400).serves ocCapacitySweep (pk 0 1 [0, 0, 0, 4000])) ∧
    (rings.serves ocBalanceCampaign (pk 0 1 []) ∧ (rings.hasRead (pk 0 1 [])).campCheck 0 = some stBadParam) ∧
    ((((all rings).wr .crCtrl 0xF).hasRead (pk 0 1 [0, 0, 0x01F4000F])).campCheck 0x01F4000F = none ∧ ((all rings).wr .crCtrl 0xF).serves
    ocBalanceCampaign (pk 0 1 [0, 0, 0x01F4000F]))) ∧
    ((rings.serves ocSliceReplace (pk 6 0x700 []) ∧ rings.sys.links = 0 ∧ rings.serves ocSliceReplace (pk 6 0x700 [0, 0, 0x10000]) ∧
    (rings.hasRead (pk 6 0x700 [])).inFlight < 2048 ∧ 2048 ≤ ((full rings).hasRead (pk 6 0x700 [])).inFlight) ∧
    (({ rings with sys.links := 1 } : Mach).serves ocSliceReplace (pk 7 0x7F0 []) ∧ rings.hall.isMaster = false) ∧
    (({ rings with sys.links := 1, hall.isMaster := true, hall.active := some 0, hall.bufs := [some ⟨0, [], 0, 0, [], []⟩] } : Mach).plan
    = some ⟨0, [], 0, 0, [], []⟩ ∧ ({ rings with sys.links := 1, hall.isMaster := true } : Mach).serves ocSliceReplace (pk 6 0x7EF [])
    ∧ rings.hall.places = [])) := 
  ⟨by unfold Mach.serves Mach.judges; decide +kernel,
   by unfold Mach.serves Mach.judges; decide +kernel,
   by unfold Mach.serves Mach.judges; decide +kernel⟩

theorem IslandOpcodes_met :
    ((rings.serves ocQuench (pk 0 0 []) ∧ (ringed on 9).serves ocQuench (pk 9 0 [])) ∧
    (rings.serves ocFaultRead (pk 0 0 []) ∧ rings.fault.recs[0]? = none) ∧
    (rings.serves ocRecFreeze (fixW4 (pk 0 0 []) true) ∧ rings.ev.frozen = false) ∧
    (rings.serves ocRecFreeze (fixW4 (pk 0 0 []) false) ∧ rings.ev.freezePending = false ∧ ({ rings with ev.freezePending := true } : Mach).serves
    ocRecFreeze (fixW4 (pk 0 0 []) false)) ∧
    (rings.pair.missRun = 0 ∧ ({ rings with pair.missRun := 1 } : Mach).pair.missRun ≠ 0 ∧ bit ((pk 0 0 [0, 0, 2]).word 4) 1 = true ∧
    ({ rings with pair.holding := true } : Mach).serves ocModuleReset (fixW4 (pk 0 0 [0, 0, 2]) true))) ∧
    ((({ rings with ev.frozen := true } : Mach).serves ocRecFreeze (fixW4 (pk 0 0 []) false)) ∧
    (rings.serves ocRecRead (pk 0 0 []) ∧ rings.ev.mounted = false) ∧
    (rings.serves ocClaimRelease (pk 0 0 [])) ∧
    (rings.serves ocGetIdentity (pk 6 0 [])) ∧
    (rings.serves ocModuleReset (fixW4 (pk 0 0 []) true) ∧ rings.serves ocModuleReset (fixW4 (pk 7 0 []) false) ∧ rings.sys.modReset =
    none ∧ rings.pair.holding = false ∧ rings.pair.partnerLast = none)) ∧
    ((({ rings with ev.mounted := true, ev.stored := [⟨0, ⟨0, .info, [], 0, 0, 0, false, false, false⟩⟩] } : Mach).serves ocRecRead (pk 0 0 [])
    ∧ 0 < (⟨0, .info, [], 0, 0, 0, false, false, false⟩ : EvRec).length ∧ field ((pk 0 0 []).word 5) 15 0 % 16 = 0 ∧ field ((pk 0 0 [0, 0, 0, 1]).word 5)
    15 0 % 16 ≠ 0) ∧
    (({ rings with pair.holding := true, pair.partnerLast := some { pf with ready := true } } : Mach).pair.partnerLast.any (fun f => f.ready)
    = true ∧ rings.pair.partnerLast.any (fun f => f.ready) = false ∧ ({ rings with pair.holding := true } : Mach).serves ocModuleReset
    (fixW4 (pk 0 0 []) false) ∧ bit ((pk 0 0 []).word 4) 1 = false)) ∧
    (field ((pk 0 0 []).word 5) 15 0 < (⟨0, .info, [], 0, 0, 0, false, false, false⟩ : EvRec).length ∧ (⟨0, .info, [], 0, 0, 0, false, false, false⟩ : EvRec).length
    ≤ field ((pk 0 0 [0, 0, 0, 0x8000]).word 5) 15 0) := 
  ⟨by unfold Mach.serves Mach.judges; decide +kernel,
   by unfold Mach.serves Mach.judges; decide +kernel,
   by unfold Mach.serves Mach.judges; decide +kernel,
   by decide +kernel⟩

theorem SetPoints_met :
    (((all rings).serves ocSetPoint (pk 0 1 [0, 0, 1, 760000]) ∧ ((all rings).hasRead (pk 0 1 [0, 0, 1, 760000])).ready fnBellows =
    true ∧ rings.fault.quench.active = false) ∧
    ((all rings).serves ocSetPoint (pk 0 1 [0, 0, 1, 840000])) ∧
    (rings.serves ocSetPoint (pk 0 1 [0, 0, 1, 840001]) ∧ (rings.hasRead (pk 0 1 [])).ready fnBellows = false) ∧
    (rings.serves ocSetPoint (pk 0 1 [0, 0, 2, 0]) ∧ (rings.hasRead (pk 0 1 [])).rdField .bdReserve 9 0 ≤ 500 ∧ 500 ≤ (rings.hasRead (pk 0 1 [])).rdField
    .bdReserve 25 16) ∧
    (rings.serves ocSetPoint (pk 0 1 [0, 0, 3])) ∧
    ((all rings).serves ocSetCap (pk 0 1 [0, 0, 0])) ∧
    ((all rings).serves ocSetCap (pk 0 1 [0, 0, 255]) ∧ 255 ∉ ((all rings).hasRead (pk 0 1 [])).served)) ∧
    (((all rings).wr .bdTrays 0x0101).serves ocSetCap (pk 0 1 [0, 0, 1]) ∧ 1 ∈ (((all rings).wr .bdTrays 0x0101).hasRead (pk 0 1 [])).served) := 
  ⟨by unfold Mach.serves Mach.judges; decide +kernel,
   by unfold Mach.serves Mach.judges; decide +kernel⟩

theorem RingClasses_met :
    (rings.mayRead { pk 0 1 [] with cls := .tk } = true ∧ (0 : Word) = rings.rd (.cxCmdSeq 0) ∧ Cls.tk ≠ ringClass 0) := by decide +kernel

theorem RingRegisters_met :
    (rings.lands .tk (.cxCmdTail 0) true ∧ field 255 11 0 < rings.ringSize 0 ∧ rings.ringSize 0 ≤ field 256 11 0) ∧
    (rings.lands .tk (.cxStsHead 0) true) ∧
    (on.lands .tk (.cxCmdCtrl 7) true ∧ isIsland 7 = false ∧ on.ringEn 7 = false ∧ field 0x8000000C 3 0 = 12) ∧
    ((Reg.cxCmdTail 10).inRange = false) := by unfold Mach.lands; decide +kernel

theorem DisablingARing_met :
    (rings.lands .tk (.cxCmdCtrl 0) true ∧ isIsland 0 = false ∧ rings.ringEn 0 = true ∧ rings.canonical = true ∧ field 0x00000004 3 0
    = 4) ∧
    (on.ringEn 0 = false) ∧
    (({ rings with rings := [{ RingSt.reset with epoch := 1 }] } : Mach).ring 0 ≠ RingSt.reset) := by unfold Mach.lands; decide +kernel

theorem StatusEntries_met :
    (rings.ringEn 0 = true ∧ rings.ringEn 1 = false) ∧
    (({ rings with rings := [{ RingSt.reset with rdownWait := true, held := [⟨⟨0, 0, 0, 0, 0⟩, 0, none, [], false, .nothing⟩] }] } : Mach).ring
    0 = { RingSt.reset with rdownWait := true, held := [⟨⟨0, 0, 0, 0, 0⟩, 0, none, [], false, .nothing⟩] }) ∧
    ((rings.ring 0).rdownWait = false) := by decide +kernel

theorem RegisterWrites_met :
    ((wordAddr 1 = false) ∧
    (on.dark .host (Reg.addr .leLoopEn) = true) ∧
    (wordAddr (Reg.addr .leLoopEn) = true ∧ up.dark .fw (Reg.addr .leLoopEn) = false ∧ up.regMay .fw (Reg.addr .leLoopEn) true = false
    ∧ isWindowReg (Reg.addr .leLoopEn) = false) ∧
    (wordAddr (Reg.addr (.cxRwSize 0 7)) = true ∧ up.dark .host (Reg.addr (.cxRwSize 0 7)) = false ∧ up.regMay .host (Reg.addr (.cxRwSize 0 7))
    true = false ∧ isWindowReg (Reg.addr (.cxRwSize 0 7)) = true) ∧
    (wordAddr 0x90100 = true ∧ up.dark .tk 0x90100 = false ∧ up.regMay .tk 0x90100 true = true ∧ up.absentAt 0x90100 = true) ∧
    (up.lands .tk .syReadyChg true) ∧
    (up.lands .tk .idUpdLen true) ∧
    (up.lands .tk .syFuncEn true ∧ Reg.stMask .syFuncEn ≠ 0 ∧ Reg.rwMask .syFuncEn = 0 ∧ Reg.w1cMask .syFuncEn = 0 ∧ up.txn.state ≠
    .opened)) ∧
    ((({ up with txn.state := .opened, txn.owner := .tk } : Mach).lands .tk .syFuncEn true ∧ up.txn.staged.all (fun w => w.addr != Reg.addr .syFuncEn)
    = true ∧ up.txn.staged.length < 16384) ∧
    (Reg.ofAddr (Reg.addr .syFuncEn) = some .syFuncEn ∧ up.canonical = true)) ∧
    (∃ l : List Staged, l.all (fun w => w.addr != Reg.addr .syFuncEn) = true ∧ 16384 ≤ l.length) := 
  ⟨by unfold Mach.lands; decide +kernel,
   by unfold Mach.lands; decide +kernel,
   by exact ⟨List.replicate 16384 ⟨0, 0, 0⟩, by simp only [List.all_replicate]; decide +kernel, by simp only [List.length_replicate]; decide⟩⟩

theorem RegisterReads_met :
    (up.lands .tk .syStrikeLo false) ∧
    (up.lands .tk .avBusyLo false) ∧
    (wordAddr 0x903FC = true ∧ up.dark .tk 0x903FC = false ∧ up.regMay .tk 0x903FC false = true ∧ up.absentAt 0x903FC = true) ∧
    (on.dark .host (Reg.addr .leLoopEn) = true ∧ on.dark .host (Reg.addr .syStrikeLo) = false) ∧
    (up.dark .host (Reg.addr .leLoopEn) = false ∧ up.regMay .host (Reg.addr .leLoopEn) false = false) := by unfold Mach.lands; decide +kernel

theorem AnAccess_met :
    ((windowed up).judge .host 0xFFFFFC 4 true = .ok) ∧
    ((windowed up).judge .host 0xFFFFFD 4 true ≠ .ok) ∧
    ((windowed up).judge .peer 0xFFFFFC 4 false = .denied) ∧
    (up.judge .tk 0xFFFFFFFFFFFF 4 false = .undecoded) := by decide +kernel

theorem TheCollectorRecords_met :
    (up.pairPresent 0x02 .fatal = true ∧ up.fault.wiring.contains (2, .fatal) = false ∧ up.isForced 2 .fatal = false ∧
    up.fault.active.contains (2, .fatal) = false) ∧
    ((faulted up 2 .fatal).fault.active.contains (2, .fatal) = true) ∧
    (up.pairPresent 255 .fatal = false) ∧
    (up.monitors 2 .severe = true ∧ up.fault.wiring.contains (2, .severe) = false) ∧
    ((up.setWiring (2, .corr) true).fault.wiring.contains (2, .corr) = true ∧ (up.setWiring (2, .corr) true).isForced 2 .corr = false) ∧
    (up.monitors 255 .severe = false) ∧
    (up.monitors 2 .info = true ∧ (up.setWiring (2, .info) true).fault.wiring.contains (2, .info) = true ∧ (up.setWiring (2, .info) true).isForced
    2 .info = false) := by decide +kernel

theorem FaultRegisters_met :
    ((up.lands .tk .fcAck true) ∧
    ((windowed up).lands .host .fcAck true ∧ (windowed up).lands .host .fcRaise true) ∧
    (up.lands .tk .fcRaise true ∧ field 0x0301 15 12 < 4 ∧ up.sourcePresent (field 0x0301 7 0) = true) ∧
    (up.lands .tk .fcRelease true) ∧
    (({ up with fault.release := some .tk } : Mach).fault.release.isSome = true) ∧
    (up.fault.quench.active = false) ∧
    ((quenched up .collector).fault.quench.active = true ∧ (quenched up .collector).fault.quench.cause = .collector) ∧
    ((faulted (quenched up .command) 2 .fatal).fault.quench.cause ≠ .collector ∧ ((faulted (quenched up .command) 2 .fatal).fault.active ++ up.fault.wiring).any
    (fun p => p.2.grave) = true) ∧
    (({ quenched up .command with fault.quench.leaving := true } : Mach).fault.quench.active = true) ∧
    (4 ≤ field 0x4301 15 12 ∧ up.sourcePresent 0xFF = false)) ∧
    ((({ up with time.count := 1, fault.recs := [⟨0, 0, 2, .severe, 0, 0, .pending, false, false, 0, 0⟩] } : Mach).dueRecs = [⟨0, 0, 2, .severe, 0, 0, .pending,
    false, false, 0, 0⟩]) ∧
    (up.dueRecs = [] ∧ up.fault.pushed = [] ∧ up.fault.parity = none ∧ up.fault.quenchCmds = []) ∧
    (({ up with fault.release := some .tk, fault.relNew := true } : Mach).fault.relNew = true ∧ up.fault.release = none ∧ ({ up with fault.release := some .tk } :
    Mach).fault.relNew = false) ∧
    (({ quenched up .command with fault.quench.leaving := true, fault.quench.leaveNew := true } : Mach).fault.quench.leaveNew = true ∧
    ({ quenched up .command with fault.quench.leaving := true } : Mach).fault.quench.leaveNew = false ∧ up.fault.quench.leaving =
    false)) ∧
    (FCls.severe.grave = true ∧ ({ up with time.count := 1, fault.recs := [⟨0, 0, 2, .severe, 0, 0, .pending, false, false, 0, 0⟩] } : Mach).fault.pushed
    = []) := 
  ⟨by unfold Mach.lands; decide +kernel,
   by decide +kernel,
   by decide +kernel⟩

theorem Injection_met :
    ((lab.lands .tk .fcInj true ∧ lab.pairPresent 255 .severe = false) ∧
    (up.lands .tk .fcInj true ∧ up.fault.testMode = false) ∧
    (lab.lands .tk .fcInj true ∧ lab.fault.testMode = true ∧ lab.pairPresent 2 .corr = true ∧ lab.fault.active.contains (2, .corr) =
    false ∧ lab.fault.wiring.contains (2, .corr) = false ∧ lab.isForced 2 .corr = false) ∧
    ((faulted lab 2 .corr).fault.active.contains (2, .corr) = true) ∧
    ((lab.setForced 2 .corr (some ⟨2, .corr, 1, 0⟩)).isForced 2 .corr = true ∧ (lab.setForced 2 .corr (some ⟨2, .corr, 1, 0⟩)).fault.wiring.contains
    (2, .corr) = false) ∧
    (((lab.setForced 2 .corr (some ⟨2, .corr, 3, 0⟩)).setWiring (2, .corr) true).isForced 2 .corr = true ∧ ((lab.setForced 2 .corr (some ⟨2, .corr, 3, 0⟩)).setWiring
    (2, .corr) true).fault.wiring.contains (2, .corr) = true) ∧
    (lab.monitors 2 .corr = true ∧ lab.pairPresent 5 .severe = true ∧ lab.monitors 5 .severe = false)) ∧
    ((lab.setForced 2 .corr (some ⟨2, .corr, 1, 0⟩)).fault.active.contains (2, .corr) = false ∧ lab.isForced 2 .corr = false) := 
  ⟨by unfold Mach.lands; decide +kernel,
   by decide +kernel⟩

theorem PowerGood_met :
    ((on.time.powered = true) ∧
    (off.time.powered = false ∧ power.leverLatched = true ∧ 184 < power.feedA) ∧
    ({ power with feedA := 184, feedB := 184 }.feedA ≤ 184) ∧
    (up.sys.capValid = true ∧ up.ev.mounted = false ∧ up.ev.mountFailed = false ∧ up.ev.fromReset = false) ∧
    (({ up with ev.fromReset := true } : Mach).ev.fromReset = true) ∧
    (up.sys.cfgLoaded = false ∧ ({ up with time.upFrames := 10000 } : Mach).time.upFrames = 10000) ∧
    (({ up with time.upFrames := 9999 } : Mach).time.upFrames < 10000) ∧
    (({ up with sys.savePending := some 0 } : Mach).id.appRun = true) ∧
    (off.sys.savePending = none) ∧
    (up.sys.tiles ≠ 0 ∧ up.anvil.bist = false ∧ up.phys.stopped = false)) ∧
    ((readyLimits.find? (fun x => x.1 == fnLoop) = some (fnLoop, 20000) ∧ (up.wr .syFuncEn 0xFFFFFFFF).readyOwed fnLoop = true ∧ (up.wr .syFuncEn 0xFFFFFFFF).ready
    fnLoop = false ∧ up.sys.limitDone.testBit fnLoop = false) ∧
    (({ up with sys.readyAge := List.replicate 32 20000 } : Mach).sys.readyAge.getD fnLoop 0 = 20000) ∧
    (({ up with sys.readyAge := List.replicate 32 19999 } : Mach).sys.readyAge.getD fnLoop 0 < 20000) ∧
    (up.id.appRun = true)) ∧
    (Config.mlDsaVerify 0 record [] = true → recordValid record [] 0 = true) := 
  ⟨by decide +kernel,
   by decide +kernel,
   by intro h; unfold recordValid; rw [h]; decide +kernel⟩

theorem ConfigurationLoad_met :
    ((on.sys.capValid = false) ∧
    (up.sys.capValid = true ∧ up.id.appRun = true ∧ up.sys.cfgLoaded = false ∧ newestCopy up.sys.saved = none) ∧
    (newestCopy ({ up with sys.saved := [⟨0, [], true⟩] } : Mach).sys.saved = some ⟨0, [], true⟩ ∧ (up.placePlan ((up.overlay (up.loadWords ⟨0, [],
    true⟩)).planBuf)).validate (up.loadWords ⟨0, [], true⟩) .fw false = none) ∧
    (up.ready fnAnvil = false) ∧
    ((all up).ready fnAnvil = true ∧ ((all up).bank 0).valid = false ∧ ((all up).bank 0).loading = false) ∧
    (up.id.appRun = true ∧ ({ up with id.appRun := false } : Mach).id.appRun = false ∧ ({ up with sys.cfgLoaded := true, sys.loadLate := true } : Mach).sys.loadLate
    = true ∧ ({ up with sys.cfgLoaded := true } : Mach).sys.loadLate = false)) ∧
    ((all up).tagHeld 0x7EF = false ∧ (all up).inFlight < 2048 ∧ 2048 ≤ (full (all up)).inFlight ∧ ({ all up with ops := [{ op .running with rt := ⟨0, 0, 0x7EF, 0, 0⟩ }] }
    : Mach).tagHeld 0x7EF = true) := 
  ⟨by decide +kernel,
   by decide +kernel⟩

theorem Resets_met :
    (on.sys.modReset = none) ∧
    (({ up with sys.modReset := some ⟨true, ⟨0, 0, 0, 0, 0⟩, false, none, none, some 0⟩ } : Mach).time.count = 0) ∧
    (({ up with sys.modReset := some ⟨false, ⟨0, 0, 0, 0, 0⟩, false, none, none, some 1⟩ } : Mach).time.count < 1) ∧
    (({ up with pair.dying := true, pair.dyingFrames := 10 } : Mach).time.powered = true) ∧
    (({ up with pair.dying := true, pair.dyingFrames := 9 } : Mach).pair.dyingFrames < 10) ∧
    (({ up with sys.modReset := some ⟨true, ⟨0, 0, 0, 0, 0⟩, true, none, none, none⟩ } : Mach).sys.modReset = some ⟨true, ⟨0, 0, 0, 0,
    0⟩, true, none, none, none⟩) := by decide +kernel

theorem Strikes_met :
    (off.time.powered = false) ∧
    (on.time.powered = true) ∧
    (on.time.state = .free) ∧
    (({ on with time.state := .holdover } : Mach).time.state = .holdover ∧ on.time.pairAdopt = none ∧ on.time.inDomain = false ∧ ({ on with time.inDomain := true, time.state := .holdover }
    : Mach).time.inDomain = true) := by decide +kernel

theorem DispatchFaults_met :
    ((4 ≤ ({ up with bel.snap.spMiss := 4 } : Mach).bel.snap.spMiss ∧ up.bel.spFault = false) ∧
    (({ up with bel.snap.spMiss := 3 } : Mach).bel.snap.spMiss < 4) ∧
    (({ (all up) with cell.pubAt := some 0, time.count := 2000 } : Mach).en fnCellring = true ∧ 0 + 2000 ≤ ({ (all up) with cell.pubAt := some 0, time.count := 2000 }
    : Mach).time.count ∧ up.bel.limFault = false) ∧
    (({ up with cell.pubAt := some 0, time.count := 1999 } : Mach).time.count < 0 + 2000) ∧
    (up.cell.pubAt = none)) ∧
    ((({ holder with bel.brakeOn := true, bel.snap.brakeHold := 100 * holder.rdField .bdBrakeCfg 31 16 + 1 } : Mach).fault.quench.active
    = false ∧ 100 * holder.rdField .bdBrakeCfg 31 16 < ({ holder with bel.brakeOn := true, bel.snap.brakeHold := 100 * holder.rdField .bdBrakeCfg 31 16 + 1 } :
    Mach).bel.snap.brakeHold) ∧
    (up.bel.snap.brakeHold ≤ 100 * up.rdField .bdBrakeCfg 31 16) ∧
    (({ holder.wr .bdTrays 0x0101 with time.count := 301 } : Mach).ready fnBellows = true ∧ 1 ∈ (holder.wr .bdTrays 0x0101).served ∧
    (holder.tray 1).missed = false ∧ max holder.bel.startAt ((holder.tray 1).heardAt.getD holder.bel.startAt) + 300 < 301) ∧
    (300 ≤ max holder.bel.startAt ((holder.tray 1).heardAt.getD holder.bel.startAt) + 300)) ∧
    ((30000 < ({ up with bel.step3Run := 30001 } : Mach).bel.step3Run ∧ up.bel.step3Fault = false) ∧
    (({ up with bel.step3Run := 30000 } : Mach).bel.step3Run ≤ 30000) ∧
    (({ holder with bel.brakeOn := true } : Mach).bel.brakeOn = true ∧ holder.pair.holding = true ∧ holder.bel.brakeFault = false) ∧
    (holder.bel.started = true ∧ (64 : Nat) ∉ holder.served ∧ ((holder.setTray 1 (fun t => { t with missed := true })).tray 1).missed
    = true)) := 
  ⟨by decide +kernel,
   by decide +kernel,
   by decide +kernel⟩

theorem Trays_met :
    ((holder.pair.holding = true ∧ holder.fault.quench.active = false ∧ holder.ready fnBellows = true ∧ holder.bel.started = true) ∧
    (({ holder with time.count := 10000 } : Mach).bel.snap.lastRepeat + 10000 ≤ 10000 ∧ 9999 < holder.bel.snap.lastRepeat + 10000) ∧
    (up.pair.holding = false) ∧
    (({ up with bel.snap.coolOwn := up.bel.snap.coolantStep + 1 } : Mach).coolDue ≠ up.bel.snap.coolantStep) ∧
    (({ up with bel.snap.coolOwn := 0, bel.snap.coolantStep := 0 } : Mach).coolDue = 0) ∧
    (({ up with time.count := 100000, bel.sched := [(99900, 7)] } : Mach).time.count % 100000 = 0 ∧ (([(99900, 7)] : List (Int × Word)).filter (fun x => decide (x.1
    + 100 ≤ 100000))).getLast? = some (99900, (7 : Word))) ∧
    (({ up with time.count := 99999 } : Mach).time.count % 100000 ≠ 0)) ∧
    (({ holder with bel.snap.lastRepeat := -1 } : Mach).bel.snap.lastRepeat + 10000 ≤ 9999 ∧ 9998 < ({ holder with bel.snap.lastRepeat := -1 } :
    Mach).bel.snap.lastRepeat + 10000 ∧ (63 : Nat) ≠ 0) := 
  ⟨by decide +kernel,
   by decide +kernel⟩

theorem LoopSupervision_met :
    ((((looped { LoopSt.reset with s.hold := [some 0] }).loop 0).s.hold.getD 0 none = some 0 ∧ (looped LoopSt.reset).rdField (.leSched 0)
    31 16 ≤ 0x10000) ∧
    (((looped { LoopSt.reset with s.hold := [some 0] }).wr (.leSched 0) 0x00010000).rdField (.leSched 0) 31 16 = 1) ∧
    (((looped LoopSt.reset).loop 0).s.hold.getD 0 none = none) ∧
    (((looped LoopSt.reset).loop 0).started = false) ∧
    (((looped { LoopSt.reset with missed := true }).loop 0).missed = true ∧ (looped LoopSt.reset).missLim 0 ≤ 63) ∧
    (((looped LoopSt.reset).loop 0).missed = false) ∧
    ((((looped { LoopSt.reset with started := true, s.feCount := 1 }).wr (.leSup 0) 1).loop 0).started = true ∧ field (((looped LoopSt.reset).wr (.leSup 0) 1).rd
    (.leSup 0)) 15 0 = 1)) ∧
    ((((looped { LoopSt.reset with feActive := true }).loop 0).feActive = true) ∧
    (({ up with eng.test.phase := .pre } : Mach).testCauses = [] ∧ ({ up with eng.test.phase := .pre } : Mach).eng.test.running =
    true) ∧
    (({ up with eng.test.phase := .pre, time.count := 100000000 } : Mach).phaseNow = .done) ∧
    (up.eng.test.running = false) ∧
    (({ quenched up .command with eng.test.phase := .inject } : Mach).testCauses = [2]) ∧
    (up.fault.quench.active = false ∧ (quenched up .command).fault.quench.active = true ∧ (looped { LoopSt.reset with missed := true, s.missRun := 63 }).missLim
    0 ≤ 63 ∧ LoopSt.reset.s.stopped = false)) ∧
    (({ up with eng.test.phase := .pre } : Mach).eng.test.cause = none ∧ ({ up with eng.test.phase := .pre } : Mach).phaseNow ≠ .done
    ∧ ({ up with eng.test.phase := .pre, eng.test.cause := some 4 } : Mach).eng.test.cause = some 4 ∧ ({ quenched up .command with eng.test.phase := .inject } :
    Mach).phaseNow ≠ .done ∧ ({ quenched up .command with eng.test.phase := .inject } : Mach).testCauses.head? = some 2) := 
  ⟨by decide +kernel,
   by decide +kernel,
   by decide +kernel⟩

theorem LoopBridges_met :
    (∃ l : LoopSt, l.started = true ∧ l.fadeDue 21 = true) := by exact ⟨{ LoopSt.reset with started := true, s.mode := .live, slotPub := some ⟨0, 0, []⟩ }, by decide +kernel⟩

theorem StageLinks_met :
    ((linked.role 0 ≠ 0 ∧ (linked.link 0).lock = true ∧ (linked.link 0).now = none ∧ (linked.link 0).failed = false ∧ feedbackFails fbk
    0 linked.time.count = none) ∧
    (feedbackFails { fbk with link := 1 } 0 0 = some (7, 0) ∧ feedbackFails { fbk with late := true } 0 0 = some (15, 8)) ∧
    (up.role 11 = 0 ∧ (up.link 0).lock = false) ∧
    (({ up.wr .bdStageRole 0 with eng.links := [{ StageLinkSt.reset with lock := true }] } : Mach).role 0 = 0) ∧
    (({ linked with eng.links := [{ StageLinkSt.reset with missRun := 3, lateRun := 3 }] } : Mach).role 0 ≠ 0 ∧ 3 ≤ (({ linked with eng.links := [{ StageLinkSt.reset with missRun := 3, lateRun := 3 }] }
    : Mach).link 0).missRun)) ∧
    ((({ linked with eng.links := [{ StageLinkSt.reset with missRun := 2, lateRun := 2 }] } : Mach).link 0).lateRun < 3) := 
  ⟨by decide +kernel,
   by decide +kernel⟩

theorem ThePairFrames_met :
    ((({ up with pair.pairUp := true } : Mach).pair.pairUp = true ∧ pf.good = true ∧ pf.seq % 256 = up.time.count % 256) ∧
    ({ pf with seq := 1 }.seq % 256 ≠ up.time.count % 256) ∧
    (holder.pair.holding = true ∧ up.pair.holding = false) ∧
    (({ up with pair.alignRecv := some (1, 0) } : Mach).alignPlan[0]? = some (1, 0) ∧ segKey (.units 31 []) = (4, 31) ∧
    up.pair.alignPending = []) ∧
    (up.pair.alignRecv = none ∧ ({ up with pair.alignPending := [.units 0 []] } : Mach).pair.alignPending ≠ []) ∧
    (({ holder with pair.alignRecv := some (0, 0) } : Mach).pair.alignRecv.isSome = true ∧ holder.pair.holding = true)) ∧
    ((({ up with pair.pairUp := true } : Mach).pair.alignRecv = none ∧ bit (({ up with pair.pairUp := true } : Mach).rd .prCfg) 31 =
    false) ∧
    (bit ((up.wr .prCfg 0x80000000).rd .prCfg) 31 = true ∧ ({ up with pair.downFault := true } : Mach).pair.downFault = true ∧
    up.pair.pairUp = false) ∧
    (peered.time.state = .locked) ∧
    (up.time.state ≠ .locked ∧ up.time.inDomain = false ∧ up.pair.holding = false ∧ up.pair.side = false ∧ ({ up with pair.side := true } : Mach).pair.side
    = true) ∧
    (100000 ≤ ({ up with pair.aloneRun := 100000 } : Mach).pair.aloneRun ∧ up.pair.aloneFault = false) ∧
    (({ up with pair.aloneRun := 99999 } : Mach).pair.aloneRun < 100000)) ∧
    ((({ up with pair.partnerNow := some { pf with quench := true } } : Mach).pair.partnerNow.any (fun f => f.quench || !f.holding) =
    true ∧ up.pair.downFault = false ∧ ({ up with pair.pairUp := true } : Mach).pair.pairUp = true ∧ (⟨true, true, 0⟩ : PartnerTime).locked
    = true ∧ (⟨false, false, 0⟩ : PartnerTime).locked = false ∧ (⟨false, false, 0⟩ : PartnerTime).inDomain = false ∧ (⟨false, true, 0⟩ : PartnerTime).inDomain
    = true) ∧
    (({ up with pair.alignRecv := some (0, 7) } : Mach).alignPlan[0]? = some (segKey (.dispatch up.bel.snap)))) := 
  ⟨by decide +kernel,
   by decide +kernel,
   by decide +kernel⟩

theorem Feeds_met :
    ((({ up with pair.feedA := true, pair.feedB := false } : Mach).pair.feedA = true ∧ 167 < 168) ∧
    (({ up with pair.feedA := true, pair.feedB := true } : Mach).pair.feedB = true) ∧
    (168 ≤ 168 ∧ 184 < 185 ∧ ({ up with pair.feedA := false } : Mach).pair.feedA = false) ∧
    (up.phys.plcaNode = none ∧ up.phys.plcaQuiet < (if up.pair.side then 200 else 100)) ∧
    ((if ({ up with phys.plcaQuiet := 200 } : Mach).pair.side then 200 else 100) ≤ ({ up with phys.plcaQuiet := 200 } : Mach).phys.plcaQuiet) ∧
    (({ up with phys.plcaNode := some 0, pair.side := true } : Mach).phys.plcaNode = some 0) ∧
    (({ up with phys.plcaNode := some 0, pair.side := false } : Mach).pair.side = false)) ∧
    ((({ up with phys.plcaNode := some 1, phys.plcaQuiet := 100 } : Mach).phys.plcaNode = some (0 + 1) ∧ 100 ≤ ({ up with phys.plcaQuiet := 100 } :
    Mach).phys.plcaQuiet ∧ ({ up with phys.plcaQuiet := 99 } : Mach).phys.plcaQuiet < 100) ∧
    (up.time.powered = true ∧ off.time.powered = false) ∧
    (100 ≤ ({ up with pair.runA := 100 } : Mach).pair.runA ∧ ({ up with pair.runB := 99 } : Mach).pair.runB < 100 ∧ ({ up with pair.dying := true } :
    Mach).pair.dying = true) ∧
    (({ up with ev.opSec := 60 } : Mach).ev.opSaved + 60 ≤ 60 ∧ ({ up with ev.opSec := 59 } : Mach).ev.opSec < ({ up with ev.opSec := 59 } : Mach).ev.opSaved
    + 60)) := 
  ⟨by decide +kernel,
   by decide +kernel⟩

theorem PeerLinks_met :
    (((linkIn .ident).hears (hd .ident 0 0) .ident ∧ peered.hears (hdp peered .health) .health) ∧
    (0 < peered.sys.links ∧ (peered.peer 0).st = .service ∧ frameSound { hdp peered .health with crc := 0 } .health = false) ∧
    (((linkIn .training).peer 0).st = .training ∧ 0 < peered.sys.links) ∧
    (up.sys.links ≤ 0 ∧ (peered.peer 0).st ≠ .training) ∧
    ((peered.peer 0).st = .service ∧ (peered.peer 0).st ≠ .down ∧ (peered.peer 0).st ≠ .maint) ∧
    (((linkIn .ident).peer 0).st ≠ .service ∧ ((linkIn .ident).peer 0).health ≠ 3 ∧ (({ peered with peers := [{ PeerLinkSt.reset with st := .ident, health := 3 }] }
    : Mach).peer 0).health = 3 ∨ PeerLinkSt.reset.health = 3) ∧
    (((linkIn .maint).peer 0).st = .maint)) ∧
    (((({ peered with peers := [{ PeerLinkSt.reset with retry := [⟨1, 2, .time, 0, 0, 0, 0, 0, 0⟩] }] } : Mach).peer 0).retry.any (fun r => r.seq == 1 && decide
    (r.tries < 3)) = true) ∧
    ((({ peered with peers := [{ PeerLinkSt.reset with retry := [⟨1, 3, .time, 0, 0, 0, 0, 0, 0⟩] }] } : Mach).peer 0).retry.any (fun r => r.seq == 1 && decide (3 ≤
    r.tries)) = true) ∧
    (([0] : List Nat).length < 3 ∧ 3 ≤ ([0, 0, 0] : List Nat).length) ∧
    ((peered.peer 0).retry = []) ∧
    (peered.time.count % 100000 = 0 ∧ ({ peered with time.count := 99999 } : Mach).time.count % 100000 ≠ 0)) ∧
    (((((linkIn .ident).heard (hd .ident 0 0)).setPeer 0 (fun l => { l with farPos := some 1 })).verifying 0 = false ∧ ({ linkIn .ident with hall.maint := 2, hall.maintLink := 0 }
    : Mach).verifying 0 = true ∧ ({ linkIn .ident with hall.maint := 2 } : Mach).hall.maintSince = none) ∧
    (frameOf (.leave { hdp peered .leave with seq := 2 } 0) = some ({ hdp peered .leave with seq := 2 }, .leave) ∧ seqAbove 2
    (peered.peer 0).rx = true ∧ 2 ≠ (peered.peer 0).due ∧ seqAbove 0 (peered.peer 0).rx = false ∧ (peered.peer 0).early = [] ∧
    (peered.peer 0).skips = [] ∧ (hdp peered .leave).skipped = [])) ∧
    ((frameSound (let h : PeerHdr := { hdp peered .leave with seq := 2 }; { h with crc := crc32 (wordsBytes (headerWords h)) }) .leave
    = true ∧ (hdp peered .leave).planTag = peered.planTag) ∧
    ((hd .health 1 0).planTag ≠ peered.planTag)) := 
  ⟨by unfold Mach.hears; decide +kernel,
   by decide +kernel,
   by decide +kernel,
   by decide +kernel⟩

theorem Plans_met :
    ((peered.lands .tk .plPlanCtrl true ∧ bit (0x80000000 : Word) 31 = true ∧ peered.hall.loading = none) ∧
    (bit (0x7FFFFFFF : Word) 31 = false) ∧
    (({ peered with hall.loading := some (0, 0) } : Mach).hall.loading.isSome = true) ∧
    (holding.bytes 0x1000000 132 = sealed ∧ holding.poisonIn 0x1000000 132 = false ∧ ({ holding with poison := [0x1000000] } : Mach).poisonIn
    0x1000000 132 = true) ∧
    (peered.planCheck [] ≠ 0) ∧
    (peered.lands .tk .plMaint true ∧ up.sys.links ≤ 63) ∧
    (0 < peered.sys.links ∧ (peered.wrField .plMaint 29 24 0).maintBusy = false ∧ (peered.wrField .plMaint 29 24 0).parentLink ≠ some
    0 ∧ (peered.wrField .plMaint 29 24 0).altLink ≠ some 0) ∧
    (((follower 0).wrField .plMaint 29 24 0).parentLink = some 0 ∧ ((follower 0).wrField .plMaint 29 24 0).altLink = none) ∧
    ((linkIn .maint).maintBusy = true ∧ ((linkIn .maint).peer 0).st = .maint) ∧
    (peered.hall.maint ≠ 2)) ∧
    ((({ linkIn .training with hall.maint := 2, hall.maintSince := some 0, time.count := 1000 } : Mach).hall.maintSince = some 0 ∧ 0 +
    1000 ≤ ({ linkIn .training with time.count := 1000 } : Mach).time.count ∧ ({ linkIn .training with hall.maint := 2, hall.maintSince := some 1, time.count := 1000 }
    : Mach).hall.maintSince.all (fun c => decide (1000 < c + 1000)) = true ∧ ((linkIn .training).peer peered.hall.maintLink).st =
    .training ∧ ((linkIn .ident).peer 0).st ≠ .training ∧ ((linkIn .ident).peer 0).farPos = none ∧ (({ peered with peers := [{ PeerLinkSt.reset with st := .ident, farPos := some 1 }] }
    : Mach).peer 0).farPos.isSome = true) ∧
    (peered.time.count % 100000 = 0 ∧ (([] : List OptRead).foldl Mach.measureLink peered).suspectNow = none)) ∧
    ((field (suspectWord (some (0, 0, 0, 5))) 31 16 ≠ field (suspectWord none) 31 16) ∧
    (peered.lands .tk .prStat true) ∧
    (({ peered with peers := [{ PeerLinkSt.reset with st := .service, samples := [⟨0, 0, 10, 10, 0, 0⟩] }], hall.active := some 0, hall.bufs := [some plan, none] } :
    Mach).suspectNow.isSome = true) ∧
    ((5 : Nat) < 64 ∧ ((linkIn .training).peer 0).st ≠ .maint ∧ (linkIn .maint).en fnPeer = true)) ∧
    (peered.planCheck sealed = 0) := 
  ⟨by unfold Mach.lands; decide +kernel,
   by decide +kernel,
   by unfold Mach.lands; decide +kernel,
   by exact sealed_checks⟩

theorem TimeAndReports_met :
    (((master 0).hears (hdp (master 0) .time) .time ∧ ((master 0).heard (hdp (master 0) .time)).hall.isMaster = true) ∧
    ((follower 0).hears (hdp (follower 0) .time) .time ∧ ((follower 0).heard (hdp (follower 0) .time)).parentLink = some 0 ∧ (follower 0).time.state
    = .locked ∧ ({ follower 0 with time.state := .joining } : Mach).time.state = .joining) ∧
    ((master 58).hears (hdp (master 58) .report) .report ∧ (rep 0).k = (master 58).time.count / 100 ∧ (master 58).time.count % 100 ≤
    58) ∧
    (58 < (master 59).time.count % 100 ∧ (master 59).hall.reports.any (fun x => x.pos == 1 && x.k == 0) = false ∧ (master 59).hall.members.any
    (fun x => x.1 == 1) = false ∧ ({ master 59 with hall.members := [(1, 0)] } : Mach).hall.members.any (fun x => x.1 == 1) = true) ∧
    ((follower 0).hears (hdp (follower 0) .report) .report ∧ (follower 0).hall.isMaster = false)) ∧
    (((master 49).time.count % 100 ≠ 50) ∧
    ((master 150).time.count % 100 = 50 ∧ (master 150).time.inDomain = true ∧ (master 150).hall.joined < (master 150).time.count /
    100) ∧
    ((follower 150).hall.claim = none ∧ ({ follower 150 with hall.claim := some ⟨1, 1, 200⟩ } : Mach).hall.claim = some ⟨1, 1, 200⟩ ∧
    (follower 150).hall.isMaster = false) ∧
    ((follower 65).hears (hdp (follower 65) .table) .table ∧ (follower 65).hall.table = none ∧ 0 = (follower 65).time.count / 100) ∧
    ((master 61).time.count % 100 > 60) ∧
    ((master 59).plan = some plan ∧ (master 59).time.count % 100 = 59 ∧ (master 59).hall.table = none ∧ (master 59).hall.members = []
    ∧ (master 59).hall.reports = []) ∧
    ((follower 0).hears (hdp (follower 0) .leave) .leave ∧ (master 0).hears (hdp (master 0) .leave) .leave ∧ (master 0).plan = some
    plan)) ∧
    ((atOrAbove (sf 0).term ({ follower 0 with hall.term := 1 } : Mach).hall.term = false ∧ (follower 0).hears (hdp (follower 0) .superframe)
    .superframe) ∧
    ((master 0).hears (hdp (master 0) .superframe) .superframe ∧ seqAbove (sf 0).term (master 0).hall.term = false ∧ (master 0).before
    1 (master 0).sys.position = false) ∧
    (atOrAbove (sf 0).term (follower 0).hall.term = true ∧ ({ follower 0 with time.inDomain := false } : Mach).time.inDomain = false ∧
    (follower 0).hall.lastMsg ≠ some 0 ∧ ({ follower 0 with hall.lastMsg := some 0 } : Mach).hall.lastMsg = some ((2 * (sf 0).k + 0) * 65536 + (sf 0).term % 65536)) ∧
    (({ sf 0 with k := 1 }).k = (follower 0).time.count / 100 + 1 ∧ (follower 0).time.inDomain = true) ∧
    (91 > 90 ∧ 85 < 86)) ∧
    (((master 90).plan = some plan ∧ (master 90).hall.isMaster = true ∧ (master 90).hall.msg = none ∧ (master 90).hall.proposals =
    none) ∧
    (({ follower 0 with time.sfSince := 1, time.sinceMsg := 0 } : Mach).hall.isMaster = false ∧ (follower 0).time.state = .locked) ∧
    (({ follower 0 with time.sinceMsg := 1 } : Mach).time.sinceMsg ≠ 0) ∧
    ((follower 0).time.state ≠ .free ∧ (follower 0).time.state ≠ .joining ∧ ({ follower 0 with time.state := .free } : Mach).time.state
    = .free ∧ ((follower 0).heard { hdp (follower 0) .time with link := 1 }).parentLink ≠ some 1)) ∧
    ((({ master 0 with hall.reports := [rep 0] } : Mach).hall.reports.any (fun x => x.pos == (rep 0).pos && x.k == (rep 0).k) = true ∧
    ({ master 59 with hall.late := [(1, 0)] } : Mach).hall.late.contains (1, 0) = true ∧ (master 59).hall.late.contains (1, 0) =
    false) ∧
    (({ master 59 with hall.table := some (0, []) } : Mach).hall.table.any (fun t => t.1 == 0) = true ∧ (follower 65).hall.table.any
    (fun t => t.1 == 0) = false) ∧
    (({ follower 0 with time.inDomain := false } : Mach).time.inDomain = false ∧ ([] : List SfMsg).any (fun p => p.frag == (sf 0).frag)
    = false ∧ (sf 0).frag < (sf 0).frags ∧ 0 + 1 = (sf 0).frags ∧ 0 + 1 ≠ ({ sf 0 with frags := 2 } : SfMsg).frags ∧ ({ sf 0 with frags := 0 } : SfMsg).frags
    ≤ (sf 0).frag)) ∧
    ((({ follower 0 with hall.lastMsg := some (msgKey (sf 0)), hall.parts := [sf 0] } : Mach).hall.lastMsg = some (msgKey (sf 0)) ∧ [sf 0].any
    (fun p => p.frag == (sf 0).frag) = true) ∧
    ((master 0).hall.isMaster = true ∧ (sf 0).master ≠ (master 0).sys.position ∧ ({ sf 0 with master := 0 } : SfMsg).master = (master 0).sys.position) ∧
    (({ master 90 with hall.msg := some (sf 0) } : Mach).hall.msg.isSome = true ∧ (master 85).time.count % 100 < 86 ∧ 90 < (master 91).time.count
    % 100 ∧ ({ follower 0 with time.state := .holdover } : Mach).time.state = .holdover)) := 
  ⟨by unfold Mach.hears; decide +kernel,
   by unfold Mach.hears; decide +kernel,
   by unfold Mach.hears; decide +kernel,
   by decide +kernel,
   by decide +kernel,
   by decide +kernel⟩

theorem Mastership_met :
    (((follower 0).hears (hdp (follower 0) .claim) .claim ∧ seqAbove 1 (follower 0).hall.term = true ∧ (follower 0).hall.claim = none) ∧
    (({ follower 0 with hall.claim := some ⟨1, 1, 100⟩ } : Mach).hall.claim = some ⟨1, 1, 100⟩ ∧ seqAbove 2 1 = true) ∧
    ((master 0).hears (hdp (master 0) .claim) .claim ∧ ({ master 0 with sys.position := 1 } : Mach).before 0 1 = true) ∧
    (seqAbove 0 (follower 0).hall.term = false ∧ (follower 0).hall.claim = none) ∧
    ((follower 0).succPos (follower 0).sys.position = some 0 ∧ (follower 0).sys.master = true ∧ (follower 0).sys.strapOk = true ∧ (if 0 ≤ 1 then 3 else 2 + 0)
    ≤ ({ follower 0 with time.sfSince := 3 } : Mach).time.sfSince ∧ (follower 0).time.count % 100 = 0) ∧
    ((follower 1).time.count % 100 ≠ 0)) ∧
    ((({ follower 100 with hall.claim := some ⟨1, 0, 100⟩, hall.master := none } : Mach).time.inDomain = true ∧ ({ follower 100 with hall.claim := some ⟨1, 0, 100⟩, hall.master := none }
    : Mach).plan = some plan ∧ (follower 100).sys.position = 0 ∧ (follower 100).hall.master = some 1 ∧ 1 ≠ (follower 100).sys.position) ∧
    (({ follower 100 with hall.claim := some ⟨1, 1, 0⟩ } : Mach).hall.claim = some ⟨1, 1, 0⟩ ∧ (1 : Nat) ≠ (follower 100).sys.position
    ∧ 0 + 100 ≤ (follower 100).time.count) ∧
    ((follower 99).time.count < 0 + 100) ∧
    (({ master 0 with hall.stepDown := some (1, 1) } : Mach).hall.isMaster = true ∧ (master 0).hall.replace = none) ∧
    ((master 0).hall.stepDown = none) ∧
    ((follower 0).hall.isMaster = false ∧ (follower 0).hall.claim = none)) ∧
    (((master 0).plan = some plan ∧ (master 0).hall.members.all (fun x => decide (x.2 < 3)) = true) ∧
    ((follower 0).en fnPeer = true ∧ ((follower 0).wr .syFuncEn 0).en fnPeer = false ∧ (follower 100).hall.isMaster = false) ∧
    (({ follower 0 with hall.claim := some ⟨1, 1, 100⟩ } : Mach).hall.claim.isSome = true ∧ (1 : Nat) = (⟨1, 0, 100⟩ : ClaimSt).term ∧
    ({ follower 0 with sys.position := 1 } : Mach).before 0 1 = true) ∧
    ((master 0).before 1 (master 0).sys.position = false ∧ ({ master 0 with sys.position := 1 } : Mach).hall.isMaster = true ∧ ({ master 0 with hall.members := [(1, 3)] }
    : Mach).hall.members.all (fun x => decide (x.2 < 3)) = false)) := 
  ⟨by unfold Mach.hears; decide +kernel,
   by decide +kernel,
   by decide +kernel⟩

theorem Slices_met :
    ((∀ t ∈ [FrameType.partialSum, .sliceCopy, .gen, .xferAck true, .xferAck false], (follower 0).hears (hd t (follower 0).planTag 1) t
    ∧ (1 : Nat) ≠ (follower 0).ownPos ∧ (follower 0).hears (hdp (follower 0) t) t ∧ 0 = (follower 0).ownPos) ∧
    ((follower 63).time.count % 100 ≠ 64) ∧
    (({ follower 64 with hall.roles := [role0] } : Mach).hall.roles ≠ [] ∧ (follower 64).time.inDomain = true ∧ (follower 64).hall.table
    = none ∧ (follower 64).time.count % 100 = 64) ∧
    (({ follower 64 with hall.roles := [role0], time.inDomain := false } : Mach).time.inDomain = false)) ∧
    ((({ (all (follower 64)).wr .avTileMapLo 1 with anvil.bist := true, fc.banks := List.replicate 4 { BankSt.reset with valid := true } } : Mach).anvilOn
    = true ∧ (({ all (follower 64) with fc.banks := List.replicate 4 { BankSt.reset with valid := true } } : Mach).bank (all (follower 64)).fc.hallBank).valid
    = true) ∧
    (({ follower 64 with hall.table := some (0, []) } : Mach).hall.table = some ((follower 64).time.count / 100, []) ∧ (follower 64).anvilOn
    = false) ∧
    ((master 86).hears (hdp (master 86) .partialSum) .partialSum ∧ (0 : Nat) = (master 86).ownPos ∧ (master 86).time.count % 100 ≤ 86) ∧
    ((follower 0).hall.roles = [] ∧ (follower 0).hall.oldCopies = [])) ∧
    ((([⟨0, false, [], some 0, [], [], false⟩] : List Role).find? (fun r => r.slice == 0 && !r.primary && r.copying.isSome && !r.snap)
    = some ⟨0, false, [], some 0, [], [], false⟩) ∧
    (({ follower 0 with fc.gens := [⟨gen 2, [], false, false, 0, 0⟩] } : Mach).fc.gens = [⟨gen 2, [], false, false, 0, 0⟩] ∧ gen 2 ≠
    gen 1 ∧ (gen 1).n < (gen 2).n) ∧
    ((follower 0).fc.gens = [] ∧ ((follower 0).bank (follower 0).fcBank).gen = none ∧ genFrames (gen 1) ≤ 1 ∧ 0 < genFrames (gen 1)) ∧
    ((follower 0).fc.sending = none) ∧
    (([] : List Nat).length < 1 ∧ 1 ≤ ([0] : List Nat).length) ∧
    ((follower 0).fc.gens = [] ∧ ((follower 0).bank (follower 0).fcBank).gen = none ∧ genFrames (gen 1) ≤ 1 ∧ 0 < genFrames (gen 1)) ∧
    (({ all (follower 0) with sys.train := true } : Mach).fc.sending = none ∧ (follower 0).trainEn = true ∧ ((follower 0).wr .syFuncEn 0).trainEn
    = false)) ∧
    ((⟨0, false, [], some 0, [], [], false⟩ : Role).blocks = [] ∧ ({ follower 64 with hall.table := some (1, []) } : Mach).hall.table
    = some (1, []) ∧ (1 : Nat) ≠ (follower 64).time.count / 100) := 
  ⟨by unfold Mach.hears; decide +kernel,
   by unfold Mach.hears; decide +kernel,
   by decide +kernel,
   by decide +kernel⟩

theorem CellSweep_met :
    (((ported PortSt.reset).time.count % 1000 = 0 ∧ (ported PortSt.reset).sys.capValid = true ∧ (ported PortSt.reset).sys.cfgLoaded =
    true ∧ (ported PortSt.reset).ready fnLoop = true ∧ (ported PortSt.reset).cell.camp = none ∧ (ported PortSt.reset).cell.caps = none
    ∧ (ported PortSt.reset).portEn 0 = true ∧ ((ported PortSt.reset).port 0).sweep = none ∧ 0 < (ported PortSt.reset).cell.ports.length) ∧
    (up.sys.cfgLoaded = false ∧ up.portEn 3 = false) ∧
    (((ported { PortSt.reset with sweep := some 0 }).port 0).sweep = some 0 ∧ (ported { PortSt.reset with sweep := some 0 }).unitsOf 0
    = 2 ∧ ((ported { PortSt.reset with sweep := some 0 }).port 0).ring < 3)) ∧
    ((3 ≤ ((ported { PortSt.reset with sweep := some 0, ring := 3 }).port 0).ring ∧ ((ported { PortSt.reset with sweep := some 0, ring := 3 }).port 0).ring
    ≠ 4 ∧ ((ported { PortSt.reset with sweep := some 0, ring := 3 }).port 0).ring ≠ 5) ∧
    (1 + 1 = (ported { PortSt.reset with ring := 0 }).unitsOf 0 ∧ 1 + 0 < (ported { PortSt.reset with ring := 0 }).unitsOf 0 ∧ (ported { PortSt.reset with ring := 0 }).unitsOf
    0 < 2 + 1 ∧ (3 : Nat) ≠ (ported { PortSt.reset with ring := 0 }).unitsOf 0)) ∧
    ((({ (ported { PortSt.reset with sweep := some 0, ring := 2, units := [read, UnitSt.reset] }) with time.count := 100 } : Mach).nextRead
    0 false = some 2 ∧ ({ (ported { PortSt.reset with sweep := some 0, ring := 2, units := [read, UnitSt.reset] }) with time.count := 400 } : Mach).readFrom
    0 0 ≤ 400) ∧
    (({ (ported { PortSt.reset with sweep := some 0, ring := 3, a := 1, b := 1, units := [UnitSt.reset, UnitSt.reset] }) with time.count := 100 } : Mach).nextRead
    0 true = some 2) ∧
    ((ported { PortSt.reset with sweep := some 0 }).time.count < (ported { PortSt.reset with sweep := some 0 }).readFrom 0 0)) ∧
    (({ (ported { PortSt.reset with outA := some ⟨1, 0, 1⟩, outB := some ⟨2, 0, 1⟩ }) with time.count := 2 } : Mach).time.count = 0 +
    2 ∧ ((ported { PortSt.reset with outA := some ⟨1, 0, 1⟩ }).port 0).outA = some ⟨1, 0, 1⟩ ∧ (ported { PortSt.reset with outA := none }).time.count
    < 0 + 2) ∧
    (crc16 (dataBytes cd) = cd.crc ∧ crc16 (dataBytes { cd with crc := 0 }) ≠ ({ cd with crc := 0 } : CellData).crc ∧ cd.type = 3 ∧
    cd.sweep = 0 / 1000 % 4294967296 ∧ ((ported { PortSt.reset with sweep := some 0 }).port 0).void = false ∧ (if cd.fromB then ((ported { PortSt.reset with sweep := some 0, outA := some ⟨1, 0, 1⟩ }).port
    0).outB else ((ported { PortSt.reset with sweep := some 0, outA := some ⟨1, 0, 1⟩ }).port 0).outA) = some ⟨1, 0, 1⟩ ∧ (if cd.fromB then ((ported { PortSt.reset with sweep := some 0 }).port
    0).outB else ((ported { PortSt.reset with sweep := some 0 }).port 0).outA) = none ∧ (((ported { PortSt.reset with sweep := some 0 }).port 0).units.getD 0
    UnitSt.reset).testing = []) ∧
    (((ported { PortSt.reset with sweep := some 0, void := true }).port 0).void = true ∧ { cd with type := 2 }.type ≠ 3 ∧ { cd with sweep := 1 }.sweep
    ≠ 0 / 1000 % 4294967296 ∧ ((ported { PortSt.reset with sweep := some 0, units := [{ read with testing := [1] }] }).port 0).units.getD
    0 UnitSt.reset ≠ read) ∧
    (((ported { PortSt.reset with sweep := some 0 }).port 0).freeA ≤ (ported { PortSt.reset with sweep := some 0 }).time.count ∧
    (ported { PortSt.reset with sweep := some 0 }).time.count < ((ported { PortSt.reset with sweep := some 0, freeB := 5 }).port 0).freeB
    ∧ (ported { PortSt.reset with sweep := some 0, balDone := true }).cell.ports.length = 1 ∧ ((ported { PortSt.reset with sweep := some 0, balDone := true }).port
    0).balDone = true) ∧
    ((((ported { PortSt.reset with balLeft := [1] }).port 0).balLeft = 1 :: [] ∧ ({ (ported PortSt.reset) with pair.holding := true } : Mach).balTarget
    0 = none ∧ ({ (ported PortSt.reset) with pair.holding := true, cell.camp := some ⟨0, 5, 1, 20, 20, 10, 0, [], 0, 0⟩, ops := [op .running] } : Mach).balTarget
    0 ≠ none) ∧
    (({ ported PortSt.reset with pair.holding := true } : Mach).ringDriver = true ∧ ({ ported PortSt.reset with pair.partnerLast := some { pf with holding := true }, pair.pairUp := true }
    : Mach).ringDriver = false ∧ ({ ported PortSt.reset with cell.stopbal := 1 } : Mach).cell.stopbal.testBit 0 = true)) ∧
    (((ported { PortSt.reset with sweep := some 0, units := [read, read] }).readsOver 0 = true ∧ ((ported { PortSt.reset with sweep := some 0 }).port 0).balDone
    = false) ∧
    ((List.range 4).all (fun p => ((ported PortSt.reset).port p).sweep.isNone) = true)) ∧
    ((({ (ported { PortSt.reset with sweep := some 0, ring := 5 }) with time.count := 1000 } : Mach).time.count = 0 + 1000 ∧ ((ported { PortSt.reset with sweep := some 0, ring := 5 }).port
    0).ring = 5 ∧ ((ported { PortSt.reset with sweep := some 0, ring := 5 }).port 1).sweep = none ∧ ((ported { PortSt.reset with sweep := some 0, ring := 5 }).port
    2).sweep = none ∧ ((ported { PortSt.reset with sweep := some 0, ring := 5 }).port 3).sweep = none) ∧
    ((((ported { PortSt.reset with sweep := some 0, ring := 2, units := [read, read] }).port 0).units.take ((ported { PortSt.reset with ring := 2 }).unitsOf 0)).all
    (fun u => u.got) = true)) := 
  ⟨by decide +kernel,
   by decide +kernel,
   by decide +kernel,
   by decide +kernel,
   by decide +kernel,
   by decide +kernel,
   by decide +kernel,
   by decide +kernel,
   by decide +kernel,
   by decide +kernel⟩

theorem Forecast_met :
    ((up.time.count % 10 = 0 ∧ ({ up with fc.lastUpdate := 10 } : Mach).fc.lastUpdate ≠ up.time.count ∧ up.sys.tiles ≠ 0 ∧
    up.time.powered = true ∧ up.fc.run = none ∧ (up.wr .syFuncEn 0).en fnForecast = false) ∧
    ((all up).en fnForecast = true ∧ ((all up).gateUpdate.readSchedules 0).ready fnForecast = true ∧ ((all up).gateUpdate.readSchedules 0).en
    fnForecast = true ∧ (all up).gateUpdate.schedPoison = false ∧ ((all up).wr .syReady 0).ready fnForecast = false) ∧
    (({ up with time.count := 9, fc.run := some (run false) } : Mach).time.count < (run false).c + 10) ∧
    ((run false).c + 10 ≤ ({ up with time.count := 10, fc.run := some (run false) } : Mach).time.count ∧ (run false).fin = false ∧
    (run true).fin = true)) ∧
    (((all up).gateUpdate.fc.gateHeld = false ∧ ({ all up with fc.gateHeld := true } : Mach).fc.gateHeld = true ∧ up.ready fnForecast =
    false ∧ (all up).ready fnForecast = true) ∧
    (up.anvil.jobs = []) ∧
    ((jobs [{ going with phase := .ended, op := some 0, fin := some ⟨stOk, 0, 0, 0⟩ }]).lockWaits { going with phase := .ended, op := some 0, fin := some ⟨stOk, 0, 0, 0⟩ }
    = false ∧ going.kind = .user) ∧
    (({ jobs [{ going with kind := .forecast, phase := .ended }] with fc.run := some (run false), time.count := 9 } : Mach).time.count
    ≤ (run false).c + 9 ∧ (run false).job = going.id ∧ (run false).c + 9 < 10) ∧
    (stMemPoison ≠ stOk) ∧
    (up.fcConditions = false)) ∧
    (((all up).ready fnAnvil = true ∧ ({ all up with fc.frames := 2 ^ 31, fc.banks := List.replicate 4 { BankSt.reset with valid := true } } : Mach).fcConditions
    = true) ∧
    (up.fc.partnerRows = [] ∧ ({ up with fc.partnerRows := [(0, [])] } : Mach).fc.partnerRows.any (fun r => r.1 == 0) = true)) ∧
    (((all up).forecastEn = true ∧ (up.wr .syFuncEn 0).forecastEn = false ∧ (⟨stOk, 0, 0, 0⟩ : JobEnd).status = stOk ∧ (hot.runningCopy hot.fcBank)
    = hot.runningCopy hot.fcBank ∧ ({ hot with poison := [histBase] } : Mach).meetsPoison (({ hot with poison := [histBase] } : Mach).encodeReads (({ hot with poison := [histBase] }
    : Mach).runningCopy ({ hot with poison := [histBase] } : Mach).fcBank)) = true ∧ hot.meetsPoison (hot.encodeReads (hot.runningCopy hot.fcBank))
    = false) ∧
    (({ jobs [going] with fc.run := some (run false), time.count := 10 } : Mach).time.count > (run false).c + 9)) ∧
    (∃ m : Mach, m.schedPoison = true) := 
  ⟨by decide +kernel,
   by decide +kernel,
   by decide +kernel,
   by decide +kernel,
   by exact ⟨{ (all up).wr .avFcSchedCfg 1 with poison := [(all up).schedBase] }, by decide +kernel⟩⟩

theorem ForecastGate_met :
    ((up.wr .avFcCtrl 0).gate.fc.gateHeld = false) ∧
    (({ up.wr .avFcCtrl 0x10000000 with fc.errs := List.replicate 3 (List.replicate 100 1000000) } : Mach).gate.fc.gateHeld = true) := by decide +kernel

theorem Training_met :
    ((up.fc.loads = []) ∧
    (({ up with fc.loads := [⟨0, 0, some 0, 65537, []⟩], ops := [op .running] } : Mach).fc.loads = [⟨0, 0, some 0, 65537, []⟩] ∧ min
    65536 (65537 - 0) = 65536 ∧ (opped up .running).opById 0 = some (op .running) ∧ (op .running).resumeNote = none ∧ up.poisonIn 0
    65536 = false) ∧
    (({ up with poison := [0] } : Mach).poisonIn 0 1 = true ∧ (op .running).state ≠ .suspended ∧ (op .suspending).state = .suspending) ∧
    (sha3_256 (([] : List Byte).drop 256) ≠ (pkgHdr []).digest) ∧
    (([] : List Byte) = [] ++ (Config.builtinPackage.drop 0).take (min 65536 (0 - 0)) ∧ (⟨0, 0, none, 0, []⟩ : LoadSt).addr = none) ∧
    (up.trainCheck 0x308 0 = some stUnitAbsent)) ∧
    ((({ (hot.wr .avFcCtrl 0x20000000) with sys.train := true, fc.banks := List.replicate 4 { BankSt.reset with valid := true, trainable := true } } :
    Mach).trainCheck 0x308 0 = none ∧ bit ((hot.wr .avFcCtrl 0x20000000).rd .avFcCtrl) 29 = true ∧ hot.ready fnForecast = true ∧
    hot.en fnTrain = true ∧ hot.tagHeld 0x700 = false) ∧
    (({ training none (some 1) with time.count := 100000, fc.banks := List.replicate 4 { BankSt.reset with trainable := true } } : Mach).anvilOn
    = true ∧ ({ training none (some 1) with time.count := 100000 } : Mach).acting = true ∧ (training none (some 1)).opById 0 = some
    (op .running) ∧ (op .running).resumeNote = none ∧ (training none none).trainLive ⟨0, 0, 8, 3, 0, none, none⟩ = true)) ∧
    ((({ follower 100000 with sys.position := 1, hall.bufs := [some { plan with shelves := [shelf0] }], fc.trainer := some 0 } : Mach).acting
    = false) ∧
    ((training (some 1) (some 1)).fc.train = some ⟨0, 0, 8, 3, 0, some 1, some 1⟩ ∧ (training (some 1) none).fc.train = some ⟨0, 0, 8,
    3, 0, none, some 1⟩ ∧ (training (some 1) none).levelTwoRuns = true ∧ (training (some 1) none).time.count < 100000 * (1 + 3) ∧
    100000 * (1 + 3) ≤ ({ training (some 1) none with time.count := 400000 } : Mach).time.count) ∧
    (({ training (some 1) none with poison := [trainArea] } : Mach).trainPoison = true ∧ ({ training (some 1) none with fc.opt := true, sys.stks := 1, stks := [{ StackSt.reset with inService := true }] }
    : Mach).trainPoison = false)) ∧
    (((training none none).fc.train = some ⟨0, 0, 8, 3, 0, none, none⟩ ∧ (⟨0, 0, 8, 3, 0, some (0 + 2), none⟩ : TrainSt).left = some (0 + 2)) ∧
    ((⟨gen 1, [], true, false, 0, 0⟩ : GenSt).kept = true ∧ ({ training none none with fc.gens := [⟨gen 1, [], true, false, 0, 0⟩] } : Mach).levelTwoRuns
    = true ∧ hot.levelTwoRuns = false) ∧
    (({ up with fc.due := [(0, 1)], fc.gens := [⟨{ gen 1 with adopt := 0 }, [], true, true, 0, 0⟩] } : Mach).adoptable ⟨{ gen 1 with adopt := 0 },
    [], true, true, 0, 0⟩ = true)) ∧
    ((({ up with fc.due := [(0, 1)], fc.gens := [⟨gen 1, [], false, true, 0, 0⟩] } : Mach).adoptable ⟨gen 1, [], false, true, 0, 0⟩ =
    false ∧ up.withheld ⟨gen 1, [], false, true, 0, 0⟩ = false ∧ ((up.wr .syFuncEn 0).withheld ⟨{ gen 1 with trainer := 0 }, [], false, true, 0, 0⟩)
    = true) ∧
    (3 ≤ job.level ∧ job.phase = .queued ∧ (training (some 1) none).trainWork = true ∧ ((training (some 1) none).wrField .avSchedCfg 6 0 99).rdField
    .avSchedCfg 6 0 < 100 ∧ up.trainWork = false) ∧
    (([(0, [])] : List (Nat × List Byte)).length = genFrames (gen 1)) ∧
    (({ up with fc.banks := List.replicate 4 { BankSt.reset with digest := [1] } } : Mach).bank up.fcBank ≠ BankSt.reset)) ∧
    ((up.trainEn = true ∧ (up.wr .syFuncEn 0).trainEn = false ∧ up.id.appRun = true ∧ up.opcodeHeld ocTrainRun = false ∧ (opped up .running).opcodeHeld
    ocTrainRun = true ∧ ({ up with ops := [{ op .running with rt := ⟨0, 0, 0x700, 0, 0⟩ }] } : Mach).tagHeld 0x700 = true) ∧
    ((training none (some 1)).fc.opt = false ∧ ({ training none (some 1) with fc.opt := true } : Mach).fc.opt = true ∧ (training none (some 1)).opById
    0 = some (op .running) ∧ ({ training none (some 1) with ops := [op .suspended] } : Mach).trainLive ⟨0, 0, 8, 3, 0, some 1, none⟩ =
    false ∧ (training none (some 1)).trainEn = true) ∧
    ((training (some 1) none).trainLast ⟨0, 0, 8, 3, 0, none, some 1⟩ = false ∧ (training (some 1) none).fc.sending = none)) ∧
    ((({ up with poison := [histBase] } : Mach).meetsPoison (({ up with poison := [histBase] } : Mach).encodeReads (({ up with poison := [histBase] } :
    Mach).receivingCopy up.fcBank)) = true ∧ (training none none).meetsPoison ((training none none).encodeReads ((training none none).receivingCopy (training none
    none).fcBank)) = false) ∧
    ((⟨gen 1, [], true, true, 0, 0⟩ : GenSt).encoded = true ∧ (0, 1).1 = up.time.count ∧ (⟨gen 1, [], false, false, 0, 0⟩ : GenSt).kept
    = false)) := 
  ⟨by decide +kernel,
   by decide +kernel,
   by decide +kernel,
   by decide +kernel,
   by decide +kernel,
   by decide +kernel,
   by decide +kernel⟩

theorem TrainingDigests_met :
    (∀ d : List Byte, ∃ g : GenHdr, d = g.digest) := by exact fun d => ⟨{ gen 1 with digest := d }, rfl⟩

theorem TheAnvil_met :
    ((up.runningJob = none ∧ up.nextUp = none) ∧
    ((jobs [going]).runningJob = some going ∧ (jobs [going]).mayIssue going = true) ∧
    ((jobs [{ going with level := 1 }]).levelOn 1 = true ∧ (up.wr .avSchedCfg 0).levelOn 3 = false ∧ ({ up with anvil.jobs := [going] } : Mach).mayIssue
    going = false) ∧
    ((jobs [going]).poisonIn (going.prog + 64 * going.pc) 64 = false ∧ ({ jobs [going] with poison := [sramBase] } : Mach).poisonIn
    (going.prog + 64 * going.pc) 64 = true ∧ going.pc < going.progLen ∧ { going with pc := 2 }.progLen ≤ { going with pc := 2 }.pc) ∧
    (goesOn { m := jobs [going], j := going, t := 1, lines := [] } ((jobs [going]).words going.prog 16) = true)) ∧
    ((stopsWith { m := jobs [going], j := going, t := 1, lines := [] } (0xFF :: List.replicate 15 0) = some (stAnvIllegal, 0, 0xFF) ∧
    stAnvIllegal ≠ stMemPoison) ∧
    ((jobs [going, { job with level := 2 }]).lowerWork going.level = true ∧ (jobs [going]).lowerWork going.level = false ∧ (jobs [going]).levelOn
    3 = true) ∧
    ((jobs [parked]).runningJob = none ∧ (jobs [parked]).nextUp = some parked ∧ (jobs [parked]).anvilOn = true ∧ parked.repro = true ∧
    { parked with mode := 0 }.repro = false ∧ parked.tSave ≠ (jobs [parked]).tilesNow ∧ (jobs [parked]).anvil.lock.job ≠ some
    parked.id ∧ (locked .running).inSession going = true) ∧
    (hot.levelOne = false ∧ ({ hot with hall.step := some ⟨0, 0, [], true, none, [], []⟩ } : Mach).levelOne = true ∧ hot.anvilFree 1 =
    true)) ∧
    (((jobs [job]).runningJob = none ∧ (jobs [job]).nextUp = some job ∧ (jobs [job]).mayIssue job = true ∧ job.issued = false ∧ (jobs [job]).poisonIn
    job.descTable (64 * job.descCount) = false) ∧
    (going.op.bind (jobs [going]).opById = none ∧ { going with op := some 0, stopOrd := some 1 }.stopOrd = some 1 ∧ (op .running).rt.tag
    ≠ 0) ∧
    (haltsAt { m := jobs [going], j := going, t := 1, lines := [] } (1 :: List.replicate 15 0) = true) ∧
    ({ job with mode := 1 }.repro = true) ∧
    ({ going with phase := .hashing }.phase = .hashing ∧ (jobs [going]).digestPoison going [] = false ∧ ({ jobs [going] with poison := [sramBase] } :
    Mach).digestPoison going [] = true) ∧
    (hot.tilesIn.testBit 0 = true ∧ hot.tilesIn.testBit 63 = false)) ∧
    (∀ t : Sparse 8, ({ jobs [parked] with mem := t } : Mach).poisonIn parked.save saveSize = false) ∧
    (∃ t : Sparse 8, ({ jobs [parked] with mem := t } : Mach).word (parked.save + saveCrcAt) = crc32 (({ jobs [parked] with mem := t } : Mach).saveRest parked.save)) ∧
    (∃ t : Sparse 8, ({ jobs [parked] with mem := t } : Mach).word (parked.save + saveCrcAt) ≠ crc32 (({ jobs [parked] with mem := t } : Mach).saveRest parked.save)) ∧
    (({ jobs [job] with poison := [0x1000] } : Mach).poisonIn job.save saveSize = true) := 
  ⟨by decide +kernel,
   by decide +kernel,
   by decide +kernel,
   by exact fun t => clean_memory _ _ _ rfl rfl rfl,
   by exact save_holds id,
   by obtain ⟨t, h⟩ := save_holds (· + 1); refine ⟨t, ?_⟩; rw [h]; bv_omega,
   by exact List.any_eq_true.mpr ⟨0x1000, List.mem_map.mpr ⟨0, List.mem_range.mpr (by decide), rfl⟩, by decide +kernel⟩⟩

theorem SlotZero_met :
    ((⟨2, 0, 0, 0, 0, 0, 0, 0, 0, 3 * 4294967296 + 2⟩ : Ins).imm = 3 * 4294967296 + 2) ∧
    ((⟨3, 0, 31, 0, 0, 0, 0, 0, 0, 1⟩ : Ins).imm < going.progLen ∧ going.scReg 31 = 0 ∧ ({ going with sc := List.replicate 32 1 } : Job).scReg
    31 ≠ 0) ∧
    ({ going with loops := List.replicate 4 ⟨0, 0, 1⟩ }.loops.length = 4) ∧
    ({ going with loops := [⟨0, 0, 2⟩] }.pc = 0 ∧ 1 < (⟨0, 0, 2⟩ : LoopFrame).left) ∧
    (0 < 31 ∧ 31 < going.sc.length) := by decide +kernel

theorem LockStep_met :
    ((up.anvil.lock.state ≠ .running ∧ up.anvil.lock.state ≠ .searching) ∧
    ((locked .running).anvil.lock.state = .running ∧ (locked .running).anvil.lock.digest = some (dig 5)) ∧
    ((dig 5).ord = 1 ∧ (dig 5).slots = [5] ∧ (dig 5).slots ≠ [6] ∧ (dig 5).scalar = 0) ∧
    ((locked .running).anvil.lock.theirs = some (1, [6], 0) ∧ (dig 5).scalar ≠ 1) ∧
    ((locked .running).anvil.jobs.find? (fun j => some j.id == (locked .running).anvil.lock.job) = some going ∧ (locked .running).jobOpState
    going ≠ .cancelling) ∧
    (({ locked .running with anvil.jobs := [{ going with op := some 0 }], ops := [op .cancelling] } : Mach).jobOpState { going with op := some 0 }
    = .cancelling) ∧
    ((locked .searching).anvil.lock.state = .searching) ∧
    (up.sys.lockstep = false ∧ ({ up with sys.lockstep := true } : Mach).sys.lockstep = true)) ∧
    ((({ up with anvil.lock.waiting := some 0, time.count := 10 } : Mach).time.count ≤ (({ up with anvil.lock.waiting := some 0, time.count := 10 } : Mach).slot
    0).count + 10) ∧
    ((up.slot 0).count + 10 < 11 ∧ up.anvil.lock.waiting = none) ∧
    ((locked .running).anvil.lock.ownEnd = none ∧ stOk ≠ stResumedNonrepro ∧ endsPartner stOk = false ∧ endsPartner stAnvIllegal =
    false ∧ stAnvIllegal ≠ stOk) ∧
    (({ locked .running with anvil.lock.ownEnd := some (stOk, 1) } : Mach).anvil.lock.ownEnd = some (stOk, 1) ∧ ((stOk, 1) : Nat × Nat)
    ≠ (stOk, 2))) := 
  ⟨by decide +kernel,
   by decide +kernel⟩

theorem MemoryAndHeat_met :
    ((up.scrubHome 0 = none ∧ up.scrubHome sramBase = some none) ∧
    (findingOf (syndromes (up.symbolsRead sramBase [])) = .good ∧ findingOf (syndromes (up.symbolsRead sramBase [(67, 255)])) = .one
    67 255 ∧ findingOf (syndromes (up.symbolsRead sramBase [(0, 1), (1, 1)])) = .bad) ∧
    ((stacked StackSt.reset).space dramBase = .stack 0 0 ∧ up.space sramBase = .sram 0) ∧
    ((stacked { StackSt.reset with wasOut := true }).sys.stks.testBit 0 = true ∧ ((stacked { StackSt.reset with wasOut := true }).stackSt 0).wasOut
    = true ∧ up.sys.stks.testBit 0 = false) ∧
    (up.phys.dieNext = up.phys.dieStep ∧ max up.bel.snap.coolOwn up.phys.dieNext = up.phys.modStep ∧ ({ up with phys.dieUp := [0, 100, 100, 100] } :
    Mach).phys.dieNext ≠ up.phys.dieStep)) ∧
    ((up.lineHome (64 * (0 / 64)) = none ∧ up.lineHome (64 * (sramBase / 64)) = some none ∧ up.poisoned (64 * (sramBase / 64)) = false
    ∧ touchesBanks (64 * (sramBase / 64)) 64 = false) ∧
    ((stacked { StackSt.reset with inService := true, watermark := 64 }).lineHome (64 * (dramBase / 64)) = some (some 0)) ∧
    (({ up with poison := [sramBase] } : Mach).poisoned (64 * ((sramBase + 63) / 64)) = true) ∧
    (up.time.count % 6000000 = 0) ∧
    ((List.range 64).all (fun i => decide (({ up with anvil.ceThresh := 1 } : Mach).anvil.sliceCe.getD i 0 < 1)) = true)) ∧
    ((((stacked { StackSt.reset with inService := true }).stackSt 0).inService = true ∧ (stacked { StackSt.reset with inService := true }).sys.stks.testBit
    0 = true ∧ ((stacked { StackSt.reset with inService := true }).stackSt 0).watermark < 64 ∧ 64 ≤ stackSize ∧ 64 % 64 = 0 ∧
    stackSize < stackSize + 64) ∧
    (((stacked StackSt.reset).stackSt 0).inService = false ∧ ((stacked StackSt.reset).stackSt 0).outBy = 0)) ∧
    ((((stacked { StackSt.reset with outBy := 2 }).stackSt 0).outBy ≠ 0 ∧ (stacked { StackSt.reset with outBy := 2 }).time.count <
    ((stacked { StackSt.reset with outBy := 2 }).stackSt 0).lastTry + 6000000 ∧ ((stacked { StackSt.reset with outBy := 2 }).stackSt 0).lastTry
    + 6000000 ≤ ({ stacked StackSt.reset with time.count := 6000000 } : Mach).time.count) ∧
    (({ up with phys.die := 1150 } : Mach).phys.stopped = false ∧ 1150 ≤ ({ up with phys.die := 1150 } : Mach).phys.die) ∧
    (({ up with phys.stopped := true, phys.coolRun := 500000 } : Mach).phys.coolRun = 500000) ∧
    (({ up with phys.die := 1149 } : Mach).phys.die < 1150)) ∧
    ((({ up with phys.inletLow := 100 } : Mach).phys.inletFault = false ∧ ({ up with phys.inletLow := 99 } : Mach).phys.inletLow < 100) ∧
    ((stacked { StackSt.reset with inService := true, watermark := 64 }).scrubHome dramBase = some (some 0) ∧ 0 < (stacked { StackSt.reset with watermark := 64 }).stks.length
    ∧ up.anvil.ceThresh ≤ 65535 ∧ ({ up with phys.dieUp := [0, 0, 0, 100] } : Mach).phys.dieNext = 3 ∧ up.phys.dieStep = 0)) := 
  ⟨by decide +kernel,
   by decide +kernel,
   by decide +kernel,
   by decide +kernel,
   by decide +kernel⟩

theorem DmaControl_met :
    ((up.dma.lines = []) ∧
    (({ up with dma.lines := [⟨5, 0, []⟩], time.count := 1 } : Mach).dma.lines = [⟨5, 0, []⟩] ∧ 0 + 1 ≤ 1) ∧
    (((chan desc).wr (.dmChCfg 31) 0x80000001).pacing 31 = 2 ∧ ((chan desc).ch 31).state = 2) ∧
    ((all up).lands .tk (.dmChCtrl 31) true ∧ chOwned .tk 31 = true ∧ chOwned .fw 31 = false ) ∧
    (((chan { DmaCh.reset with state := 1 }).ch 31).state = 1 ∧ bit (((chan { DmaCh.reset with state := 1 }).wr (.dmChCtrl 31) 0x80000000).rd (.dmChCtrl 31))
    31 = true ∧ (all up).en fnDma = true) ∧
    (((all up).ch 31).state = 0 ∧ (up.wr .syFuncEn 0).en fnDma = false) ∧
    (31 < (chan desc).dma.chs.length ∧ Regs.wf (chan desc).regs = true) ∧
    (chOwned .host 31 = false ∧ ((up.wr (.cxRwBaseLo 0 0) 3).wr (.cxRwSize 0 0) 0x1000).lands .host (.dmChCtrl 31) true)) ∧
    (({ up with dma.lines := [⟨5, 0, []⟩] } : Mach).dma.lines = [⟨5, 0, []⟩] ∧ ({ up with dma.lines := [⟨5, 0, []⟩] } : Mach).time.count
    < 0 + 1 ∧ ({ up with dma.lines := [⟨5, 0, [31]⟩] } : Mach).dma.lines = [⟨5, 0, [31]⟩] ∧ ([31] : List Nat) ≠ []) := 
  ⟨by unfold Mach.lands; decide +kernel,
   by decide +kernel⟩

theorem DmaMoves_met :
    (((chan desc).judge (chClass 31) (desc.cur + 3) 1 true = .ok ∧ desc.cur + 3 < mailBase) ∧
    (DmaCh.reset.moving = false ∧ desc.left ≠ 0 ∧ desc.fence = false) ∧
    (((chan { DmaCh.reset with state := 2, next := sramBase, cur := sramBase }).ch 31).state = 2 ∧ ((chan { DmaCh.reset with state := 2, next := sramBase, cur := sramBase }).ch
    31).desc = [] ∧ ((chan { DmaCh.reset with state := 2, next := sramBase, cur := sramBase }).wr (.dmChLimit 31) 0).rdField
    (.dmChLimit 31) 23 0 ≤ ((chan { DmaCh.reset with state := 2, next := sramBase, cur := sramBase }).rd (.dmChChain 31)).toNat)) ∧
    ((((chan { DmaCh.reset with state := 2, next := sramBase, cur := sramBase }).rd (.dmChChain 31)).toNat < ((chan { DmaCh.reset with state := 2, next := sramBase, cur := sramBase }).wr
    (.dmChLimit 31) 1).rdField (.dmChLimit 31) 23 0 ∧ (chan { DmaCh.reset with state := 2, next := sramBase, cur := sramBase }).judge
    (chClass 31) sramBase 32 false = .ok ∧ ((chan { DmaCh.reset with state := 2, next := sramBase, cur := sramBase }).dmaRead 31 sramBase 32 []).status
    = 0) ∧
    ((chan desc).judge (chClass 31) 0x7FFFFFFFFFE0 32 false = .undecoded ∧ (chan desc).judge (chClass 0) sramBase 32 false = .denied)) ∧
    (((({ chan { DmaCh.reset with state := 2, next := sramBase, cur := sramBase } with poison := [sramBase] } : Mach).dmaRead 31 sramBase 32 []).status
    ≠ 0) ∧
    ((chan desc).burstPick = some 31 ∧ ((chan desc).ch 31).overlapBad = false) ∧
    (up.burstPick = none) ∧
    (desc.moving = true ∧ DmaCh.reset.moving = false ∧ DmaCh.reset.state = 0) ∧
    ({ desc with left := 0, srcLeft := 0, dstLeft := 0 }.leftOver = false ∧ bit (wordAt { desc with left := 0 }.desc 0) 7 = false ∧
    bit (wordAt [0x80] 0) 7 = true) ∧
    ({ desc with left := 0, desc := [0x10], srcLeft := 1 }.leftOver = true) ∧
    ({ desc with fence := true, failed := true }.fence = true)) ∧
    (((chan { desc with cur := sramBase }).judge (chClass 31) (sramBase + 3) 1 true = .ok ∧ ((chan { desc with cur := sramBase }).dmaWrite 31 (sramBase + 3) [1]).2
    = true ∧ regSize ≤ sramBase + 3 ∧ bit (wordAt desc.desc 0) 6 = false) ∧
    ({ desc with fence := true }.moving = false ∧ { desc with fence := true }.state = 2 ∧ { desc with left := 0, srcLeft := 0, dstLeft := 0 }.desc
    ≠ [] ∧ { desc with left := 0, bad := 0x84 }.bad ≠ 0)) := 
  ⟨by decide +kernel,
   by decide +kernel,
   by decide +kernel,
   by decide +kernel⟩

theorem DmaFills_met :
    ((readStatus (chan bursting) = some 0) ∧
    (readStatus { chan bursting with poison := [sramBase] } = some 0x84) ∧
    (bursting.inBurst = true ∧ desc.inBurst = false ∧ filled.inBurst = true ∧ (chan bursting).burstPick = some 31 ∧ up.burstPick ≠
    some 31 ∧ bursting.srcLeft ≠ 0 ∧ filled.dstLeft ≠ 0 ∧ filled.line = []) ∧
    ((filled.dstAt + min filled.buf.length (min filled.dstLeft (64 - filled.dstAt % 64))) % 64 = 0 ∧ ({ filled with buf := [1] }.dstAt + 1)
    % 64 ≠ 0 ∧ ({ filled with buf := [1] }.left ≠ ([] : List Byte).length + 1) ∧ { filled with dstAt := sramBase + 1, lineAt := sramBase, line := [1] }.dstAt
    = sramBase + 1)) ∧
    (({ desc with srcs := [(0, 64)], dsts := [(32, 64)] }.overlapBad = true ∧ desc.overlapBad = false ∧ ((chan filled).dmaWrite 31 (sramBase + 0x1000) [1]).2
    = true) ∧
    (((chan filled).dmaWrite 31 (hostBase) [1]).2 = false) ∧
    (((chan desc).wr (.dmChCfg 31) 0x40000000).pacing 31 = 1 ∧ (chan desc).pacing 31 = 0)) := 
  ⟨by decide +kernel,
   by decide +kernel⟩

theorem TheCxlPort_met :
    ((up.cxl.linkUp = false) ∧
    (cxl.cxl.linkUp = true ∧ cxl.hdmAddr 0xFFFFFF = none ∧ cxl.hdmAddr 0x1000000 = some sramBase ∧ cxl.judge .host (sramBase / 64 * 64)
    64 false = .ok ∧ cxl.judge .host (sramBase / 64 * 64) 64 true = .ok ∧ cxl.sys.capValid = true ∧ cxl.stackOut sramBase = false) ∧
    (cxl.hdmAddr 0x10FFFFFF = some 0x800FFFFFFF ∧ cxl.judge .host (sramBase + 0x10000000) 64 false = .ok ∧ (cxl.wr (.cxRwSize 0 0) 0).judge
    .host (sramBase / 64 * 64) 64 true = .denied) ∧
    ((stacked StackSt.reset).stackOut dramBase = true) ∧
    ((List.replicate 64 (some (0 : Byte))).all Option.isSome = true) ∧
    (({ cxl with poison := [sramBase] } : Mach).poisoned sramBase = true) ∧
    (linkModeOk 5 8 true = true ∧ linkModeOk 4 4 false = true ∧ linkModeOk 5 8 false = false)) ∧
    ((({ up with cxl.wasRate := 16 * 5 + 8 } : Mach).cxl.wasRate ≠ 0 ∧ 4 < ({ up with cxl.wasRate := 16 * 5 + 8 } : Mach).cxl.wasRate /
    16) ∧
    (up.dpaOk 0 sramSize = true ∧ up.dpaOk 0 0 = false) ∧
    (up.judge .tk hostBase [(0 : Byte)].length true = .ok ∧ up.space hostBase = .host 0 ∧ up.hostOpen = false) ∧
    ((cxl.wr .cxHostwin 1).hostOpen = true ∧ up.judge .host hostBase [(0 : Byte)].length true = .denied)) := 
  ⟨by decide +kernel,
   by decide +kernel⟩

theorem Spdm_met :
    (up.cxl.linkUp = false) ∧
    (cxl.time.powered = true ∧ cxl.cxl.linkUp = true ∧ (req 0x10 0 0).version = 0x10 ∧ (req 0x12 0 0).version ≠ 0x10) ∧
    ((spdm .version).id.spdm = .version ∧ (req 0x11 0 0).version ≠ 0x12 ∧ (req 0x11 0 0).version ≠ 0x13) ∧
    ((spdm .capabilities).id.spdm = .capabilities ∧ (req 0x12 0 0).version = (spdm .capabilities).id.spdmVer ∧ algorithmsCommon [] =
    false) ∧
    ((spdm .start).id.spdm ≠ .negotiated ∧ (req 0x13 0 0).version ≠ (spdm .negotiated).id.spdmVer) ∧
    ((spdm .negotiated).id.certOk = true ∧ (req 0x12 1 0).param1 ≠ 0) ∧
    (({ spdm .negotiated with id.certOk := false } : Mach).id.certOk = false) ∧
    ((req 0x12 0 8).param1 % 2 = 0 ∧ ((spdm .negotiated).measurement 8).isNone = true ∧ (8 : Nat) ≠ 255) ∧
    ((0xE4 : Nat) ∉ [0x81, 0x82, 0x83, 0x84, 0xE0, 0xE1, 0xE3]) := by decide +kernel

theorem Firmware_met :
    ((((up.wr (.cxRwBaseLo 2 0) 3).wr (.cxRwSize 2 0) 0x1000).lands .fw .idUpdCtrl true) ∧
    (up.lands .tk .idUpdCtrl true ∧ ({ up with id.updState := 1 } : Mach).id.updState = 1) ∧
    (up.id.updState ≠ 1 ∧ ({ up with id.pufOk := false } : Mach).id.pufOk = false ∧ up.id.pufOk = true) ∧
    ((up.setBytes 4 [1]).imageKind 0 = some false ∧ up.updAddr = 0 ∧ (up.slots2 false).trial = false) ∧
    (({ up with id.tk.trial := true } : Mach).slots2 false ≠ up.slots2 false) ∧
    (cxl.judge .host (sramBase - 64) 64 false ≠ .ok ∧ cxl.judge .host sramBase 64 false = .ok ∧ (windowed up).judge .host sramBase 64
    false = .denied) ∧
    (up.id.tk.trial = false ∧ up.id.app.trial = false ∧ ({ up with id.app.trial := true } : Mach).id.app.trial = true)) ∧
    ((up.anyStaged = false ∧ ({ up with id.tk.staged := true } : Mach).anyStaged = true ∧ (({ up with id.tk.staged := true } : Mach).slots2 up.id.updKind).staged
    = true) ∧
    (up.tokenOk = false) ∧
    ((up.wr .syFuncEn 0).outOfService = true ∧ holder.outOfService = false) ∧
    (up.fault.testMode = false ∧ lab.fault.testMode = true) ∧
    (up.id.job = none ∧ ({ up with id.job := some ⟨0, 0⟩ } : Mach).id.job = some ⟨0, 0⟩) ∧
    (imageStatus up [] = some stUpdFormat) ∧
    (({ up with ev.mounted := true, ev.queue := [evr] } : Mach).ev.frozen = false ∧ up.ev.mounted = false) ∧
    (up.ev.freezePending = false ∧ ({ up with ev.freezePending := true } : Mach).ev.freezePending = true)) ∧
    ((({ up with ev.frozen := true, ev.idle := 1000000 } : Mach).ev.idle = 1000000 ∧ ({ up with ev.idle := 999999 } : Mach).ev.idle <
    1000000) ∧
    (({ up with ev.freezePending := true, ev.freezeNew := true } : Mach).ev.freezeNew = true ∧ ({ up with ev.freezePending := true } : Mach).ev.freezeNew
    = false)) ∧
    (∃ m : Mach, Config.flashBlocks < (({ m with ev.retired := m.ev.retired + 1 } : Mach).ev.retired) * 20 ∧ m.ev.retiredFault =
    false) := 
  ⟨by unfold Mach.lands; decide +kernel,
   by decide +kernel,
   by decide +kernel,
   by exact ⟨{ up with ev.retired := Config.flashBlocks }, by show Config.flashBlocks < (Config.flashBlocks + 1) * 20; omega, rfl⟩⟩

theorem JobsAndPackagesPass_met :
    (submit.serves ocAvJobSubmit pJob) ∧
    ((submit.hasRead pJob).jobCheck pJob.cls ((submit.hasRead pJob).bytes (addr48 (pJob.word 4) (pJob.word 5)) 128) (addr48 (pJob.word 4) (pJob.word 5))
    (addr48 (pJob.word 8) (pJob.word 9)) (pJob.word 6) (pJob.word 7) (pJob.word 10) = none) ∧
    (submit.serves ocModelLoad pPkg) ∧
    ((submit.hasRead pPkg).modelCheck pPkg.cls (pPkg.word 4) (addr48 (pPkg.word 5) (pPkg.word 6)) (pPkg.word 7).toNat = none) := by unfold Mach.serves Mach.judges; decide +kernel

theorem EveryCommandCompletes_met :
    (∃ (m : Mach) (p : PowerInputs), m.time.powered = false ∧ p.leverLatched = true ∧ 184 < p.feedA) ∧
    (∃ (m : Mach), m.sys.capValid = true ∧ m.ev.mounted = false ∧ m.ev.mountFailed = false) ∧
    (∃ (m : Mach) (c : SavedCfg), m.sys.capValid = true ∧ m.id.appRun = true ∧ m.sys.cfgLoaded = false ∧ newestCopy m.sys.saved = some
    c ∧ (m.placePlan ((m.overlay (m.loadWords c)).planBuf)).validate (m.loadWords c) .fw false = none) ∧
    (∃ (m : Mach), m.sys.capValid = true ∧ m.sys.cfgLoaded = false ∧ 10000 ≤ m.time.upFrames) ∧
    (∃ (m : Mach) (k : Nat), m.sys.savePending = some k ∧ m.id.appRun = true) ∧
    (∃ (m : Mach), m.sys.capValid = true ∧ m.sys.tiles ≠ 0 ∧ m.anvil.bist = false ∧ m.phys.stopped = false) ∧
    (∃ (m : Mach), m.id.appRun = true ∧ m.ready fnAnvil = true ∧ (m.bank 0).valid = false ∧ (m.bank 0).loading = false ∧ m.tagHeld
    0x7EF = false ∧ m.inFlight < 2048) ∧
    (∃ (m : Mach) (k : Nat) (l : Nat), readyLimits.find? (fun x => x.1 == k) = some (k, l) ∧ m.time.powered = true ∧ m.readyOwed k =
    true ∧ m.ready k = false ∧ m.sys.limitDone.testBit k = false ∧ l ≤ m.sys.readyAge.getD k 0) ∧
    (∃ (m : Mach), m.time.powered = true) ∧
    (∃ (m : Mach), 4 ≤ m.bel.snap.spMiss ∧ m.bel.spFault = false) ∧
    (∃ (m : Mach) (p : Int), m.cell.pubAt = some p ∧ p + 2000 ≤ m.time.count ∧ m.en fnCellring = true ∧ m.bel.limFault = false) ∧
    (∃ (m : Mach), m.bel.brakeOn = true ∧ m.pair.holding = true ∧ m.fault.quench.active = false ∧ m.bel.brakeFault = false ∧ 100 *
    m.rdField .bdBrakeCfg 31 16 < m.bel.snap.brakeHold) ∧
    (∃ (m : Mach), m.pair.holding = true ∧ m.fault.quench.active = false ∧ m.ready fnBellows = true ∧ m.bel.started = true) ∧
    (∃ (m : Mach), m.pair.holding = true ∧ m.fault.quench.active = false ∧ m.ready fnBellows = true ∧ m.bel.started = true ∧
    m.bel.snap.lastRepeat + 10000 ≤ m.time.count) ∧
    (∃ (t : Nat), t ≠ 0) ∧
    (∃ (m : Mach) (t : Nat), m.ready fnBellows = true ∧ m.bel.started = true ∧ t ∈ m.served ∧ (m.tray t).missed = false ∧ max
    m.bel.startAt ((m.tray t).heardAt.getD m.bel.startAt) + 300 < m.time.count) ∧
    (∃ (m : Mach), m.coolDue ≠ m.bel.snap.coolantStep) ∧
    (∃ (m : Mach), 30000 < m.bel.step3Run ∧ m.bel.step3Fault = false) ∧
    (∃ (m : Mach) (x : Int × Word), m.time.count % 100000 = 0 ∧ (m.bel.sched.filter (fun x => decide (x.1 + 100 ≤ (m.time.count : Int)))).getLast?
    = some x) ∧
    (∃ (m : Mach) (k : Nat) (j : Nat) (h : Nat), m.fault.quench.active = false ∧ (m.loop k).s.hold.getD j none = some h ∧ m.rdField
    (.leSched k) 31 16 ≤ h) ∧
    (∃ (m : Mach) (k : Nat), m.fault.quench.active = false ∧ (m.loop k).started = true ∧ (m.loop k).fadeDue m.time.count = true) ∧
    (∃ (m : Mach) (k : Nat), m.fault.quench.active = false ∧ (m.loop k).missed = true ∧ (m.loop k).s.stopped = false ∧ m.missLim k ≤
    (m.loop k).s.missRun) ∧
    (∃ (m : Mach) (k : Nat), m.fault.quench.active = false ∧ (m.loop k).started = true ∧ (m.loop k).feActive = false ∧ field (m.rd (.leSup k))
    15 0 ≠ 0 ∧ field (m.rd (.leSup k)) 15 0 ≤ (m.loop k).s.feCount) ∧
    (∃ (m : Mach) (i : Nat) (f : FeedbackIn), i < 12 ∧ m.role i ≠ 0 ∧ (m.link i).lock = true ∧ (m.link i).now = none ∧ (m.link i).failed
    = false ∧ feedbackFails f i m.time.count = none) ∧
    (∃ (m : Mach) (i : Nat), (m.link i).lock = true) ∧
    (∃ (m : Mach) (i : Nat), m.role i ≠ 0 ∧ 3 ≤ (m.link i).missRun ∧ (m.link i).missFault = false) ∧
    (∃ (m : Mach) (i : Nat), m.role i ≠ 0 ∧ 3 ≤ (m.link i).lateRun ∧ (m.link i).lateFault = false) ∧
    (∃ (m : Mach), m.eng.test.running = true ∧ m.eng.test.cause = none ∧ m.testCauses = [] ∧ m.phaseNow ≠ .done) ∧
    (∃ (m : Mach) (c : Nat), m.abortCode m.testCauses = some c ∧ m.eng.test.running = true) ∧
    (∃ (m : Mach) (l : LoadSt) (o : Op) (a : Nat), m.fc.loads = [l] ∧ m.opById l.op = some o ∧ o.state = .running ∧ o.resumeNote =
    none ∧ l.addr = some a ∧ m.poisonIn (a + l.data.length) (min 65536 (l.len - l.data.length)) = false ∧ l.data.length + (min 65536 (l.len - l.data.length))
    < l.len) ∧
    (∃ (m : Mach), m.id.appRun = true ∧ bit (m.rd .avFcCtrl) 29 = true ∧ m.ready fnForecast = true ∧ m.trainEn = true ∧ m.opcodeHeld
    ocTrainRun = false ∧ m.tagHeld 0x700 = false ∧ m.trainCheck 0x308 0 = none) ∧
    (∃ (m : Mach) (p : Packet) (full : Bool), m.serves ocModuleReset (fixW4 p full) ∧ m.sys.modReset = none ∧ m.pair.holding = true ∧
    bit (p.word 4) 1 = true) ∧
    (∃ (m : Mach) (r : ModReset) (k : Nat), m.sys.modReset = some r ∧ r.resetAt = some k ∧ k ≤ m.time.count) ∧
    (∃ (m : Mach) (f : PairFrame), m.pair.pairUp = true ∧ f.good = true ∧ f.seq % 256 = m.time.count % 256) ∧
    (∃ (m : Mach), m.pair.holding = false) ∧
    (∃ (m : Mach), m.pair.holding = true) ∧
    (∃ (m : Mach) (i : Nat) (k : Nat) (seg : AlignSeg), m.pair.alignRecv = some (i, k) ∧ m.alignPlan[i]? = some (segKey seg) ∧
    m.pair.alignPending = []) ∧
    (∃ (m : Mach), m.fault.quench.active = true ∧ m.pair.alignRecv.isSome = true) ∧
    (∃ (m : Mach) (k : Nat), (∀ r, r ∈ m.fc.partnerRows → r.1 ≠ k)) ∧
    (∃ (m : Mach), m.pair.alignRecv = none) ∧
    (∃ (m : Mach), 100000 ≤ m.pair.aloneRun ∧ m.pair.aloneFault = false) ∧
    (∃ (m : Mach) (v : Nat), v < 168 ∧ m.pair.feedA = true) ∧
    (∃ (m : Mach) (v : Nat), 184 < v ∧ 100 ≤ m.pair.runA ∧ m.pair.feedA = false) ∧
    (∃ (m : Mach), m.phys.plcaNode = none) ∧
    (∃ (m : Mach), m.time.powered = true ∧ m.ev.opSaved + 60 ≤ m.ev.opSec) ∧
    (∃ (m : Mach), m.time.powered = true ∧ m.pair.dying = true ∧ 10 ≤ m.pair.dyingFrames) ∧
    (∃ (m : Mach) (h : PeerHdr) (sn : Nat) (pos : Nat) (link : Nat) (plan : Nat) (ok : Bool), m.hears h .ident ∧ (((m.heard h).setPeer h.link (fun l => { l with farSerial := sn, farPos := some pos, farLink := link, farPlan := plan, farOk := ok })).judgeLink
    h.link).verifying h.link = false) ∧
    (∃ (m : Mach) (h : PeerHdr), m.hears h .health) ∧
    (∃ (m : Mach) (i : Nat), i < m.sys.links ∧ (m.peer i).st = .training) ∧
    (∃ (m : Mach) (i : Nat), i < m.sys.links ∧ (m.peer i).st = .ident ∧ (m.peer i).health = 3) ∧
    (∃ (m : Mach) (i : Nat) (q : Nat), (m.peer i).retry.any (fun r => r.seq == q && decide (r.tries < 3)) = true) ∧
    (∃ (m : Mach) (i : Nat) (q : Nat), (m.peer i).retry.any (fun r => r.seq == q && decide (3 ≤ r.tries)) = true ∧ ((m.setPeer i (fun l => { l with retry := l.retry.filter (fun r => r.seq != q), skipOut := l.skipOut ++ [q], lostAt := (m.time.count : Int) :: l.lostAt.filter (fun c => decide ((m.time.count : Int) < c + 100)) })).peer
    i).lostAt.length < 3) ∧
    (∃ (m : Mach), m.time.count % 100000 = 0) ∧
    (∃ (m : Mach) (c : Cls) (v : Word), m.lands c .plPlanCtrl true ∧ bit v 31 = true ∧ m.hall.loading = none) ∧
    (∃ (m : Mach) (a : Nat) (k : Nat), m.hall.loading = some (a, k) ∧ m.poisonIn a k = false ∧ m.planCheck (m.bytes a k) = 0) ∧
    (∃ (m : Mach) (c : Cls) (i : Nat), m.lands c .plMaint true ∧ i < 64 ∧ i < m.sys.links ∧ ((m.wrField .plMaint 29 24 i).peer i).st ≠
    .service ∧ (m.wrField .plMaint 29 24 i).maintBusy = false ∧ (m.wrField .plMaint 29 24 i).parentLink ≠ some i ∧ (m.wrField .plMaint 29 24 i).altLink
    ≠ some i) ∧
    (∃ (m : Mach) (c : Cls) (i : Nat), m.lands c .plMaint true ∧ i < 64 ∧ (m.peer i).st = .maint) ∧
    (∃ (m : Mach) (s : Nat), m.hall.maint = 2 ∧ m.hall.maintSince = some s ∧ s + 1000 ≤ m.time.count ∧ (m.peer m.hall.maintLink).st =
    .held) ∧
    (∃ (m : Mach) (rs : List OptRead), m.time.count % 100000 = 0 ∧ (rs.foldl Mach.measureLink m).suspectNow = none) ∧
    (∃ (m : Mach) (c : Cls) (v : Word), m.lands c .prStat true ∧ bit v 29 = true) ∧
    (∃ (m : Mach) (h : PeerHdr), m.hears h .time ∧ m.hall.isMaster = false ∧ (m.heard h).parentLink = some h.link ∧ m.time.state ≠
    .free ∧ m.time.state ≠ .joining) ∧
    (∃ (m : Mach) (h : PeerHdr) (r : Report), m.hears h .report ∧ m.hall.isMaster = true ∧ r.k = m.time.count / 100 ∧ m.time.count %
    100 ≤ 58) ∧
    (∃ (m : Mach) (h : PeerHdr), m.hears h .report ∧ m.hall.isMaster = false) ∧
    (∃ (m : Mach), m.time.count % 100 = 50 ∧ m.time.inDomain = true ∧ m.hall.joined < m.time.count / 100 ∧ m.hall.isMaster = true) ∧
    (∃ (m : Mach), m.time.count % 100 = 50 ∧ m.time.inDomain = true ∧ m.hall.joined < m.time.count / 100 ∧ m.hall.isMaster = false ∧
    m.hall.claim = none) ∧
    (∃ (m : Mach) (h : PeerHdr), m.hears h .table ∧ m.hall.isMaster = false ∧ m.hall.table = none) ∧
    (∃ (m : Mach) (p : Plan), m.plan = some p ∧ m.hall.isMaster = true ∧ m.time.count % 100 = 59 ∧ m.hall.table = none ∧
    m.hall.members = [] ∧ m.hall.reports = []) ∧
    (∃ (m : Mach) (h : PeerHdr), m.hears h .leave ∧ m.hall.isMaster = false) ∧
    (∃ (m : Mach) (h : PeerHdr) (p : Plan), m.hears h .leave ∧ m.plan = some p ∧ m.hall.isMaster = true) ∧
    (∃ (m : Mach) (h : PeerHdr) (s : SfMsg), m.hears h .superframe ∧ m.time.inDomain = true ∧ m.hall.isMaster = false ∧ atOrAbove
    s.term m.hall.term = true ∧ s.k = m.time.count / 100 + 1 ∧ s.launches = [] ∧ s.disarms = [] ∧ s.frag = 0 ∧ s.frags = 1 ∧
    m.hall.lastMsg ≠ some (msgKey s)) ∧
    (∃ (m : Mach) (p : Plan), m.plan = some p ∧ m.hall.isMaster = true ∧ 86 ≤ m.time.count % 100 ∧ m.time.count % 100 ≤ 90 ∧
    m.hall.msg = none ∧ m.hall.proposals = none) ∧
    (∃ (m : Mach), m.hall.isMaster = false ∧ 1 ≤ m.time.sfSince ∧ m.time.sinceMsg = 0 ∧ m.time.state = .locked) ∧
    (∃ (m : Mach) (h : PeerHdr) (t : Nat), m.hears h .claim ∧ seqAbove t m.hall.term = true ∧ m.hall.claim = none ∧ m.hall.isMaster =
    false) ∧
    (∃ (m : Mach) (p : Nat), m.succPos m.sys.position = some p ∧ m.hall.isMaster = false ∧ m.hall.claim = none ∧ m.sys.master = true ∧
    m.sys.strapOk = true ∧ m.time.count % 100 = 0 ∧ m.en fnPeer = true ∧ (if p ≤ 1 then 3 else 2 + p) ≤ m.time.sfSince) ∧
    (∃ (m : Mach) (c : ClaimSt) (p : Plan), m.hall.claim = some c ∧ m.plan = some p ∧ c.pos = m.sys.position ∧ c.takeover =
    m.time.count ∧ m.hall.isMaster = false ∧ m.en fnPeer = true ∧ m.hall.master = none) ∧
    (∃ (m : Mach) (c : ClaimSt), m.hall.claim = some c ∧ c.pos ≠ m.sys.position ∧ c.takeover + 100 ≤ m.time.count) ∧
    (∃ (m : Mach) (t : Nat) (q : Nat), m.hall.stepDown = some (t, q) ∧ m.hall.isMaster = true ∧ m.time.count % 100 = 0 ∧
    m.hall.replace = none) ∧
    (∃ (m : Mach) (p : Plan), m.plan = some p ∧ m.hall.isMaster = true) ∧
    (∃ (m : Mach) (rs : List Report), m.time.count % 100 = 64 ∧ m.time.inDomain = true ∧ m.hall.roles ≠ [] ∧ m.hall.table = some
    (m.time.count / 100, rs) ∧ (m.bank m.fc.hallBank).valid = true ∧ m.anvilOn = true) ∧
    (∃ (m : Mach) (h : PeerHdr), m.hears h .partialSum ∧ h.dst = m.ownPos ∧ m.hall.isMaster = true ∧ m.time.count % 100 ≤ 86) ∧
    (∃ (m : Mach) (h : PeerHdr) (r : Role) (slice : Nat), m.hears h .sliceCopy ∧ h.dst = m.ownPos ∧ m.hall.oldCopies = [] ∧
    m.hall.roles.find? (fun r => r.slice == slice && !r.primary && r.copying.isSome && !r.snap) = some r ∧ r.blocks = []) ∧
    (∃ (m : Mach) (h : PeerHdr) (g : GenHdr) (i : Nat), m.hears h .gen ∧ h.dst = m.ownPos ∧ m.fc.gens = [] ∧ (m.bank m.fcBank).gen =
    none ∧ genFrames g ≤ i) ∧
    (∃ (m : Mach) (h : PeerHdr) (k : Nat) (held : List Nat), m.hears h (.xferAck true) ∧ h.dst = m.ownPos ∧ held.length < k) ∧
    (∃ (m : Mach) (g : GenSt), m.fc.gens = [g] ∧ g.kept = false ∧ g.parts.length = genFrames g.hdr ∧ sha3_256 g.bytes = g.hdr.digest ∧
    g.hdr.package = (m.bank m.fcBank).digest) ∧
    (∃ (m : Mach), m.time.count % 1000 = 0 ∧ m.cell.camp = none ∧ m.cell.caps = none) ∧
    (∃ (m : Mach) (p : Nat) (s : Nat), (m.port p).sweep = some s ∧ (m.port p).ring < 3) ∧
    (∃ (m : Mach) (p : Nat) (s : Nat) (u : Nat), (m.port p).sweep = some s ∧ (m.port p).void = false ∧ m.readFrom p s ≤ m.time.count ∧
    m.nextRead p false = some u ∧ (m.port p).outA = none ∧ (m.port p).freeA ≤ m.time.count) ∧
    (∃ (m : Mach) (p : Nat) (u : Nat) (t : Nat), t + 2 ≤ m.time.count ∧ (m.port p).outA = some ⟨u, t, 1⟩) ∧
    (∃ (m : Mach) (p : Nat) (s : Nat) (d : CellData) (r : PendingRead), (m.port p).sweep = some s ∧ crc16 (dataBytes d) = d.crc ∧
    (m.port p).void = false ∧ d.type = 3 ∧ d.sweep = s / 1000 % 4294967296 ∧ (if d.fromB then (m.port p).outB else (m.port p).outA) =
    some r ∧ (((m.port p).units.getD (r.unit - 1) UnitSt.reset).take1 d).testing = []) ∧
    (∃ (m : Mach) (p : Nat) (s : Nat), (m.port p).sweep = some s ∧ (m.port p).balDone = false ∧ m.readsOver p = true) ∧
    (∃ (m : Mach), m.ringDriver = true) ∧
    (∃ (m : Mach) (p : Nat) (s : Nat), p < 4 ∧ (m.port p).sweep = some s ∧ s + 1000 ≤ m.time.count ∧ (∀ q t, q < 4 → q ≠ p → (m.port q).sweep = some t → m.time.count
    < t + 1000) ∧ (m.port p).ring = 5) ∧
    (∃ (m : Mach), m.time.count % 10 = 0 ∧ m.fc.lastUpdate ≠ m.time.count ∧ m.sys.tiles ≠ 0 ∧ m.time.powered = true ∧ m.fc.run = none
    ∧ m.forecastEn = true ∧ (m.gateUpdate.readSchedules m.time.count).fc.lastBank = (m.gateUpdate.readSchedules m.time.count).fcBank ∧
    (m.gateUpdate.readSchedules m.time.count).ready fnForecast = true ∧ (m.gateUpdate.readSchedules m.time.count).forecastEn = true ∧
    m.gateUpdate.schedPoison = false) ∧
    (∃ (m : Mach) (r : FcRun), m.fc.run = some r ∧ r.c + 10 ≤ m.time.count ∧ r.fin = true ∧ ({ m.gateUpdate with fc.run := none, fc.outs := m.fc.outs ++ [⟨r.c + 10, r.points.getD 100 0, r.points.getD 1000 0, r.points.getD 5000 0⟩] }
    : Mach).fc.gateHeld = false ∧ ({ m.gateUpdate with fc.run := none, fc.outs := m.fc.outs ++ [⟨r.c + 10, r.points.getD 100 0, r.points.getD 1000 0, r.points.getD 5000 0⟩] }
    : Mach).ready fnForecast = true) ∧
    (∃ (m : Mach), m.ready fnAnvil = true ∧ m.fcConditions = true ∧ m.meetsPoison (m.encodeReads (m.runningCopy m.fcBank)) = false) ∧
    (∃ (m : Mach) (t : TrainSt) (o : Op), m.fc.train = some t ∧ m.time.count % 100000 = 0 ∧ 0 < m.time.count ∧ t.cycle = none ∧
    m.opById t.op = some o ∧ o.state = .running ∧ o.resumeNote = none ∧ m.trainEn = true ∧ m.anvilOn = true ∧ (m.bank m.fcBank).trainable
    = true ∧ m.acting = true) ∧
    (∃ (m : Mach) (t : TrainSt) (c : Nat), m.fc.train = some t ∧ t.cycle = some c ∧ m.trainLive t = true ∧ m.trainEn = true ∧ m.acting
    = true ∧ m.levelTwoRuns = true ∧ m.trainPoison = false ∧ m.time.count < 100000 * (c + t.lag) ∧ (((m.otherBundles.putTrainArea 0 (m.trainSteps t c
    t.steps)).makeGeneration c t.lag).endCycle).fc.sending = none) ∧
    (∃ (m : Mach) (g : GenSt), m.fc.gens = [g] ∧ g.kept = true ∧ g.encoded = false ∧ m.levelTwoRuns = true ∧ m.meetsPoison
    (m.encodeReads (m.receivingCopy m.fcBank)) = false) ∧
    (∃ (m : Mach) (d : Nat × Nat) (g : GenSt), m.fc.due = [d] ∧ d.1 = m.time.count ∧ m.fc.gens = [g] ∧ m.adoptable g = true ∧ d.2 ≤
    g.hdr.n) ∧
    (∃ (m : Mach) (j : Job), m.trainWork = true ∧ m.rdField .avSchedCfg 6 0 < 100 ∧ j ∈ m.anvil.jobs ∧ 3 ≤ j.level ∧ j.phase =
    .queued) ∧
    (∃ (m : Mach), m.levelOne = true ∧ m.anvilFree 1 = true) ∧
    (∃ (m : Mach) (j : Job), m.runningJob = some j ∧ m.lowerWork j.level = true) ∧
    (∃ t : Sparse 8, ({ jobs [parked] with mem := t } : Mach).runningJob = none ∧ ({ jobs [parked] with mem := t } : Mach).nextUp =
    some parked ∧ ({ jobs [parked] with mem := t } : Mach).anvilOn = true ∧ parked.saved = true ∧ ({ jobs [parked] with mem := t } : Mach).poisonIn
    parked.save saveSize = false ∧ ({ jobs [parked] with mem := t } : Mach).word (parked.save + saveCrcAt) = crc32 (({ jobs [parked] with mem := t } : Mach).saveRest
    parked.save) ∧ parked.repro = true) ∧
    (∃ (m : Mach) (j : Job) (js : List Job) (e : JobEnd) (o : Nat), m.anvil.jobs = j :: js ∧ j.phase = .ended ∧ m.lockWaits j = false
    ∧ j.fin = some e ∧ j.kind = .user ∧ j.op = some o) ∧
    (∃ (m : Mach) (j : Job) (js : List Job), m.anvil.jobs = j :: js ∧ j.phase = .hashing ∧ m.digestPoison j ((List.range j.descCount).map (fun d => m.words
    (j.descTable + 64 * d) 16)) = false) ∧
    (∃ (m : Mach) (t : Nat), t < 32 ∧ m.tilesIn.testBit t = true ∧ m.anvil.jobs = []) ∧
    (∃ (m : Mach), ((m.phys.dieNext) ≠ m.phys.dieStep ∨ (max m.bel.snap.coolOwn (m.phys.dieNext)) ≠ m.phys.modStep)) ∧
    (∃ (m : Mach), m.phys.stopped = false ∧ 1150 ≤ m.phys.die) ∧
    (∃ (m : Mach), 100 ≤ m.phys.inletLow ∧ m.phys.inletFault = false) ∧
    (∃ (m : Mach) (d : LsDigest) (o : Nat), m.anvil.lock.state = .running ∧ m.anvil.lock.digest = some d ∧ d.ord = o) ∧
    (∃ (m : Mach) (d : LsDigest) (t : Nat × List DWord × DWord), m.anvil.lock.digest = some d ∧ m.anvil.lock.theirs = some t ∧
    m.anvil.lock.state = .running ∧ d.ord = t.1 ∧ d.slots ≠ t.2.1 ∧ m.anvil.jobs = []) ∧
    (∃ (m : Mach), m.anvil.lock.state = .searching) ∧
    (∃ (m : Mach), m.anvil.lock.state = .running) ∧
    (∃ (m : Mach), m.sys.lockstep = true) ∧
    (∃ (m : Mach), m.anvil.lock.waiting = none ∧ m.anvil.lock.state = .running) ∧
    (∃ (m : Mach) (a : Nat) (es : List (Nat × Byte)) (k : Nat) (d : Byte), findingOf (syndromes (m.symbolsRead (64 * (a / 64)) es)) =
    .one k d ∧ m.lineHome (64 * (a / 64)) = some none) ∧
    (∃ (m : Mach) (a : Nat) (es : List (Nat × Byte)) (k : Nat) (d : Byte) (h : _), findingOf (syndromes (m.symbolsRead (64 * (a / 64)) es))
    = .one k d ∧ m.scrubHome (64 * (a / 64)) = some h) ∧
    (∃ (m : Mach), m.time.count % 6000000 = 0) ∧
    (∃ (m : Mach) (s : Nat), (m.stackSt s).inService = true) ∧
    (∃ (m : Mach) (s : Nat), m.sys.stks.testBit s = true ∧ (m.stackSt s).inService = false ∧ (m.stackSt s).outBy = 0 ∧ (m.stackSt s).wasOut
    = false) ∧
    (∃ (m : Mach) (s : Nat) (top : Nat), (m.stackSt s).inService = true ∧ (m.stackSt s).watermark < top ∧ top ≤ stackSize ∧ top % 64 =
    0) ∧
    (∃ (m : Mach) (s : Nat), m.sys.stks.testBit s = true) ∧
    (∃ (m : Mach) (c : Cls) (i : Nat), m.lands c (.dmChCtrl i) true ∧ chOwned c i = true ∧ ((m.ch i).state = 1 ∨ (m.ch i).state = 3) ∧
    bit (m.rd (.dmChCtrl i)) 31 = true ∧ m.en fnDma = true ∧ i < m.dma.chs.length) ∧
    (∃ (m : Mach) (c : Cls) (i : Nat), m.lands c (.dmChCtrl i) true ∧ chOwned c i = true ∧ (m.ch i).state = 0 ∧ m.en fnDma = true ∧ i
    < m.dma.chs.length) ∧
    (∃ (m : Mach) (c : Cls) (i : Nat), m.lands c (.dmChCtrl i) true ∧ chOwned c i = true ∧ (m.ch i).state ≠ 0 ∧ i < m.dma.chs.length) ∧
    (∃ (m : Mach) (i : Nat) (d : List Byte), i < 32 ∧ (m.ch i).state = 2 ∧ (m.ch i).desc = [] ∧ (m.rd (.dmChChain i)).toNat <
    m.rdField (.dmChLimit i) 23 0 ∧ (m.setCh i (fun c => { c with cur := c.next })).judge (chClass i) (m.ch i).next 32 false = .ok ∧
    ((m.setCh i (fun c => { c with cur := c.next })).dmaRead i (m.ch i).next 32 d).status = 0 ∧ ((((m.setCh i (fun c => { c with cur := c.next })).dmaRead i (m.ch
    i).next 32 d).m.bump (.dmChChain i) 31 0 1).descStatus i (bytesWords 8 ((m.setCh i (fun c => { c with cur := c.next })).dmaRead i (m.ch i).next 32 d).bytes)).1
    = 0) ∧
    (∃ (m : Mach) (i : Nat), m.burstPick = some i ∧ m.pacing i = 0 ∧ (m.ch i).inBurst = false) ∧
    (∃ (m : Mach) (i : Nat), i < 32 ∧ (m.ch i).state = 2 ∧ (m.ch i).desc ≠ [] ∧ (m.ch i).left = 0 ∧ (m.ch i).fence = false ∧ (m.ch i).bad
    = 0 ∧ (m.ch i).leftOver = false ∧ bit (wordAt (m.ch i).desc 0) 7 = true) ∧
    (∃ (m : Mach) (i : Nat), i < 32 ∧ (m.ch i).state = 2 ∧ (m.ch i).desc ≠ [] ∧ (m.ch i).left = 0 ∧ (m.ch i).fence = false ∧ (m.ch i).bad
    = 0 ∧ (m.ch i).leftOver = false ∧ bit (wordAt (m.ch i).desc 0) 7 = false) ∧
    (∃ (m : Mach) (i : Nat), i < 32 ∧ (m.ch i).state = 2 ∧ (m.ch i).fence = true ∧ (m.ch i).failed = false) ∧
    (∃ (m : Mach) (l : Nat), l < 6 ∧ m.dma.lines = []) ∧
    (∃ (m : Mach) (l : Nat) (x : _), m.dma.lines = [x] ∧ x.line = l ∧ x.acked = [] ∧ x.since + 1 ≤ m.time.count) ∧
    (∃ (m : Mach) (i : Nat), (m.ch i).moving = true) ∧
    (∃ (i : Nat), i < 32) ∧
    (∃ (m : Mach) (a : Nat) (d : Nat), m.cxl.linkUp = true ∧ m.hdmAddr a = some d ∧ m.sys.capValid = true ∧ m.stackOut (d / 64 * 64) =
    false ∧ m.judge .host (d / 64 * 64) 64 false = .ok) ∧
    (∃ (m : Mach) (a : Nat) (d : Nat) (bs : List (Option Byte)), m.cxl.linkUp = true ∧ m.hdmAddr a = some d ∧ m.sys.capValid = true ∧
    m.stackOut (d / 64 * 64) = false ∧ m.judge .host (d / 64 * 64) 64 true = .ok ∧ bs.length = 64 ∧ bs.all Option.isSome = true) ∧
    (∃ (m : Mach) (s : Nat) (w : Nat) (f : Bool), m.time.powered = true ∧ m.cxl.linkUp = false ∧ linkModeOk s w f = true) ∧
    (∃ (m : Mach), m.cxl.linkUp = true) ∧
    (∃ (m : Mach) (size : Nat) (skip : Nat), m.dpaOk skip size = true) ∧
    (∃ (m : Mach) (c : Cls) (a : Nat) (h : Nat) (d : List Byte), m.judge c a d.length true = .ok ∧ m.space a = .host h ∧ m.hostOpen =
    true) ∧
    (∃ (m : Mach) (r : SpdmReq), m.time.powered = true ∧ m.cxl.linkUp = true ∧ r.version = 0x10) ∧
    (∃ (m : Mach) (r : SpdmReq), m.time.powered = true ∧ m.cxl.linkUp = true ∧ m.id.spdm = .version ∧ (r.version = 0x12 ∨ r.version = 0x13)) ∧
    (∃ (m : Mach) (r : SpdmReq), m.time.powered = true ∧ m.cxl.linkUp = true ∧ m.id.spdm = .capabilities ∧ r.version = m.id.spdmVer ∧
    algorithmsCommon r.body = true) ∧
    (∃ (m : Mach) (r : SpdmReq), m.time.powered = true ∧ m.cxl.linkUp = true ∧ m.id.spdm = .negotiated ∧ r.version = m.id.spdmVer ∧
    m.id.certOk = true) ∧
    (∃ m : Mach, m.time.powered = true ∧ m.cxl.linkUp = true ∧ m.id.spdm = .negotiated ∧ (req 0x12 0 0).version = m.id.spdmVer ∧
    m.id.certOk = true ∧ (req 0x12 0 0).param1 = 0 ∧ (0 < m.chain.length → leNat ((req 0x12 0 0).body.take 2) < m.chain.length)) ∧
    (∃ (m : Mach) (r : SpdmReq), m.time.powered = true ∧ m.cxl.linkUp = true ∧ m.id.spdm = .negotiated ∧ r.version = m.id.spdmVer ∧
    m.id.certOk = true ∧ r.param1 = 0) ∧
    (∃ (m : Mach) (r : SpdmReq), m.time.powered = true ∧ m.cxl.linkUp = true ∧ m.id.spdm = .negotiated ∧ r.version = m.id.spdmVer ∧
    m.id.certOk = true ∧ r.param1 = 0 ∧ r.param2 = 0) ∧
    (∃ (m : Mach) (code : Nat), m.time.powered = true ∧ m.cxl.linkUp = true ∧ code ∉ [0x81, 0x82, 0x83, 0x84, 0xE0, 0xE1, 0xE3]) ∧
    (∃ (m : Mach) (c : Cls), m.lands c .idUpdCtrl true ∧ (c = .host ∨ c = .tk) ∧ m.id.updState ≠ 1 ∧ m.id.pufOk = true ∧ m.imageKind
    m.updAddr = none ∧ m.judge .host m.updAddr (m.rd .idUpdLen).toNat false = .ok) ∧
    (∃ (m : Mach) (c : Cls), m.lands c .idUpdCtrl true ∧ (c = .host ∨ c = .tk) ∧ m.id.updState ≠ 1 ∧ m.id.pufOk = true ∧
    m.id.app.trial = true) ∧
    (∃ (m : Mach) (c : Cls), m.lands c .idUpdCtrl true ∧ (c = .host ∨ c = .tk) ∧ m.id.updState ≠ 1 ∧ m.id.pufOk = true ∧ m.anyStaged =
    true) ∧
    (lawful.lands .tk .idUpdCtrl true ∧ lawful.id.updState ≠ 1 ∧ lawful.id.pufOk = true ∧ lawful.outOfService = true ∧
    (Config.mlDsaVerify 2 (lawful.cleanBytes lawful.updAddr 32) (lawful.cleanBytes (lawful.updAddr + 32) 2420) = true → lawful.tokenOk = true)) ∧
    (∃ (m : Mach) (c : Cls), m.lands c .idUpdCtrl true ∧ (c = .host ∨ c = .tk) ∧ m.id.updState ≠ 1 ∧ m.id.pufOk = true ∧
    m.fault.testMode = true) ∧
    (∃ m : Mach, m.id.job = some ⟨0, 0⟩ ∧ imageStatus m (m.cleanBytes 0 0) = some stUpdFormat) ∧
    (∃ (m : Mach) (r : EvRec) (rs : List EvRec), m.ev.mounted = true ∧ m.ev.frozen = false ∧ m.ev.queue = r :: rs) ∧
    (∃ (m : Mach), m.ev.freezePending = true ∧ m.ev.freezeNew = false) ∧
    (∃ (m : Mach), m.ev.frozen = true ∧ 1000000 ≤ m.ev.idle) ∧
    (∃ (m : Mach) (p : Packet), m.serves ocCfgCommit p ∧ m.txn.state = .opened ∧ (launchOf p = 0 ∨ (m.hasRead p).inFlight < 2048)) ∧
    (∃ (m : Mach) (rt : RTo), m.txn.state = .validating ∧ m.txn.commit = some (rt, 0) ∧ m.txn.applyAt = none ∧ m.txn.winAt ≠ some
    m.time.count ∧ windowsFor m.txn.staged.length ≤ m.txn.windows + 1 ∧ ({ m with txn.windows := m.txn.windows + 1, txn.winAt := some m.time.count } : Mach).validate
    m.txn.staged m.txn.owner m.txn.overflow = none) ∧
    (∃ (m : Mach) (rt : RTo) (l : Nat) (a : Nat), m.txn.state = .validating ∧ m.txn.commit = some (rt, l) ∧ m.txn.applyAt = some a ∧ a
    ≤ m.time.count) ∧
    (∃ (m : Mach), m.txn.state = .opened ∧ 10000 ≤ m.txn.age) ∧
    (∃ (m : Mach) (i : Nat) (l : LaunchSlot) (c : Cls), m.slots[i]? = some l ∧ l.state = .armed ∧ l.action = actCommit ∧ l.count =
    m.time.count + 1 ∧ c = (if l.origin = 0 then .host else if l.origin = 1 then .fw else .tk)) := 
  ⟨by (exact ⟨off, power, by decide +kernel⟩),
   by (exact ⟨up, by decide +kernel⟩),
   by (exact ⟨{ up with sys.saved := [⟨0, [], true⟩] }, ⟨0, [], true⟩, by decide +kernel⟩),
   by (exact ⟨{ up with time.upFrames := 10000 }, by decide +kernel⟩),
   by (exact ⟨{ up with sys.savePending := some 0 }, 0, by decide +kernel⟩),
   by (exact ⟨up, by decide +kernel⟩),
   by (exact ⟨all up, by decide +kernel⟩),
   by (exact ⟨{ up.wr .syFuncEn 0xFFFFFFFF with sys.readyAge := List.replicate 32 20000 }, fnLoop, 20000, by decide +kernel⟩),
   by (exact ⟨on, by decide +kernel⟩),
   by (exact ⟨{ up with bel.snap.spMiss := 4 }, by decide +kernel⟩),
   by (exact ⟨{ all up with cell.pubAt := some 0, time.count := 2000 }, 0, by decide +kernel⟩),
   by (exact ⟨{ holder with bel.brakeOn := true, bel.snap.brakeHold := 100 * holder.rdField .bdBrakeCfg 31 16 + 1 }, by decide +kernel⟩),
   by (exact ⟨holder, by decide +kernel⟩),
   by (exact ⟨{ holder with time.count := 10000 }, by decide +kernel⟩),
   by (exact ⟨63, by decide +kernel⟩),
   by (exact ⟨{ holder.wr .bdTrays 0x0101 with time.count := 301 }, 1, by decide +kernel⟩),
   by (exact ⟨{ up with bel.snap.coolOwn := up.bel.snap.coolantStep + 1 }, by decide +kernel⟩),
   by (exact ⟨{ up with bel.step3Run := 30001 }, by decide +kernel⟩),
   by (exact ⟨{ up with time.count := 100000, bel.sched := [(99900, 7)] }, (99900, 7), by decide +kernel⟩),
   by (exact ⟨(looped { LoopSt.reset with s.hold := [some 0] }).wr (.leSched 0) 0, 0, 0, 0, by decide +kernel⟩),
   by (exact ⟨{ looped { LoopSt.reset with started := true, s.mode := .live, slotPub := some ⟨0, 0, []⟩ } with time.count := 21 }, 0, by decide +kernel⟩),
   by (exact ⟨(looped { LoopSt.reset with missed := true, s.missRun := 63 }), 0, by decide +kernel⟩),
   by (exact ⟨(looped { LoopSt.reset with started := true, s.feCount := 1 }).wr (.leSup 0) 1, 0, by decide +kernel⟩),
   by (exact ⟨linked, 0, fbk, by decide +kernel⟩),
   by (exact ⟨linked, 0, by decide +kernel⟩),
   by (exact ⟨{ linked with eng.links := [{ StageLinkSt.reset with missRun := 3 }] }, 0, by decide +kernel⟩),
   by (exact ⟨{ linked with eng.links := [{ StageLinkSt.reset with lateRun := 3 }] }, 0, by decide +kernel⟩),
   by (exact ⟨{ up with eng.test.phase := .pre }, by decide +kernel⟩),
   by (exact ⟨{ up with eng.test.phase := .inject, eng.test.cause := some 4 }, 4, by decide +kernel⟩),
   by (exact ⟨{ up with fc.loads := [⟨0, 0, some 0, 65537, []⟩], ops := [op .running] }, ⟨0, 0, some 0, 65537, []⟩, op .running, 0, by decide +kernel⟩),
   by (exact ⟨{ hot.wr .avFcCtrl 0x20000000 with sys.train := true, fc.banks := List.replicate 4 { BankSt.reset with valid := true, trainable := true } }, by decide +kernel⟩),
   by (exact ⟨{ rings with pair.holding := true }, pk 0 0 [0, 0, 3], true, by unfold Mach.serves Mach.judges; decide +kernel⟩),
   by (exact ⟨{ on with sys.modReset := some ⟨true, ⟨0, 0, 0, 0, 0⟩, false, none, none, some 0⟩ }, ⟨true, ⟨0, 0, 0, 0, 0⟩, false, none, none, some 0⟩, 0, by decide +kernel⟩),
   by (exact ⟨{ up with pair.pairUp := true }, pf, by decide +kernel⟩),
   by (exact ⟨up, by decide +kernel⟩),
   by (exact ⟨holder, by decide +kernel⟩),
   by (exact ⟨{ up with pair.alignRecv := some (0, 7) }, 0, 7, .dispatch up.bel.snap, by decide +kernel⟩),
   by (exact ⟨{ quenched up .command with pair.alignRecv := some (0, 0) }, by decide +kernel⟩),
   by (exact ⟨up, 0, by decide +kernel⟩),
   by (exact ⟨up, by decide +kernel⟩),
   by (exact ⟨{ up with pair.aloneRun := 100000 }, by decide +kernel⟩),
   by (exact ⟨{ up with pair.feedA := true }, 167, by decide +kernel⟩),
   by (exact ⟨{ up with pair.feedA := false, pair.runA := 100 }, 185, by decide +kernel⟩),
   by (exact ⟨up, by decide +kernel⟩),
   by (exact ⟨{ up with ev.opSec := 60 }, by decide +kernel⟩),
   by (exact ⟨{ up with pair.dying := true, pair.dyingFrames := 10 }, by decide +kernel⟩),
   by (exact ⟨linkIn .ident, hd .ident 0 0, 0, 1, 0, 0, true, by unfold Mach.hears; decide +kernel⟩),
   by (exact ⟨peered, hdp peered .health, by unfold Mach.hears; decide +kernel⟩),
   by (exact ⟨linkIn .training, 0, by decide +kernel⟩),
   by (exact ⟨{ peered with peers := [{ PeerLinkSt.reset with st := .ident, health := 3 }] }, 0, by decide +kernel⟩),
   by (exact ⟨{ peered with peers := [{ PeerLinkSt.reset with retry := [⟨1, 2, .time, 0, 0, 0, 0, 0, 0⟩] }] }, 0, 1, by decide +kernel⟩),
   by (exact ⟨{ peered with peers := [{ PeerLinkSt.reset with retry := [⟨1, 3, .time, 0, 0, 0, 0, 0, 0⟩] }] }, 0, 1, by decide +kernel⟩),
   by (exact ⟨peered, by decide +kernel⟩),
   by (exact ⟨peered, .tk, 0x80000000, by unfold Mach.lands; decide +kernel⟩),
   by (refine ⟨{ holding with hall.loading := some (0x1000000, 132) }, 0x1000000, 132, by decide +kernel, by decide +kernel, ?_⟩; rw [show ({ holding with hall.loading := some (0x1000000, 132) } : Mach).bytes 0x1000000 132 = sealed by decide +kernel]; exact sealed_checks),
   by (exact ⟨linkIn .held, .tk, 0, by unfold Mach.lands; decide +kernel⟩),
   by (exact ⟨linkIn .maint, .tk, 0, by unfold Mach.lands; decide +kernel⟩),
   by (exact ⟨{ linkIn .held with hall.maint := 2, hall.maintSince := some 0, time.count := 1000 }, 0, by decide +kernel⟩),
   by (exact ⟨peered, [], by decide +kernel⟩),
   by (exact ⟨peered, .tk, 0x20000000, by unfold Mach.lands; decide +kernel⟩),
   by (exact ⟨follower 0, hdp (follower 0) .time, by unfold Mach.hears; decide +kernel⟩),
   by (exact ⟨master 58, hdp (master 58) .report, rep 0, by unfold Mach.hears; decide +kernel⟩),
   by (exact ⟨follower 0, hdp (follower 0) .report, by unfold Mach.hears; decide +kernel⟩),
   by (exact ⟨master 150, by decide +kernel⟩),
   by (exact ⟨follower 150, by decide +kernel⟩),
   by (exact ⟨follower 65, hdp (follower 65) .table, by unfold Mach.hears; decide +kernel⟩),
   by (exact ⟨master 59, plan, by decide +kernel⟩),
   by (exact ⟨follower 0, hdp (follower 0) .leave, by unfold Mach.hears; decide +kernel⟩),
   by (exact ⟨master 0, hdp (master 0) .leave, plan, by unfold Mach.hears; decide +kernel⟩),
   by (exact ⟨{ follower 0 with hall.lastMsg := some 0 }, hdp (follower 0) .superframe, { sf 0 with k := 1 }, by unfold Mach.hears; decide +kernel⟩),
   by (exact ⟨master 90, plan, by decide +kernel⟩),
   by (exact ⟨{ follower 0 with time.sfSince := 1 }, by decide +kernel⟩),
   by (exact ⟨follower 0, hdp (follower 0) .claim, 1, by unfold Mach.hears; decide +kernel⟩),
   by (exact ⟨{ follower 0 with time.sfSince := 3 }, 0, by decide +kernel⟩),
   by (exact ⟨{ follower 100 with hall.claim := some ⟨1, 0, 100⟩, hall.master := none }, ⟨1, 0, 100⟩, plan, by decide +kernel⟩),
   by (exact ⟨{ follower 100 with hall.claim := some ⟨1, 1, 0⟩ }, ⟨1, 1, 0⟩, by decide +kernel⟩),
   by (exact ⟨{ master 0 with hall.stepDown := some (1, 1) }, 1, 1, by decide +kernel⟩),
   by (exact ⟨master 0, plan, by decide +kernel⟩),
   by (exact ⟨{ (all (follower 64)).wr .avTileMapLo 1 with anvil.bist := true, hall.roles := [role0], hall.table := some (0, []), fc.banks := List.replicate 4 { BankSt.reset with valid := true } }, [], by decide +kernel⟩),
   by (exact ⟨master 86, hdp (master 86) .partialSum, by unfold Mach.hears; decide +kernel⟩),
   by (exact ⟨{ follower 0 with hall.roles := [⟨0, false, [], some 0, [], [], false⟩] }, hdp (follower 0) .sliceCopy, ⟨0, false, [], some 0, [], [], false⟩, 0, by unfold Mach.hears; decide +kernel⟩),
   by (exact ⟨follower 0, hdp (follower 0) .gen, gen 1, 1, by unfold Mach.hears; decide +kernel⟩),
   by (exact ⟨follower 0, hdp (follower 0) (.xferAck true), 1, [], by unfold Mach.hears; decide +kernel⟩),
   by (exact ⟨{ up with fc.gens := [⟨{ gen 1 with len := 0, digest := sha3_256 [] }, [], false, false, 0, 0⟩] }, ⟨{ gen 1 with len := 0, digest := sha3_256 [] }, [], false, false, 0, 0⟩, by decide +kernel⟩),
   by (exact ⟨up, by decide +kernel⟩),
   by (exact ⟨ported { PortSt.reset with sweep := some 0 }, 0, 0, by decide +kernel⟩),
   by (exact ⟨{ ported { PortSt.reset with sweep := some 0, ring := 2, units := [read, UnitSt.reset] } with time.count := 400 }, 0, 0, 2, by decide +kernel⟩),
   by (exact ⟨{ ported { PortSt.reset with outA := some ⟨1, 0, 1⟩ } with time.count := 2 }, 0, 1, 0, by decide +kernel⟩),
   by (exact ⟨ported { PortSt.reset with sweep := some 0, ring := 2, outA := some ⟨1, 0, 1⟩ }, 0, 0, cd, ⟨1, 0, 1⟩, by decide +kernel⟩),
   by (exact ⟨ported { PortSt.reset with sweep := some 0, units := [read, read] }, 0, 0, by decide +kernel⟩),
   by (exact ⟨{ up with pair.holding := true }, by decide +kernel⟩),
   by (refine ⟨{ ported { PortSt.reset with sweep := some 0, ring := 5 } with time.count := 1000 }, 0, 0, by decide +kernel, by decide +kernel, by decide +kernel, fun q t h1 h2 h3 => ?_, by decide +kernel⟩; rw [show _ = none from idle_ports q h1 h2] at h3; cases h3),
   by (exact ⟨{ all up with fc.lastUpdate := 10 }, by decide +kernel⟩),
   by (exact ⟨{ all up with time.count := 10, fc.run := some (run true) }, run true, by decide +kernel⟩),
   by (exact ⟨{ all up with fc.frames := 2 ^ 31, fc.banks := List.replicate 4 { BankSt.reset with valid := true } }, by decide +kernel⟩),
   by (exact ⟨{ training none (some 1) with time.count := 100000, fc.banks := List.replicate 4 { BankSt.reset with trainable := true } }, ⟨0, 0, 8, 3, 0, some 1, none⟩, op .running, by decide +kernel⟩),
   by (exact ⟨{ training (some 1) none with fc.opt := true, sys.stks := 1, stks := [{ StackSt.reset with inService := true }] }, ⟨0, 0, 8, 3, 0, none, some 1⟩, 1, by decide +kernel⟩),
   by (exact ⟨{ hot with fc.gens := [⟨gen 1, [], true, false, 0, 0⟩] }, ⟨gen 1, [], true, false, 0, 0⟩, by decide +kernel⟩),
   by (exact ⟨{ up with fc.due := [(0, 1)], fc.gens := [⟨{ gen 1 with adopt := 0 }, [], true, true, 0, 0⟩] }, (0, 1), ⟨{ gen 1 with adopt := 0 }, [], true, true, 0, 0⟩, by decide +kernel⟩),
   by (exact ⟨{ training (some 1) none with anvil.jobs := [job] }, job, by decide +kernel⟩),
   by (exact ⟨{ hot with hall.step := some ⟨0, 0, [], true, none, [], []⟩ }, by decide +kernel⟩),
   by (exact ⟨jobs [going, { job with level := 2 }], going, by decide +kernel⟩),
   by (obtain ⟨t, h⟩ := save_holds id; exact ⟨t, show (jobs [parked]).runningJob = none by decide +kernel, (nextUp_mem _ t).trans (by decide +kernel), show (jobs [parked]).anvilOn = true by decide +kernel, rfl, clean_memory _ _ _ rfl rfl rfl, h, by decide +kernel⟩),
   by (exact ⟨jobs [{ going with phase := .ended, op := some 0, fin := some ⟨stOk, 0, 0, 0⟩ }], { going with phase := .ended, op := some 0, fin := some ⟨stOk, 0, 0, 0⟩ }, [], ⟨stOk, 0, 0, 0⟩, 0, by decide +kernel⟩),
   by (exact ⟨jobs [{ going with phase := .hashing }], { going with phase := .hashing }, [], by decide +kernel⟩),
   by (exact ⟨hot, 0, by decide +kernel⟩),
   by (exact ⟨{ up with phys.dieUp := [0, 100, 100, 100] }, by decide +kernel⟩),
   by (exact ⟨{ up with phys.die := 1150 }, by decide +kernel⟩),
   by (exact ⟨{ up with phys.inletLow := 100 }, by decide +kernel⟩),
   by (exact ⟨locked .running, dig 5, 1, by decide +kernel⟩),
   by (exact ⟨{ locked .running with anvil.jobs := [] }, dig 5, (1, [6], 0), by decide +kernel⟩),
   by (exact ⟨locked .searching, by decide +kernel⟩),
   by (exact ⟨locked .running, by decide +kernel⟩),
   by (exact ⟨{ up with sys.lockstep := true }, by decide +kernel⟩),
   by (exact ⟨locked .running, by decide +kernel⟩),
   by (exact ⟨up, sramBase + 63, [(67, 255)], 67, 255, by decide +kernel⟩),
   by (exact ⟨up, sramBase + 63, [(67, 255)], 67, 255, none, by decide +kernel⟩),
   by (exact ⟨up, by decide +kernel⟩),
   by (exact ⟨stacked { StackSt.reset with inService := true }, 0, by decide +kernel⟩),
   by (exact ⟨stacked StackSt.reset, 0, by decide +kernel⟩),
   by (exact ⟨stacked { StackSt.reset with inService := true }, 0, stackSize, by decide +kernel⟩),
   by (exact ⟨stacked StackSt.reset, 0, by decide +kernel⟩),
   by (exact ⟨{ (all up).wr (.dmChCtrl 31) 0x80000000 with dma.chs := List.replicate 32 { DmaCh.reset with state := 1 } }, .tk, 31, by unfold Mach.lands; decide +kernel⟩),
   by (exact ⟨all up, .tk, 31, by unfold Mach.lands; decide +kernel⟩),
   by (exact ⟨{ all up with dma.chs := List.replicate 32 { DmaCh.reset with state := 1 } }, .tk, 31, by unfold Mach.lands; decide +kernel⟩),
   by (exact ⟨(chan { DmaCh.reset with state := 2, next := sramBase, cur := sramBase }).wr (.dmChLimit 31) 1, 31, [], by decide +kernel⟩),
   by (exact ⟨chan desc, 31, by decide +kernel⟩),
   by (exact ⟨chan { desc with left := 0, srcLeft := 0, dstLeft := 0, desc := [0x80] }, 31, by decide +kernel⟩),
   by (exact ⟨chan { desc with left := 0, srcLeft := 0, dstLeft := 0 }, 31, by decide +kernel⟩),
   by (exact ⟨chan { desc with fence := true }, 31, by decide +kernel⟩),
   by (exact ⟨up, 5, by decide +kernel⟩),
   by (exact ⟨{ up with dma.lines := [⟨5, 0, []⟩], time.count := 1 }, 5, ⟨5, 0, []⟩, by decide +kernel⟩),
   by (exact ⟨chan desc, 31, by decide +kernel⟩),
   by (exact ⟨31, by decide +kernel⟩),
   by (exact ⟨cxl, 0x1000000, sramBase, by decide +kernel⟩),
   by (exact ⟨cxl, 0x1000000, sramBase, List.replicate 64 (some 0), by decide +kernel⟩),
   by (exact ⟨up, 5, 8, true, by decide +kernel⟩),
   by (exact ⟨cxl, by decide +kernel⟩),
   by (exact ⟨up, sramSize, 0, by decide +kernel⟩),
   by (exact ⟨cxl.wr .cxHostwin 1, .tk, hostBase, 0, [0], by decide +kernel⟩),
   by (exact ⟨cxl, req 0x10 0 0, by decide +kernel⟩),
   by (exact ⟨spdm .version, req 0x13 0 0, by decide +kernel⟩),
   by (exact ⟨spdm .capabilities, { req 0x12 0 0 with body := List.replicate 8 0 ++ [8] ++ List.replicate 15 0 ++ [1, 0, 0, 0, 4, 0, 0x44, 0] }, by decide +kernel⟩),
   by (exact ⟨spdm .negotiated, req 0x12 0 0, by decide +kernel⟩),
   by (exact ⟨spdm .negotiated, by decide +kernel, by decide +kernel, by decide +kernel, by decide +kernel, by decide +kernel, rfl, fun h => h⟩),
   by (exact ⟨spdm .negotiated, req 0x12 0 0, by decide +kernel⟩),
   by (exact ⟨spdm .negotiated, req 0x12 0 0, by decide +kernel⟩),
   by (exact ⟨cxl, 0xE4, by decide +kernel⟩),
   by (exact ⟨windowed (up.wr .idUpdLen 64), .tk, by unfold Mach.lands; decide +kernel⟩),
   by (exact ⟨{ up with id.app.trial := true }, .tk, by unfold Mach.lands; decide +kernel⟩),
   by (exact ⟨{ up with id.tk.staged := true }, .tk, by unfold Mach.lands; decide +kernel⟩),
   by (refine ⟨by unfold Mach.lands; decide +kernel, by decide +kernel, by decide +kernel, by decide +kernel, fun h => ?_⟩; have e : lawful.tokenOk = (decide (lawful.cleanBytes lawful.updAddr 32 = leBytes 4 0x54544B4E ++ leBytes 4 0 ++ leBytes 8 lawful.id.serial ++ leBytes 4 lawful.ev.pwrCyc ++ leBytes 12 0) && Config.mlDsaVerify 2 (lawful.cleanBytes lawful.updAddr 32) (lawful.cleanBytes (lawful.updAddr + 32) 2420)) := rfl; rw [e, h, Bool.and_true]; decide +kernel),
   by (exact ⟨lab, .tk, by unfold Mach.lands; decide +kernel⟩),
   by (exact ⟨{ up with id.job := some ⟨0, 0⟩ }, by decide +kernel⟩),
   by (exact ⟨{ up with ev.mounted := true, ev.queue := [evr] }, evr, [], by decide +kernel⟩),
   by (exact ⟨{ up with ev.freezePending := true }, by decide +kernel⟩),
   by (exact ⟨{ up with ev.frozen := true, ev.idle := 1000000 }, by decide +kernel⟩),
   by (exact ⟨{ rings with txn.state := .opened }, pk 0 1 [], by unfold Mach.serves Mach.judges; decide +kernel⟩),
   by (exact ⟨{ open' on .validating with txn.commit := some (⟨0, 0, 1, 0, 0⟩, 0) }, ⟨0, 0, 1, 0, 0⟩, by decide +kernel⟩),
   by (exact ⟨{ open' on .validating with txn.commit := some (⟨0, 0, 1, 0, 0⟩, 0), txn.applyAt := some 0 }, ⟨0, 0, 1, 0, 0⟩, 0, 0, by decide +kernel⟩),
   by (exact ⟨{ open' on .opened with txn.age := 10000 }, by decide +kernel⟩),
   by (exact ⟨{ on with slots := [{ armed 1 with action := actCommit }] }, 0, { armed 1 with action := actCommit }, .host, by decide +kernel⟩)⟩

/-! ## Ill-formed commands, one for each check of WellFormed.lean -/

/-- The frame inputs of a strike with nothing late. -/
def frame0 : FrameIn := ⟨0, 0, 0, 192, 192, false, 0, 0, [], false⟩

theorem smoke_packets : (Instr.setPoint (pk 0 0x7FF [])).wf = true ∧ (Instr.setPoint { pk 0 0x7FF [] with ring := 10 }).wf = false ∧
    (Instr.quench { pk 0 0 [] with tag := 2048 }).wf = false ∧ (Instr.opQuery { pk 0 1 [] with words := [] }).wf = false ∧
    (Instr.badOpcodePacket 256 (pk 0 0 [])).wf = false := by decide +kernel
theorem smoke_frames : (Instr.strike frame0).wf = true ∧ (Instr.strike { frame0 with loopLate := 4294967296 }).wf = false ∧
    (Instr.strike { frame0 with outLate := 4096 }).wf = false := by decide +kernel
theorem smoke_feedback : (Instr.stageFeedbackFrame 12 { fbk with channels := List.replicate 16 0 }).wf = false ∧
    (Instr.stageFeedbackFrame 11 { fbk with channels := List.replicate 16 0 }).wf = true ∧ (Instr.stageFeedbackFrame 11 fbk).wf = false ∧
    (Instr.stageFeedbackFrame 0 { fbk with channels := List.replicate 16 0, chValid := 65536 }).wf = false := by decide +kernel
theorem smoke_peer_headers : let h := hd .leave 0 0
    (Instr.leave { h with link := 48 } 0).wf = false ∧ (Instr.leave { h with link := 47 } 0).wf = true ∧
    (Instr.leave { h with type := 256 } 0).wf = false ∧ (Instr.leave { h with cls := 4 } 0).wf = false ∧
    (Instr.leave { h with length := 65536 } 0).wf = false ∧ (Instr.leave { h with seq := 65536 } 0).wf = false := by decide +kernel
theorem smoke_pair_frames : (Instr.pairFrame pf).wf = true ∧ (Instr.pairFrame { pf with seq := 256 }).wf = false ∧
    (Instr.pairFrame { pf with claimNum := 256 }).wf = false ∧ (Instr.pairFrame { pf with cause := 16 }).wf = false ∧
    (Instr.pairFrame { pf with coolantNext := 4 }).wf = false ∧ (Instr.pairFrame { pf with fcTag := 16777216 }).wf = false ∧
    (Instr.pairFrame { pf with excluded := 4294967296 }).wf = false := by decide +kernel
theorem smoke_cell_data : let d : CellData := ⟨false, 3, 1, 0, 255, 0, [], 0, List.replicate 16 0, List.replicate 4 0, List.replicate 4 0, 0,
      List.replicate 16 0, 0, 0, [], []⟩
    (Instr.ringData 0 cd).wf = false ∧ (Instr.ringSampleReturn 4 none 0 0).wf = false ∧ (Instr.ringData 0 d).wf = true ∧
    (Instr.ringData 4 d).wf = false ∧ (Instr.ringData 0 { d with flags := 256 }).wf = false ∧ (Instr.ringData 0 { d with hop := 256 }).wf = false ∧
    (Instr.ringData 0 { d with prim := [] }).wf = false := by decide +kernel
theorem smoke_collector : (Instr.faultPairChange [] 1000).wf = false ∧ (Instr.faultPairChange [] 999).wf = true ∧
    (Instr.injectForceNoFault .tk 256 .fatal).wf = false ∧ (Instr.injectForceFault .tk 0 .fatal 16).wf = false ∧
    (Instr.pairNoncomplementary 256 .info 0).wf = false ∧ (Instr.pairWiringClear 0 .info true 0 0 1000).wf = false := by decide +kernel
theorem smoke_rows : (Instr.rowFrame true 0 []).wf = false ∧ (Instr.rowFrame true 0 (List.replicate 32 0)).wf = true := by decide +kernel
theorem smoke_addresses : (Instr.registerWrite .tk 16777216 0).wf = false ∧ (Instr.registerWrite .tk 2 0).wf = false ∧
    (Instr.registerWrite .tk 16777212 0).wf = true ∧ (Instr.readClear .tk 1).wf = false ∧ (Instr.cxlMemRead 281474976710656).wf = false ∧
    (Instr.cxlMemWrite 0 []).wf = false ∧ (Instr.cxlMemWrite 0 (List.replicate 64 none)).wf = true := by decide +kernel
theorem smoke_numbers : (Instr.trayReport 0 0 0 0).wf = false ∧ (Instr.trayReport 63 0 0 0).wf = true ∧ (Instr.swapHoldTimeout 32 0).wf = false ∧
    (Instr.swapHoldTimeout 31 8).wf = false ∧ (Instr.readinessLimitFault 13).wf = false ∧ (Instr.modelLoadBlock 4).wf = false ∧
    (Instr.ringDoorbell .host 10 0).wf = false ∧ (Instr.statusPost 0 2048 0 0 (0, [])).wf = false ∧ (Instr.stageLinkLock 12).wf = false ∧
    (Instr.peerLinkLock 48).wf = false ∧ (Instr.tileFault 64 true).wf = false ∧ (Instr.lockstepDigest true 0 [] 0).wf = false ∧
    (Instr.eccReadError 0 [(68, 1)]).wf = false ∧ (Instr.stackHot 8 true).wf = false ∧ (Instr.dmaBurst [] ⟨false, 0⟩).wf = true ∧
    (Instr.dmaFenceDone 32).wf = false ∧ (Instr.dmaRequestLine 6).wf = false ∧ (Instr.hdmDecoderCommit 2 0 0 0 1).wf = false ∧
    (Instr.rdownNodata 10).wf = false ∧ (Instr.spdmUnsupportedRequest 256 (req 0 0 0)).wf = false ∧ (Instr.maintVerify .tk 48).wf = false ∧
    (Instr.linkHealthMeasure [⟨48, 0, 0, 0, 0, 0⟩]).wf = false ∧ (Instr.tileSelfTest 18446744073709551616).wf = false ∧
    (Instr.cxlLinkUp 5 8 true true true true 18446744073709551616).wf = false := by decide +kernel

/-! ## Values the spec works out -/

/-- R6: the three capability words of a module whose record and population agree. -/
theorem test_capability_words :
    ({ SysSt.reset with capValid := true, variant := 0, tiles := 0xFFFFFFFFFFFFFFFF, stks := 0xFF, links := 48, train := true, lockstep := true, master := true } : SysSt).cap0 = 0x83F08040 ∧
    ({ SysSt.reset with capValid := true, variant := 1, tiles := 0xFFFFFFFFFFFF, stks := 0xF, links := 24, master := true } : SysSt).cap0 = 0x82584130 ∧
    ({ SysSt.reset with capValid := true, variant := 2, links := 8 } : SysSt).cap0 = 0x80080200 ∧ SysSt.reset.cap0 = 0 := by decide +kernel

/-- The MX4 block after R196: 5.2, -1.3, 0.26 and 2.5 under scale code 0x7F. -/
theorem test_mx4_elements : ([0x40A66666, 0xBFA66666, 0x3E851EB8, 0x40200000] : List Word).map (fun w => (encodeFloat e2m1 false (f32val w)).1)
    = [0x7, 0xB, 0x1, 0x4] := by decide +kernel

/-- The four chunk sums after R204: 2.0 in one exact pass, 1.0 over the tree of 64 lanes. -/
theorem test_reproducible_sum :
    (roundSum false ([0x4B800000, 0x3F800000, 0x3F800000, 0xCB800000].map (fun w => (f32val w, 0)))).1 = 0x40000000 ∧
    (treeSum false 64 ([0x4B800000, 0x3F800000, 0x3F800000, 0xCB800000].map (fun w => (w, 0)))).1 = 0x3F800000 := by decide +kernel

/-- R92 on the default limits: from 200 kW at rest toward 260 kW, V changes by 0.132 W/s in a frame. -/
theorem test_shaper_step : (shaperStep 200000000000 0 260000 200 400 330000).2 = 132 ∧
    (shaperStep 200000000000 132 260000 200 400 330000) = (200000000003, 264) := by decide +kernel

/-- The bridge example after R144: at 1,010 the output stays at 0.420 with offset 0.12; one frame later it reads 0.4188. -/
theorem test_bridge_blend :
    let l : LoopSt := { LoopSt.reset with fb := 420000, prevGen := 4, enabledAtPub := true, s.mode := .live,
                                          slotPub := some ⟨1010, 5, List.replicate 21 300000⟩ }
    (l.bridge 1010 100 100).1.fb = 420000 ∧ ((l.bridge 1010 100 100).1.bridge 1011 100 100).1.fb = 418800 ∧
    (l.bridge 1010 100 100).1.s.mode = .blend := by decide +kernel

/-! ## Single steps -/

/-- The module after a command. -/
def after (i : Instr) (m : Mach) : Mach :=
  match exec i ⟨m, []⟩ with
  | .next s => s.toMach
  | _ => m

theorem test_strike_counts : (after (.strike frame0) on).time.count = 1 ∧ (after (.strike frame0) off).time.count = 0 := by decide +kernel
theorem test_step_idles : step ⟨on, []⟩ = .next ⟨on, []⟩ := rfl
theorem test_doorbell_bound : (after (.ringDoorbell .tk 0 255) rings).rd (.cxCmdTail 0) = 255 ∧
    (after (.ringDoorbell .tk 0 256) rings).rd (.cxCmdTail 0) = 0 := by decide +kernel
theorem test_begin_opens : (after (.cfgBegin (pk 0 1 [])) rings).txn.state = .opened ∧ (after (.cfgBegin (pk 0 1 [])) rings).txn.owner = .host := by decide +kernel
theorem test_staging_waits : let m : Mach := { up with txn.state := .opened, txn.owner := .tk }
    (after (.stagedWrite .tk (Reg.addr .syFuncEn) 0) m).rd .syFuncEn = 0x1FF ∧ (after (.stagedWrite .tk (Reg.addr .syFuncEn) 0) m).txn.staged.length = 1 := by decide +kernel
theorem test_raise_is_pending : ((after (.fcRaise .tk 0x0202) up).fault.recs.map (fun r => r.st)) = [.pending] := by decide +kernel
theorem test_quench_waits : (after (.quench (pk 0 0 [])) rings).fault.quenchCmds.length = 1 := by decide +kernel
theorem test_link_lock : ((after (.stageLinkLock 11) up).link 11).lock = true := by decide +kernel
theorem test_request_line_once : ((after (.dmaRequestLine 5) (after (.dmaRequestLine 5) up)).dma.lines.map (fun x => x.line)) = [5] := by decide +kernel
theorem test_read_returns_bytes : (after (.cxlMemRead 0x1000000) (cxl.setBytes sramBase [0x78, 0x56, 0x34, 0x12])).lastRead.head? = some 0x12345678 := by decide +kernel
theorem test_absent_reads_zero : (after (.absentUnitRead .tk 0x90100) up).lastRead = [0] := by decide +kernel

end Sys2Proof.Tests
end

section
/-! PROOFS. Commands and transactions: CFG_BEGIN and CFG_ROLLBACK (R79, R85), OP_QUERY (R77), the classes of the rings (R53), and
the disabling of a ring (R58). -/

namespace Sys2Proof.Machine

/-! ## Packets served and packets refused -/

/-- A row whose packet passes the first five checks does what its opcode does. -/
theorem Gives.of_served {c : Instr} {op : Nat} {p : Packet} {m n : Mach} (hc : ∀ s, exec c s = s.on (fun k => k.servePacket op p))
    (hop : op < 256) (h : m.serves op p) (e : (m.hasRead p).serveOp op (m.backTo op p) p = n) : Gives c m n :=
  Gives.of_on hc ((servePacket_served hop h).trans e)

/-- A packet in sequence whose class is not its ring's fails the second check of R62, whatever its opcode. -/
theorem packetCheck_classMismatch {m : Mach} {op : Nat} {p : Packet} (h : p.cls ≠ ringClass p.ring) :
    m.packetCheck op p p.seq = some (stClassMismatch, []) := by
  simp [Mach.packetCheck, h]

/-! ## Transactions (R79, R85) -/

/-- CFG_BEGIN in IDLE opens the transaction. -/
theorem opCfgBegin_idle {m : Mach} (rt : RTo) (c : Cls) (h : m.txn.state = .idle) : m.opCfgBegin rt c =
    { m with txn := { TxnSt.reset with state := .opened, owner := c, ring := rt.ring, agePending := true } }.reply rt stOk [] := by
  simp [Mach.opCfgBegin, h]

/-- CFG_BEGIN beside a transaction names its owner. -/
theorem opCfgBegin_busy {m : Mach} (rt : RTo) (c : Cls) (h : m.txn.state ≠ .idle) : m.opCfgBegin rt c =
    m.reply rt stCfgOpen [place m.txn.owner.code 4 ||| place (m.txn.ring % 8) 0] := by
  simp [Mach.opCfgBegin, h]

/-- The first strike after CFG_BEGIN leaves age 0. -/
theorem tick_age_of_agePending {t : TxnSt} (hs : t.state ≠ .idle) (h : t.agePending = true) : t.tick.age = 0 := by
  simp [TxnSt.tick, hs, h]

theorem opCfgRollback_idle {m : Mach} (rt : RTo) (h : m.txn.state = .idle) : m.opCfgRollback rt = m.reply rt stCfgNone [] := by
  simp [Mach.opCfgRollback, h]

theorem opCfgRollback_opened {m : Mach} (rt : RTo) (h : m.txn.state = .opened) :
    m.opCfgRollback rt = (m.closeTxn stOk 1).reply rt stOk [] := by
  simp [Mach.opCfgRollback, h]

theorem opCfgRollback_validating {m : Mach} (rt : RTo) (h : m.txn.state = .validating) :
    m.opCfgRollback rt = m.reply rt stBadState [] := by
  simp [Mach.opCfgRollback, h]

/-- Every class with a ring may issue CFG_ROLLBACK, as far as R63 says. -/
theorem mem_classesOf_cfgRollback {c : Cls} : c ∈ classesOf ocCfgRollback ↔ c ≠ .peer := by
  cases c <;> decide

/-- While a transaction stands, only its owner and TK pass the class check of CFG_ROLLBACK (R85). -/
theorem classCheck_cfgRollback {m : Mach} {c : Cls} (w4 : Word) (hs : m.txn.state ≠ .idle) (hc : c ≠ .peer) :
    m.classCheck ocCfgRollback c w4 = none ↔ c = m.txn.owner ∨ c = .tk := by
  have hmem : c ∈ classesOf ocCfgRollback := mem_classesOf_cfgRollback.2 hc
  by_cases ho : m.txn.owner = c
  · simp [Mach.classCheck, hmem, ho]
  · simp [Mach.classCheck, hmem, hs, ho, Ne.symm ho]

/-- Settles O15: `opCfgBegin` in its two cases, and the tick of a transaction whose age is still to start. -/
theorem cfgBeginOpensOneTransaction : Obligations.CfgBeginOpensOneTransaction := by
  unfold Obligations.CfgBeginOpensOneTransaction
  intro m p h
  refine ⟨fun hs => ?_, tick_age_of_agePending (by simp) rfl, fun hs => ?_⟩
  · exact .of_served (exec_cfgBegin p) (by decide) h (opCfgBegin_idle _ _ hs)
  · exact .of_served (exec_cfgBegin p) (by decide) h (opCfgBegin_busy _ _ hs)

/-- Settles O16: `opCfgRollback` in each state of the transaction, and its class check. -/
theorem cfgRollbackDiscardsTheStagedWords : Obligations.CfgRollbackDiscardsTheStagedWords := by
  unfold Obligations.CfgRollbackDiscardsTheStagedWords
  refine ⟨fun m p h => ⟨fun hs => ?_, fun hs => ?_, fun hs => ?_⟩, fun m c w4 hs hc => classCheck_cfgRollback w4 hs hc⟩
  · exact .of_served (exec_cfgRollback p) (by decide) h (opCfgRollback_opened _ hs)
  · exact .of_served (exec_cfgRollback p) (by decide) h (opCfgRollback_validating _ hs)
  · exact .of_served (exec_cfgRollback p) (by decide) h (opCfgRollback_idle _ hs)

/-! ## OP_QUERY (R77) -/

theorem place_zero (v : Nat) : place v 0 = BitVec.ofNat 32 v := by
  rw [place, Nat.shiftLeft_zero]

theorem opQuery_op {m : Mach} (rt : RTo) {tag : Nat} {o : Op} (h : m.opHolding tag = some o) : m.opQuery rt tag =
    m.reply rt stOk [place o.state.code 0, place (o.rt.ring % 16) 0 ||| place o.cls.code 8,
      BitVec.ofNat 32 o.changed, BitVec.ofNat 32 (o.changed / 4294967296)] := by
  simp [Mach.opQuery, h]

theorem opQuery_launch {m : Mach} (rt : RTo) {tag : Nat} {back : RTo} {changed : Nat} (h : m.opHolding tag = none)
    (hl : m.tagLaunch tag = some (back, changed)) : m.opQuery rt tag =
    m.reply rt stOk [4, place (back.ring % 16) 0 ||| place (ringClass back.ring).code 8,
      BitVec.ofNat 32 changed, BitVec.ofNat 32 (changed / 4294967296)] := by
  simp [Mach.opQuery, h, hl]

theorem opQuery_none {m : Mach} (rt : RTo) {tag : Nat} (h : m.opHolding tag = none) (hl : m.tagLaunch tag = none) :
    m.opQuery rt tag = m.reply rt stOk [5, 0, 0, 0] := by
  simp [Mach.opQuery, h, hl]

/-- An OP_QUERY that is served does `opQuery` on the target that word 4 names. -/
theorem Gives.of_opQuery {m n : Mach} {p : Packet} (h : m.serves ocOpQuery p)
    (e : (m.hasRead p).opQuery (m.backTo ocOpQuery p) (field (p.word 4) 10 0) = n) : Gives (.opQuery p) m n := by
  have happ : (m.hasRead p).id.appRun = true := by rw [hasRead_id]; exact h.2 rfl
  exact .of_served (exec_opQuery p) (by decide) h ((serveOp_opQuery _ _ p happ).trans e)

/-- Settles O17: the three answers of `opQuery`; the state code of an operation case by case. -/
theorem opQueryReportsTheTarget : Obligations.OpQueryReportsTheTarget := by
  unfold Obligations.OpQueryReportsTheTarget
  intro m p h
  refine ⟨fun o ho => .of_opQuery h ?_, fun rt n hn hl => .of_opQuery h (opQuery_launch _ hn hl),
    fun hn hl => .of_opQuery h (opQuery_none _ hn hl)⟩
  rw [opQuery_op _ ho, place_zero]
  cases o.state <;> simp only [OpState.code]

/-! ## The classes of the rings (R53) -/

theorem ringClass_ne_peer (n : Nat) : ringClass n ≠ .peer := by
  unfold ringClass; split
  · decide
  · split <;> decide

theorem ringClass_host {n : Nat} (h : n < 6 ∨ n = 8) : ringClass n = .host := by
  rw [ringClass, if_neg (by omega), if_neg (by omega)]

theorem ringClass_fw {n : Nat} (h : n = 6 ∨ n = 9) : ringClass n = .fw := by
  rw [ringClass, if_pos h]

/-- Settles O24: the class of each ring, and the second check of R62 before every opcode. -/
theorem ringClassesAreFixed : Obligations.RingClassesAreFixed := by
  unfold Obligations.RingClassesAreFixed
  refine ⟨fun _ => ringClass_host, fun _ => ringClass_fw, rfl, ringClass_ne_peer, fun m op p hop ht hr hq hc => ?_⟩
  have hj : m.judges op p (some (stClassMismatch, [])) := ⟨ht, hr, hq ▸ packetCheck_classMismatch hc⟩
  have hserve : m.servePacket op p = (m.hasRead p).reply (m.backTo op p) stClassMismatch [] := servePacket_refused hop hj
  refine ⟨hserve, fun e => ?_, fun e => ?_⟩
  · subst e; exact .of_on (exec_setPoint p) hserve
  · subst e; exact .of_on (exec_quench p) hserve

/-! ## Disabling a ring (R58) -/

/-- What a dropped or posted entry frees leaves the tracker, and nothing else changes (R70). -/
theorem release_eq (m : Mach) (e : StsEntry) :
    m.release e = { m with ops := m.ops.filter (fun o => decide (e.frees ≠ .op o.id)) } := by
  unfold Mach.release
  cases e.frees with
  | nothing => simp
  | op id =>
    have hid : ∀ o : Op, (o.id != id) = decide (Frees.op id ≠ .op o.id) := fun o => by
      by_cases h : o.id = id
      · simp [h]
      · simp [h, Ne.symm h]
    simp only [Mach.dropOp, hid]
  | launch c => simp

/-- Entries released one after another leave in the tracker the operations that none of them frees. -/
theorem foldl_release_eq (es : List StsEntry) (m : Mach) :
    es.foldl Mach.release m = { m with ops := m.ops.filter (fun o => es.all (fun e => decide (e.frees ≠ .op o.id))) } := by
  induction es generalizing m with
  | nil => simp
  | cons e es ih =>
    rw [List.foldl_cons, ih, release_eq]
    simp only [List.filter_filter, List.all_cons, Bool.and_comm]

/-- Disabling a ring in one piece: the tracker without what the held entries free, the drops counted, the tail back at the head, and
the ring's state in its next epoch. -/
theorem disableRing_eq (m : Mach) (n : Nat) : m.disableRing n =
    { ((m.bump (.cxStsDrop n) 15 0 (m.ring n).held.length).wr (.cxCmdTail n)
        ((m.bump (.cxStsDrop n) 15 0 (m.ring n).held.length).rd (.cxCmdHead n))) with
      ops := m.ops.filter (fun o => (m.ring n).held.all (fun e => decide (e.frees ≠ .op o.id)))
      rings := m.rings.modify n (fun r => { r with held := [], owing := 0, epoch := r.epoch + 1, rdownWait := false }) } := by
  rw [Mach.disableRing, foldl_release_eq]
  rfl

/-- Disabling a ring writes its drop count and its tail only. -/
theorem rd_disableRing_ne (m : Mach) (n : Nat) {r : Reg} (hd : r.addr ≠ Reg.addr (.cxStsDrop n))
    (ht : r.addr ≠ Reg.addr (.cxCmdTail n)) : (m.disableRing n).rd r = m.rd r := by
  rw [disableRing_eq]
  exact (rd_wr_ne _ _ ht).trans (rd_wr_ne _ _ hd)

/-- No unread packet stands in a disabled ring. -/
theorem rd_disableRing_tail (m : Mach) (n : Nat) (h : Regs.wf m.regs = true) :
    (m.disableRing n).rd (.cxCmdTail n) = m.rd (.cxCmdHead n) := by
  rw [disableRing_eq]
  exact (rd_wr_self _ _ _ (wr_wf m _ _ h)).trans (rd_wr_ne m _ (by simp [Reg.addr]))

/-- The entries that were still held count as dropped. -/
theorem rd_disableRing_drop (m : Mach) (n : Nat) (h : Regs.wf m.regs = true) :
    (m.disableRing n).rd (.cxStsDrop n) = bumpField (m.rd (.cxStsDrop n)) 15 0 (m.ring n).held.length := by
  rw [disableRing_eq]
  exact (rd_wr_ne _ _ (by simp [Reg.addr])).trans (rd_wr_self m _ _ h)

/-! ## The control word of a ring (R54) -/

/-- The word with bit `i` alone set, read inside the word. -/
theorem bit_ofNat_shiftLeft_one (i : Nat) {j : Nat} (hj : j < 32) : bit (BitVec.ofNat 32 (1 <<< i)) j = decide (i = j) := by
  rw [bit, BitVec.getLsbD_ofNat, Nat.one_shiftLeft, Nat.testBit_two_pow, decide_eq_true hj, Bool.true_and]

/-- Beyond its 32 bits a word has none set. -/
theorem bit_of_le (w : Word) {j : Nat} (hj : 32 ≤ j) : bit w j = false := BitVec.getLsbD_of_ge w j hj

theorem bit_clearBit (w : Word) (i j : Nat) : bit (clearBit w i) j = (bit w j && decide (i ≠ j)) := by
  obtain hj | hj := Nat.lt_or_ge j 32
  · have hone := bit_ofNat_shiftLeft_one i hj
    simp only [bit] at hone ⊢
    simp only [clearBit, BitVec.getLsbD_and, BitVec.getLsbD_not, hone, decide_eq_true hj, Bool.true_and, decide_not]
  · rw [bit_of_le _ hj, bit_of_le _ hj, Bool.false_and]

theorem bit_setBit_ne (w : Word) {i j : Nat} (h : i ≠ j) : bit (setBit w i) j = bit w j := by
  obtain hj | hj := Nat.lt_or_ge j 32
  · have hone := bit_ofNat_shiftLeft_one i hj
    simp only [bit] at hone ⊢
    simp only [setBit, BitVec.getLsbD_or, hone, decide_eq_false h, Bool.or_false]
  · rw [bit_of_le _ hj, bit_of_le _ hj]

/-- A bit given leaves every other bit of the word. -/
theorem bit_putBit_ne (w : Word) {i j : Nat} (b : Bool) (h : i ≠ j) : bit (putBit w i b) j = bit w j := by
  cases b with
  | false => simp [putBit, bit_clearBit, h]
  | true => simp [putBit, bit_setBit_ne w h]

theorem testBit_field (w : Word) (hi lo i : Nat) :
    (field w hi lo).testBit i = (decide (i < hi + 1 - lo) && bit w (lo + i)) := by
  rw [field, Nat.testBit_mod_two_pow, Nat.testBit_shiftRight]; rfl

/-- A field below a bit does not see that bit cleared. -/
theorem field_clearBit (w : Word) {hi lo i : Nat} (h : hi < i) : field (clearBit w i) hi lo = field w hi lo := by
  refine Nat.eq_of_testBit_eq fun j => ?_
  rw [testBit_field, testBit_field, bit_clearBit]
  by_cases hj : j < hi + 1 - lo
  · have : i ≠ lo + j := by omega
    simp [this]
  · simp [hj]

/-- The control register of each of the ten rings stands in the map at its own address (R54). -/
theorem ofAddr_cxCmdCtrl {n : Nat} (h : n < 10) : Reg.ofAddr (Reg.addr (.cxCmdCtrl n)) = some (.cxCmdCtrl n) := by
  interval_cases n <;> rfl

/-- A landed write of a ring's control register is the ring's own write. -/
theorem writeNamed_cxCmdCtrl {m : Mach} {c : Cls} {n : Nat} (v : Word) (h : m.lands c (.cxCmdCtrl n) true) :
    m.writeNamed c (.cxCmdCtrl n) v = m.writeRingCtrl n v := by
  have hn : n < 10 := by simpa [Reg.inRange] using h.1
  have haddr : Reg.addr (.cxCmdCtrl n) = 0x10408 + 0x40 * n := rfl
  refine writeNamed_lands v h (ofAddr_cxCmdCtrl hn) ?_ ?_
  · simp only [wordAddr, haddr, Bool.and_eq_true, decide_eq_true_eq, beq_iff_eq, regSize]; omega
  · simp only [haddr, mailBase]; omega

/-- A write that clears ring_en of an enabled general ring, with a size it may name, takes the word and disables the ring. -/
theorem writeRingCtrl_disables {m : Mach} {n : Nat} {v : Word} (hi : isIsland n = false) (he : m.ringEn n = true)
    (hv : bit v 31 = false) (h4 : 4 ≤ field v 3 0) (h12 : field v 3 0 ≤ 12) : m.writeRingCtrl n v =
    (m.wr (.cxCmdCtrl n) (putBit (clearBit (m.rd (.cxCmdCtrl n)) 31) 30 (bit v 30))).disableRing n := by
  have hw : bit (m.rd (.cxCmdCtrl n)) 31 = true := he
  simp [Mach.writeRingCtrl, hi, hw, hv, putBit, Nat.not_lt.2 h4, Nat.not_lt.2 h12]

/-- A reply for a ring that is disabled, or was disabled since the command was read, is dropped and counted (R58). -/
theorem post_dropped {m : Mach} {e : StsEntry} (h : m.ringEn e.rt.ring = false ∨ (m.ring e.rt.ring).epoch ≠ e.rt.epoch) :
    m.post e = (m.release e).bump (.cxStsDrop e.rt.ring) 15 0 1 := by
  rw [Mach.post, if_pos (by simpa using h)]

/-- Settles O26: the write is `disableRing` behind the control word, whose registers and fields are said above; a later reply
is `post_dropped`. -/
theorem disablingARingDropsItsReplies : Obligations.DisablingARingDropsItsReplies := by
  unfold Obligations.DisablingARingDropsItsReplies
  refine ⟨fun m c n v hl hi he h4 h12 hcan => ?_, fun m e h => post_dropped h⟩
  have hregs : Regs.wf m.regs = true := (Bool.and_eq_true_iff.1 hcan).1
  obtain ⟨w, hw⟩ : ∃ w, w = putBit (clearBit (m.rd (.cxCmdCtrl n)) 31) 30 (bit (clearBit v 31) 30) := ⟨_, rfl⟩
  have hoff : bit w 31 = false := by simp [hw, bit_putBit_ne, bit_clearBit]
  have hwrite : m.writeNamed c (.cxCmdCtrl n) (clearBit v 31) = (m.wr (.cxCmdCtrl n) w).disableRing n := by
    rw [writeNamed_cxCmdCtrl _ hl, hw]
    refine writeRingCtrl_disables hi he (by simp [bit_clearBit]) ?_ ?_ <;> rwa [field_clearBit _ (by decide)]
  have hwf := wr_wf m (.cxCmdCtrl n) w hregs
  have hne : ∀ r : Reg, r.addr ≠ Reg.addr (.cxCmdCtrl n) → (m.wr (.cxCmdCtrl n) w).rd r = m.rd r := fun r => rd_wr_ne m w
  refine ⟨_, .of_on (exec_ringDisable c n v) hwrite, ?_, ?_, ?_, ?_, ?_⟩
  · rw [Mach.ringEn, rd_disableRing_ne _ _ (by simp [Reg.addr]) (by simp [Reg.addr]), rd_wr_self m _ _ hregs, hoff]
  · rw [rd_disableRing_tail _ _ hwf, hne _ (by simp [Reg.addr])]
  · rw [rd_disableRing_ne _ _ (by simp [Reg.addr]) (by simp [Reg.addr]), hne _ (by simp [Reg.addr])]
  · rw [rd_disableRing_drop _ _ hwf, hne _ (by simp [Reg.addr])]; rfl
  · rw [disableRing_eq]; exact ⟨rfl, rfl, rfl, rfl, rfl⟩

end Sys2Proof.Machine
end

section
/-! PROOFS. The module's tables and the one step: registers and memory read back what was written, and every command answers a
next state whose tables are canonical (R424, R476). -/

namespace Sys2Proof.Machine

/-! ## The sparse tables -/

/-- A canonical table that reads 0 everywhere is empty. -/
theorem eq_nil_of_sget_zero {w n : Nat} : ∀ {t : Sparse w}, swfFrom n t = true → (∀ a, sget t a = 0) → t = []
  | [], _, _ => rfl
  | (k, v) :: r, ht, h => by
    simp only [swfFrom, Bool.and_eq_true, decide_eq_true_eq] at ht
    exact absurd (by simpa [sget] using h k) ht.1.2

/-- A canonical table whose first index lies below all of another's reads differently there. -/
theorem sget_head_ne {w n k j : Nat} {v : BitVec w} {r u : Sparse w} (ht : swfFrom n ((k, v) :: r) = true)
    (hu : swfFrom j u = true) (hkj : k < j) : sget ((k, v) :: r) k ≠ sget u k := by
  simp only [swfFrom, Bool.and_eq_true, decide_eq_true_eq] at ht
  rw [sget_below hkj hu]
  simpa [sget] using ht.1.2

/-- The entries after the first start above it. -/
theorem swfFrom_self_of_cons {w n k : Nat} {v : BitVec w} {r : Sparse w} (h : swfFrom n ((k, v) :: r) = true) :
    swfFrom k ((k, v) :: r) = true ∧ swfFrom (k + 1) r = true := by
  simp only [swfFrom, Bool.and_eq_true, decide_eq_true_eq] at h ⊢
  exact ⟨⟨⟨le_rfl, h.1.2⟩, h.2⟩, h.2⟩

/-- Two canonical tables that read alike are equal, index by index from the lowest. -/
theorem eq_of_sget_eq {w : Nat} : ∀ {n j : Nat} {t u : Sparse w}, swfFrom n t = true → swfFrom j u = true →
    (∀ a, sget t a = sget u a) → t = u
  | _, _, [], _, _, hu, h => (eq_nil_of_sget_zero hu fun a => (h a).symm).symm
  | _, _, _ :: _, [], ht, _, h => eq_nil_of_sget_zero ht h
  | _, _, (k, v) :: r, (l, x) :: s, ht, hu, h => by
    obtain ⟨ht', hr⟩ := swfFrom_self_of_cons ht
    obtain ⟨hu', hs⟩ := swfFrom_self_of_cons hu
    obtain hkl | rfl | hlk := lt_trichotomy k l
    · exact absurd (h k) (sget_head_ne ht hu' hkl)
    · have hv : v = x := by simpa [sget] using h k
      have htail : ∀ a, sget r a = sget s a := fun a => by
        by_cases ha : k = a
        · rw [sget_below (by omega) hr, sget_below (by omega) hs]
        · simpa [sget, ha] using h a
      rw [hv, eq_of_sget_eq hr hs htail]
    · exact absurd (h l).symm (sget_head_ne hu ht' hlk)

/-- A canonical table is its own canonical form. -/
theorem snorm_eq_self {w : Nat} {t : Sparse w} (h : swf t = true) : snorm t = t :=
  eq_of_sget_eq (snorm_wf t) h (sget_snorm t)

/-- Settles O6, by the comparison of the lowest indices. -/
theorem canonicalTablesThatReadAlikeAreEqual : Obligations.CanonicalTablesThatReadAlikeAreEqual := by
  unfold Obligations.CanonicalTablesThatReadAlikeAreEqual
  exact fun _ _ _ ht hu h => eq_of_sget_eq ht hu h

/-! ## Registers and memory -/

theorem canonical_iff (m : Mach) : m.canonical = true ↔ Regs.wf m.regs = true ∧ Memory.wf m.mem = true := by
  rw [Mach.canonical, Bool.and_eq_true]

/-- Settles O7: the register laws of the sparse table. -/
theorem aRegisterReadsBackWhatWasWritten : Obligations.ARegisterReadsBackWhatWasWritten := by
  unfold Obligations.ARegisterReadsBackWhatWasWritten
  intro m r v hm
  obtain ⟨hregs, hmem⟩ := (canonical_iff m).1 hm
  exact ⟨rd_wr_self m r v hregs, fun r' hr => rd_wr_ne m v hr, rfl, (canonical_iff _).2 ⟨wr_wf m r v hregs, hmem⟩⟩

@[simp] theorem setBytes_regs : ∀ (bs : List Byte) (m : Mach) (a : Nat), (m.setBytes a bs).regs = m.regs
  | [], _, _ => rfl
  | b :: bs, m, a => by rw [Mach.setBytes, setBytes_regs bs, setByte_regs]

/-- Bytes written leave every byte outside them as it was. -/
theorem byte_setBytes_ne : ∀ (bs : List Byte) (m : Mach) {a c : Nat}, c < a ∨ a + bs.length ≤ c →
    (m.setBytes a bs).byte c = m.byte c
  | [], _, _, _, _ => rfl
  | b :: bs, m, a, c, h => by
    rw [List.length_cons] at h
    rw [Mach.setBytes, byte_setBytes_ne bs _ (by omega), byte_setByte_ne m b (by omega)]

/-- Bytes written read back, from the last to the first. -/
theorem bytes_setBytes : ∀ (bs : List Byte) (m : Mach) (a : Nat), Memory.wf m.mem = true →
    (m.setBytes a bs).bytes a bs.length = bs
  | [], _, _, _ => rfl
  | b :: bs, m, a, h => by
    have hb : ((m.setByte a b).setBytes (a + 1) bs).byte a = b := by
      rw [byte_setBytes_ne bs _ (by omega), byte_setByte_self m a b h]
    simp only [Mach.setBytes, List.length_cons, Mach.bytes, hb, bytes_setBytes bs _ _ (setByte_wf m a b h)]

/-- Settles O9: the byte laws, run over the list. -/
theorem memoryReadsBackTheBytesWritten : Obligations.MemoryReadsBackTheBytesWritten := by
  unfold Obligations.MemoryReadsBackTheBytesWritten
  intro m a bs hm
  obtain ⟨hregs, hmem⟩ := (canonical_iff m).1 hm
  refine ⟨bytes_setBytes bs m a hmem, fun c hc => byte_setBytes_ne bs m hc, setBytes_regs bs m a, ?_⟩
  exact (canonical_iff _).2 ⟨by rwa [setBytes_regs], setBytes_wf bs m a hmem⟩

/-- Settles O5: the empty tables read as the maps' reset values and as 0. -/
theorem resetStateIsCanonicalAndReadsItsMaps : Obligations.ResetStateIsCanonicalAndReadsItsMaps := by
  unfold Obligations.ResetStateIsCanonicalAndReadsItsMaps
  refine ⟨rfl, fun r => ?_, fun a => rfl, rfl, rfl, rfl, rfl, rfl⟩
  show sget ([] : Sparse 32) r.addr ^^^ r.reset = r.reset
  rw [sget_nil]; exact BitVec.zero_xor

/-! ## One step -/

/-- Every command answers a next state with the queue kept: its function on the module, then what every command ends with. -/
theorem exec_eq_settle (c : Instr) : ∃ f : Mach → Mach, ∀ (m : Mach) (q : List Instr), exec c ⟨m, q⟩ = .next ⟨settle m (f m), q⟩ := by
  obtain ⟨f, hf⟩ := exec_on c
  exact ⟨f, fun m q => hf ⟨m, q⟩⟩

/-- Settles O1, by unfolding the step. -/
theorem stepRunsTheFrontCommand : Obligations.StepRunsTheFrontCommand := by
  unfold Obligations.StepRunsTheFrontCommand
  exact ⟨fun c rest m => rfl, fun c s => rfl, fun m => rfl⟩

/-- Settles O2: every command is a function of the module under `State.on`. -/
theorem everyCommandAnswersANextState : Obligations.EveryCommandAnswersANextState := by
  unfold Obligations.EveryCommandAnswersANextState
  intro c m q
  obtain ⟨f, hf⟩ := exec_eq_settle c
  exact ⟨_, hf m q⟩

/-- What a command leaves is what `settle` makes. -/
theorem exec_next_settle {c : Instr} {s t : State} (h : exec c s = .next t) : ∃ n : Mach, t.toMach = settle s.toMach n := by
  obtain ⟨f, hf⟩ := exec_on c
  obtain rfl := Host.Outcome.next.inj ((hf s).symm.trans h)
  exact ⟨_, rfl⟩

/-- A step either idles or runs a command, which ends in `settle`. -/
theorem step_keeps_canonical {s t : State} (hs : s.canonical = true) (h : step s = .next t) : t.canonical = true := by
  obtain ⟨m, q⟩ := s
  cases q with
  | nil => obtain rfl := Host.Outcome.next.inj h; exact hs
  | cons c rest =>
    obtain ⟨n, hn⟩ := exec_next_settle (c := c) (s := ⟨m, rest⟩) h
    rw [hn]; exact settle_canonical m n

/-- The canonical form is an invariant of every run. -/
theorem reaches_keeps_canonical {s t : State} (h : Reaches s t) (hs : s.canonical = true) : t.canonical = true := by
  induction h with
  | refl => exact hs
  | step _ hstep ih => exact step_keeps_canonical ih hstep

/-- Settles O4: `settle` puts both tables in canonical form after every command, and idling keeps them; a run by induction. -/
theorem stepKeepsTheCanonicalForm : Obligations.StepKeepsTheCanonicalForm := by
  unfold Obligations.StepKeepsTheCanonicalForm
  exact ⟨fun _ _ hs h => step_keeps_canonical hs h, fun _ _ h hs => reaches_keeps_canonical h hs⟩

/-! ## What a command ends with (R424) -/

theorem bit_or_flag (w : Word) {i : Nat} (h : i < 32) : bit (w ||| flag true i) i = true := by
  have hone : bit (flag true i) i = true := (bit_ofNat_shiftLeft_one i h).trans (decide_eq_true rfl)
  simp only [bit] at hone ⊢
  rw [BitVec.getLsbD_or, hone, Bool.or_true]

/-- `SY_CAP1` looks at the population, the links, the stacks, the self-test and the tile map. -/
theorem cap1_congr {m n : Mach} (hsys : n.sys = m.sys) (hpeers : n.peers = m.peers) (hstks : n.stks = m.stks)
    (hbist : n.anvil.bist = m.anvil.bist) (hlo : n.rd .avTileMapLo = m.rd .avTileMapLo)
    (hhi : n.rd .avTileMapHi = m.rd .avTileMapHi) : n.cap1 = m.cap1 := by
  simp only [Mach.cap1, Mach.linksShown, Mach.linksIn, Mach.stksShown, Mach.stacksIn, Mach.stacksSettled, Mach.stackSt,
    Mach.tilesShown, Mach.tilesIn, hsys, hpeers, hstks, hbist, hlo, hhi]
  rfl

@[simp] theorem cap1_settle (m n : Mach) : (settle m n).cap1 = n.cap1 := by
  refine cap1_congr (settle_sys m n) (settle_peers m n) (settle_stks m n) ?_ (rd_settle_ne m n ?_) (rd_settle_ne m n ?_)
  · rw [settle_anvil]
  · decide
  · decide

/-- What every command ends with, with the memory canonical: a mark in `FC_STAT` where `SY_CAP1` changed. -/
theorem settle_eq {m n : Mach} (h : n.canonical = true) : settle m n = if m.cap1 = n.cap1 then n else n.orReg .fcStat (flag true 28) := by
  obtain ⟨hregs, hmem⟩ := (canonical_iff n).1 h
  have hset : ∀ k : Mach, Regs.wf k.regs = true → Memory.wf k.mem = true → { k with regs := snorm k.regs, mem := snorm k.mem } = k := by
    intro k hr hm
    rw [snorm_eq_self hr, snorm_eq_self hm]
  by_cases hcap : m.cap1 = n.cap1
  · rw [settle, if_neg (by simpa using hcap), if_pos hcap]; exact hset n hregs hmem
  · rw [settle, if_pos (by simpa using hcap), if_neg hcap]; exact hset _ (wr_wf n _ _ hregs) hmem

/-- A value other than 0 reads back from any table, canonical or not. -/
theorem sget_sset_of_ne_zero {w : Nat} (a : Nat) {x : BitVec w} (hx : x ≠ 0) : ∀ t : Sparse w, sget (sset t a x) a = x
  | [] => by rw [sset, if_neg hx]; simp [sget]
  | (k, v) :: r => by
    simp only [sset, if_neg hx]
    split
    · simp [sget]
    · next hlt =>
      split
      · simp [sget]
      · next hne => simp [sget, Ne.symm hne, sget_sset_of_ne_zero a hx r]

/-- The mark of svc_change reads 1 once it is written, whatever the register file. -/
theorem bit_rd_orReg_svcChange (m : Mach) : bit ((m.orReg .fcStat (flag true 28)).rd .fcStat) 28 = true := by
  have hbit := bit_or_flag (m.rd .fcStat) (i := 28) (by decide)
  have hne : (m.rd .fcStat ||| flag true 28) ^^^ Reg.reset .fcStat ≠ 0 := fun h => by
    have hzero : m.rd .fcStat ||| flag true 28 = 0 := (BitVec.xor_zero.symm.trans h :)
    rw [hzero] at hbit
    exact absurd hbit (by decide)
  have hrd : (m.orReg .fcStat (flag true 28)).rd .fcStat = m.rd .fcStat ||| flag true 28 := by
    rw [Mach.orReg, Mach.wr, Mach.rd, sget_sset_of_ne_zero _ hne, BitVec.xor_assoc, BitVec.xor_self, BitVec.xor_zero]
  rw [hrd, hbit]

/-- Settles O10: `settle` marks `FC_STAT` where `SY_CAP1` differs, and changes nothing else of a canonical module. -/
theorem svcChangeMarksAChangeOfCap1 : Obligations.SvcChangeMarksAChangeOfCap1 := by
  unfold Obligations.SvcChangeMarksAChangeOfCap1
  refine ⟨fun c m n q h hcap => ?_, fun m n hn => ⟨?_, fun r hr => rd_settle_ne m n hr, ?_⟩⟩
  · obtain ⟨k, rfl⟩ : ∃ k : Mach, n = settle m k := exec_next_settle h
    rw [cap1_settle] at hcap
    have hstat : (settle m k).rd .fcStat = (k.orReg .fcStat (flag true 28)).rd .fcStat := by
      simp [settle, hcap, Mach.rd]
    rw [hstat]; exact bit_rd_orReg_svcChange k
  · obtain ⟨hregs, -⟩ := (canonical_iff n).1 hn
    rw [settle_eq hn]
    split
    · rfl
    · exact rd_wr_self n _ _ hregs
  · rw [settle_eq hn]
    split <;> rfl

end Sys2Proof.Machine
end

section
/-! PROOFS. The address map of the register file (R478): the rows of the map lie apart, so each register is the one its address
names. -/

namespace Sys2Proof.Machine

/-! ## Where a row's addresses lie -/

/-- The largest rest, by a modulus, of a distance that the strides spell: what the strides that the modulus does not divide add. -/
def stridesRest (M : Nat) : List (Nat × Nat) → Nat
  | [] => 0
  | (w, n) :: rest => (if M ∣ w then 0 else w * (n - 1)) + stridesRest M rest

/-- A distance that the strides spell leaves a rest of at most `stridesRest`. -/
theorem strideIndices_rest (M : Nat) : ∀ {ss : List (Nat × Nat)} {d : Nat} {l : List Nat}, strideIndices ss d = some l →
    ∃ e, e ≤ stridesRest M ss ∧ d ≡ e [MOD M]
  | [], d, l, h => by
    obtain rfl : d = 0 := by by_contra hd; simp [strideIndices, hd] at h
    exact ⟨0, le_rfl, rfl⟩
  | (w, n) :: rest, d, l, h => by
    obtain ⟨hlt, l', hl'⟩ : d / w < n ∧ ∃ l', strideIndices rest (d % w) = some l' := by
      by_cases hlt : d / w < n
      · refine ⟨hlt, ?_⟩
        simp only [strideIndices, if_pos hlt, Option.map_eq_some_iff] at h
        obtain ⟨l', hl', -⟩ := h
        exact ⟨l', hl'⟩
      · simp [strideIndices, hlt] at h
    obtain ⟨e, he, hmod⟩ := strideIndices_rest M hl'
    have hd : w * (d / w) + d % w = d := Nat.div_add_mod d w
    by_cases hM : M ∣ w
    · refine ⟨e, by simpa [stridesRest, hM] using he, ?_⟩
      have hw : w * (d / w) ≡ 0 [MOD M] := (Nat.modEq_zero_iff_dvd.2 (hM.mul_right _))
      calc d = w * (d / w) + d % w := hd.symm
        _ ≡ 0 + e [MOD M] := hw.add hmod
        _ = e := Nat.zero_add e
    · refine ⟨w * (d / w) + e, ?_, ?_⟩
      · have := Nat.mul_le_mul_left w (Nat.le_sub_one_of_lt hlt)
        simp only [stridesRest, if_neg hM]
        omega
      · calc d = w * (d / w) + d % w := hd.symm
          _ ≡ w * (d / w) + e [MOD M] := hmod.add_left _

/-- The lowest and the highest rest, by a modulus, of a row's addresses. -/
def RegRow.rests (M : Nat) (r : RegRow) : Nat × Nat := (r.base % M, r.base % M + stridesRest M r.strides)

/-- A row's addresses are its base and a distance that its strides spell. -/
theorem at?_distance {r : RegRow} {a : Nat} {x : Reg} (h : r.at? a = some x) (M : Nat) :
    ∃ e, e ≤ stridesRest M r.strides ∧ a ≡ r.base + e [MOD M] := by
  obtain ⟨hle, l, hl⟩ : r.base ≤ a ∧ ∃ l, strideIndices r.strides (a - r.base) = some l := by
    by_cases hle : r.base ≤ a
    · simp only [RegRow.at?, if_pos hle, Option.map_eq_some_iff] at h
      obtain ⟨l, hl, -⟩ := h
      exact ⟨hle, l, hl⟩
    · simp [RegRow.at?, hle] at h
  obtain ⟨e, he, hmod⟩ := strideIndices_rest M hl
  refine ⟨e, he, ?_⟩
  calc a = r.base + (a - r.base) := by omega
    _ ≡ r.base + e [MOD M] := hmod.add_left _

/-- A row names only addresses whose rest lies between its own, where the rests do not wrap round. -/
theorem rests_of_at? {M : Nat} {r : RegRow} {a : Nat} {x : Reg} (h : r.at? a = some x) (hM : (r.rests M).2 < M) :
    (r.rests M).1 ≤ a % M ∧ a % M ≤ (r.rests M).2 := by
  obtain ⟨e, he, hmod⟩ := at?_distance h M
  simp only [RegRow.rests] at hM ⊢
  have hrest : a % M = r.base % M + e := by
    rw [hmod.trans ((Nat.mod_modEq r.base M).symm.add_right e), Nat.mod_eq_of_lt (by omega)]
  omega

/-- Two rows whose rests by one of these moduli do not meet: the register file, and the strides of the maps. -/
def RegRow.apart (r s : RegRow) : Bool :=
  [0x1000000, 0x200, 0x100, 0x80, 0x40, 0x20, 0x10, 0x8].any (fun M =>
    decide ((r.rests M).2 < M) && decide ((s.rests M).2 < M) &&
      (decide ((r.rests M).2 < (s.rests M).1) || decide ((s.rests M).2 < (r.rests M).1)))

/-- Rows that lie apart name no address both. -/
theorem at?_none_of_apart {r s : RegRow} (h : r.apart s = true) {a : Nat} {x : Reg} (hx : s.at? a = some x) : r.at? a = none := by
  simp only [RegRow.apart, List.any_eq_true, Bool.and_eq_true, Bool.or_eq_true, decide_eq_true_eq] at h
  obtain ⟨M, -, ⟨hr, hs⟩, hlt⟩ := h
  refine Option.eq_none_iff_forall_ne_some.2 fun y hy => ?_
  have hra := rests_of_at? hy hr
  have hsa := rests_of_at? hx hs
  omega

/-- Each row lies apart from every row behind it. -/
def rowsApart : List RegRow → Bool
  | [] => true
  | r :: rs => rs.all r.apart && rowsApart rs

/-- In a map whose rows lie apart, a row that names an address gives it its register. -/
theorem findSome_of_rowsApart {a : Nat} {row : RegRow} {x : Reg} (hx : row.at? a = some x) : ∀ {rows : List RegRow},
    rowsApart rows = true → row ∈ rows → rows.findSome? (fun r => r.at? a) = some x
  | r :: rs, h, hmem => by
    simp only [rowsApart, Bool.and_eq_true, List.all_eq_true] at h
    obtain ⟨hr, hrs⟩ := h
    obtain rfl | htail := List.mem_cons.1 hmem
    · rw [List.findSome?_cons, hx]
    · rw [List.findSome?_cons, at?_none_of_apart (hr row htail) hx]
      exact findSome_of_rowsApart hx hrs htail

theorem regRows_apart : rowsApart regRows = true := by decide +kernel

/-! ## Each register's row -/

/-- The row of the map at a base address. -/
def rowAt (b : Nat) : Option RegRow := regRows.find? (fun r => r.base == b)

/-- A row found by its base gives its register to each address that its strides spell. -/
theorem ofAddr_of_rowAt {b d : Nat} {row : RegRow} {l : List Nat} (h : rowAt b = some row) (hl : strideIndices row.strides d = some l) :
    Reg.ofAddr (b + d) = some (row.reg l) := by
  have hbase : row.base = b := by simpa using List.find?_some h
  refine findSome_of_rowsApart ?_ regRows_apart (List.mem_of_find?_eq_some h)
  rw [RegRow.at?, hbase, if_pos (Nat.le_add_right b d), Nat.add_sub_cancel_left, hl]
  rfl

/-- A register without indices. -/
theorem ofAddr_single {b : Nat} {f : List Nat → Reg} (h : rowAt b = some ⟨b, [], f⟩) : Reg.ofAddr b = some (f []) :=
  ofAddr_of_rowAt (d := 0) h rfl

/-- One index of a register spells its distance. -/
theorem strideIndices_one {w n i : Nat} (hw : 0 < w) (hi : i < n) : strideIndices [(w, n)] (w * i) = some [i] := by
  simp [strideIndices, Nat.mul_div_cancel_left i hw, hi]

/-- A register with one index. -/
theorem ofAddr_indexed {b w n i : Nat} {f : List Nat → Reg} (h : rowAt b = some ⟨b, [(w, n)], f⟩) (hw : 0 < w) (hi : i < n) :
    Reg.ofAddr (b + w * i) = some (f [i]) := ofAddr_of_rowAt h (strideIndices_one hw hi)

/-- A register with two indices, the inner strides inside one outer stride. -/
theorem ofAddr_indexed_twice {b w n v k i j : Nat} {f : List Nat → Reg} (h : rowAt b = some ⟨b, [(w, n), (v, k)], f⟩) (hv : 0 < v)
    (hvw : v * k ≤ w) (hi : i < n) (hj : j < k) : Reg.ofAddr (b + w * i + v * j) = some (f [i, j]) := by
  have hin : v * j < w := lt_of_lt_of_le (Nat.mul_lt_mul_of_pos_left hj hv) hvw
  have hdiv : (w * i + v * j) / w = i := by
    rw [Nat.mul_add_div (by omega), Nat.div_eq_of_lt hin, Nat.add_zero]
  have hmod : (w * i + v * j) % w = v * j := by
    rw [Nat.mul_add_mod, Nat.mod_eq_of_lt hin]
  rw [Nat.add_assoc]
  refine ofAddr_of_rowAt h ?_
  rw [strideIndices, hdiv, if_pos hi, hmod, strideIndices_one hv hj]
  rfl

set_option maxRecDepth 4000 in
/-- The register at a register's address is that register: the case of each register names its row by its base. -/
theorem ofAddr_addr (r : Reg) (h : r.inRange = true) : Reg.ofAddr r.addr = some r := by
  cases r
  case syLaunchLo n | syLaunchHi n | syLaunchAct n | cxCmdBaseLo n | cxCmdBaseHi n | cxCmdCtrl n |
      cxCmdTail n | cxCmdHead n | cxStsBaseLo n | cxStsBaseHi n | cxStsHead n | cxStsTail n |
      cxCmdSeq n | cxStsDrop n | bdString n | bdTrayCap n | leSpsC n | leSpsSh n | leCfg n | leSrc n |
      leInSelLo n | leInSelHi n | leOutMapLo n | leOutMapHi n | leBqPlace n | leSched n | leHyst0 n |
      leHyst1 n | leState n | leFlag n | leFfStat n | leFfVal n | leRbLo n | leRbHi n | leBrHdr n |
      leCoefC n | leCoefSh n | leSlStat n | leSlErr n | leSlTx n | leSup n | leFeLim n | leSupStat n |
      leMissCnt n | avEccCeDram n | avFcTlmSel n | avMdlBank n | avFcBr n | avFcBrc n | plLinkStat n |
      plLinkErr n | plLinkOpt n | crOcv n | crPcfg n | crPcap n | crPenergy n | crPstat n | crPlim n |
      crPvolt n | crPsoe n | crPstampA n | crPstampB n | crPerr n | crCell n | fcActive n |
      fcWiring n | dmChCtrl n | dmChCfg n | dmChLimit n | dmChHeadLo n | dmChHeadHi n | dmChCurLo n |
      dmChCurHi n | dmChStat n | dmChDone n | dmChBad n | dmChChain n | dmChErr n => 
    show Reg.ofAddr (_ + _ * n) = _
    exact (ofAddr_indexed rfl (by decide) (of_decide_eq_true h)).trans rfl
  case leOmin n k | leOmax n k | leOinit n k | leInteg n k | leOut n k | leTtLo0 n k | leTtHi0 n k |
      leTtLo1 n k | leTtHi1 n k | leTtSet n k | leBrVal n k | crUnitStat n k | crUnitT n k |
      crUnitCg01 n k | crUnitCg23 n k | cxRwBaseLo n k | cxRwBaseHi n k | cxRwSize n k =>
    obtain ⟨hn, hk⟩ := Bool.and_eq_true_iff.1 h
    show Reg.ofAddr (_ + _ * n + _ * k) = _
    exact (ofAddr_indexed_twice rfl (by decide) (by decide) (of_decide_eq_true hn) (of_decide_eq_true hk)).trans rfl
  all_goals exact (ofAddr_single rfl).trans rfl

/-! ## The file's words -/

/-- Every row lies on words of the register file, below the mailbox. -/
theorem regRows_words : ∀ row ∈ regRows, row.base % 4 = 0 ∧ stridesRest 4 row.strides = 0 ∧
    row.base + stridesRest 0 row.strides < mailBase := by decide +kernel

/-- A register's address is a word of the register file below the mailbox. -/
theorem addr_word_below_mailbox {r : Reg} (h : r.inRange = true) : r.addr % 4 = 0 ∧ r.addr < mailBase := by
  obtain ⟨row, hmem, hat⟩ := List.exists_of_findSome?_eq_some (ofAddr_addr r h)
  obtain ⟨hbase, hrest, htop⟩ := regRows_words row hmem
  obtain ⟨e, he, hmod⟩ := at?_distance hat 4
  obtain ⟨d, hd, heq⟩ := at?_distance hat 0
  obtain rfl : e = 0 := by omega
  have hword : r.addr % 4 = (row.base + 0) % 4 := hmod
  rw [Nat.modEq_zero_iff] at heq
  exact ⟨by omega, by omega⟩

/-- Settles O8: the row of each register, and what holds of every row. -/
theorem everyRegisterHasItsOwnAddress : Obligations.EveryRegisterHasItsOwnAddress := by
  unfold Obligations.EveryRegisterHasItsOwnAddress
  refine ⟨ofAddr_addr, fun r r' h h' he => ?_, fun r h => ?_⟩
  · have := (ofAddr_addr r h).symm.trans (he ▸ ofAddr_addr r' h')
    exact Option.some.inj this
  · obtain ⟨hw, hlt⟩ := addr_word_below_mailbox h
    have hmail : mailBase < regSize := by decide
    exact ⟨by simp only [wordAddr, hw, Bool.and_eq_true, decide_eq_true_eq, beq_self_eq_true, and_true]; omega, by omega⟩

end Sys2Proof.Machine
end

section
/-! PROOFS. Fault records (R401–R410), the checks of a packet (R62), and the judgement of an access (R477, R491, R492). -/

namespace Sys2Proof.Machine

/-! ## A fault's record (R407) -/

/-- A pair that brings no change to fault: it stays in fault, is non-complementary, or is held by an injection. -/
theorem pairQuiet_iff (m : Mach) (s : Nat) (c : FCls) :
    m.pairQuiet s c = true ↔ (s, c) ∈ m.fault.active ∨ (s, c) ∈ m.fault.wiring ∨ m.isForced s c = true := by
  simp [Mach.pairQuiet, or_assoc]

/-- A quiet pair records nothing. -/
theorem raiseKind_of_quiet {m : Mach} {s : Nat} {c : FCls} (k : Nat) (d : Word) (h : m.pairQuiet s c = true) :
    m.raiseKind s c k d = m := by
  rw [Mach.raiseKind, if_pos h]

/-- A quiet pair records nothing of kind 0. -/
theorem raise_of_quiet {m : Mach} {s : Nat} {c : FCls} (d : Word) (h : m.pairQuiet s c = true) : m.raise s c d = m :=
  raiseKind_of_quiet _ _ h

@[simp] theorem countFault_fault (m : Mach) (c : FCls) : (m.countFault c).fault = m.fault := by cases c <;> rfl

@[simp] theorem countFault_ev (m : Mach) (c : FCls) : (m.countFault c).ev = m.ev := by cases c <;> rfl

theorem countFault_wf (m : Mach) (c : FCls) (h : Regs.wf m.regs = true) : Regs.wf (m.countFault c).regs = true := by
  cases c <;> exact wr_wf m _ _ h

@[simp] theorem msix_regs (m : Mach) (v : Nat) : (m.msix v).regs = m.regs := by
  unfold Mach.msix; split <;> [rfl; split <;> rfl]

@[simp] theorem msix_fault (m : Mach) (v : Nat) : (m.msix v).fault = m.fault := by
  unfold Mach.msix; split <;> [rfl; split <;> rfl]

@[simp] theorem msix_ev (m : Mach) (v : Nat) : (m.msix v).ev = m.ev := by
  unfold Mach.msix; split <;> [rfl; split <;> rfl]

/-- The fault vector leaves the list of records alone. -/
theorem signalFault_recs (m : Mach) : m.signalFault.fault.recs = m.fault.recs ∧ m.signalFault.fault.nextSeq = m.fault.nextSeq ∧
    m.signalFault.ev = m.ev := by
  unfold Mach.signalFault
  dsimp only [Mach.orReg, Mach.wr]
  split
  · exact ⟨rfl, rfl, msix_ev m 0⟩
  · exact ⟨rfl, rfl, rfl⟩

/-- The fault vector sets new_record. -/
theorem bit_signalFault (m : Mach) (h : Regs.wf m.regs = true) : bit (m.signalFault.rd .fcStat) 29 = true := by
  unfold Mach.signalFault
  dsimp only
  rw [Mach.orReg, rd_wr_self, bit_or_flag _ (by decide)]
  split
  · rwa [msix_regs]
  · exact h

/-- A record taken in touches neither the fault records nor, outside a freeze, the losses of a freeze. -/
theorem emitCore_of_thawed {m : Mach} (r : EvRec) (h : m.ev.frozen = false) :
    (m.emitCore r).fault = m.fault ∧ (m.emitCore r).ev.lostInFreeze = m.ev.lostInFreeze := by
  unfold Mach.emitCore
  split
  · exact ⟨rfl, rfl⟩
  · rw [if_neg (by simp [h])]
    split <;> exact ⟨rfl, rfl⟩

/-- A record taken in leaves `FC_STAT` alone. -/
theorem rd_fcStat_emitCore (m : Mach) (r : EvRec) : (m.emitCore r).rd .fcStat = m.rd .fcStat := by
  unfold Mach.emitCore Mach.holdRec
  dsimp only
  split
  · exact rd_wr_ne m _ (by decide)
  · split
    · split
      · rfl
      · split <;> exact rd_wr_ne m _ (by decide)
    · split
      · rfl
      · exact rd_wr_ne m _ (by decide)

/-- A record placed outside a freeze stands first and takes the next seq; the recorder loses nothing of a freeze. -/
theorem placeRec_of_thawed {m : Mach} (r : FaultRec) (h : m.ev.frozen = false) :
    (m.placeRec r).fault.recs = r :: m.fault.recs ∧ (m.placeRec r).fault.nextSeq = (m.fault.nextSeq + 1) % 65536 ∧
    (m.placeRec r).ev.lostInFreeze = m.ev.lostInFreeze := by
  unfold Mach.placeRec
  dsimp only
  generalize hk : ({ m with fault := { m.fault with recs := r :: m.fault.recs, nextSeq := (m.fault.nextSeq + 1) % 65536 } } : Mach) = k
  obtain ⟨hrecs, hseq, hev⟩ := signalFault_recs (k.countFault r.cls)
  rw [countFault_fault] at hrecs hseq
  rw [countFault_ev] at hev
  have hfrozen : (k.countFault r.cls).signalFault.ev.frozen = false := by rw [hev, ← hk]; exact h
  generalize hd : (k.countFault r.cls).signalFault = d at *
  obtain ⟨hf, hlost⟩ := emitCore_of_thawed (d.evRec evFault r.cls r.words) hfrozen
  subst hk
  split <;> exact ⟨by rw [hf]; exact hrecs, by rw [hf]; exact hseq, by rw [hlost, hev]⟩

/-- A record placed sets new_record. -/
theorem bit_placeRec {m : Mach} (r : FaultRec) (h : Regs.wf m.regs = true) : bit ((m.placeRec r).rd .fcStat) 29 = true := by
  unfold Mach.placeRec
  dsimp only
  have hstat : ∀ k : Mach, Regs.wf k.regs = true → bit (((k.countFault r.cls).signalFault.emitCore
      ((k.countFault r.cls).signalFault.evRec evFault r.cls r.words)).rd .fcStat) 29 = true := fun k hk => by
    rw [rd_fcStat_emitCore]; exact bit_signalFault _ (countFault_wf k r.cls hk)
  split <;> exact hstat _ h

/-- While the list has room, a record is placed and pushes none out. -/
theorem recordLoop_of_room {m : Mach} (fuel : Nat) (r : FaultRec) (h : (m.placeRec r).fault.recs.length ≤ 256) :
    m.recordLoop fuel r = m.placeRec r := by
  cases fuel with
  | zero => rfl
  | succ fuel => simp only [Mach.recordLoop, if_pos h]

/-- No loss of a freeze adds no record. -/
theorem afterLoss_of_same {a m : Mach} (h : m.ev.lostInFreeze = a.ev.lostInFreeze) : afterLoss a m = m := by
  rw [afterLoss, if_neg]
  rintro ⟨h0, h1, -⟩
  exact h1 (h.trans h0)

/-- While the list has room and the recorder is not frozen, a fault accepted places its record and nothing more. -/
theorem faultAt_of_room {m : Mach} (s : Nat) (c : FCls) (k : Nat) (d : Word) (w : FaultHow) (hroom : m.fault.recs.length < 256)
    (hthaw : m.ev.frozen = false) : m.faultAt s c k d w = m.placeRec (m.newRec s c k d w) := by
  obtain ⟨hrecs, -, hlost⟩ := placeRec_of_thawed (m.newRec s c k d w) hthaw
  rw [Mach.faultAt, recordLoop_of_room _ _ (by rw [hrecs]; simpa using hroom), afterLoss_of_same hlost]

theorem seePair_fault (m : Mach) (p : Nat × FCls) : (m.seePair p).fault.recs = m.fault.recs ∧
    (m.seePair p).fault.nextSeq = m.fault.nextSeq ∧ (m.seePair p).ev = m.ev ∧ (m.seePair p).regs = m.regs ∧
    (m.seePair p).free = m.free ∧ (m.seePair p).time = m.time := by
  unfold Mach.seePair; split <;> exact ⟨rfl, rfl, rfl, rfl, rfl, rfl⟩

/-- A pair that may change records the fault at a free cycle. -/
theorem raiseKind_of_open {m : Mach} {s : Nat} {c : FCls} (k : Nat) (d : Word) (h : m.pairQuiet s c = false) :
    m.raiseKind s c k d =
      (m.seePair (s, c)).take.2.faultAt s c k d ⟨(Config.freeWord m.free).toNat % 1000, false, false⟩ := by
  obtain ⟨-, -, -, -, hfree, -⟩ := seePair_fault m (s, c)
  rw [Mach.raiseKind, if_neg (by simp [h]), ← hfree]
  rfl

/-- The timer of a class looks at the register file only. -/
theorem timerOf_congr {m n : Mach} (h : n.regs = m.regs) (c : FCls) : n.timerOf c = m.timerOf c := by
  cases c <;> simp only [Mach.timerOf, rdField_congr h]

/-- Settles O12: a quiet pair, and `placeRec` of the new record. -/
theorem aFaultWritesTheRecordOfR407 : Obligations.AFaultWritesTheRecordOfR407 := by
  unfold Obligations.AFaultWritesTheRecordOfR407
  refine ⟨fun m s c d h => raise_of_quiet d ((pairQuiet_iff m s c).2 h), fun m s c d hroom hthaw hcan ha hw hf => ?_⟩
  have hquiet : m.pairQuiet s c = false := by simp [Bool.eq_false_iff, pairQuiet_iff, ha, hw, hf]
  obtain ⟨hrecs, hseq, hev, hregs, hfree, htime⟩ := seePair_fault m (s, c)
  obtain ⟨k, hk⟩ : ∃ k, k = (m.seePair (s, c)).take.2 := ⟨_, rfl⟩
  have hkregs : k.regs = m.regs := by rw [hk]; exact hregs
  have hraise : m.raise s c d = k.placeRec (k.newRec s c kindGeneral d ⟨(Config.freeWord m.free).toNat % 1000, false, false⟩) := by
    rw [Mach.raise, raiseKind_of_open _ _ hquiet, ← hk]
    exact faultAt_of_room _ _ _ _ _ (by rw [hk]; simpa [Mach.take, hrecs] using hroom) (by rw [hk]; simpa [Mach.take, hev] using hthaw)
  obtain ⟨h1, h2, -⟩ := placeRec_of_thawed (m := k) (k.newRec s c kindGeneral d ⟨(Config.freeWord m.free).toNat % 1000, false, false⟩)
    (by rw [hk]; simpa [Mach.take, hev] using hthaw)
  have hwf : Regs.wf k.regs = true := by rw [hkregs]; exact ((canonical_iff m).1 hcan).1
  rw [hraise]
  refine ⟨h1.trans ?_, h2.trans ?_, bit_placeRec _ hwf⟩
  · simp only [Mach.newRec, timerOf_congr hkregs, kindGeneral]
    simp [hk, Mach.take, hrecs, hseq, htime]
  · simp [hk, Mach.take, hseq]

/-! ## The checks of a packet (R62) -/

/-- A row that serves its packet: unread it changes nothing, refused it replies. -/
theorem Gives.of_packetRow {c : Instr} {op : Nat} {p : Packet} (hc : ∀ s, exec c s = s.on (fun k => k.servePacket op p)) (hop : op < 256)
    (m : Mach) : (m.mayRead p = false → Gives c m m) ∧
      ∀ st res, m.judges op p (some (st, res)) → Gives c m ((m.hasRead p).reply (m.backTo op p) st res) :=
  ⟨fun h => .of_on hc (servePacket_unread h), fun _ _ h => .of_on hc (servePacket_refused hop h)⟩

/-- The packet rows of the table, each with the opcode and the packet that it serves. -/
def packetRows (p : Packet) : List (Nat × Packet × Instr) :=
  [(ocSetPoint, p, .setPoint p), (ocSetCap, p, .setCap p), (ocLaunchArm, p, .launchArm p), (ocLaunchDisarm, p, .launchDisarm p),
   (ocCfgBegin, p, .cfgBegin p), (ocCfgCommit, p, .cfgCommit p), (ocCfgRollback, p, .cfgRollback p),
   (ocOpSuspend, p, .opSuspend p), (ocOpResume, p, .opResume p), (ocOpCancel, p, .opCancel p), (ocOpQuery, p, .opQuery p),
   (ocAvJobSubmit, p, .avJobSubmit p), (ocModelLoad, p, .modelLoad p), (ocTrainRun, p, .trainRun p),
   (ocCapacitySweep, p, .capacitySweep p), (ocBalanceCampaign, p, .balanceCampaign p), (ocSliceReplace, p, .sliceReplace p),
   (ocQuench, p, .quench p), (ocFaultRead, p, .faultRead p), (ocRecFreeze, fixW4 p true, .recFreeze p),
   (ocRecFreeze, fixW4 p false, .recThaw p), (ocRecRead, p, .recRead p), (ocClaimRelease, p, .claimRelease p),
   (ocGetIdentity, p, .getIdentity p), (ocModuleReset, fixW4 p false, .applicationReset p),
   (ocModuleReset, fixW4 p true, .fullReset p)]

/-- Each packet row serves its packet under its opcode. -/
theorem exec_packetRows (p : Packet) : ∀ x ∈ packetRows p, ∀ s, exec x.2.2 s = s.on (fun k => k.servePacket x.1 x.2.1) := by
  simp only [packetRows, List.forall_mem_cons]
  exact ⟨exec_setPoint p, exec_setCap p, exec_launchArm p, exec_launchDisarm p, exec_cfgBegin p, exec_cfgCommit p,
    exec_cfgRollback p, exec_opSuspend p, exec_opResume p, exec_opCancel p, exec_opQuery p, exec_avJobSubmit p, exec_modelLoad
    p, exec_trainRun p, exec_capacitySweep p, exec_balanceCampaign p, exec_sliceReplace p, exec_quench p, exec_faultRead p,
    exec_recFreeze p, exec_recThaw p, exec_recRead p, exec_claimRelease p, exec_getIdentity p, exec_applicationReset p,
    exec_fullReset p,
    fun _ h => absurd h List.not_mem_nil⟩

theorem packetRows_op_lt (p : Packet) : ∀ x ∈ packetRows p, x.1 < 256 := by
  simp only [packetRows, List.forall_mem_cons]
  decide

/-- The opcode is none that the packet's ring takes. -/
def badOpcode (op : Nat) (p : Packet) : Prop := knownOp op = false ∨ isIsland p.ring = true ∧ islandOp op = false

/-- The third check of R62 fails exactly on such an opcode. -/
theorem badOpcode_iff (op : Nat) (p : Packet) :
    badOpcode op p ↔ (!knownOp op || (isIsland p.ring && !islandOp op)) = true := by
  simp [badOpcode]

theorem packetCheck_badSeq {m : Mach} {op : Nat} {p : Packet} {e : Word} (h : p.seq ≠ e) :
    m.packetCheck op p e = some (stBadSeq, [e]) := by
  simp [Mach.packetCheck, h]

theorem packetCheck_badOpcode {m : Mach} {op : Nat} {p : Packet} (hc : p.cls = ringClass p.ring) (h : badOpcode op p) :
    m.packetCheck op p p.seq = some (stBadOpcode, []) := by
  have hbad := (badOpcode_iff op p).1 h
  simp [Mach.packetCheck, hc, hbad]

theorem packetCheck_notPermitted {m : Mach} {op : Nat} {p : Packet} (hc : p.cls = ringClass p.ring) (h : ¬ badOpcode op p)
    (hcls : p.cls ∉ classesOf op) : m.packetCheck op p p.seq = some (stNotPermitted, []) := by
  rw [badOpcode_iff] at h
  rw [Mach.packetCheck, if_neg (by simp), if_neg (by simp [hc]), if_neg h]
  simp [Mach.classCheck, hcls]

/-- Settles O13: what a packet row gives unread and refused, and the checks in their order. -/
theorem packetChecksOfR62ComeInOrder : Obligations.PacketChecksOfR62ComeInOrder := by
  unfold Obligations.PacketChecksOfR62ComeInOrder
  refine ⟨fun m p x hx => Gives.of_packetRow (exec_packetRows p x hx) (packetRows_op_lt p x hx) m, fun m op p e => ⟨fun h => ?_, ?_, ?_, ?_⟩⟩
  · exact packetCheck_badSeq h
  · rintro rfl hc; exact packetCheck_classMismatch hc
  · rintro rfl hc h; exact packetCheck_badOpcode hc h
  · rintro rfl hc hk hi hcls
    refine packetCheck_notPermitted hc ?_ hcls
    rintro (h | ⟨h1, h2⟩)
    · simp [hk] at h
    · simp [hi h1] at h2

/-- Settles O14: such a packet is served, and fails the third check. -/
theorem anUnknownOpcodeIsAnswered : Obligations.AnUnknownOpcodeIsAnswered := by
  unfold Obligations.AnUnknownOpcodeIsAnswered
  intro m op p hop hbad ht hr hs hc
  have hexec : ∀ s, exec (.badOpcodePacket op p) s = s.on (fun k => k.servePacket op p) := fun s => by
    have hb : (knownOp op && !(isIsland p.ring && !islandOp op)) = false := by
      obtain h | ⟨h1, h2⟩ := hbad
      · simp [h]
      · simp [h1, h2]
    rw [exec_badOpcodePacket, Nat.mod_eq_of_lt hop]
    simp only [hb, Bool.false_eq_true, if_false]
  exact .of_on hexec (servePacket_refused hop ⟨ht, hr, hs ▸ packetCheck_badOpcode hc hbad⟩)

/-! ## The judgement of an access (R477, R491, R492) -/

/-- A class is let through by TK's freedom or by one of its eight windows. -/
theorem covered_iff (m : Mach) (c : Cls) (a len : Nat) (write : Bool) : m.covered c a len write = true ↔
    c = .tk ∨ ∃ q w, winOf c = some q ∧ w < 8 ∧ (m.window q w).2.1 ≠ 0 ∧ (m.window q w).1 ≤ a ∧
      a + len ≤ (m.window q w).1 + (m.window q w).2.1 ∧ (if write then (m.window q w).2.2.2 else (m.window q w).2.2.1) = true := by
  have hwin : ∀ q, winOf c = some q → c ≠ .tk := by rintro q h rfl; simp [winOf] at h
  cases hq : winOf c with
  | none =>
    have htk : c = .tk := by cases c <;> simp_all [winOf]
    simp [Mach.covered, htk, winOf]
  | some q => simp [Mach.covered, hq, hwin q hq, and_assoc]

/-- Settles O30: the three branches of the judgement. -/
theorem anAccessNeedsAWindowAndNoProtection : Obligations.AnAccessNeedsAWindowAndNoProtection := by
  unfold Obligations.AnAccessNeedsAWindowAndNoProtection
  intro m c a len write
  rw [← covered_iff]
  cases hd : m.decoded a len <;> cases hc : m.covered c a len write <;> cases hp : m.protectedFrom c a len write <;>
    simp [Mach.judge, hd, hc, hp]

end Sys2Proof.Machine
end

section
/-! PROOFS. Reaching a register: writes by their access codes (R12, R13, R80, R494, R495), reads with their effects (R10, R37, R497),
the ring registers (R55–R57) and the status entries (R57, R61). -/

namespace Sys2Proof.Machine

/-- A word under the mask of all its bits is itself. -/
@[simp] theorem and_full (w : Word) : w &&& 4294967295#32 = w := BitVec.and_allOnes

/-! ## Writes that land -/

/-- A write that lands is the register's own write. -/
theorem busWrite_of_lands {m : Mach} {c : Cls} {r : Reg} (v : Word) (h : m.lands c r true) :
    m.busWrite c r.addr v = m.writeReg c r v := by
  obtain ⟨hr, hd, hmay, hab⟩ := h
  obtain ⟨hword, hmail⟩ := addr_word_below_mailbox hr
  have hw : wordAddr r.addr = true := by
    have : mailBase < regSize := by decide
    simp only [wordAddr, hword, Bool.and_eq_true, decide_eq_true_eq, beq_self_eq_true, and_true]; omega
  rw [Mach.busWrite, if_neg (by simp [hw, hd]), if_neg (by simp [hmay]), if_neg (by simp [hab]), if_neg (by omega), ofAddr_addr r hr]

/-- A landed write of a named register is the register's own write. -/
theorem writeNamed_of_lands {m : Mach} {c : Cls} {r : Reg} (v : Word) (h : m.lands c r true) :
    m.writeNamed c r v = m.writeReg c r v := by
  rw [Mach.writeNamed, if_pos h.1, busWrite_of_lands v h]

/-- A row that writes a named register gives what the register's own write gives, where it lands. -/
theorem Gives.of_landed {i : Instr} {m n : Mach} {c : Cls} {r : Reg} {v : Word} (hi : ∀ s, exec i s = s.on (fun k => k.writeNamed c r v))
    (h : m.lands c r true) (e : m.writeReg c r v = n) : Gives i m n :=
  .of_on hi ((writeNamed_of_lands v h).trans e)

/-- A row that writes at an address gives what the register's own write gives, where it lands. -/
theorem Gives.of_landedAt {i : Instr} {m n : Mach} {c : Cls} {r : Reg} {v : Word}
    (hi : ∀ s, exec i s = s.on (fun k => k.busWrite c r.addr v))
    (h : m.lands c r true) (e : m.writeReg c r v = n) : Gives i m n :=
  .of_on hi ((busWrite_of_lands v h).trans e)

/-! ## Writes that do not land (R10, R494, R495, R497) -/

theorem busWrite_dark {m : Mach} {c : Cls} {a : Nat} (v : Word) (h : wordAddr a = false ∨ m.dark c a = true) : m.busWrite c a v = m := by
  rw [Mach.busWrite, if_pos (by simpa using h)]

/-- A write the windows do not permit: the denial, the bus error of a firmware core, and the fault of a window register. -/
theorem busWrite_denied {m : Mach} {c : Cls} {a : Nat} (v : Word) (hw : wordAddr a = true) (hd : m.dark c a = false)
    (hm : m.regMay c a true = false) : m.busWrite c a v =
      let k := m.deny c a true (decide (c ≠ .peer))
      let k : Mach := if c = .fw then { k with cxl.lastUr := true } else k
      if isWindowReg a && decide (c = .host ∨ c = .peer) then k.accessFault c a else k := by
  rw [Mach.busWrite, if_neg (by simp [hw, hd]), if_pos (by simp [hm])]

theorem busWrite_absent {m : Mach} {c : Cls} {a : Nat} (v : Word) (hw : wordAddr a = true) (hd : m.dark c a = false)
    (hm : m.regMay c a true = true) (ha : m.absentAt a = true) : m.busWrite c a v = m.accessFault c a := by
  rw [Mach.busWrite, if_neg (by simp [hw, hd]), if_neg (by simp [hm]), if_pos ha]

/-! ## Access codes (R12, R13, R80) -/

/-- A register with ST fields has no behaviour of its own: its write takes the codes and is staged. -/
theorem writeReg_of_stMask {m : Mach} {c : Cls} {r : Reg} (v : Word) (h : r.stMask ≠ 0) :
    m.writeReg c r v = (m.writePlain r v).stageWrite c r v := by
  have hst : (r.stMask != 0) = true := by simpa using h
  unfold Mach.writeReg
  split
  case h_30 => rw [if_pos hst]
  all_goals exact absurd rfl h

theorem writePlain_of_noCodes {m : Mach} {r : Reg} (v : Word) (hrw : r.rwMask = 0) (hw1c : r.w1cMask = 0) : m.writePlain r v = m := by
  rw [Mach.writePlain, if_pos ⟨hrw, hw1c⟩]

/-- RW bits take the value written, W1C bits written 1 clear. -/
theorem writePlain_of_codes {m : Mach} {r : Reg} (v : Word) (h : ¬ (r.rwMask = 0 ∧ r.w1cMask = 0)) : m.writePlain r v =
    m.wr r (((m.rd r &&& ~~~r.rwMask) ||| (v &&& r.rwMask)) &&& ~~~(v &&& r.w1cMask)) := by
  rw [Mach.writePlain, if_neg h]

/-- A class without an OPEN transaction of its own stages nothing. -/
theorem stageWrite_refused {m : Mach} {c : Cls} (r : Reg) (v : Word) (h : m.txn.state ≠ .opened ∨ m.txn.owner ≠ c) :
    m.stageWrite c r v = m.accessFault c r.addr := by
  rw [Mach.stageWrite, if_pos (by simpa using h)]

/-- The owner of an OPEN transaction stages a first write of a register, while there is room. -/
theorem stageWrite_first {m : Mach} {c : Cls} (r : Reg) (v : Word) (hs : m.txn.state = .opened) (ho : m.txn.owner = c)
    (hall : m.txn.staged.all (fun w => w.addr != r.addr) = true) : m.stageWrite c r v =
      if 16384 ≤ m.txn.staged.length then { m with txn := { m.txn with overflow := true } }
      else { m with txn := { m.txn with staged := m.txn.staged ++ [⟨r.addr, v, m.rd r⟩] } } := by
  have hany : (m.txn.staged.any (fun w => w.addr == r.addr)) = false := by
    simpa [List.all_eq_true, List.any_eq_false] using hall
  rw [Mach.stageWrite, if_neg (by simp [hs, ho]), if_neg (by simp [hany])]

/-- An applied word gives its register the ST bits. -/
theorem rd_applyWord {m : Mach} {r : Reg} {w : Staged} (hr : Reg.ofAddr w.addr = some r) (h : Regs.wf m.regs = true) :
    (m.applyWord w).rd r = stMerge r (m.rd r) w.value := by
  rw [Mach.applyWord, hr]
  exact rd_wr_self m r _ h

/-- Settles O28, by the branches of `busWrite` and of the registers' own writes. -/
theorem registerWritesFollowTheirAccessCodes : Obligations.RegisterWritesFollowTheirAccessCodes := by
  unfold Obligations.RegisterWritesFollowTheirAccessCodes
  refine ⟨fun m c a v h => .of_on (exec_registerWrite c a v) (busWrite_dark v h),
    fun m c a v hw hd hm => ⟨fun hc hwin => ?_, fun hc => ?_⟩,
    fun m c a v hw hd hm hwin hc => ?_, fun m c a v hw hd hm ha => .of_on (exec_registerWrite c a v) (busWrite_absent v hw hd hm ha),
    fun m c v h => ?_, fun m c v h => ?_, fun m c r v h hst hrw hw1c hown => ?_,
    fun m c r v h hst hrw hw1c hs ho hall => ⟨fun hroom => ?_, fun hfull => ?_⟩,
    fun m r w hr hcan => rd_applyWord hr ((canonical_iff m).1 hcan).1⟩
  · refine .of_on (exec_registerWrite c a v) ((busWrite_denied v hw hd hm).trans ?_)
    have hfault : (isWindowReg a && decide (c = .host ∨ c = .peer)) = false := by
      obtain h | rfl := hwin
      · simp [h]
      · simp
    simp only [if_neg hc, hfault, Bool.false_eq_true, if_false]
  · subst hc
    refine .of_on (exec_registerWrite .fw a v) ((busWrite_denied v hw hd hm).trans ?_)
    simp
  · refine .of_on (exec_registerWrite c a v) ((busWrite_denied v hw hd hm).trans ?_)
    have hfw : c ≠ .fw := by rintro rfl; simp at hc
    simp only [if_neg hfw, hwin, hc, decide_true, Bool.and_true, if_true]
    rfl
  · refine .of_landedAt (exec_registerWrite c _ v) h ?_
    have hcodes : Reg.rwMask .syReadyChg = 0 ∧ Reg.w1cMask .syReadyChg = 0xFFFFFFFF := ⟨rfl, rfl⟩
    show m.writePlain .syReadyChg v = _
    rw [writePlain_of_codes v (by decide), hcodes.1, hcodes.2]
    simp
  · refine .of_landedAt (exec_registerWrite c _ v) h ?_
    have hcode : Reg.w1cMask .idUpdLen = 0 := rfl
    show m.writePlain .idUpdLen v = _
    rw [writePlain_of_codes v (by decide), hcode]
    simp
  · refine .of_landedAt (exec_stagedWrite c _ v) h ?_
    rw [writeReg_of_stMask v hst, writePlain_of_noCodes v hrw hw1c, stageWrite_refused r v hown]
    rfl
  · refine .of_landedAt (exec_stagedWrite c _ v) h ?_
    rw [writeReg_of_stMask v hst, writePlain_of_noCodes v hrw hw1c, stageWrite_first r v hs ho hall, if_neg (by omega)]
  · refine .of_landedAt (exec_stagedWrite c _ v) h ?_
    rw [writeReg_of_stMask v hst, writePlain_of_noCodes v hrw hw1c, stageWrite_first r v hs ho hall, if_pos hfull]

/-! ## Reads (R10, R12, R37, R494, R497) -/

/-- A landed read answers the value and has the register's effect. -/
theorem busRead_of_lands {m : Mach} {c : Cls} {r : Reg} (h : m.lands c r false) (hpos : r ≠ .syFramePos) :
    m.busRead c r.addr = (m.readEffect r).answer [m.regValue c r] false false := by
  obtain ⟨hr, hd, hmay, hab⟩ := h
  obtain ⟨hword, hmail⟩ := addr_word_below_mailbox hr
  have hw : wordAddr r.addr = true := by
    have : mailBase < regSize := by decide
    simp only [wordAddr, hword, Bool.and_eq_true, decide_eq_true_eq, beq_self_eq_true, and_true]; omega
  have hread : m.readAt c r.addr = (m.regValue c r, m.readEffect r) := by
    rw [Mach.readAt, if_neg (by omega), ofAddr_addr r hr]
    cases r <;> first | rfl | exact absurd rfl hpos
  rw [Mach.busRead, if_neg (by simp [hw]), if_neg (by simp [hd]), if_neg (by simp [hmay]), if_neg (by simp [hab]), hread]

theorem busRead_dark {m : Mach} {c : Cls} {a : Nat} (hw : wordAddr a = true) (hd : m.dark c a = true) :
    m.busRead c a = m.answer [0] false false := by
  rw [Mach.busRead, if_neg (by simp [hw]), if_pos hd]

theorem busRead_denied {m : Mach} {c : Cls} {a : Nat} (hw : wordAddr a = true) (hd : m.dark c a = false) (hm : m.regMay c a false = false) :
    m.busRead c a = (m.deny c a false (decide (c ≠ .peer))).answer [] false true := by
  rw [Mach.busRead, if_neg (by simp [hw]), if_neg (by simp [hd]), if_pos (by simp [hm])]

theorem busRead_absent {m : Mach} {c : Cls} {a : Nat} (hw : wordAddr a = true) (hd : m.dark c a = false) (hm : m.regMay c a false = true)
    (ha : m.absentAt a = true) : m.busRead c a = (m.accessFault c a).answer [0] false false := by
  rw [Mach.busRead, if_neg (by simp [hw]), if_neg (by simp [hd]), if_neg (by simp [hm]), if_pos ha]

/-- A register without ST fields and write-only bits reads as it shows. -/
theorem regValue_of_plain {m : Mach} {r : Reg} (c : Cls) (hst : r.stMask = 0) (hwo : r.woMask = 0) : m.regValue c r = m.view r := by
  simp [Mach.regValue, hst, hwo]

/-- Settles O29, by the branches of `busRead` and the latches. -/
theorem registerReadsAnswerClearAndLatch : Obligations.RegisterReadsAnswerClearAndLatch := by
  unfold Obligations.RegisterReadsAnswerClearAndLatch
  refine ⟨fun m c h => ?_, fun m c h => ?_, fun m c a hw hd hm ha => ?_, fun m c a hw hd => ?_, fun m c a hw hd hm => ?_⟩
  · refine .of_on (exec_latchingRead c _) ((busRead_of_lands h (by decide)).trans ?_)
    rw [regValue_of_plain c rfl rfl]
    rfl
  · refine ⟨_, .of_on (exec_readClear c _) (busRead_of_lands h (by decide)), rfl, ?_, rfl, rfl⟩
    rw [regValue_of_plain c rfl rfl]
    rfl
  · exact ⟨_, rfl, .of_on (exec_absentUnitRead c a) (busRead_absent hw hd hm ha)⟩
  · exact .of_on (exec_readClear c a) (busRead_dark hw hd)
  · exact ⟨_, rfl, .of_on (exec_readClear c a) (busRead_denied hw hd hm)⟩

/-! ## Ring registers (R55–R57) -/

theorem writeCmdTail_below {m : Mach} {n : Nat} {v : Word} (h : field v 11 0 < m.ringSize n) :
    m.writeCmdTail n v = m.wr (.cxCmdTail n) (BitVec.ofNat 32 (field v 11 0)) := by
  rw [Mach.writeCmdTail, if_pos h]

theorem writeCmdTail_above {m : Mach} {n : Nat} {v : Word} (h : m.ringSize n ≤ field v 11 0) : m.writeCmdTail n v = m := by
  rw [Mach.writeCmdTail, if_neg (by omega)]

theorem writeStsHead_below {m : Mach} {n : Nat} {v : Word} (h : field v 11 0 < m.ringSize n) :
    m.writeStsHead n v = (m.wr (.cxStsHead n) (BitVec.ofNat 32 (field v 11 0))).drainAll n := by
  rw [Mach.writeStsHead, if_pos h]

theorem writeStsHead_above {m : Mach} {n : Nat} {v : Word} (h : m.ringSize n ≤ field v 11 0) : m.writeStsHead n v = m := by
  rw [Mach.writeStsHead, if_neg (by omega)]

/-- A bit set is set. -/
theorem bit_setBit_self (w : Word) {i : Nat} (h : i < 32) : bit (setBit w i) i = true := bit_or_flag w h

/-- A field below a bit does not see that bit set. -/
theorem field_setBit (w : Word) {hi lo i : Nat} (h : hi < i) : field (setBit w i) hi lo = field w hi lo := by
  refine Nat.eq_of_testBit_eq fun j => ?_
  rw [testBit_field, testBit_field]
  by_cases hj : j < hi + 1 - lo
  · rw [bit_setBit_ne w (by omega)]
  · simp [hj]

/-- Enabling a disabled general ring of a size it may name takes size and irq_en and starts the ring anew. -/
theorem writeRingCtrl_enables {m : Mach} {n : Nat} {v : Word} (hi : isIsland n = false) (he : m.ringEn n = false) (hv : bit v 31 = true)
    (h4 : 4 ≤ field v 3 0) (h12 : field v 3 0 ≤ 12) : m.writeRingCtrl n v = (m.wr (.cxCmdCtrl n)
      (setField (putBit (putBit (m.rd (.cxCmdCtrl n)) 31 true) 30 (bit v 30)) 3 0 (field v 3 0))).enableRing n := by
  have hw : bit (m.rd (.cxCmdCtrl n)) 31 = false := he
  simp [Mach.writeRingCtrl, hi, hw, hv, Nat.not_lt.2 h4, Nat.not_lt.2 h12]

/-- What each step of a fold keeps, the fold keeps. -/
theorem foldl_keeps {α β : Type} (g : Mach → β) {f : Mach → α → Mach} (h : ∀ m x, g (f m x) = g m) :
    ∀ (l : List α) (m : Mach), g (l.foldl f m) = g m
  | [], _ => rfl
  | x :: l, m => by rw [List.foldl_cons, foldl_keeps g h l, h]

@[simp] theorem checkRead_rings (m : Mach) (a len : Nat) : (m.checkRead a len).rings = m.rings := by
  refine foldl_keeps Mach.rings (fun k x => ?_) _ m
  split
  · exact raise_rings _ _ _ _
  · rfl

@[simp] theorem checkReads_rings (m : Mach) (rs : List (Nat × Nat)) : (m.checkReads rs).rings = m.rings :=
  foldl_keeps (α := Nat × Nat) Mach.rings (fun k r => checkRead_rings k r.1 r.2) rs m

@[simp] theorem setBytes_rings : ∀ (bs : List Byte) (m : Mach) (a : Nat), (m.setBytes a bs).rings = m.rings
  | [], _, _ => rfl
  | b :: bs, m, a => by rw [Mach.setBytes, setBytes_rings bs]; rfl

theorem storeInLine_rings (m : Mach) (a : Nat) (bs : List Byte) : (m.storeInLine a bs).1.rings = m.rings := by
  unfold Mach.storeInLine
  dsimp only
  split
  · rfl
  · split
    · exact setBytes_rings bs m a
    · rfl

theorem store_rings : ∀ (fuel : Nat) (m : Mach) (a : Nat) (bs : List Byte), (m.store a fuel bs).1.rings = m.rings
  | 0, _, _, _ => by rw [Mach.store]
  | _ + 1, _, _, [] => by rw [Mach.store]; exact Nat.succ_ne_zero _
  | fuel + 1, m, a, b :: bs => by
    rw [Mach.store]
    · exact (store_rings fuel _ _ _).trans (storeInLine_rings _ _ _)
    · simp

/-- Writing the lines of a ring changes no ring's state. -/
theorem putRing_rings (m : Mach) (a : Nat) (bs : List Byte) : (m.putRing a bs).rings = m.rings := by
  unfold Mach.putRing
  split
  · exact (store_rings _ _ _ _).trans (checkReads_rings _ _)
  · rfl

theorem clearPhases_rings : ∀ (k : Nat) (m : Mach) (a : Nat), (m.clearPhases a k).rings = m.rings
  | 0, _, _ => rfl
  | k + 1, m, a => by rw [Mach.clearPhases, clearPhases_rings k, putRing_rings]

/-- A ring that is enabled holds and owes nothing. -/
theorem ring_enableRing (m : Mach) {n : Nat} (h : n < m.rings.length) : (m.enableRing n).ring n =
    { m.ring n with passOdd := true, held := [], owing := 0, rdownWait := false } := by
  rw [Mach.enableRing]
  dsimp only
  rw [ring_setRing _ _ _ (by rw [clearPhases_rings]; exact h), Mach.ring, clearPhases_rings]
  rfl

/-- Settles O25, by the three writes. -/
theorem ringRegistersTakeTheirWrites : Obligations.RingRegistersTakeTheirWrites := by
  unfold Obligations.RingRegistersTakeTheirWrites
  refine ⟨fun m c n v h => ⟨fun hlt => ?_, fun hge => ?_⟩, fun m c n v h => ⟨fun hlt => ?_, fun hge => ?_⟩,
    fun m c n v h hi he h4 h12 => ?_, fun m n h => ?_, fun m c n v h => ?_⟩
  · exact .of_landed (exec_ringDoorbell c n v) h (writeCmdTail_below hlt)
  · exact .of_landed (exec_ringDoorbell c n v) h (writeCmdTail_above hge)
  · exact .of_landed (exec_statusHeadWrite c n v) h (writeStsHead_below hlt)
  · exact .of_landed (exec_statusHeadWrite c n v) h (writeStsHead_above hge)
  · refine .of_landed (exec_ringEnable c n v) h ?_
    have hw := writeRingCtrl_enables (v := setBit v 31) hi he (bit_setBit_self v (by decide)) (by rwa [field_setBit v (by decide)])
      (by rwa [field_setBit v (by decide)])
    rw [field_setBit v (by decide), bit_setBit_ne v (by decide)] at hw
    exact hw
  · rw [ring_enableRing m h]; exact ⟨rfl, rfl, rfl⟩
  · exact .of_on (exec_ringDoorbell c n v) (writeNamed_outside v h)

/-! ## Status entries (R57, R61) -/

/-- A reply for an enabled ring in the epoch of its command goes behind what the ring holds. -/
theorem post_enabled {m : Mach} {e : StsEntry} (h : m.ringEn e.rt.ring = true) (he : (m.ring e.rt.ring).epoch = e.rt.epoch) :
    m.post e = (m.setRing e.rt.ring (fun r => { r with held := r.held ++ [e] })).drainAll e.rt.ring := by
  rw [Mach.post, if_neg (by simp [h, he])]

/-- RdOwnNoData writes the entry that waited for it, then those behind it. -/
theorem rdownDone_waiting {m : Mach} {n : Nat} {e : StsEntry} {rest : List StsEntry} (hw : (m.ring n).rdownWait = true)
    (hh : (m.ring n).held = e :: rest) : m.rdownDone n =
      ((m.setRing n (fun r => { r with held := rest, rdownWait := false })).writeEntry n e).drainAll n := by
  simp only [Mach.rdownDone, hw, hh]

theorem rdownDone_idle {m : Mach} {n : Nat} (hw : (m.ring n).rdownWait = false) : m.rdownDone n = m := by
  simp only [Mach.rdownDone, hw]

/-- Settles O27, by the posting and by RdOwnNoData; the words of an entry one by one. -/
theorem statusEntriesGoOutInOrder : Obligations.StatusEntriesGoOutInOrder := by
  unfold Obligations.StatusEntriesGoOutInOrder
  refine ⟨fun m n tag op st seq res => ⟨fun h => ?_, fun h => ?_⟩, fun m n e rest hw hh => ?_, fun m n hw => ?_, fun e ph now => ?_⟩
  · exact .of_on (exec_statusPost n tag op st (seq, res)) (post_enabled h rfl)
  · exact .of_on (exec_statusPost n tag op st (seq, res)) (post_dropped (.inl h))
  · exact .of_on (exec_rdownNodata n) (rdownDone_waiting hw hh)
  · exact .of_on (exec_rdownNodata n) (rdownDone_idle hw)
  · refine ⟨rfl, rfl, rfl, rfl, rfl, fun i hi => ?_⟩
    interval_cases i <;> rfl

end Sys2Proof.Machine
end

section
/-! PROOFS. The fault collector: changes of pairs (R401–R408), its registers and the decision on quench (R404, R411–R419), and
injection (R422). -/

namespace Sys2Proof.Machine

/-! ## Fields of words put together -/

theorem bit_place (v lo j : Nat) : bit (place v lo) j = (decide (j < 32) && decide (lo ≤ j) && v.testBit (j - lo)) := by
  rw [bit, place, BitVec.getLsbD_ofNat, Nat.testBit_shiftLeft, Bool.and_assoc]

theorem bit_or (a b : Word) (j : Nat) : bit (a ||| b) j = (bit a j || bit b j) := BitVec.getLsbD_or

theorem field_or (a b : Word) (hi lo : Nat) : field (a ||| b) hi lo = field a hi lo ||| field b hi lo := by
  refine Nat.eq_of_testBit_eq fun j => ?_
  rw [Nat.testBit_or, testBit_field, testBit_field, testBit_field, bit_or, Bool.and_or_distrib_left]

/-- A number placed in a field that holds it reads back. -/
theorem field_place_self {v hi lo : Nat} (hhi : hi < 32) (hv : v < 2 ^ (hi + 1 - lo)) : field (place v lo) hi lo = v := by
  refine Nat.eq_of_testBit_eq fun j => ?_
  rw [testBit_field, bit_place, Nat.add_sub_cancel_left]
  by_cases hj : j < hi + 1 - lo
  · have h32 : lo + j < 32 := by omega
    simp [hj, h32]
  · have hz : v.testBit j = false := Nat.testBit_lt_two_pow (lt_of_lt_of_le hv (Nat.pow_le_pow_right (by decide) (by omega)))
    simp [hj, hz]

/-- A number placed above a field leaves it 0. -/
theorem field_place_above {v at' hi lo : Nat} (h : hi < at') : field (place v at') hi lo = 0 := by
  refine Nat.eq_of_testBit_eq fun j => ?_
  rw [testBit_field, bit_place, Nat.zero_testBit]
  by_cases hj : j < hi + 1 - lo
  · have : ¬ at' ≤ lo + j := by omega
    simp [this]
  · simp [hj]

/-- A number of `k` bits placed below a field leaves it 0. -/
theorem field_place_below {v k at' hi lo : Nat} (hv : v < 2 ^ k) (h : at' + k ≤ lo) : field (place v at') hi lo = 0 := by
  refine Nat.eq_of_testBit_eq fun j => ?_
  have hz : v.testBit (lo + j - at') = false :=
    Nat.testBit_lt_two_pow (lt_of_lt_of_le hv (Nat.pow_le_pow_right (by decide) (by omega)))
  rw [testBit_field, bit_place, Nat.zero_testBit, hz, Bool.and_false, Bool.and_false]

/-! ## Changes of pairs (R401–R408) -/

/-- A pair seen complementary stays as it was in the lists of the collector. -/
@[simp] theorem seePair_active (m : Mach) (p : Nat × FCls) : (m.seePair p).fault.active = m.fault.active := by
  unfold Mach.seePair; split <;> rfl

/-- A change of a pair that is present, wired and free is accepted after the pair is seen complementary. -/
theorem acceptChange_of_free {m : Mach} {x : PairChange} (cy : Nat) (hp : m.pairPresent x.source x.cls = true)
    (hw : m.fault.wiring.contains (x.source, x.cls) = false) (hf : m.isForced x.source x.cls = false) : m.acceptChange cy x =
      if x.toFault then
        (if m.fault.active.contains (x.source, x.cls) then m.seePair (x.source, x.cls)
         else ((m.seePair (x.source, x.cls)).setActive (x.source, x.cls) true).faultAt x.source x.cls x.kind x.detail ⟨cy, false, false⟩)
      else (m.seePair (x.source, x.cls)).setActive (x.source, x.cls) false := by
  rw [Mach.acceptChange]
  dsimp only
  rw [if_neg (by rw [hp, hw, hf]; decide), seePair_active]
  cases x.toFault <;> rfl

theorem acceptChange_absent {m : Mach} {x : PairChange} (cy : Nat) (hp : m.pairPresent x.source x.cls = false) : m.acceptChange cy x = m := by
  rw [Mach.acceptChange]
  dsimp only
  rw [if_pos (by rw [hp]; rfl)]

/-- Settles O31, by the branches of an accepted change and of the wiring rows. -/
theorem theCollectorRecordsPairChanges : Obligations.TheCollectorRecordsPairChanges := by
  unfold Obligations.TheCollectorRecordsPairChanges
  refine ⟨fun m x cy hp hw hf => ⟨fun ht ha => ?_, fun ht ha => ?_, fun ht => ?_⟩, fun m x cy hp => ?_, fun m s c cy hm hw hf => ?_,
    fun m xs cy => .of_on (exec_faultPairChange xs cy) rfl, fun m s c cy h => ?_, fun m s c f k cy d hw hf => ?_, fun m off => ?_⟩
  · refine .of_on (exec_faultPairChange [x] cy) ((acceptChange_of_free cy hp hw hf).trans ?_)
    rw [if_pos ht, if_neg (by simpa using ha)]
  · refine .of_on (exec_faultPairChange [x] cy) ((acceptChange_of_free cy hp hw hf).trans ?_)
    rw [if_pos ht, if_pos ha]
  · refine .of_on (exec_faultPairChange [x] cy) ((acceptChange_of_free cy hp hw hf).trans ?_)
    rw [if_neg (by simp [ht])]
  · exact .of_on (exec_faultPairChange [x] cy) (acceptChange_absent cy hp)
  · refine .of_on (exec_pairNoncomplementary s c cy) (if_neg ?_)
    rw [hm, hw, hf]; decide
  · refine .of_on (exec_pairNoncomplementary s c cy) (if_pos ?_)
    simpa [or_assoc] using h
  · refine .of_on (exec_pairWiringClear s c f k d cy) (if_neg ?_)
    rw [hw, hf]; decide
  · exact ⟨_, rfl, .of_on (exec_collectorParityError off) rfl⟩

/-! ## The registers of the collector (R404, R411, R418) -/

/-- No one but HOST and PEER is kept out of the collector's registers. -/
theorem not_outer_of_fw_tk {c : Cls} (h : c = .fw ∨ c = .tk) : ¬ (c = .host ∨ c = .peer) := by
  obtain rfl | rfl := h <;> decide

theorem releaseStatus_noQuench {m : Mach} (h : m.fault.quench.active = false) : m.releaseStatus = stBadState := by
  rw [Mach.releaseStatus, if_pos (by simp [h])]

theorem releaseStatus_locked {m : Mach} (h : m.fault.quench.active = true) (hc : m.fault.quench.cause = .collector) :
    m.releaseStatus = stQuenchLocked := by
  rw [Mach.releaseStatus, if_neg (by simp [h]), if_pos hc]

theorem releaseStatus_active {m : Mach} (h : m.fault.quench.active = true) (hc : m.fault.quench.cause ≠ .collector)
    (hg : (m.fault.active ++ m.fault.wiring).any (fun p => p.2.grave) = true) : m.releaseStatus = stFaultActive := by
  rw [Mach.releaseStatus, if_neg (by simp [h]), if_neg hc, if_pos hg]

theorem decideRelease_idle {m : Mach} (h : m.fault.release = none ∨ m.fault.relNew = true) : m.decideRelease = m := by
  rw [Mach.decideRelease, if_pos (by simpa using h)]

/-! ## Escalation and the end of quench (R410–R419) -/

@[simp] theorem brakeRecord_keeps (m : Mach) (on : Bool) (v : SpSlot) : (m.brakeRecord on v).fault.quench = m.fault.quench ∧
    (m.brakeRecord on v).bel = m.bel ∧ (m.brakeRecord on v).eng.loops = m.eng.loops :=
  ⟨emit_quench _ _ _ _, emit_bel _ _ _ _, emit_loops _ _ _ _⟩

/-- The brake after quench touches of the dispatch only the brake's own state. -/
theorem brakeAfterQuench_keeps (m : Mach) : m.brakeAfterQuench.fault.quench = m.fault.quench ∧
    m.brakeAfterQuench.bel.snap.g = m.bel.snap.g ∧ m.brakeAfterQuench.bel.snap.v = m.bel.snap.v ∧
    m.brakeAfterQuench.eng.loops = m.eng.loops := by
  unfold Mach.brakeAfterQuench
  dsimp only
  split
  · exact ⟨rfl, rfl, rfl, rfl⟩
  · split
    · simp
    · split
      · simp
      · exact ⟨rfl, rfl, rfl, rfl⟩

/-- The lists that wait, empty, stay as they are. -/
theorem setPushed_self {m : Mach} {l : List FaultRec} (h : m.fault.pushed = l) : { m with fault.pushed := l } = m := by subst h; rfl

theorem setQuenchCmds_self {m : Mach} {l : List (RTo × FaultRec)} (h : m.fault.quenchCmds = l) : { m with fault.quenchCmds := l } = m := by
  subst h; rfl

/-- Without a waiting QUENCH command the commands cause nothing. -/
theorem commandCauses_none {m : Mach} (h : m.fault.quenchCmds = []) : m.commandCauses = m := by
  simp only [Mach.commandCauses, h, List.filter_nil, List.foldl_nil, setQuenchCmds_self h, ite_self]

/-- Nothing due: nothing is decided. -/
theorem quenchCauses_none {m : Mach} (hd : m.dueRecs = []) (hp : m.fault.pushed = []) (hpar : m.fault.parity = none)
    (hq : m.fault.quenchCmds = []) : m.quenchCauses = m := by
  have hgrave : m.graveCauses [] = m := by simp [Mach.graveCauses, hpar, oldestOf]
  simp only [Mach.quenchCauses, hd, hp, List.filter_nil, List.reverse_nil, List.foldl_nil, setPushed_self hp, List.append_nil, hgrave,
    commandCauses_none hq]
  simp [Mach.cellCorr]

/-- One grave record due outside quench enters quench as its cause. -/
theorem quenchCauses_one {m : Mach} {r : FaultRec} (hd : m.dueRecs = [r]) (hg : r.cls.grave = true) (hp : m.fault.pushed = [])
    (hpar : m.fault.parity = none) (hq : m.fault.quenchCmds = []) (hact : m.fault.quench.active = false) :
    m.quenchCauses = m.enterQuench .escalation r := by
  have hcorr : r.cls ≠ .corr := by rintro h; rw [h] at hg; simp [FCls.grave] at hg
  have hgrave : m.graveCauses [r] = m.enterQuench .escalation r := by simp [Mach.graveCauses, hpar, hact, oldestOf]
  have hcmds : (m.enterQuench .escalation r).fault.quenchCmds = [] := by simpa [Mach.enterQuench, Mach.setRec, Mach.suspendCellOps] using hq
  simp only [Mach.quenchCauses, hd, hp, List.filter_nil, List.filter_cons, hcorr, decide_false, Bool.false_eq_true, if_false, hg, if_true,
    List.reverse_nil, List.foldl_nil, setPushed_self hp, List.append_nil, hgrave, commandCauses_none hcmds]
  simp [Mach.cellCorr, hcorr]

theorem enterQuench_escalation_quench (m : Mach) (r : FaultRec) : (m.enterQuench .escalation r).fault.quench =
    ⟨true, decide (r.kind = kindCell), .escalation, 0xF, r.source, r.cls, r.seq, m.time.count, false, false⟩ := by
  simp [Mach.enterQuench, Mach.setRec, Mach.suspendCellOps]

/-- Settles O32, register by register, then the decision of a strike and the end of quench. -/
theorem faultRegistersAcknowledgeRaiseAndRelease : Obligations.FaultRegistersAcknowledgeRaiseAndRelease := by
  unfold Obligations.FaultRegistersAcknowledgeRaiseAndRelease
  refine ⟨fun m c v h hc => ?_, fun m v h => ?_, fun m c v h hc hk hs => ?_, fun m c v h hc hbad => ?_, fun m v h => ?_, fun m c v h hc => ?_,
    fun m h => .of_on exec_releaseDecision (decideRelease_idle h), fun m hr hn => ?_,
    fun m => ⟨releaseStatus_noQuench, releaseStatus_locked, releaseStatus_active⟩, fun m ha hl hn => ?_, fun m h => ?_,
    fun m r hd hg hp hpar hq hact => ?_, fun m r => enterQuench_escalation_quench m r, fun m hd hp hpar hq => ?_⟩
  · exact .of_landed (exec_fcAck c v) h (if_neg (not_outer_of_fw_tk hc))
  · exact .of_landed (exec_fcAck .host v) h rfl
  · refine .of_landed (exec_fcRaise c v) h ((if_neg (not_outer_of_fw_tk hc)).trans ?_)
    rw [if_neg (Nat.not_le.2 hk), if_neg (by simp [hs])]
    rfl
  · refine .of_landed (exec_fcRaise c v) h ((if_neg (not_outer_of_fw_tk hc)).trans ?_)
    obtain h4 | hs := hbad
    · rw [if_pos h4]
    · simp [hs]
  · exact .of_landed (exec_fcRaise .host v) h rfl
  · exact .of_landed (exec_releaseRequest c v) h (if_neg hc)
  · refine .of_on exec_releaseDecision (if_neg ?_)
    cases hrel : m.fault.release <;> simp_all
  · refine ⟨_, .of_on exec_quenchEnd (if_pos (by rw [ha, hl, hn]; rfl)), ?_⟩
    generalize hk : ({ m with
      fault.quench.active := false
      fault.quench.contactorOpen := false
      fault.quench.leaving := false
      bel.snap.g := m.bel.gm * 1000000
      bel.snap.v := 0
      eng.loops := m.eng.loops.map (fun l => if l.started then { l with restart := true } else l) } : Mach) = k
    obtain ⟨hq, hg, hv, hloops⟩ := brakeAfterQuench_keeps (k.quenchRecord .info 0)
    simp only [Mach.quenchRecord] at *
    rw [hq, hg, hv, hloops, emit_quench, emit_bel, emit_loops, ← hk]
    exact ⟨rfl, rfl, rfl, rfl, rfl, rfl⟩
  · refine .of_on exec_quenchEnd (if_neg ?_)
    obtain h | h := h <;> simp [h]
  · refine .of_on exec_faultEscalation ?_
    rw [Mach.quenchDecide, quenchCauses_one hd hg hp hpar hq hact]
    exact if_pos (by rw [enterQuench_escalation_quench, hact]; rfl)
  · refine .of_on exec_faultEscalation ?_
    rw [Mach.quenchDecide, quenchCauses_none hd hp hpar hq]
    exact if_neg (by simp)

/-! ## Injection (R422) -/

theorem ofCode_code (c : FCls) : FCls.ofCode c.code = c := by cases c <;> rfl

theorem code_lt (c : FCls) : c.code < 4 := by cases c <;> decide

/-- The fields of the word that injects (R426). -/
theorem field_injWord {mode src : Nat} (kind : Nat) (cls : FCls) (hm : mode < 4) (hs : src < 256) :
    field (injWord mode kind src cls) 7 0 = src ∧ field (injWord mode kind src cls) 9 8 = cls.code ∧
    field (injWord mode kind src cls) 15 12 = kind % 16 ∧ field (injWord mode kind src cls) 31 30 = mode := by
  have hk : kind % 16 < 2 ^ 4 := Nat.mod_lt _ (by decide)
  have hs2 : src < 2 ^ 8 := hs
  have hc : cls.code < 2 ^ 2 := code_lt cls
  simp only [injWord, Nat.mod_eq_of_lt hs, field_or]
  refine ⟨?_, ?_, ?_, ?_⟩
  · rw [field_place_above (by decide), field_place_above (by decide), field_place_above (by decide), field_place_self (by decide) hs]
    simp
  · rw [field_place_above (by decide), field_place_above (by decide), field_place_self (by decide) hc,
      field_place_below hs2 (by decide)]
    simp
  · rw [field_place_above (by decide), field_place_self (by decide) hk, field_place_below hc (by decide),
      field_place_below hs2 (by decide)]
    simp
  · rw [field_place_self (by decide) hm, field_place_below hk (by decide), field_place_below hc (by decide),
      field_place_below hs2 (by decide)]
    simp

/-- What an injection of each mode does to a pair that exists, in test mode. -/
def Mach.inject (m : Mach) (src : Nat) (cls : FCls) (kind : Nat) : Nat → Mach
  | 0 => if !m.isForced src cls then m else m.releasePair (src, cls)
  | 1 =>
    let m : Mach := ((m.setForced src cls (some ⟨src, cls, 1, kind⟩)).unwire (src, cls)).seePair (src, cls)
    if m.fault.active.contains (src, cls) then m else (m.setActive (src, cls) true).injectFault src cls kind
  | 2 => (((m.setForced src cls (some ⟨src, cls, 2, kind⟩)).unwire (src, cls)).seePair (src, cls)).setActive (src, cls) false
  | _ => (m.setForced src cls (some ⟨src, cls, 3, kind⟩)).wirePair (src, cls)

/-- A write of `FC_INJ` in test mode: nothing for a pair that does not exist, else the injection of its mode. -/
theorem injWrite_injWord {m : Mach} {mode src : Nat} (c : Cls) (kind : Nat) (cls : FCls) (hm : mode < 4) (hs : src < 256)
    (ht : m.fault.testMode = true) : m.injWrite c (injWord mode kind src cls) =
      if m.pairPresent src cls then m.inject src cls (kind % 16) mode else m := by
  obtain ⟨hsrc, hcls, hkind, hmode⟩ := field_injWord kind cls hm hs
  rw [Mach.injWrite, hsrc, hcls, hkind, hmode, ofCode_code, ht]
  cases hp : m.pairPresent src cls
  · rfl
  · interval_cases mode <;> rfl

/-- The four rows that inject, each with the mode and the kind of its word. -/
theorem exec_injectRows (c : Cls) (src kind : Nat) (cls : FCls) :
    ∀ i ∈ [Instr.injectReleasePair c src cls, .injectForceFault c src cls kind, .injectForceNoFault c src cls, .injectForceNoncomp c src cls],
      ∃ mode k, mode < 4 ∧ ∀ s, exec i s = s.on (fun m => m.writeNamed c .fcInj (injWord mode k src cls)) := by
  simp only [List.forall_mem_cons]
  exact ⟨⟨0, 0, by decide, exec_injectReleasePair c src cls⟩, ⟨1, kind, by decide, exec_injectForceFault c src cls kind⟩,
    ⟨2, 0, by decide, exec_injectForceNoFault c src cls⟩, ⟨3, 0, by decide, exec_injectForceNoncomp c src cls⟩,
    fun _ h => absurd h List.not_mem_nil⟩

/-- A landed injection of a pair that exists, in test mode. -/
theorem Gives.of_injection {i : Instr} {m n : Mach} {c : Cls} {mode kind src : Nat} {cls : FCls}
    (hi : ∀ s, exec i s = s.on (fun k => k.writeNamed c .fcInj (injWord mode kind src cls))) (h : m.lands c .fcInj true)
    (hm : mode < 4) (hs : src < 256) (ht : m.fault.testMode = true) (hp : m.pairPresent src cls = true)
    (e : m.inject src cls (kind % 16) mode = n) : Gives i m n :=
  .of_landed hi h ((injWrite_injWord c kind cls hm hs ht).trans ((if_pos hp).trans e))

/-- What the wiring of a forced pair looks at. -/
theorem setForced_lists (m : Mach) (src : Nat) (cls : FCls) (f : Option Forced) : (m.setForced src cls f).fault.wiring = m.fault.wiring ∧
    (m.setForced src cls f).monitors src cls = m.monitors src cls := ⟨rfl, rfl⟩

/-- Settles O33, mode by mode. -/
theorem injectionForcesPairsInTestMode : Obligations.InjectionForcesPairsInTestMode := by
  unfold Obligations.InjectionForcesPairsInTestMode
  refine ⟨fun m c src kind cls h ht i hi => ?_, fun m c src kind cls h ht hs hp i hi => ?_, fun m c src kind cls h ht hs hk hp => ?_⟩
  · obtain ⟨mode, k, -, hexec⟩ := exec_injectRows c src kind cls i hi
    exact .of_landed hexec h (if_pos (by simp [ht]))
  · obtain ⟨mode, k, hm, hexec⟩ := exec_injectRows c src kind cls i hi
    exact .of_landed hexec h ((injWrite_injWord c k cls hm hs ht).trans (if_neg (by simp [hp])))
  · refine ⟨fun k hkk => ⟨fun ha => ?_, fun ha => ?_⟩, ?_, fun hwire hmon => ?_, fun hno => ?_, fun hf hwire => ?_, fun hf hwire => ?_, fun hf => ?_⟩
    · refine .of_injection (exec_injectForceFault c src cls kind) h (by decide) hs ht hp ?_
      rw [Nat.mod_eq_of_lt hk, Mach.inject, ← hkk]
      exact if_neg (by simpa using ha)
    · refine .of_injection (exec_injectForceFault c src cls kind) h (by decide) hs ht hp ?_
      rw [Nat.mod_eq_of_lt hk, Mach.inject, ← hkk]
      exact if_pos ha
    · exact .of_injection (exec_injectForceNoFault c src cls) h (by decide) hs ht hp rfl
    · refine .of_injection (exec_injectForceNoncomp c src cls) h (by decide) hs ht hp (if_neg ?_)
      obtain ⟨hl, hmo⟩ := setForced_lists m src cls (some ⟨src, cls, 3, 0⟩)
      rw [hl, hmo, hwire, hmon]; decide
    · refine .of_injection (exec_injectForceNoncomp c src cls) h (by decide) hs ht hp (if_pos ?_)
      obtain ⟨hl, hmo⟩ := setForced_lists m src cls (some ⟨src, cls, 3, 0⟩)
      rw [hl, hmo]
      obtain hw | hm := hno
      · rw [hw]; exact Bool.or_true _
      · rw [hm]; rfl
    · refine .of_injection (exec_injectReleasePair c src cls) h (by decide) hs ht hp ((if_neg (by simp [hf])).trans (if_neg ?_))
      rw [Bool.not_eq_true]; exact hwire
    · exact .of_injection (exec_injectReleasePair c src cls) h (by decide) hs ht hp ((if_neg (by simp [hf])).trans (if_pos hwire))
    · exact .of_injection (exec_injectReleasePair c src cls) h (by decide) hs ht hp (if_pos (by simp [hf]))

end Sys2Proof.Machine
end

section
/-! PROOFS. Transactions and launches: commits and their windows (R81–R86), arming and disarming (R43–R49, R65, R347–R349), set points
(R64, R98, R99). -/

namespace Sys2Proof.Machine

/-! ## CFG_COMMIT and its windows (R81–R86) -/

theorem opCfgCommit_opened {m : Mach} (rt : RTo) (c : Cls) {l : Nat} (hs : m.txn.state = .opened) (hl : l = 0 ∨ m.inFlight < 2048) :
    m.opCfgCommit rt c l = { m with txn := { m.txn with state := .validating, commit := some (rt, l), windows := 0 } } := by
  simp only [Mach.opCfgCommit, hs]
  exact if_neg (by omega)

theorem opCfgCommit_full {m : Mach} (rt : RTo) (c : Cls) {l : Nat} (hs : m.txn.state = .opened) (hl : l ≠ 0) (hf : 2048 ≤ m.inFlight) :
    m.opCfgCommit rt c l = m.reply rt stBusy [] := by
  simp only [Mach.opCfgCommit, hs]
  exact if_pos ⟨hl, hf⟩

theorem opCfgCommit_idle {m : Mach} (rt : RTo) (c : Cls) (l : Nat) (hs : m.txn.state = .idle) :
    m.opCfgCommit rt c l = m.reply rt (if m.txn.timedOut = some c then stCfgTimeout else stCfgNone) [] := by
  simp only [Mach.opCfgCommit, hs]

theorem opCfgCommit_validating {m : Mach} (rt : RTo) (c : Cls) (l : Nat) (hs : m.txn.state = .validating) :
    m.opCfgCommit rt c l = m.reply rt stBadState [] := by
  simp only [Mach.opCfgCommit, hs]

/-- The module whose commit has used its window of the present frame. -/
def Mach.windowUsed (m : Mach) : Mach := { m with txn := { m.txn with windows := m.txn.windows + 1, winAt := some m.time.count } }

/-- A window of a commit under validation, in a frame whose window has not been used. -/
theorem commitWindow_used {m : Mach} {rt : RTo} {l : Nat} (hs : m.txn.state = .validating) (hc : m.txn.commit = some (rt, l))
    (ha : m.txn.applyAt = none) (hw : m.txn.winAt ≠ some m.time.count) : m.commitWindow =
      if m.txn.windows + 1 < windowsFor m.txn.staged.length then m.windowUsed
      else ((m.windowUsed.validate m.txn.staged m.txn.owner m.txn.overflow).elim
        (if l ≠ 0 then m.windowUsed.armCommit rt l
         else { m.windowUsed with txn := { m.windowUsed.txn with
           applyAt := some (m.time.count + 1), deferred := decide (0 < m.txn.windows) } })
        (fun f => (m.windowUsed.closeTxn f.status 3).reply rt f.status f.result)) := by
  have hdef : decide (1 < m.txn.windows + 1) = decide (0 < m.txn.windows) := decide_eq_decide.2 (by omega)
  unfold Mach.commitWindow
  dsimp only
  split
  · next rt' l' _ hc' _ =>
    obtain ⟨rfl, rfl⟩ : rt = rt' ∧ l = l' := by simpa [hc] using hc'
    rw [if_neg hw, hdef]
    show (if m.txn.windows + 1 < windowsFor m.txn.staged.length then m.windowUsed else _) = _
    split
    · rfl
    · show (match m.windowUsed.validate m.txn.staged m.txn.owner m.txn.overflow with
        | some f => (m.windowUsed.closeTxn f.status 3).reply rt f.status f.result
        | none => _) = _
      cases m.windowUsed.validate m.txn.staged m.txn.owner m.txn.overflow <;> rfl
  · next hno => exact absurd ha (hno rt l hs hc)

/-- Without a commit under validation, or in a frame whose window has been used, nothing is validated. -/
theorem commitWindow_idle {m : Mach} (h : m.txn.state ≠ .validating ∨ m.txn.winAt = some m.time.count) : m.commitWindow = m := by
  unfold Mach.commitWindow
  dsimp only
  split
  · next hs _ _ => exact if_pos (h.resolve_left (by simp [hs]))
  · rfl

/-- A commit whose strike has come is applied, closed and posted. -/
theorem applyCommit_due {m : Mach} {rt : RTo} {l a : Nat} (hs : m.txn.state = .validating) (hc : m.txn.commit = some (rt, l))
    (ha : m.txn.applyAt = some a) (hd : a ≤ m.time.count) : m.applyCommit =
      (((if m.txn.deferred then m.orReg .syBudget (flag true 4) else m).applyConfig m.txn.staged m.txn.owner).closeTxn stOk 0).post
        ⟨rt, stOk, some a, [], true, .nothing⟩ := by
  simp only [Mach.applyCommit, hc, ha]
  exact if_neg (by simp [hs, hd])

theorem applyCommit_early {m : Mach} {rt : RTo} {l a : Nat} (hc : m.txn.commit = some (rt, l)) (ha : m.txn.applyAt = some a)
    (hd : m.time.count < a) : m.applyCommit = m := by
  simp only [Mach.applyCommit, hc, ha]
  exact if_pos (by simp [hd])

/-- Settles O18: `opCfgCommit` by the state, the commit's windows, its strike, its time limit and its slots. -/
theorem cfgCommitWaitsForItsWindow : Obligations.CfgCommitWaitsForItsWindow := by
  unfold Obligations.CfgCommitWaitsForItsWindow
  refine ⟨fun m p h => ⟨fun hs hl => ?_, fun hs hl hf => ?_, fun hs => ?_, fun hs => ?_⟩,
    fun m k rt l hs hc ha hw hk => ⟨fun hmore => ?_, fun hlast => ⟨fun f hf => ?_, fun hok => ⟨fun hl => ?_, fun hl => ?_⟩⟩⟩,
    fun n => ⟨fun hn => ?_, fun hn => ?_⟩, fun m h => .of_on exec_commitValidation (commitWindow_idle h),
    fun m rt l a hs hc ha => ⟨fun hd => ?_, fun hd => ?_⟩, fun m hs hage => ?_, fun m hage => ?_, fun m => ?_⟩
  · exact .of_served (exec_cfgCommit p) (by decide) h (opCfgCommit_opened _ _ hs hl)
  · exact .of_served (exec_cfgCommit p) (by decide) h (opCfgCommit_full _ _ hs hl hf)
  · exact .of_served (exec_cfgCommit p) (by decide) h (opCfgCommit_idle _ _ _ hs)
  · exact .of_served (exec_cfgCommit p) (by decide) h (opCfgCommit_validating _ _ _ hs)
  · subst hk
    exact .of_on exec_commitValidation ((commitWindow_used hs hc ha hw).trans (if_pos hmore))
  · subst hk
    refine .of_on exec_commitValidation ((commitWindow_used hs hc ha hw).trans ((if_neg (by omega)).trans ?_))
    exact congrArg (fun v => Option.elim v _ _) hf
  · subst hk
    refine .of_on exec_commitValidation ((commitWindow_used hs hc ha hw).trans ((if_neg (by omega)).trans ?_))
    exact (congrArg (fun v => Option.elim v _ _) hok).trans (if_pos hl)
  · subst hk
    refine .of_on exec_commitValidation ((commitWindow_used hs hc ha hw).trans ((if_neg (by omega)).trans ?_))
    exact (congrArg (fun v => Option.elim v _ _) hok).trans (if_neg (not_not.2 hl))
  · exact if_neg (by omega)
  · exact if_pos hn
  · exact .of_on exec_commitApply (congrArg Mach.readiness (applyCommit_due hs hc ha hd))
  · exact .of_on exec_commitApply (congrArg Mach.readiness (applyCommit_early hc ha hd))
  · exact .of_on exec_transactionTimeout (if_pos ⟨hs, hage⟩)
  · exact .of_on exec_transactionTimeout (if_neg (by omega))
  · refine ⟨_, .of_on exec_launchRevalidate rfl, List.length_map _, fun i l hi hnot => ?_⟩
    have hne : ¬ ((l.armed && l.action == actCommit && l.count == m.time.count + 1) = true) := by
      simpa [LaunchSlot.armed, and_assoc] using hnot
    rw [List.getElem?_map, hi, Option.map_some, if_neg hne]

/-! ## LAUNCH_ARM and LAUNCH_DISARM (R43–R49, R65, R347–R349) -/

theorem launchWindow_late {n l : Nat} (h : l < n + 2) : launchWindow n l = some stLaunchLate := if_pos h

theorem launchWindow_far {n l : Nat} (h : n + 4294967296 < l) : launchWindow n l = some stLaunchRange :=
  (if_neg (by omega)).trans (if_pos h)

theorem launchWindow_open {n l : Nat} (h2 : n + 2 ≤ l) (h : l ≤ n + 4294967296) : launchWindow n l = none :=
  (if_neg (by omega)).trans (if_neg (by omega))

/-- What a launch count meets: 300 frames' notice for a domain launch, then the window of R43. -/
def launchLate (n l : Nat) (domain : Bool) : Option Nat :=
  if domain && decide (l < n + 300) then some stLaunchLate else launchWindow n l

theorem launchLate_domain {n l : Nat} (h : l < n + 300) : launchLate n l true = some stLaunchLate := if_pos (by simpa using h)

theorem launchLate_window {n l : Nat} {d : Bool} (h : d = false ∨ n + 300 ≤ l) : launchLate n l d = launchWindow n l := by
  refine if_neg ?_
  obtain rfl | h := h
  · simp
  · simp [h]

/-- The launch that an arming puts into its slot. -/
def Mach.newLaunch (m : Mach) (rt : RTo) (c : Cls) (l act : Nat) (arg : Word) (domain : Bool) : LaunchSlot :=
  { LaunchSlot.reset with
    state := .armed, count := l, action := act, arg := arg, origin := if domain then 2 else originOf c, tag := rt.tag, status := stArmed
    reply := some rt, armedAt := m.time.count, domain := if domain then some (m.sys.position, m.hall.term) else none }

theorem opLaunchArm_refused {m : Mach} (rt : RTo) (c : Cls) (l : Nat) {w6 arg : Word} {st : Nat}
    (h : m.actionCheck (field w6 7 0) arg (bit w6 31) = some st) : m.opLaunchArm rt c l w6 arg = m.reply rt st [] := by
  unfold Mach.opLaunchArm
  dsimp only
  rw [h]

theorem opLaunchArm_late {m : Mach} (rt : RTo) (c : Cls) {l : Nat} {w6 arg : Word} {st : Nat}
    (h : m.actionCheck (field w6 7 0) arg (bit w6 31) = none) (hl : launchLate m.time.count l (bit w6 31) = some st) :
    m.opLaunchArm rt c l w6 arg = m.reply rt st [] := by
  unfold Mach.opLaunchArm
  dsimp only
  rw [launchLate] at hl
  rw [h]
  dsimp only
  rw [hl]

theorem opLaunchArm_full {m : Mach} (rt : RTo) (c : Cls) {l : Nat} {w6 arg : Word} (h : m.actionCheck (field w6 7 0) arg (bit w6 31) = none)
    (hl : launchLate m.time.count l (bit w6 31) = none)
    (hi : m.freeSlot (if bit w6 31 then 12 else 0) (if bit w6 31 then 4 else 12) = none) :
    m.opLaunchArm rt c l w6 arg = m.reply rt stLaunchFull [] := by
  unfold Mach.opLaunchArm
  dsimp only
  rw [launchLate] at hl
  rw [h]
  dsimp only
  rw [hl]
  dsimp only
  rw [hi]

/-- An arming that finds a slot: refused with a full tracker, else the slot holds the launch. -/
theorem opLaunchArm_slot {m : Mach} (rt : RTo) (c : Cls) {l i : Nat} {w6 arg : Word}
    (h : m.actionCheck (field w6 7 0) arg (bit w6 31) = none) (hl : launchLate m.time.count l (bit w6 31) = none)
    (hi : m.freeSlot (if bit w6 31 then 12 else 0) (if bit w6 31 then 4 else 12) = some i) :
    m.opLaunchArm rt c l w6 arg = if 2048 ≤ m.inFlight then m.reply rt stBusy []
      else (({ (if bit w6 31 then { m with hall.seenLaunch := m.hall.seenLaunch ++ [(m.sys.position, m.hall.term, rt.tag)] } else m) with
        slots := m.slots.set i (m.newLaunch rt c l (field w6 7 0) arg (bit w6 31)) } : Mach).reply rt stArmed [place i 0]) := by
  unfold Mach.opLaunchArm
  dsimp only
  rw [launchLate] at hl
  rw [h]
  dsimp only
  rw [hl]
  dsimp only
  rw [hi]
  dsimp only
  cases bit w6 31 <;> rfl

theorem opLaunchDisarm_unknown {m : Mach} (rt : RTo) {tag : Nat} (h : m.disarmable tag = none) :
    m.opLaunchDisarm rt tag = m.reply rt stTagUnknown [] := by
  unfold Mach.opLaunchDisarm
  rw [h]

theorem opLaunchDisarm_late {m : Mach} (rt : RTo) {tag i : Nat} (h : m.disarmable tag = some i) (hl : (m.slot i).count < m.time.count + 2) :
    m.opLaunchDisarm rt tag = m.reply rt stLaunchLate [] := by
  unfold Mach.opLaunchDisarm
  rw [h]
  exact if_pos hl

/-- A disarm in time frees the slot; a domain launch is listed for the superframe's message first. -/
theorem opLaunchDisarm_done {m : Mach} (rt : RTo) {tag i : Nat} (h : m.disarmable tag = some i)
    (hl : m.time.count + 2 ≤ (m.slot i).count) : m.opLaunchDisarm rt tag =
      (((m.slot i).domain.elim (m.reply rt stOk []) (fun x =>
        { m.reply rt stOk [] with hall.disarms := (m.reply rt stOk []).hall.disarms ++ [(x.1, x.2, (m.slot i).tag)] })).finishSlot i
          stCancelled .gone none []) := by
  unfold Mach.opLaunchDisarm
  rw [h]
  dsimp only
  rw [if_neg (by omega)]
  cases (m.slot i).domain <;> rfl

/-- Settles O19: the windows of a count, the arming by its checks, and the disarm. -/
theorem launchesArmAndDisarm : Obligations.LaunchesArmAndDisarm := by
  unfold Obligations.LaunchesArmAndDisarm
  refine ⟨fun n l => ⟨launchWindow_late, launchWindow_far, launchWindow_open⟩,
    fun m p d h hd => ?_, fun m p h => ⟨fun hi => ?_, fun i hi hl => ?_, fun i k hi hl hk => ⟨fun hdom => ?_, fun pos t hdom => ?_⟩⟩⟩
  · subst hd
    refine ⟨fun st hst => .of_served (exec_launchArm p) (by decide) h (opLaunchArm_refused _ _ _ hst), fun hok =>
      ⟨fun hd hl => ?_, fun st hd hw => ?_, fun hd hw => ⟨fun hi => ?_, fun i hi => ⟨fun hf => ?_, fun hf => ⟨_, rfl, fun hd0 => ?_, fun hd1 => ?_⟩⟩⟩⟩⟩
    · exact .of_served (exec_launchArm p) (by decide) h (opLaunchArm_late _ _ hok (by rw [hd]; exact launchLate_domain hl))
    · exact .of_served (exec_launchArm p) (by decide) h (opLaunchArm_late _ _ hok ((launchLate_window hd).trans hw))
    · exact .of_served (exec_launchArm p) (by decide) h (opLaunchArm_full _ _ hok ((launchLate_window hd).trans hw) hi)
    · exact .of_served (exec_launchArm p) (by decide) h
        ((opLaunchArm_slot _ _ hok ((launchLate_window hd).trans hw) hi).trans (if_pos hf))
    · refine .of_served (exec_launchArm p) (by decide) h
        ((opLaunchArm_slot _ _ hok ((launchLate_window hd).trans hw) hi).trans ((if_neg (by omega)).trans ?_))
      rw [hd0]
      rfl
    · refine .of_served (exec_launchArm p) (by decide) h
        ((opLaunchArm_slot _ _ hok ((launchLate_window hd).trans hw) hi).trans ((if_neg (by omega)).trans ?_))
      rw [hd1]
      rfl
  · exact .of_served (exec_launchDisarm p) (by decide) h (opLaunchDisarm_unknown _ hi)
  · exact .of_served (exec_launchDisarm p) (by decide) h (opLaunchDisarm_late _ hi hl)
  · subst hk
    refine .of_served (exec_launchDisarm p) (by decide) h ((opLaunchDisarm_done _ hi hl).trans ?_)
    rw [hdom]
    rfl
  · subst hk
    refine .of_served (exec_launchDisarm p) (by decide) h ((opLaunchDisarm_done _ hi hl).trans ?_)
    rw [hdom]
    rfl

/-! ## SET_POINT and SET_CAP (R64, R98, R99) -/

/-- What the gate of a set point answers: quench first, then a dispatch that is not ready. -/
theorem setGate_quench {m : Mach} (h : m.fault.quench.active = true) : m.setGate = some stQuenched := if_pos h

theorem setGate_notReady {m : Mach} (h : m.fault.quench.active = false) (hr : m.ready fnBellows = false) : m.setGate = some stBadState :=
  (if_neg (by simp [h])).trans (if_pos (by simp [hr]))

theorem setGate_open {m : Mach} (h : m.fault.quench.active = false) (hr : m.ready fnBellows = true) : m.setGate = none :=
  (if_neg (by simp [h])).trans (if_neg (by simp [hr]))

/-- A bus reference in range (target 1). -/
theorem opSetPoint_vref {m : Mach} (rt : RTo) {v : Nat} (h1 : 760000 ≤ v) (h2 : v ≤ 840000) : m.opSetPoint rt 1 v =
    m.setGate.elim ({ m with bel.vrefNext := some v }.reply rt stOk []) (fun st => m.reply rt st []) := by
  unfold Mach.opSetPoint
  dsimp only
  rw [if_neg (by simp [h1, h2])]
  cases m.setGate with
  | some st => rfl
  | none => exact if_pos (by simp [h1, h2])

/-- A state of energy in range (target 2). -/
theorem opSetPoint_soe {m : Mach} (rt : RTo) {v : Nat} (h1 : m.rdField .bdReserve 9 0 ≤ v) (h2 : v ≤ m.rdField .bdReserve 25 16) :
    m.opSetPoint rt 2 v = m.setGate.elim ({ m with bel.soeNext := some v }.reply rt stOk []) (fun st => m.reply rt st []) := by
  unfold Mach.opSetPoint
  dsimp only
  rw [if_neg (by simp [h1, h2])]
  cases m.setGate with
  | some st => rfl
  | none => exact if_neg (by simp)

/-- A target or a value outside both ranges. -/
theorem opSetPoint_bad {m : Mach} (rt : RTo) {t v : Nat} (h1 : ¬ (t = 1 ∧ 760000 ≤ v ∧ v ≤ 840000))
    (h2 : ¬ (t = 2 ∧ m.rdField .bdReserve 9 0 ≤ v ∧ v ≤ m.rdField .bdReserve 25 16)) : m.opSetPoint rt t v = m.reply rt stBadParam [] := by
  unfold Mach.opSetPoint
  exact if_pos (by rw [decide_eq_false h1, decide_eq_false h2]; rfl)

theorem opSetCap_bad {m : Mach} (rt : RTo) {scope : Nat} (cap : Word) (h0 : scope ≠ 0) (h : scope ∉ m.served) :
    m.opSetCap rt scope cap = m.reply rt stBadParam [] := by
  unfold Mach.opSetCap
  exact if_pos (by simp [h0, h])

/-- A cap of the rack or of a tray that the module serves. -/
theorem opSetCap_served {m : Mach} (rt : RTo) {scope : Nat} (cap : Word) (h : scope = 0 ∨ scope ∈ m.served) : m.opSetCap rt scope cap =
    m.setGate.elim (if scope = 0 then { m with bel.rackCapNext := some cap }.reply rt stOk []
      else { m with bel.hostNext := m.bel.hostNext ++ [(scope, cap)] }.reply rt stOk []) (fun st => m.reply rt st []) := by
  unfold Mach.opSetCap
  rw [if_neg (by simp; exact fun h0 => h.resolve_left h0)]
  cases m.setGate <;> rfl

theorem Gives.of_setPoint {m n : Mach} {p : Packet} (h : m.serves ocSetPoint p)
    (e : (m.hasRead p).opSetPoint (m.backTo ocSetPoint p) (field (p.word 4) 15 0) (p.word 5).toNat = n) : Gives (.setPoint p) m n :=
  .of_served (exec_setPoint p) (by decide) h e

theorem Gives.of_setCap {m n : Mach} {p : Packet} (h : m.serves ocSetCap p)
    (e : (m.hasRead p).opSetCap (m.backTo ocSetCap p) (field (p.word 4) 6 0) (p.word 5) = n) : Gives (.setCap p) m n :=
  .of_served (exec_setCap p) (by decide) h e

/-- Settles O23: the range of each parameter, then the gate. -/
theorem setPointsWaitForTheNextStrike : Obligations.SetPointsWaitForTheNextStrike := by
  unfold Obligations.SetPointsWaitForTheNextStrike
  refine ⟨fun m p h ht => ⟨fun hlo hhi => ⟨fun hq hr => ?_, fun hq => ?_, fun hq hr => ?_⟩, fun hbad => ?_⟩,
    fun m p h ht => ⟨fun hlo hhi => ⟨fun hq hr => ?_, fun hq => ?_, fun hq hr => ?_⟩, fun hbad => ?_⟩, fun m p h h1 h2 => ?_,
    fun m p h => ⟨fun h0 hs => ?_, fun hok => ⟨fun hq => ?_, fun hq hr => ?_⟩, fun hq hr => ⟨fun h0 => ?_, fun h0 hs => ?_⟩⟩⟩
  · refine .of_setPoint h ?_
    rw [ht, opSetPoint_vref _ hlo hhi, setGate_open (m := m.hasRead p) hq hr]; rfl
  · refine .of_setPoint h ?_
    rw [ht, opSetPoint_vref _ hlo hhi, setGate_quench (m := m.hasRead p) hq]; rfl
  · refine .of_setPoint h ?_
    rw [ht, opSetPoint_vref _ hlo hhi, setGate_notReady (m := m.hasRead p) hq hr]; rfl
  · refine .of_setPoint h ?_
    rw [opSetPoint_bad _ (by omega) (by omega)]
  · refine .of_setPoint h ?_
    rw [ht, opSetPoint_soe _ hlo hhi, setGate_open (m := m.hasRead p) hq hr]; rfl
  · refine .of_setPoint h ?_
    rw [ht, opSetPoint_soe _ hlo hhi, setGate_quench (m := m.hasRead p) hq]; rfl
  · refine .of_setPoint h ?_
    rw [ht, opSetPoint_soe _ hlo hhi, setGate_notReady (m := m.hasRead p) hq hr]; rfl
  · refine .of_setPoint h ?_
    rw [opSetPoint_bad _ (by omega) (by omega)]
  · refine .of_setPoint h ?_
    rw [opSetPoint_bad _ (by omega) (by omega)]
  · refine .of_setCap h ?_
    rw [opSetCap_bad _ _ h0 hs]
  · refine .of_setCap h ?_
    rw [opSetCap_served _ _ hok, setGate_quench (m := m.hasRead p) hq]; rfl
  · refine .of_setCap h ?_
    rw [opSetCap_served _ _ hok, setGate_notReady (m := m.hasRead p) hq hr]; rfl
  · refine .of_setCap h ?_
    rw [opSetCap_served _ _ (.inl h0), setGate_open (m := m.hasRead p) hq hr]; exact if_pos h0
  · refine .of_setCap h ?_
    rw [opSetCap_served _ _ (.inr hs), setGate_open (m := m.hasRead p) hq hr]; exact if_neg h0

end Sys2Proof.Machine
end

section
/-! PROOFS. The operations of the tracker: suspending, resuming, cancelling and the safe point (R72, R73), the long operations (R63,
R70, R71), and the always-complete opcodes (R66, R67). -/

namespace Sys2Proof.Machine

/-! ## Packets that application firmware serves -/

/-- Application firmware runs where it serves a packet. -/
theorem appRun_of_serves {m : Mach} {op : Nat} {p : Packet} (h : m.serves op p) (hf : firmwareOp op = true) :
    (m.hasRead p).id.appRun = true := h.2 hf

theorem Gives.of_opSuspend {m n : Mach} {p : Packet} (h : m.serves ocOpSuspend p)
    (e : (m.hasRead p).serveSuspend (m.backTo ocOpSuspend p) (field (p.word 4) 10 0) = n) : Gives (.opSuspend p) m n :=
  .of_served (exec_opSuspend p) (by decide) h ((serveOp_opSuspend _ _ p (appRun_of_serves h rfl)).trans e)

theorem Gives.of_opResume {m n : Mach} {p : Packet} (h : m.serves ocOpResume p)
    (e : (m.hasRead p).serveResume (m.backTo ocOpResume p) (field (p.word 4) 10 0) = n) : Gives (.opResume p) m n :=
  .of_served (exec_opResume p) (by decide) h ((serveOp_opResume _ _ p (appRun_of_serves h rfl)).trans e)

theorem Gives.of_opCancel {m n : Mach} {p : Packet} (h : m.serves ocOpCancel p)
    (e : (m.hasRead p).opCancel (m.backTo ocOpCancel p) (field (p.word 4) 10 0) = n) : Gives (.opCancel p) m n :=
  .of_served (exec_opCancel p) (by decide) h ((serveOp_opCancel _ _ p (appRun_of_serves h rfl)).trans e)

/-! ## OP_SUSPEND, OP_CANCEL, OP_RESUME (R73) -/

theorem serveSuspend_none {m : Mach} (rt : RTo) {tag : Nat} (h : m.opByTag tag = none) :
    m.serveSuspend rt tag = m.reply rt stBadState [] := by
  simp only [Mach.serveSuspend, Mach.opSuspend, h]

theorem serveSuspend_running {m : Mach} (rt : RTo) {tag : Nat} {o : Op} (h : m.opByTag tag = some o) (hs : o.state = .running)
    (hn : m.noteFull o = false) : m.serveSuspend rt tag =
      if ((m.setOp o.id .suspending).reply rt stOk []).stopsAtOnce o.id then ((m.setOp o.id .suspending).reply rt stOk []).safePoint o.id
      else (m.setOp o.id .suspending).reply rt stOk [] := by
  simp only [Mach.serveSuspend, Mach.opSuspend, h, hs, hn, decide_true, Bool.not_false, Bool.and_self, Bool.true_and, Bool.false_eq_true, if_false]

theorem serveSuspend_full {m : Mach} (rt : RTo) {tag : Nat} {o : Op} (h : m.opByTag tag = some o) (hs : o.state = .running)
    (hn : m.noteFull o = true) : m.serveSuspend rt tag = m.reply rt stBusy [] := by
  simp only [Mach.serveSuspend, Mach.opSuspend, h, hs, hn, Bool.not_true, Bool.and_false, Bool.false_and, Bool.false_eq_true, if_false, if_true]

theorem serveSuspend_badState {m : Mach} (rt : RTo) {tag : Nat} {o : Op} (h : m.opByTag tag = some o) (hs : o.state ≠ .running) :
    m.serveSuspend rt tag = m.reply rt stBadState [] := by
  have hop : m.opSuspend rt tag = m.reply rt stBadState [] := by
    simp only [Mach.opSuspend, h]
  simp only [Mach.serveSuspend, h, hs, hop, decide_false, Bool.false_and, Bool.false_eq_true, if_false]

theorem opCancel_none {m : Mach} (rt : RTo) {tag : Nat} (h : m.opByTag tag = none) : m.opCancel rt tag = m.reply rt stBadState [] := by
  simp only [Mach.opCancel, h]

theorem opCancel_cancelling {m : Mach} (rt : RTo) {tag : Nat} {o : Op} (h : m.opByTag tag = some o) (hs : o.state = .cancelling) :
    m.opCancel rt tag = m.reply rt stBadState [] := by
  simp only [Mach.opCancel, h, hs, if_true]

theorem opCancel_full {m : Mach} (rt : RTo) {tag : Nat} {o : Op} (h : m.opByTag tag = some o) (hs : o.state ≠ .cancelling)
    (hn : m.noteFull o = true) : m.opCancel rt tag = m.reply rt stBusy [] := by
  simp only [Mach.opCancel, h, if_neg hs, hn, if_true]

theorem opCancel_suspended {m : Mach} (rt : RTo) {tag : Nat} {o : Op} (h : m.opByTag tag = some o) (hs : o.state = .suspended)
    (hn : m.noteFull o = false) : m.opCancel rt tag = (m.reply rt stOk []).endCancelled o.id := by
  simp only [Mach.opCancel, h, hs, hn, reduceCtorEq, Bool.false_eq_true, if_false, if_true]

theorem opCancel_active {m : Mach} (rt : RTo) {tag : Nat} {o : Op} (h : m.opByTag tag = some o)
    (hs : o.state = .running ∨ o.state = .suspending) (hn : m.noteFull o = false) : m.opCancel rt tag =
      if ((m.setOp o.id .cancelling).reply rt stOk []).stopsAtOnce o.id then ((m.setOp o.id .cancelling).reply rt stOk []).safePoint o.id
      else (m.setOp o.id .cancelling).reply rt stOk [] := by
  have hc : o.state ≠ .cancelling ∧ o.state ≠ .suspended := by obtain h | h := hs <;> simp [h]
  simp only [Mach.opCancel, h, hn, if_neg hc.1, if_neg hc.2, Bool.false_eq_true, if_false]

/-- The module in which a suspended operation runs again, its resumption owed and answered (R73), and suspended anew in quench (R75). -/
def Mach.resumed (m : Mach) (rt : RTo) (id : Nat) : Mach :=
  ({ m with ops := ((m.setOp id .running).ops.map (fun (x : Op) => if x.id == id then { x with resumeNote := some stResumed } else x)) }.reply
    rt stOk []).quenchCellOps

theorem serveResume_none {m : Mach} (rt : RTo) {tag : Nat} (h : m.opByTag tag = none) : m.serveResume rt tag = m.reply rt stBadState [] := by
  simp only [Mach.serveResume, Mach.opResume, h]

theorem serveResume_badState {m : Mach} (rt : RTo) {tag : Nat} {o : Op} (h : m.opByTag tag = some o) (hs : o.state ≠ .suspended) :
    m.serveResume rt tag = m.reply rt stBadState [] := by
  have hop : m.opResume rt tag stResumed = m.reply rt stBadState [] := by
    simp only [Mach.opResume, h]
  simp only [Mach.serveResume, h, hop]
  exact if_pos (by simp [hs])

theorem serveResume_full {m : Mach} (rt : RTo) {tag : Nat} {o : Op} (h : m.opByTag tag = some o) (hs : o.state = .suspended)
    (hn : m.noteFull o = true) : m.serveResume rt tag = m.reply rt stBusy [] := by
  simp only [Mach.serveResume, Mach.opResume, h, hs, hn, Bool.or_true, if_true]

/-- A resumption goes on by what the operation is: a cell operation in quench stops, a job queues, SLICE_REPLACE takes its next slice. -/
theorem serveResume_suspended {m : Mach} (rt : RTo) {tag : Nat} {o : Op} (h : m.opByTag tag = some o) (hs : o.state = .suspended)
    (hn : m.noteFull o = false) : m.serveResume rt tag =
      let n := m.resumed rt o.id
      if (n.opById o.id).any (fun x => x.state != .running) then n
      else (n.jobOfOp o.id).elim
        ((n.hall.replace.bind (fun x => n.plan.map (fun pl => (x, pl)))).elim n
          (fun y => if y.1.op == o.id then (n.noteResumed o.id).replaceNext y.2 (y.1.todo.length + 1) else n))
        n.requeueJob := by
  have hop : (m.opResume rt tag stResumed).quenchCellOps = m.resumed rt o.id := by
    simp only [Mach.opResume, h, hs, hn, Bool.false_eq_true, if_false]
    rfl
  simp only [Mach.serveResume, h, hop]
  rw [if_neg (by simp [hs, hn])]
  refine ite_congr rfl (fun _ => rfl) fun _ => ?_
  cases (m.resumed rt o.id).jobOfOp o.id with
  | some j => rfl
  | none => cases (m.resumed rt o.id).hall.replace <;> cases (m.resumed rt o.id).plan <;> rfl

/-! ## The safe point (R73) -/

theorem safePoint_none {m : Mach} {id : Nat} (h : m.opById id = none) : m.safePoint id = m := by
  simp only [Mach.safePoint, h]

/-- One that has ended, or whose copy or sweep is under way, is not touched. -/
theorem safePoint_untouched {m : Mach} {id : Nat} {o : Op} (h : m.opById id = some o)
    (hu : o.ended = true ∨ m.hall.replace.any (fun r => r.op == id && r.copy.isSome) = true ∨ m.midSweep id = true) : m.safePoint id = m := by
  simp only [Mach.safePoint, h]
  exact if_pos (by simpa [or_assoc] using hu)

section
variable {m : Mach} {id : Nat} {o : Op} (h : m.opById id = some o) (he : o.ended = false)
  (hr : m.hall.replace.any (fun r => r.op == id && r.copy.isSome) = false) (hm : m.midSweep id = false)
include h he hr hm

/-- The safe point of an operation at work, by what it is and its state. -/
theorem safePoint_atWork : m.safePoint id =
    (m.loadOf id).elim
      ((m.jobOfOp id).elim
        (if o.state = .suspending then m.suspendOp id else if o.state = .cancelling then m.endCancelled id else m)
        (fun j => if o.state = .suspending then (if j.phase = .ended then m else m.suspendJob j m.tilesNow)
          else if o.state = .cancelling then (if j.phase = .ended then m else m.cancelJob j) else m))
      (fun l => if o.state = .suspending ∨ o.state = .cancelling then m.loadBlock l.bank else m) := by
  simp only [Mach.safePoint, h]
  rw [if_neg (by rw [he, hr, hm]; decide)]
  cases m.loadOf id with
  | some l => rfl
  | none => cases m.jobOfOp id <;> cases o.state <;> rfl

/-- A running or a suspended operation goes on as it is. -/
theorem safePoint_running (hs : o.state = .running ∨ o.state = .suspended) : m.safePoint id = m := by
  rw [safePoint_atWork h he hr hm]
  obtain hs | hs := hs <;> cases m.loadOf id <;> cases m.jobOfOp id <;> simp [hs]

end

/-- A suspending operation that is neither a campaign nor a training run only posts its suspension. -/
theorem suspendOp_plain {m : Mach} {id : Nat} {o : Op} (h : m.opById id = some o) (hc : m.cell.camp = none) (ht : m.fc.train = none) :
    m.suspendOp id = (m.setOp id .suspended).notify o.rt stSuspended [] := by
  simp [Mach.suspendOp, hc, ht, h]

/-- Outside quench the cell operations go on. -/
theorem quenchCellOps_idle {m : Mach} (h : m.fault.quench.active = false) : m.quenchCellOps = m := if_neg (by simp [h])

/-- Settles O20: the three commands by the state of the operation, and its safe point. -/
theorem operationsSuspendResumeAndCancel : Obligations.OperationsSuspendResumeAndCancel := by
  unfold Obligations.OperationsSuspendResumeAndCancel
  refine ⟨fun m n p o h ho hn => ?_, fun m n p o h ho hn => ?_, fun m n p o h ho hn => ?_, fun m => quenchCellOps_idle,
    fun m p ho => ⟨fun h => .of_opSuspend h (serveSuspend_none _ ho), fun h => .of_opResume h (serveResume_none _ ho),
      fun h => .of_opCancel h (opCancel_none _ ho)⟩,
    fun m id h => .of_on (exec_safePointReached id) (safePoint_none h), fun m id o h => ⟨fun hu => ?_, fun he hr hm => ?_⟩⟩
  · subst hn
    exact ⟨fun hs hf => .of_opSuspend h (serveSuspend_running _ ho hs hf), fun hs hf => .of_opSuspend h (serveSuspend_full _ ho hs hf),
      fun hs => .of_opSuspend h (serveSuspend_badState _ ho hs)⟩
  · subst hn
    exact ⟨fun hs => .of_opCancel h (opCancel_cancelling _ ho hs), fun hs hf => .of_opCancel h (opCancel_full _ ho hs hf),
      fun hs hf => .of_opCancel h (opCancel_suspended _ ho hs hf), fun hs hf => .of_opCancel h (opCancel_active _ ho hs hf)⟩
  · have hn' : n = (m.hasRead p).resumed (m.backTo ocOpResume p) o.id := hn
    refine ⟨fun hs hf => .of_opResume h (serveResume_full _ ho hs hf), fun hs hf => ?_, fun hs => .of_opResume h (serveResume_badState _ ho hs)⟩
    have hres := serveResume_suspended (m.backTo ocOpResume p) ho hs hf
    rw [← hn'] at hres
    refine ⟨fun hq => .of_opResume h (hres.trans (if_pos hq)), fun hq => ⟨fun j hj => ?_, fun hj hno => ?_, fun x pl hj hx hxo hpl => ?_⟩⟩
    · exact .of_opResume h (hres.trans ((if_neg (by simp [hq])).trans (by rw [hj]; rfl)))
    · refine .of_opResume h (hres.trans ((if_neg (by simp [hq])).trans ?_))
      rw [hj]
      cases hx : n.hall.replace with
      | none => rfl
      | some x =>
        cases hpl : n.plan with
        | none => rfl
        | some pl => exact if_neg (by simpa [hx, hpl] using hno)
    · refine .of_opResume h (hres.trans ((if_neg (by simp [hq])).trans ?_))
      rw [hj, hx, hpl]
      exact if_pos (by simp [hxo])
  · exact .of_on (exec_safePointReached id) (safePoint_untouched h hu)
  · have hat := safePoint_atWork h he hr hm
    refine ⟨fun hs => .of_on (exec_safePointReached id) (safePoint_running h he hr hm hs), fun l hl hs => ?_, fun j hl hj hp => ⟨fun hs => ?_, fun hs => ?_⟩,
      fun hl hj => ⟨fun hs => ?_, fun hs hc ht => ?_⟩⟩
    · exact .of_on (exec_safePointReached id) (hat.trans (by rw [hl]; exact if_pos hs))
    · exact .of_on (exec_safePointReached id) (hat.trans (by rw [hl, hj]; simp [hs, hp]))
    · exact .of_on (exec_safePointReached id) (hat.trans (by rw [hl, hj]; simp [hs, hp]))
    · exact .of_on (exec_safePointReached id) (hat.trans (by rw [hl, hj]; simp [hs]))
    · refine .of_on (exec_safePointReached id) (hat.trans ?_)
      rw [hl, hj]
      exact (if_pos hs).trans (suspendOp_plain h hc ht)

/-! ## The always-complete opcodes (R66, R67) -/

/-- The bit that an opcode row gives word 4 is the bit its packet carries. -/
theorem bit_fixW4 (p : Packet) (b : Bool) : bit ((fixW4 p b).word 4) 0 = b := by
  change bit (putBit (p.word 4) 0 b) 0 = b
  cases b with
  | false => simp [putBit, bit_clearBit]
  | true => exact bit_setBit_self _ (by decide)

theorem bit_fixW4_above (p : Packet) (b : Bool) : bit ((fixW4 p b).word 4) 1 = bit (p.word 4) 1 := bit_putBit_ne _ b (by decide)

theorem Gives.of_recFreeze {m n : Mach} {p : Packet} (h : m.serves ocRecFreeze (fixW4 p true))
    (e : (m.hasRead p).opRecFreeze (m.backTo ocRecFreeze p) = n) : Gives (.recFreeze p) m n :=
  .of_served (exec_recFreeze p) (by decide) h (by simpa [bit_fixW4] using e)

theorem Gives.of_recThaw {m n : Mach} {p : Packet} (h : m.serves ocRecFreeze (fixW4 p false))
    (e : (m.hasRead p).opRecThaw (m.backTo ocRecFreeze p) = n) : Gives (.recThaw p) m n :=
  .of_served (exec_recThaw p) (by decide) h (by simpa [bit_fixW4] using e)

theorem Gives.of_moduleReset {m n : Mach} {p : Packet} {full : Bool} (h : m.serves ocModuleReset (fixW4 p full))
    (e : (m.hasRead p).opModuleReset (m.backTo ocModuleReset p) full (bit (p.word 4) 1) = n) :
    Gives (if full then .fullReset p else .applicationReset p) m n := by
  have e' : (m.hasRead (fixW4 p full)).serveOp ocModuleReset (m.backTo ocModuleReset (fixW4 p full)) (fixW4 p full) = n := by
    simpa [bit_fixW4, bit_fixW4_above] using e
  cases full
  · exact .of_served (exec_applicationReset p) (by decide) h e'
  · exact .of_served (exec_fullReset p) (by decide) h e'

theorem Gives.of_recRead {m n : Mach} {p : Packet} (h : m.serves ocRecRead p)
    (e : (m.hasRead p).opRecRead (m.backTo ocRecRead p) (p.word 4).toNat (field (p.word 5) 15 0) = n) : Gives (.recRead p) m n :=
  .of_served (exec_recRead p) (by decide) h ((serveOp_recRead _ _ p).trans e)

theorem opRecFreeze_asks {m : Mach} (rt : RTo) (hf : m.ev.frozen = false) (hp : m.ev.freezePending = false) : m.opRecFreeze rt =
    { m with ev.freezePending := true, ev.freezeNew := true }.reply rt stOk [BitVec.ofNat 32 m.holdFill, BitVec.ofNat 32 (min m.queueFill 1024)] := by
  unfold Mach.opRecFreeze; dsimp only; rw [hf, hp]; rfl

theorem opRecFreeze_again {m : Mach} (rt : RTo) (h : m.ev.frozen = true ∨ m.ev.freezePending = true) : m.opRecFreeze rt =
    { m with ev.idle := 0 }.reply rt stOk [BitVec.ofNat 32 m.holdFill, BitVec.ofNat 32 (min m.queueFill 1024)] := by
  have hc : (m.ev.frozen || m.ev.freezePending) = true := by simpa using h
  unfold Mach.opRecFreeze; dsimp only; rw [hc]; rfl

theorem opRecThaw_frozen {m : Mach} (rt : RTo) (hf : m.ev.frozen = true) : m.opRecThaw rt =
    m.thaw.reply rt stOk [BitVec.ofNat 32 m.holdFill, BitVec.ofNat 32 (min m.queueFill 1024)] := if_pos hf

theorem opRecThaw_pending {m : Mach} (rt : RTo) (hf : m.ev.frozen = false) (hp : m.ev.freezePending = true) : m.opRecThaw rt =
    { m with ev.freezePending := false }.reply rt stOk [BitVec.ofNat 32 m.holdFill, BitVec.ofNat 32 (min m.queueFill 1024)] :=
  (if_neg (by simp [hf])).trans (if_pos hp)

theorem opRecThaw_none {m : Mach} (rt : RTo) (hf : m.ev.frozen = false) (hp : m.ev.freezePending = false) :
    m.opRecThaw rt = m.reply rt stBadState [] := (if_neg (by simp [hf])).trans (if_neg (by simp [hp]))

theorem opRecRead_unmounted {m : Mach} (rt : RTo) (i k : Nat) (h : m.ev.mounted = false) :
    m.opRecRead rt i k = { m with ev.idle := 0 }.reply rt stBadState [] := if_pos (by simp [h])

theorem opRecRead_missing {m : Mach} (rt : RTo) {i : Nat} (k : Nat) (h : m.ev.mounted = true) (hr : m.ev.stored[i]? = none) :
    m.opRecRead rt i k = { m with ev.idle := 0 }.reply rt stBadParam [] := by
  refine (if_neg (by simp [h])).trans ?_
  dsimp only; rw [hr]

theorem opRecRead_record {m : Mach} (rt : RTo) {i : Nat} (k : Nat) {r : StoredRec} (h : m.ev.mounted = true) (hr : m.ev.stored[i]? = some r) :
    m.opRecRead rt i k = if k % 16 ≠ 0 ∨ r.body.length ≤ k then { m with ev.idle := 0 }.reply rt stBadParam []
      else { m with ev.idle := 0 }.reply rt stOk ((r.words.drop (k / 4)).take 4) := by
  refine (if_neg (by simp [h])).trans ?_
  dsimp only; rw [hr]

theorem opModuleReset_underWay {m : Mach} (rt : RTo) (full force : Bool) (h : m.sys.modReset.isSome = true) :
    m.opModuleReset rt full force = m.reply rt stBadState [] := if_pos h

theorem opModuleReset_free {m : Mach} (rt : RTo) (full force : Bool) (h : m.sys.modReset = none) (hh : m.pair.holding = false) :
    m.opModuleReset rt full force = { m.reply rt stOk [] with
      sys.modReset := some ⟨full, rt, false, none, some (m.reply rt stOk []).time.count, some ((m.reply rt stOk []).time.count + 2)⟩ } :=
  (if_neg (by simp [h])).trans (if_neg (by simp [hh]))

theorem opModuleReset_held {m : Mach} (rt : RTo) (full : Bool) {force : Bool} (h : m.sys.modReset = none) (hh : m.pair.holding = true)
    (hp : m.pair.missRun ≠ 0 ∨ m.pair.partnerLast.any (fun f => f.ready) = false) (hf : force = false) :
    m.opModuleReset rt full force = m.reply rt stRoleHeld [] := by
  refine (if_neg (by simp [h])).trans ((if_pos hh).trans (if_pos ?_))
  obtain hp | hp := hp <;> simp [hp, hf]

theorem opModuleReset_releases {m : Mach} (rt : RTo) (full : Bool) {force : Bool} (h : m.sys.modReset = none) (hh : m.pair.holding = true)
    (hp : m.pair.missRun = 0 ∧ m.pair.partnerLast.any (fun f => f.ready) = true ∨ force = true) :
    m.opModuleReset rt full force = { m with sys.modReset := some ⟨full, rt, true, none, none, none⟩, pair.kernelRelease := true } := by
  refine (if_neg (by simp [h])).trans ((if_pos hh).trans (if_neg ?_))
  obtain ⟨hr, hp⟩ | hf := hp
  · simp [hr, hp]
  · simp [hf]

/-- Settles O22: each opcode, past the first five checks, is its operation on the module that has read the packet. -/
theorem islandOpcodesAnswer : Obligations.IslandOpcodesAnswer := by
  unfold Obligations.IslandOpcodesAnswer
  refine ⟨fun m p h => ⟨_, rfl, .of_served (exec_quench p) (by decide) h rfl⟩, fun m p h => ⟨fun r hr => ?_, fun hr => ?_⟩,
    fun m p h => ⟨fun hf hp => .of_recFreeze h (opRecFreeze_asks _ hf hp), fun hf => .of_recFreeze h (opRecFreeze_again _ hf)⟩,
    fun m p h hf => ⟨fun hp => .of_recThaw h (opRecThaw_pending _ hf hp), fun hp => .of_recThaw h (opRecThaw_none _ hf hp)⟩,
    fun m p h hf => .of_recThaw h (opRecThaw_frozen _ hf), fun m p h => ?_, fun m p h => ⟨fun hh => ?_, fun hh => ?_⟩,
    fun m p v h hv => ?_, fun m p full h => ⟨fun hr => .of_moduleReset h (opModuleReset_underWay _ _ _ hr),
      fun hr hh => ⟨_, rfl, .of_moduleReset h (opModuleReset_free _ _ _ hr hh)⟩,
      fun hr hh hp hf => .of_moduleReset h (opModuleReset_held _ _ hr hh hp hf),
      fun hr hh hp => .of_moduleReset h (opModuleReset_releases _ _ hr hh hp)⟩⟩
  · exact .of_served (exec_faultRead p) (by decide) h (by simp [Mach.opFaultRead, hr])
  · exact .of_served (exec_faultRead p) (by decide) h (by simp [Mach.opFaultRead, hr])
  · refine ⟨fun hu => .of_recRead h (opRecRead_unmounted _ _ _ hu), fun hu hr => .of_recRead h (opRecRead_missing _ _ hu hr),
      fun r hu hr => ⟨fun hk => .of_recRead h ((opRecRead_record (m := m.hasRead p) _ _ hu hr).trans (if_pos hk)),
        fun hk hl => .of_recRead h ((opRecRead_record (m := m.hasRead p) _ _ hu hr).trans (if_neg (by omega)))⟩⟩
  · exact .of_served (exec_claimRelease p) (by decide) h (by simp [Mach.opClaimRelease, hh])
  · exact .of_served (exec_claimRelease p) (by decide) h (by simp [Mach.opClaimRelease, hh])
  · subst hv; exact .of_served (exec_getIdentity p) (by decide) h (serveOp_getIdentity _ _ p)

/-! ## The long operations (R70, R71) -/

theorem Gives.of_jobSubmit {m n : Mach} {p : Packet} (h : m.serves ocAvJobSubmit p)
    (e : (m.hasRead p).opJobSubmit (m.backTo ocAvJobSubmit p) p.cls (addr48 (p.word 4) (p.word 5)) (addr48 (p.word 8) (p.word 9))
      (p.word 6) (p.word 7) (p.word 10) = n) : Gives (.avJobSubmit p) m n :=
  .of_served (exec_avJobSubmit p) (by decide) h ((serveOp_avJobSubmit _ _ p (appRun_of_serves h rfl)).trans e)

theorem opJobSubmit_fails {m : Mach} (rt : RTo) {c : Cls} {rec save st : Nat} {mode w7 w10 : Word}
    (h : m.jobCheck c (m.bytes rec 128) rec save mode w7 w10 = some st) :
    m.opJobSubmit rt c rec save mode w7 w10 = (m.recordRead rec st).reply rt st [] := by
  unfold Mach.opJobSubmit; dsimp only; rw [h]

theorem opJobSubmit_starts {m : Mach} (rt : RTo) {c : Cls} {rec save : Nat} {mode w7 w10 : Word}
    (h : m.jobCheck c (m.bytes rec 128) rec save mode w7 w10 = none) : m.opJobSubmit rt c rec save mode w7 w10 =
      let r := m.addOp rt c
      let n : Mach := { r.1 with
        anvil.jobs := r.1.anvil.jobs ++ [r.1.makeJob c r.2 (m.bytes rec 128) save mode (field w7 1 0)], anvil.nextJob := r.1.anvil.nextJob + 1 }
      if rt.tag = 0 then n else n.reply rt stAccepted [] := by
  unfold Mach.opJobSubmit; dsimp only; rw [h]

theorem Gives.of_modelLoad {m n : Mach} {p : Packet} (h : m.serves ocModelLoad p)
    (e : (m.hasRead p).opModelLoad (m.backTo ocModelLoad p) p.cls (p.word 4) (addr48 (p.word 5) (p.word 6)) (p.word 7).toNat = n) :
    Gives (.modelLoad p) m n :=
  .of_served (exec_modelLoad p) (by decide) h ((serveOp_modelLoad _ _ p (appRun_of_serves h rfl)).trans e)

theorem opModelLoad_starts {m : Mach} {rt : RTo} {c : Cls} {w4 : Word} {pkg len : Nat} (h : m.modelCheck c w4 pkg len = none) (ht : rt.tag ≠ 0) :
    m.opModelLoad rt c w4 pkg len = (({ (m.addOp rt c).1 with
      fc.loads := m.fc.loads ++ [⟨m.nextOp, 2 * field w4 0 0 + field w4 1 1, some pkg, len, []⟩] } : Mach).setBank
        (2 * field w4 0 0 + field w4 1 1) (fun k => { k with valid := false, loading := true })).reply rt stAccepted [] := by
  unfold Mach.opModelLoad; rw [h]; exact if_neg ht

theorem Gives.of_trainRun {m n : Mach} {p : Packet} (h : m.serves ocTrainRun p)
    (e : (m.hasRead p).opTrainRun (m.backTo ocTrainRun p) p.cls (p.word 4) (p.word 5) (p.word 6) = n) : Gives (.trainRun p) m n :=
  .of_served (exec_trainRun p) (by decide) h ((serveOp_trainRun _ _ p (appRun_of_serves h rfl)).trans e)

theorem Gives.of_sliceReplace {m n : Mach} {p : Packet} (h : m.serves ocSliceReplace p)
    (e : (m.hasRead p).opSliceReplace (m.backTo ocSliceReplace p) p.cls (p.word 4) = n) : Gives (.sliceReplace p) m n :=
  .of_served (exec_sliceReplace p) (by decide) h ((serveOp_sliceReplace _ _ p (appRun_of_serves h rfl)).trans e)

theorem opSliceReplace_full {m : Mach} (rt : RTo) (c : Cls) {w4 : Word} (hr : field w4 31 16 = 0) (hl : m.sys.links ≠ 0)
    (hm : m.hall.isMaster = true) (hn : m.hall.replace = none) (hf : 2048 ≤ m.inFlight) : m.opSliceReplace rt c w4 = m.reply rt stBusy [] :=
  (if_neg (by simp [hr])).trans ((if_neg hl).trans ((if_neg (by simp [hm, hn])).trans (if_pos hf)))

theorem opSliceReplace_noPlan {m : Mach} (rt : RTo) (c : Cls) {w4 : Word} (hr : field w4 31 16 = 0) (hl : m.sys.links ≠ 0)
    (hm : m.hall.isMaster = true) (hn : m.hall.replace = none) (hf : m.inFlight < 2048) (hp : m.plan = none) :
    m.opSliceReplace rt c w4 = m.reply rt stBadState [] := by
  refine (if_neg (by simp [hr])).trans ((if_neg hl).trans ((if_neg (by simp [hm, hn])).trans ((if_neg (by omega)).trans ?_)))
  rw [hp]

theorem opSliceReplace_starts {m : Mach} (rt : RTo) (c : Cls) {w4 : Word} {pl : Plan} {todo : List Nat} (hr : field w4 31 16 = 0)
    (hl : m.sys.links ≠ 0) (hm : m.hall.isMaster = true) (hn : m.hall.replace = none) (hf : m.inFlight < 2048) (hp : m.plan = some pl)
    (ht : todo = (m.nextPlaces.filter (fun x =>
      x.mirror.isNone && (field w4 15 0 == 0xFFFF || x.lostBy == some (field w4 15 0)))).map (·.slice)) : m.opSliceReplace rt c w4 =
      ({ (m.addOp rt c).1.reply rt stAccepted [] with hall.replace := some ⟨m.nextOp, todo, none, 0⟩ } : Mach).replaceNext pl (todo.length + 1) := by
  subst ht
  refine (if_neg (by simp [hr])).trans ((if_neg hl).trans ((if_neg (by simp [hm, hn])).trans ((if_neg (by omega)).trans ?_)))
  rw [hp]; rfl

/-- Settles O21: each opcode's check, and past it what the opcode starts on the module that tracks the operation. -/
theorem longOperationsStartUnderTheirTag : Obligations.LongOperationsStartUnderTheirTag := by
  unfold Obligations.LongOperationsStartUnderTheirTag
  refine ⟨fun m p st h hc => .of_jobSubmit h (opJobSubmit_fails _ hc), fun m p h hc =>
      ⟨(m.tracks ocAvJobSubmit p).makeJob p.cls m.nextOp ((m.hasRead p).bytes (addr48 (p.word 4) (p.word 5)) 128) (addr48 (p.word 8) (p.word 9))
        (p.word 6) (field (p.word 7) 1 0), rfl, rfl, rfl, rfl, rfl, rfl, fun ht => ?_, fun ht => ?_⟩,
    fun m p h => ⟨fun st hc => .of_modelLoad h (by simp only [Mach.opModelLoad, hc]), fun hc ht => .of_modelLoad h (opModelLoad_starts hc ht)⟩,
    fun m p h => ⟨fun st hc => .of_trainRun h (by simp only [Mach.opTrainRun, hc]), fun hc => .of_trainRun h ?_⟩,
    fun m p h => ⟨fun st hc => ?_, fun hc => ?_⟩, fun m p h => ⟨fun st hc => ?_, fun hc => ?_⟩, fun m p h => ⟨fun hr => ?_, fun hr hl => ?_,
      fun hr hl hm => ?_, fun hr hl hm hn => ⟨fun hf => ?_, fun hf hp => ?_, fun pl todo k hf hp htodo hk => ?_⟩⟩⟩
  · exact .of_jobSubmit h ((opJobSubmit_starts _ hc).trans (if_neg ht))
  · exact .of_jobSubmit h ((opJobSubmit_starts _ hc).trans (if_pos ht))
  · unfold Mach.opTrainRun; rw [hc]; rfl
  · exact .of_served (exec_capacitySweep p) (by decide) h ((serveOp_capacitySweep _ _ p (appRun_of_serves h rfl)).trans (by rw [hc]))
  · exact .of_served (exec_capacitySweep p) (by decide) h ((serveOp_capacitySweep _ _ p (appRun_of_serves h rfl)).trans (by rw [hc]; rfl))
  · exact .of_served (exec_balanceCampaign p) (by decide) h ((serveOp_balanceCampaign _ _ p (appRun_of_serves h rfl)).trans (by rw [hc]))
  · exact ⟨_, rfl, rfl, .of_served (exec_balanceCampaign p) (by decide) h ((serveOp_balanceCampaign _ _ p (appRun_of_serves h rfl)).trans (by rw [hc]; rfl))⟩
  · exact .of_sliceReplace h (if_pos hr)
  · exact .of_sliceReplace h ((if_neg (by simp [hr])).trans (if_pos hl))
  · exact .of_sliceReplace h ((if_neg (by simp [hr])).trans ((if_neg hl).trans (if_pos (by simpa using hm))))
  · exact .of_sliceReplace h (opSliceReplace_full _ _ hr hl hm hn hf)
  · exact .of_sliceReplace h (opSliceReplace_noPlan _ _ hr hl hm hn hf hp)
  · have hgo : (m.hasRead p).opSliceReplace (m.backTo ocSliceReplace p) p.cls (p.word 4) =
        ({ k with hall.replace := some ⟨m.nextOp, todo, none, 0⟩ } : Mach).replaceNext pl (todo.length + 1) := by
      subst hk; exact opSliceReplace_starts (m := m.hasRead p) _ p.cls hr hl hm hn hf hp htodo
    refine ⟨.of_sliceReplace h hgo, fun ht => .of_sliceReplace h (hgo.trans ?_)⟩
    rw [ht]; rfl

end Sys2Proof.Machine
end

section
/-! PROOFS. Bring-up, resets, the strike's frame, and the rows of the bellows dispatch (chapters 01, 02, 03, 04, 18). -/

namespace Sys2Proof.Machine

/-! ## The configuration load (chapter 18) -/

theorem bringupLoad_off {m : Mach} (h : m.sys.capValid = false ∨ m.id.appRun = false) : m.bringupLoad = m := by
  refine if_pos ?_
  obtain h | h := h <;> simp [h]

theorem bringupLoad_loaded {m : Mach} (hc : m.sys.capValid = true) (ha : m.id.appRun = true) (hl : m.sys.cfgLoaded = true) : m.bringupLoad =
    if m.sys.loadLate then (({ m with sys.loadLate := false } : Mach).placePlan m.planBuf).applyPlan
      (({ m with sys.loadLate := false } : Mach).placePlan m.planBuf).planBuf else m :=
  (if_neg (by simp [hc, ha])).trans (if_pos hl)

/-- A module that has never loaded judges the newest good copy. -/
theorem bringupLoad_first {m : Mach} (hc : m.sys.capValid = true) (ha : m.id.appRun = true) (hl : m.sys.cfgLoaded = false) : m.bringupLoad =
    match newestCopy m.sys.saved with
    | none => (m.loadFails.placePlan m.planBuf).applyPlan (m.loadFails.placePlan m.planBuf).planBuf
    | some c =>
      let ws := m.loadWords c
      let n := m.placePlan ((m.overlay ws).planBuf)
      match n.validate ws .fw false with
      | some _ => (m.loadFails.placePlan m.planBuf).applyPlan (m.loadFails.placePlan m.planBuf).planBuf
      | none =>
        let k := ((n.applyWords ws).applyLoops (n.applyEnables (n.applyWords ws)) ws).applyUnits n ws
        { k.applyPlan k.planBuf with sys.cfgLoaded := true } :=
  (if_neg (by simp [hc, ha])).trans (if_neg (by simp [hl]))

theorem bringupLoad_noCopy {m : Mach} (hc : m.sys.capValid = true) (ha : m.id.appRun = true) (hl : m.sys.cfgLoaded = false)
    (hs : newestCopy m.sys.saved = none) :
    m.bringupLoad = (m.loadFails.placePlan m.planBuf).applyPlan (m.loadFails.placePlan m.planBuf).planBuf := by
  rw [bringupLoad_first hc ha hl, hs]

theorem bringupLoad_passes {m n : Mach} {c : SavedCfg} (hc : m.sys.capValid = true) (ha : m.id.appRun = true) (hl : m.sys.cfgLoaded = false)
    (hs : newestCopy m.sys.saved = some c) (hn : n = m.placePlan ((m.overlay (m.loadWords c)).planBuf))
    (hv : n.validate (m.loadWords c) .fw false = none) : m.bringupLoad =
      let k := ((n.applyWords (m.loadWords c)).applyLoops (n.applyEnables (n.applyWords (m.loadWords c))) (m.loadWords c)).applyUnits n (m.loadWords c)
      { k.applyPlan k.planBuf with sys.cfgLoaded := true } := by
  subst hn
  rw [bringupLoad_first hc ha hl, hs]
  dsimp only
  rw [hv]

/-- Settles O35, by the branches of BRINGUP_LOAD and of the built-in load. -/
theorem theConfigurationLoadsOnceAtBringUp : Obligations.TheConfigurationLoadsOnceAtBringUp := by
  unfold Obligations.TheConfigurationLoadsOnceAtBringUp
  refine ⟨fun m h => .of_on exec_bringupLoad ?_,
    fun m hc ha hl hw => ⟨_, rfl, .of_on exec_bringupLoad ((bringupLoad_loaded hc ha hl).trans (if_pos hw))⟩,
    fun m hc ha hl hs => ⟨_, rfl, .of_on exec_bringupLoad (bringupLoad_noCopy hc ha hl hs)⟩,
    fun m c n hc ha hl hs hn hv => ⟨_, rfl, .of_on exec_bringupLoad (bringupLoad_passes hc ha hl hs hn hv)⟩,
    fun m h => .of_on exec_builtinPackageLoad (if_pos (by simpa [or_assoc] using h)),
    fun m ha hr hv hl ht hf => ⟨_, rfl, .of_on exec_builtinPackageLoad (if_neg (by simpa [ha, hr, hv, hl, ht] using hf))⟩⟩
  by_cases hoff : m.sys.capValid = false ∨ m.id.appRun = false
  · exact bringupLoad_off hoff
  · obtain ⟨hc, ha⟩ := not_or.mp hoff
    obtain h | h | ⟨hl, hw⟩ := h
    · exact absurd h hc
    · exact absurd h ha
    · exact (bringupLoad_loaded (by simpa using hc) (by simpa using ha) hl).trans (if_neg (by simp [hw]))

/-! ## Resets and the end of the hold-up (R35, R36, chapter 14) -/

theorem resetExecute_waits {m : Mach} {r : ModReset} (h : m.sys.modReset = some r)
    (hr : r.resetAt.any (fun n => decide (n ≤ m.time.count)) = false) : m.resetExecute = m := by
  unfold Mach.resetExecute
  rw [h]; exact if_neg (by simp [hr])

theorem resetExecute_due {m : Mach} {r : ModReset} {n : Nat} (h : m.sys.modReset = some r) (hr : r.resetAt = some n) (hn : n ≤ m.time.count) :
    m.resetExecute = if r.full then m.fullReset else m.appReset := by
  unfold Mach.resetExecute
  rw [h]; exact if_pos (by simp [hr, hn])

/-- Settles O36, by the schedule of the reset and the ten frames of the hold-up. -/
theorem resetsExecuteAtTheirStrike : Obligations.ResetsExecuteAtTheirStrike := by
  unfold Obligations.ResetsExecuteAtTheirStrike
  refine ⟨fun m h => .of_on exec_resetExecute (by unfold Mach.resetExecute; rw [h]), fun m r h hr => .of_on exec_resetExecute (resetExecute_waits h (by rw [hr]; rfl)),
    fun m r n h hr => ⟨fun hn hf => ?_, fun hn hf => ?_, fun hn => ?_⟩,
    fun m hp hd hf => ⟨m.flashOnly, .of_on exec_holdUpEnd (if_pos (by simp [hp, hd, hf])), rfl, rfl, rfl, rfl, rfl, rfl, rfl, rfl, rfl, rfl, rfl, rfl⟩,
    fun m h => .of_on exec_holdUpEnd (if_neg ?_)⟩
  · exact .of_on exec_resetExecute ((resetExecute_due h hr hn).trans (if_pos hf))
  · exact .of_on exec_resetExecute ((resetExecute_due h hr hn).trans (if_neg (by simp [hf])))
  · exact .of_on exec_resetExecute (resetExecute_waits h (by simpa [hr] using hn))
  · obtain h | h | h := h <;> simp [h]

/-! ## The strike (R31, R32) -/

theorem timeStrike_slews {m : Mach} (hs : m.time.state = .free ∨ m.time.state = .holdover) (ha : m.time.pairAdopt = none) :
    m.timeStrike = m.slewPair := by
  unfold Mach.timeStrike
  rw [ha]
  obtain hs | hs := hs <;> dsimp only <;> rw [hs]

/-- Settles O37: a strike is the end of its frame and then the opening of the next, window by window. -/
theorem aStrikeClosesOneFrameAndOpensTheNext : Obligations.AStrikeClosesOneFrameAndOpensTheNext := by
  unfold Obligations.AStrikeClosesOneFrameAndOpensTheNext
  refine ⟨fun m f h => .of_on (exec_strike f) (if_neg (by simp [h])),
    fun m f h => ⟨_, _, _, _, _, _, _, _, rfl, rfl, rfl, rfl, rfl, rfl, rfl, rfl, .of_on (exec_strike f) (if_pos h)⟩,
    fun m => ⟨rfl, rfl, rfl, rfl⟩, fun m hs ha => ⟨fun hd => ?_, fun hd => ?_⟩⟩
  · exact (timeStrike_slews hs ha).trans (if_pos hd)
  · exact (timeStrike_slews hs ha).trans (if_neg (by simp [hd]))

/-! ## The bellows' faults (R115 to R117, R127) -/

theorem limitsFault_at {m : Mach} {p : Int} (h : m.cell.pubAt = some p) : m.limitsFault =
    if m.time.count < p + 2000 then m
    else if m.en fnCellring && !m.bel.limFault then { m with bel.limFault := true }.raise srcBellows .severe (place 0x02 8) else m := by
  unfold Mach.limitsFault; rw [h]

/-- A module whose limits were never published, are marked already, or whose cell ring is off reports no stale limits. -/
theorem limitsFault_quiet {m : Mach} (h : m.cell.pubAt = none ∨ m.bel.limFault = true ∨ m.en fnCellring = false) : m.limitsFault = m := by
  cases hp : m.cell.pubAt with
  | none => unfold Mach.limitsFault; rw [hp]
  | some p =>
    rw [limitsFault_at hp]
    split
    · rfl
    · refine if_neg ?_
      obtain h | h | h := h
      · simp [hp] at h
      all_goals simp [h]

theorem trayMissed_off {m : Mach} {n : Nat} (h : n ∉ m.served ∨ (m.tray n).missed = true ∨
    m.time.count ≤ max m.bel.startAt ((m.tray n).heardAt.getD m.bel.startAt) + 300) : m.trayMissed n = m := by
  refine if_neg ?_
  obtain h | h | h := h
  · simp [h]
  · simp [h]
  · simp only [Bool.and_eq_true, decide_eq_true_eq, not_and]
    intro _; omega

theorem brakeDriven_eq_false {m : Mach} (h : m.bel.brakeOn = false ∨ m.pair.holding = false ∨ m.fault.quench.active = true) :
    m.brakeDriven = false := by
  unfold Mach.brakeDriven
  obtain h | h | h := h <;> simp [h]

/-- Settles O38, by the condition of each fault. -/
theorem dispatchFaultsRecordOnceWhileTheyLast : Obligations.DispatchFaultsRecordOnceWhileTheyLast := by
  unfold Obligations.DispatchFaultsRecordOnceWhileTheyLast
  refine ⟨fun m h hf => .of_on exec_setpointMissingFault (if_pos (by simp [h, hf])), fun m h => .of_on exec_setpointMissingFault (if_neg ?_),
    fun m p hp hd he hf => .of_on exec_cellLimitsStaleFault ((limitsFault_at hp).trans ((if_neg (by omega)).trans (if_pos (by simp [he, hf])))),
    fun m p hp hd => .of_on exec_cellLimitsStaleFault ((limitsFault_at hp).trans (if_pos hd)),
    fun m h => .of_on exec_cellLimitsStaleFault (limitsFault_quiet h),
    fun m hb hh hq hf ht => .of_on exec_brakeHoldFault (if_pos (by simp [Mach.brakeDriven, hb, hh, hq, hf, ht])), fun m h => .of_on exec_brakeHoldFault (if_neg ?_),
    fun m n hr hs hn hm ht => .of_on (exec_trayReportMissed n) (if_pos (by simp [hr, hs, hn, hm, ht])),
    fun m n h => .of_on (exec_trayReportMissed n) (trayMissed_off h),
    fun m h hf => .of_on exec_coolantStep3Fault (if_pos (by simp [h, hf])), fun m h => .of_on exec_coolantStep3Fault (if_neg ?_)⟩
  · obtain h | h := h <;> simp [h]
  · obtain h | h | h | h | h := h
    · simp [brakeDriven_eq_false (.inl h)]
    · simp [brakeDriven_eq_false (.inr (.inl h))]
    · simp [brakeDriven_eq_false (.inr (.inr h))]
    · simp [h]
    · simp [h]
  · obtain h | h := h <;> simp [h]

/-! ## Caps, reports, coolant, schedule and brake (chapter 04) -/

theorem capsMaySend_eq_false {m : Mach} (h : m.pair.holding = false ∨ m.fault.quench.active = true) : m.capsMaySend = false := by
  unfold Mach.capsMaySend
  obtain h | h := h <;> simp [h]

theorem capsMaySend_eq_true {m : Mach} (hh : m.pair.holding = true) (hq : m.fault.quench.active = false) (hr : m.ready fnBellows = true)
    (hs : m.bel.started = true) : m.capsMaySend = true := by
  simp [Mach.capsMaySend, hh, hq, hr, hs]

theorem sendCaps_may {m : Mach} (h : m.capsMaySend = true) : m.sendCaps = (m.served.mapIdx (fun i n => (i, n))).foldl (fun k x =>
    k.setTray x.2 (fun t => { t with sent := some (k.bel.snap.trayCaps.getD x.1 4294967295) })) m := if_neg (by simp [h])

theorem repeatCaps_due {m : Mach} (h : m.capsMaySend = true) (hd : m.bel.snap.lastRepeat + 10000 ≤ (m.time.count : Int)) :
    m.repeatCaps = { m.sendCaps with bel.snap.lastRepeat := m.time.count } := if_pos (by simp [h, hd])

theorem schedStep_newest {m : Mach} {x : Int × Word} (hc : m.time.count % 100000 = 0)
    (hx : (m.bel.sched.filter (fun x => decide (x.1 + 100 ≤ (m.time.count : Int)))).getLast? = some x) : m.schedStep =
      { m.wr .bdSchedApplied x.2 with bel.sched := m.bel.sched.filter (fun y => decide ((m.time.count : Int) < y.1 + 100)) } := by
  refine (if_neg (by simp [hc])).trans ?_
  rw [hx]

/-- Settles O39, by the condition of each row. -/
theorem traysScheduleAndBrakeFollowTheirRules : Obligations.TraysScheduleAndBrakeFollowTheirRules := by
  unfold Obligations.TraysScheduleAndBrakeFollowTheirRules
  refine ⟨fun m hh hq hr hs => ?_, fun m h => ⟨.of_on exec_capMessageSend (if_pos (by simp [capsMaySend_eq_false h])),
      .of_on exec_capMessageRepeat (if_neg (by simp [capsMaySend_eq_false h]))⟩,
    fun m n cap draw rel hn => .of_on (exec_trayReport n cap draw rel) (if_neg hn),
    fun m cap draw rel => .of_on (exec_trayReport 0 cap draw rel) (if_pos rfl), fun m h => .of_on exec_coolantStepChange (if_neg h),
    fun m h => .of_on exec_coolantStepChange (if_pos h), fun m x hc hx => .of_on exec_gridScheduleStep (schedStep_newest hc hx),
    fun m h => .of_on exec_gridScheduleStep (if_pos h), fun m low => .of_on (exec_brakeNNetChange low) rfl⟩
  have hmay := capsMaySend_eq_true hh hq hr hs
  refine ⟨.of_on exec_capMessageSend (sendCaps_may hmay), fun hd => .of_on exec_capMessageRepeat ?_, fun hd => .of_on exec_capMessageRepeat (if_neg ?_)⟩
  · rw [repeatCaps_due hmay hd, sendCaps_may hmay]
  · simpa [hmay] using hd

end Sys2Proof.Machine
end

section
/-! PROOFS. Loop supervision, stage links, the redundant pair, feeds, lever and the PLCA node (chapters 05, 06, 14, 19). -/

namespace Sys2Proof.Machine

/-! ## Loop supervision (R143 to R148, R165 to R175) -/

theorem testPhase_on {m : Mach} (hr : m.eng.test.running = true) (hc : m.eng.test.cause = none) : m.testPhase =
    if m.testCauses.isEmpty || decide (m.phaseNow = .done) then
      if m.phaseNow = .done then m.testEnd .done 0 else { m with eng.test.phase := m.phaseNow }
    else m := by
  unfold Mach.testPhase
  dsimp only
  rw [hr, hc]; rfl

theorem abortCode_noted {m : Mach} {c : Nat} (l : List Nat) (h : m.eng.test.cause = some c) : m.abortCode l = some c := by
  simp [Mach.abortCode, h]

theorem abortCode_unnoted {m : Mach} (l : List Nat) (h : m.eng.test.cause = none) :
    m.abortCode l = if m.phaseNow = .done then none else l.head? := by
  simp [Mach.abortCode, h]

theorem testAbortNow_some {m : Mach} {c : Nat} (h : m.abortCode m.testCauses = some c) : m.testAbortNow = m.testAbort c := by
  unfold Mach.testAbortNow; rw [h]

theorem testAbortNow_none {m : Mach} (h : m.abortCode m.testCauses = none) : m.testAbortNow = m := by
  unfold Mach.testAbortNow; rw [h]

theorem testAbort_off {m : Mach} (c : Nat) (h : m.eng.test.running = false) : m.testAbort c = m := if_neg (by simp [h])

/-- A running test that has neither a noted nor a present cause goes on. -/
theorem testAbortNow_idle {m : Mach}
    (h : m.eng.test.running = false ∨ m.eng.test.cause = none ∧ (m.testCauses = [] ∨ m.phaseNow = .done)) : m.testAbortNow = m := by
  obtain h | ⟨hc, h⟩ := h
  · cases ha : m.abortCode m.testCauses with
    | none => exact testAbortNow_none ha
    | some c => exact (testAbortNow_some ha).trans (testAbort_off c h)
  · refine testAbortNow_none ((abortCode_unnoted _ hc).trans ?_)
    obtain h | h := h
    · simp [h]
    · exact if_pos h

/-- Writing a record leaves all of the test but the mark of a SEVERE record. -/
theorem emit_test (m : Mach) (t : Nat) (c : FCls) (p : List Word) :
    { (m.emit t c p).eng.test with severe := false } = { m.eng.test with severe := false } :=
  (congrArg (fun n => n.eng.test) (still_emit m t c p) :)

/-- The module whose test has ended, before the record of it is written. -/
def Mach.testClosed (m : Mach) (p : TestPhase) (code : Nat) : Mach :=
  { m with eng.test := { m.eng.test with
      phase := p
      abort := code
      t := 0
      quiet := if m.eng.test.held then m.eng.test.quiet.filter (fun q => decide (m.time.count < q.2)) ++ [(m.eng.test.loop, m.time.count + 100)]
        else m.eng.test.quiet.filter (fun q => decide (m.time.count < q.2)) } }

theorem testEnd_test (m : Mach) (p : TestPhase) (code : Nat) :
    { (m.testEnd p code).eng.test with severe := false } = { (m.testClosed p code).eng.test with severe := false } :=
  emit_test (m.testClosed p code) _ _ _

/-- Settles O40, by the condition of each row. -/
theorem loopSupervisionActsAtItsLimits : Obligations.LoopSupervisionActsAtItsLimits := by
  unfold Obligations.LoopSupervisionActsAtItsLimits
  refine ⟨fun m k j n hq hn => ⟨fun hl => .of_on (exec_swapHoldTimeout k j) (if_pos (by simp [hq, -List.getD_eq_getElem?_getD, hn, hl])),
      fun hl => .of_on (exec_swapHoldTimeout k j) (if_neg (by simp [hq, -List.getD_eq_getElem?_getD, hn, hl]))⟩,
    fun m k j h => .of_on (exec_swapHoldTimeout k j) (if_neg ?_), fun m k hq hs hf => .of_on (exec_bridgeFade k) (if_pos (by simp [hq, hs, hf])),
    fun m k h => .of_on (exec_bridgeFade k) (if_neg ?_), fun m k hq hm hs hl => .of_on (exec_loopStop k) (if_pos (by simp [hq, hm, hs, hl])),
    fun m k h => .of_on (exec_loopStop k) (if_neg ?_),
    fun m k hq hs hf hn hl => .of_on (exec_followingErrorFault k) (if_pos (by simp [hq, hs, hf, hn, hl])),
    fun m k h => .of_on (exec_followingErrorFault k) (if_neg ?_), fun m hr hc => ⟨fun hp ht => ?_, fun hp => ?_⟩,
    fun m h => .of_on exec_loopTestPhase (if_neg ?_), fun m c hr h => .of_on exec_loopTestAbort ?_,
    fun m h => .of_on exec_loopTestAbort (testAbortNow_idle h), fun m p c => ?_⟩
  · obtain h | h := h <;> simp [h, -List.getD_eq_getElem?_getD]
  · obtain h | h | h := h <;> simp [h]
  · obtain h | h | h | h := h <;> simp [h]
  · obtain h | h | h | h | h := h <;> simp [h]
  · exact .of_on exec_loopTestPhase ((testPhase_on hr hc).trans ((if_pos (by simp [ht])).trans (if_neg hp)))
  · exact .of_on exec_loopTestPhase ((testPhase_on hr hc).trans ((if_pos (by simp [hp])).trans (if_pos hp)))
  · obtain h | h | ⟨h, hp⟩ := h
    · simp [h]
    · simp [h]
    · simp [h, hp]
  · have ha : m.abortCode m.testCauses = some c := by
      obtain h | ⟨hc, hp, hh⟩ := h
      · exact abortCode_noted _ h
      · exact (abortCode_unnoted _ hc).trans ((if_neg hp).trans hh)
    exact (testAbortNow_some ha).trans (if_pos hr)
  · have htest := testEnd_test m p c
    refine ⟨congrArg TestSt.phase htest, congrArg TestSt.abort htest, congrArg TestSt.t htest, fun h => ?_⟩
    rw [show (m.testEnd p c).eng.test.quiet = (m.testClosed p c).eng.test.quiet from (congrArg TestSt.quiet htest :)]
    simp [Mach.testClosed, h]

/-! ## Stage links (R160 to R163) -/

theorem feedback_taken {m : Mach} {n : Nat} {f : FeedbackIn} (hn : n < 12) (hr : m.role n ≠ 0) (hl : (m.link n).lock = true)
    (hi : (m.link n).now = none) (hf : (m.link n).failed = false) : m.feedback n f =
      match feedbackFails f n m.time.count with
      | some x => (m.bump (.leSlErr n) x.1 x.2 1).setLink n (fun l => { l with failed := true })
      | none => m.setLink n (fun l => { l with
          now := some f
          last := f
          goodRun := satAdd l.goodRun 1 3
          inService := l.inService || decide (2 ≤ l.goodRun)
          missRun := 0
          missFault := false }) := if_neg (by simp [hn, hr, hl, hi, hf])

/-- Settles O41, by the condition of each row. -/
theorem stageLinksTakeFramesAndCountMisses : Obligations.StageLinksTakeFramesAndCountMisses := by
  unfold Obligations.StageLinksTakeFramesAndCountMisses
  refine ⟨fun m n f hn hr hl hi hf => ⟨fun hg => ?_, fun hi' lo hg => ?_⟩, fun m n f h => .of_on (exec_stageFeedbackFrame n f) (if_pos ?_),
    fun m n => .of_on (exec_stageLinkLock n) rfl, fun m n h => .of_on (exec_stageLinkLockLoss n) (if_pos (by simp [h])),
    fun m n h => ⟨_, rfl, fun hr => ?_, fun hr => ?_⟩, fun m n hr hm hf => .of_on (exec_stageLinkMissFault n) (if_pos ⟨hr, hm, hf⟩),
    fun m n h => .of_on (exec_stageLinkMissFault n) (if_neg ?_), fun m n hr hm hf => .of_on (exec_outputLateFault n) (if_pos ⟨hr, hm, hf⟩),
    fun m n h => .of_on (exec_outputLateFault n) (if_neg ?_)⟩
  · exact .of_on (exec_stageFeedbackFrame n f) ((feedback_taken hn hr hl hi hf).trans (by rw [hg]; rfl))
  · exact .of_on (exec_stageFeedbackFrame n f) ((feedback_taken hn hr hl hi hf).trans (by rw [hg]))
  · obtain h | h | h | h | h := h <;> simp [h]
  · exact .of_on (exec_stageLinkLockLoss n) ((if_neg (by simp [h])).trans (if_pos hr))
  · exact .of_on (exec_stageLinkLockLoss n) ((if_neg (by simp [h])).trans (if_neg hr))
  · rintro ⟨hr, hm, hf⟩
    obtain h | h | h := h
    · exact hr h
    · omega
    · simp [hf] at h
  · rintro ⟨hr, hm, hf⟩
    obtain h | h | h := h
    · exact hr h
    · omega
    · simp [hf] at h

/-! ## The pair's frames, claim and link (chapter 14) -/

theorem alignFail_none {m : Mach} (h : m.pair.alignRecv = none) : m.alignFail = m := if_neg (by simp [h])

/-- A link that goes down with no alignment received: its frame and its standing are gone, and the first loss may be a fault. -/
theorem pairDown_unaligned {m : Mach} (h : m.pair.alignRecv = none) : m.pairDown =
    let k : Mach := { m with pair.pairUp := false, pair.partnerNow := none, pair.alignSend := none, pair.partnerAligned := false }
    if (m.pair.pairUp || !m.pair.downFault) && !bit (m.rd .prCfg) 31 then
      ({ k with pair.downFault := true } : Mach).raise srcPair .corr (place 1 0) else k := by
  unfold Mach.pairDown
  rw [alignFail_none h]; rfl

/-- A module that is neither locked nor in a domain takes from its partner what the partner can give. -/
theorem pairLinkUp_unlocked {m : Mach} (h : Bool) (t : PartnerTime) (c : Nat) (hs : m.time.state ≠ .locked) (hd : m.time.inDomain = false) :
    m.pairLinkUp h t c =
      if h || t.locked then { m with
        pair.pairUp := true, pair.downFault := false, time.pairAdopt := some ((c : Int) - (m.time.count : Int)), time.pairPhase := t.phase }
      else if !t.inDomain && !m.pair.holding && m.pair.side then { m with
        pair.pairUp := true, pair.downFault := false, time.pairAdopt := some ((c : Int) - (m.time.count : Int)) }
      else { m with pair.pairUp := true, pair.downFault := false } := if_neg (by simp [hs, hd])

theorem alignSegment_taken {m : Mach} {i n : Nat} {seg : AlignSeg} (hr : m.pair.alignRecv = some (i, n))
    (hp : m.alignPlan[i]? = some (segKey seg)) (he : m.pair.alignPending = []) : m.alignSegment true (segKey seg).2 seg =
      { m with pair.alignRecv := some (i + 1, n), pair.alignPending := [seg] } := by
  unfold Mach.alignSegment
  rw [hr]
  exact if_pos (by simp [hp, he])

theorem alignSegment_dropped {m : Mach} {good : Bool} (i : Nat) (seg : AlignSeg)
    (h : m.pair.alignRecv = none ∨ good = false ∨ m.pair.alignPending ≠ []) : m.alignSegment good i seg = m := by
  unfold Mach.alignSegment
  split
  case _ hr =>
    refine if_neg ?_
    obtain h | h | h := h
    · simp [hr] at h
    all_goals simp [h]
  · rfl

/-- Settles O42, by the condition of each row. -/
theorem thePairFramesFeedTheJudgement : Obligations.ThePairFramesFeedTheJudgement := by
  unfold Obligations.ThePairFramesFeedTheJudgement
  refine ⟨fun m f => ⟨fun hu hg hs => .of_on (exec_pairFrame f) (if_pos (by simp [hu, hg, hs])), fun h => .of_on (exec_pairFrame f) (if_neg ?_)⟩,
    fun m => ⟨fun h => .of_on exec_claimTake (if_pos h), fun h => .of_on exec_claimTake (if_neg (by simp [h])),
      fun h => .of_on exec_claimGiveUp (if_pos h), fun h => .of_on exec_claimGiveUp (if_neg (by simp [h]))⟩,
    fun m i n seg hr hp he => .of_on (exec_alignmentSegment true _ seg) (alignSegment_taken hr hp he),
    fun m good i seg h => .of_on (exec_alignmentSegment good i seg) (alignSegment_dropped i seg h),
    fun m h hr => .of_on exec_alignmentFail ((if_pos (by simpa [or_assoc] using h)).trans (if_pos hr)),
    fun m h => .of_on exec_alignmentFail ((congrArg (fun k => ite _ k m) (alignFail_none h)).trans (ite_self m)),
    fun m ha hu hb => .of_on exec_pairLinkDown ((pairDown_unaligned ha).trans (if_pos (by simp [hu, hb]))),
    fun m ha h => .of_on exec_pairLinkDown ((pairDown_unaligned ha).trans (if_neg ?_)),
    fun m h t c hl => .of_on (exec_pairLinkUp h t c) (if_pos hl),
    fun m h t c hs hd hp => .of_on (exec_pairLinkUp h t c) ((pairLinkUp_unlocked h t c hs hd).trans (if_pos (by simpa using hp))),
    fun m t c hs hd hl => ⟨fun ht hh hb => .of_on (exec_pairLinkUp false t c) ((pairLinkUp_unlocked false t c hs hd).trans
        ((if_neg (by simp [hl])).trans (if_pos (by simp [ht, hh, hb])))),
      fun h => .of_on (exec_pairLinkUp false t c) ((pairLinkUp_unlocked false t c hs hd).trans ((if_neg (by simp [hl])).trans (if_neg ?_)))⟩,
    fun m ha hf => .of_on exec_holdingWithoutStandby (if_pos (by simp [ha, hf])), fun m h => .of_on exec_holdingWithoutStandby (if_neg ?_)⟩
  · obtain h | h | h := h <;> simp [h]
  · obtain h | ⟨hu, hf⟩ := h
    · simp [h]
    · simp [hu, hf]
  · obtain h | h | h := h <;> simp [h]
  · obtain h | h := h <;> simp [h]

/-! ## Feeds, lever and PLCA node (chapters 14, 19) -/

theorem judgeFeeds_powered {m : Mach} (h : m.pair.feedA = true ∨ m.pair.feedB = true) : m.judgeFeeds = { m with pair.dying := false } := by
  have hl : (!m.pair.feedA && !m.pair.feedB) = false := by obtain h | h := h <;> simp [h]
  unfold Mach.judgeFeeds
  dsimp only
  rw [hl]; rfl

theorem judgeFeeds_lost {m : Mach} (ha : m.pair.feedA = false) (hb : m.pair.feedB = false) : m.judgeFeeds =
    if m.pair.dying then m else { m with pair.dying := true, pair.dyingFrames := 0, ev.opSaved := m.ev.opSec } := by
  unfold Mach.judgeFeeds
  dsimp only
  rw [ha, hb]
  cases m.pair.dying <;> rfl

theorem feedLoss_a_lost {m : Mach} {v : Nat} (hv : v < 168) (ha : m.pair.feedA = true) : m.feedLoss false v =
    ({ m with pair.voltA := v, pair.runA := 0, pair.feedA := false }.raise srcFeed .corr (flag false 0)).judgeFeeds := by
  simp [Mach.feedLoss, show ¬ 184 < v by omega, show ¬ 168 ≤ v by omega, ha]

theorem feedLoss_b_lost {m : Mach} {v : Nat} (hv : v < 168) (hb : m.pair.feedB = true) : m.feedLoss true v =
    ({ m with pair.voltB := v, pair.runB := 0, pair.feedB := false }.raise srcFeed .corr (flag true 0)).judgeFeeds := by
  simp [Mach.feedLoss, show ¬ 184 < v by omega, show ¬ 168 ≤ v by omega, hb]

theorem feedLoss_a_noted {m : Mach} {v : Nat} (h : 168 ≤ v ∨ m.pair.feedA = false) : m.feedLoss false v =
    { m with pair.voltA := v, pair.runA := if 184 < v then m.pair.runA else 0 } := by
  by_cases hv : 184 < v
  · simp [Mach.feedLoss, hv, show 168 ≤ v by omega]
  · simp [Mach.feedLoss, hv, h]

theorem plcaTake_unnumbered {m : Mach} (heard other : Bool) (h : m.phys.plcaNode = none) : m.plcaTake heard other =
    if heard then { m with phys.plcaNode := some 1, phys.plcaQuiet := 0 }
    else if (if m.pair.side then 200 else 100) ≤ m.phys.plcaQuiet then { m with phys.plcaNode := some 0 } else m := by
  unfold Mach.plcaTake; dsimp only; rw [h]

theorem plcaTake_coordinator {m : Mach} (heard other : Bool) (h : m.phys.plcaNode = some 0) : m.plcaTake heard other =
    if m.pair.side && other then { m with phys.plcaNode := some 1, phys.plcaQuiet := 0 } else m := by
  unfold Mach.plcaTake; dsimp only; rw [h]; rfl

theorem plcaTake_follower {m : Mach} {n : Nat} (heard other : Bool) (h : m.phys.plcaNode = some (n + 1)) : m.plcaTake heard other =
    if heard then { m with phys.plcaQuiet := 0 } else if 100 ≤ m.phys.plcaQuiet then { m with phys.plcaNode := some 0 } else m := by
  unfold Mach.plcaTake; dsimp only; rw [h]; rfl

/-- Settles O43, by the condition of each row. -/
theorem feedsLeverAndLinkNodeAreFollowed : Obligations.FeedsLeverAndLinkNodeAreFollowed := by
  unfold Obligations.FeedsLeverAndLinkNodeAreFollowed
  refine ⟨fun m v hv ha hb => ⟨_, rfl, .of_on (exec_feedLoss false v) ?_⟩, fun m v hv ha hb => ⟨_, rfl, .of_on (exec_feedLoss true v) ?_⟩,
    fun m v h => .of_on (exec_feedLoss false v) (feedLoss_a_noted h), fun m v hv hr ha => ⟨_, rfl, .of_on (exec_feedReturn false v) ?_⟩,
    fun m v h => .of_on (exec_feedReturn true v) (if_pos h), fun m => .of_on exec_ejectorOpen rfl,
    fun m o hn => .of_on (exec_plcaNodeTake true o) (plcaTake_unnumbered true o hn),
    fun m o hn hq => .of_on (exec_plcaNodeTake false o) ((plcaTake_unnumbered false o hn).trans (if_pos hq)),
    fun m h hn hs => .of_on (exec_plcaNodeTake h true) ((plcaTake_coordinator h true hn).trans (if_pos (by simp [hs]))),
    fun m o hn hq => .of_on (exec_plcaNodeTake false o) ((plcaTake_unnumbered false o hn).trans (if_neg (Nat.not_le.mpr hq))),
    fun m h o hn hs => .of_on (exec_plcaNodeTake h o) ((plcaTake_coordinator h o hn).trans (if_neg ?_)),
    fun m o n hn => ⟨.of_on (exec_plcaNodeTake true o) (plcaTake_follower true o hn),
      fun hq => .of_on (exec_plcaNodeTake false o) ((plcaTake_follower false o hn).trans (if_pos hq)),
      fun hq => .of_on (exec_plcaNodeTake false o) ((plcaTake_follower false o hn).trans (if_neg (Nat.not_le.mpr hq)))⟩,
    fun m hp hd => .of_on exec_operatingTimeSave (if_pos (by simp [hp, hd])), fun m h => .of_on exec_operatingTimeSave (if_neg ?_)⟩
  · rw [feedLoss_a_lost hv ha, judgeFeeds_lost (by simp) (by simpa using hb)]; simp
  · rw [feedLoss_b_lost hv hb, judgeFeeds_powered (.inl (by simpa using ha))]
  · have hret : m.feedReturn false v = ({ m with pair.voltA := v, pair.feedA := true }.raise srcFeed .info (flag false 0)).judgeFeeds :=
      if_neg (by simp [ha]; omega)
    rw [hret, judgeFeeds_powered (.inl (by simp))]
  · obtain h | h := hs <;> simp [h]
  · obtain h | h := h <;> simp [h]

end Sys2Proof.Machine
end

section
/-! PROOFS. Peer links, plans and maintenance (chapter 11, chapter 14's suspect bit). -/

namespace Sys2Proof.Machine

/-! ## Frames of a peer link (R320 to R324) -/

/-- A frame in its turn does its work on the module that has heard it. -/
theorem Gives.of_frame {i : Instr} {m n : Mach} {h : PeerHdr} {t : FrameType} (hi : ∀ s, exec i s = s.on (fun k => k.receive i))
    (hf : frameOf i = some (h, t)) (hh : m.hears h t) (e : (m.heard h).frameWork i = n) : Gives i m n :=
  .of_on hi ((receive_heard hf hh).trans e)

/-- Every row that brings a frame receives it. -/
theorem exec_of_frameOf {i : Instr} {h : PeerHdr} {t : FrameType} (hf : frameOf i = some (h, t)) (s : State) :
    exec i s = s.on (fun m => m.receive i) := by
  unfold frameOf at hf
  split at hf
  case h_13 => simp at hf
  all_goals rfl

/-- A link that is up has its place in the table. -/
theorem peer_in_range {m : Mach} {n : Nat} (h : (m.peer n).st ≠ .down) : n < m.peers.length := by
  by_contra hlt
  exact h (by rw [Mach.peer, List.getD_eq_default _ _ (by omega)]; rfl)

theorem setPeer_fun_id (m : Mach) (n : Nat) : m.setPeer n (fun l => l) = m := by
  change { m with peers := m.peers.modify n id } = m
  rw [List.modify_id]

/-- A link on which nothing waits, after the header of a frame without skip markers. -/
theorem peer_noteHeader {m : Mach} {h : PeerHdr} (hn : h.link < m.peers.length) :
    (m.noteHeader h).peer h.link = (m.peer h.link).noted h := by
  have hpeers : (m.noteHeader h).peers = (m.setPeer h.link (fun l => l.noted h)).peers := rfl
  rw [Mach.peer, hpeers]
  exact peer_setPeer_at m h.link (fun l => l.noted h) hn

theorem noted_rx (l : PeerLinkSt) (h : PeerHdr) : (l.noted h).rx = l.rx := rfl

/-- A sound frame on a link that receives is kept or dropped by its number, and then what is due is delivered. -/
theorem receive_sound {m : Mach} {i : Instr} {h : PeerHdr} {t : FrameType} (hf : frameOf i = some (h, t)) (hl : h.link < m.sys.links)
    (hs : (m.peer h.link).st = .ident ∨ (m.peer h.link).st = .held ∨ (m.peer h.link).st = .service) (hg : frameSound h t = true)
    (ht : t = .ident ∨ h.planTag = m.planTag) {k : Mach} (hk : k = (m.noteHeader h).setPeer h.link (fun l => l.keep h.seq i)) :
    m.receive i = Mach.deliverDue h.link ((k.peer h.link).early.length + (k.peer h.link).skips.length) k := by
  subst hk
  unfold Mach.receive
  rw [hf]
  have hgood : (!frameSound h t || decide (t ≠ .ident) && h.planTag != m.planTag) = false := by
    obtain rfl | ht := ht
    · simp [hg]
    · simp [hg, ht]
  dsimp only
  rw [if_neg (by obtain hs | hs | hs := hs <;> simp [hs, hl]), hgood]
  rfl

/-- A frame whose number is not above the last delivered one leaves nothing to deliver. -/
theorem receive_passed {m : Mach} {i : Instr} {h : PeerHdr} {t : FrameType} (hf : frameOf i = some (h, t)) (hl : h.link < m.sys.links)
    (hs : (m.peer h.link).st = .ident ∨ (m.peer h.link).st = .held ∨ (m.peer h.link).st = .service) (hg : frameSound h t = true)
    (ht : t = .ident ∨ h.planTag = m.planTag) (h0 : h.skipped = []) (he : (m.peer h.link).early = []) (hk : (m.peer h.link).skips = [])
    (hq : seqAbove h.seq (m.peer h.link).rx = false) : m.receive i = m.noteHeader h := by
  have hn : h.link < m.peers.length := peer_in_range (by obtain hs | hs | hs := hs <;> simp [hs])
  have hpeer := peer_noteHeader hn
  have hkeep : m.noteHeader h = (m.noteHeader h).setPeer h.link (fun l => l.keep h.seq i) := by
    rw [setPeer_congr (f := fun l => l.keep h.seq i) (g := fun l => l) _ (by rw [hpeer]; simp [PeerLinkSt.keep, noted_rx, hq]), setPeer_fun_id]
  rw [receive_sound hf hl hs hg ht hkeep, hpeer]
  simp [PeerLinkSt.noted, he, hk, h0, Mach.deliverDue]

/-- A frame ahead of its turn waits on its link. -/
theorem receive_early {m : Mach} {i : Instr} {h : PeerHdr} {t : FrameType} (hf : frameOf i = some (h, t)) (hl : h.link < m.sys.links)
    (hs : (m.peer h.link).st = .ident ∨ (m.peer h.link).st = .held ∨ (m.peer h.link).st = .service) (hg : frameSound h t = true)
    (ht : t = .ident ∨ h.planTag = m.planTag) (h0 : h.skipped = []) (he : (m.peer h.link).early = []) (hk : (m.peer h.link).skips = [])
    (hq : seqAbove h.seq (m.peer h.link).rx = true) (hd : h.seq ≠ (m.peer h.link).due) :
    m.receive i = (m.noteHeader h).setPeer h.link (fun l => { l with early := [(h.seq, i)] }) := by
  have hn : h.link < m.peers.length := peer_in_range (by obtain hs | hs | hs := hs <;> simp [hs])
  have hpeer := peer_noteHeader hn
  have hkeep : (m.noteHeader h).setPeer h.link (fun l => { l with early := [(h.seq, i)] }) =
      (m.noteHeader h).setPeer h.link (fun l => l.keep h.seq i) :=
    setPeer_congr _ (by rw [hpeer]; simp [PeerLinkSt.keep, PeerLinkSt.noted, hq, he])
  have hlen : h.link < (m.noteHeader h).peers.length := by simpa [Mach.noteHeader, Mach.setPeer] using hn
  obtain ⟨l, hwait, hskip, hearly, hdue⟩ : ∃ l, ((m.noteHeader h).setPeer h.link (fun l => { l with early := [(h.seq, i)] })).peer h.link = l ∧
      l.skips = [] ∧ l.early = [(h.seq, i)] ∧ h.seq ≠ l.due :=
    ⟨_, peer_setPeer_at _ _ _ hlen, by rw [hpeer]; simp [PeerLinkSt.noted, hk, h0], rfl, by rw [hpeer]; exact hd⟩
  rw [receive_sound hf hl hs hg ht hkeep, hwait, hskip, hearly]
  simp only [List.length_cons, List.length_nil, Nat.zero_add, Nat.add_zero, Mach.deliverDue, hwait, hskip, hearly, List.contains_nil,
    Bool.false_eq_true, if_false, List.find?_cons, List.find?_nil, beq_false_of_ne hdue]

theorem receive_unsound {m : Mach} {i : Instr} {h : PeerHdr} {t : FrameType} (hf : frameOf i = some (h, t)) (hl : h.link < m.sys.links)
    (hs : (m.peer h.link).st = .service) (hb : frameSound h t = false ∨ t ≠ .ident ∧ h.planTag ≠ m.planTag) :
    m.receive i = m.bump (.plLinkErr h.link) 15 8 1 := by
  unfold Mach.receive
  rw [hf]
  dsimp only
  rw [if_neg (by simp [hs, hl])]
  exact if_pos (by simpa using hb)

/-! ## Locks, losses, retransmission and identities (R325 to R334) -/

/-- A link on which an identity has just been judged begins its time of verification, once. -/
theorem ident_verdict (m : Mach) (h : PeerHdr) (sn pos link plan : Nat) (ok : Bool) {k : Mach} (hk : k = (m.setPeer h.link (fun l =>
    { l with farSerial := sn, farPos := some pos, farLink := link, farPlan := plan, farOk := ok })).judgeLink h.link) :
    m.ident h sn pos link plan ok =
      if k.verifying h.link && k.hall.maintSince.isNone then { k with hall.maintSince := some k.time.count } else k := by
  subst hk; rfl

theorem linkFails_counted {m k : Mach} {n : Nat} (hn : n < m.sys.links) (hd : (m.peer n).st ≠ .down) (hm : (m.peer n).st ≠ .maint)
    (hk : k = m.setPeer n (fun l => { l.restarted with st := .training, lostAt := [], health := 3 })) : m.linkFails n =
      if (m.peer n).st = .service then ((k.linkOut.bump (.plLinkErr n) 7 0 1).raise (srcPeerLink n) .corr (linkDetail 3 0)).checkAlone
      else if (m.peer n).health = 3 then k else k.raise (srcPeerLink n) .corr (linkDetail 3 0) := by
  subst hk
  refine (if_neg (by simp [hn, hd, hm])).trans ?_
  by_cases hs : (m.peer n).st = .service <;> simp [hs]

/-- Settles O44: the turn of a frame by its number, and the condition of each link row. -/
theorem peerLinksCarryCountAndFail : Obligations.PeerLinksCarryCountAndFail := by
  unfold Obligations.PeerLinksCarryCountAndFail
  refine ⟨fun m h sn pos link var plan ok hh => ⟨_, rfl, fun hv => ?_, fun hv hs => ?_, fun hs => ?_⟩,
    fun m i h t hf hl hs hg ht h0 he hk => ⟨fun hq => .of_on (exec_of_frameOf hf) (receive_passed hf hl hs hg ht h0 he hk hq),
      fun hq hd => .of_on (exec_of_frameOf hf) (receive_early hf hl hs hg ht h0 he hk hq hd)⟩,
    fun m h a b hh => .of_frame (exec_health h a b) rfl hh rfl,
    fun m h a b hl hs hb => .of_on (exec_health h a b) (receive_unsound rfl hl hs (hb.imp_right fun hp => ⟨by simp, hp⟩)),
    fun m n hn hs => .of_on (exec_peerLinkLock n) (if_pos ⟨hn, hs⟩), fun m n h => .of_on (exec_peerLinkLock n) (if_neg ?_),
    fun m n hn hd hm => ⟨_, rfl, fun hs hh => ?_, fun hs hh => ?_, fun hs => ?_⟩, fun m n h => .of_on (exec_peerLinkDown n) (if_pos h),
    fun m n q h => .of_on (exec_peerRetransmit n q) (if_pos h),
    fun m n q h => ⟨_, rfl, fun hl => .of_on (exec_peerFrameLost n q) ((if_pos h).trans (if_neg (by omega))),
      fun hl => .of_on (exec_peerFrameLost n q) ((if_pos h).trans (if_pos hl))⟩,
    fun m n q h => ⟨.of_on (exec_peerRetransmit n q) (if_neg (by simp [h])), .of_on (exec_peerFrameLost n q) (if_neg (by simp [h]))⟩,
    fun m h => .of_on exec_identRepeat (if_pos h), fun m h => .of_on exec_identRepeat (if_neg (by simp [h]))⟩
  · exact .of_frame (exec_ident h sn pos link var plan ok) rfl hh ((ident_verdict _ h sn pos link plan ok rfl).trans (if_neg (by simp [hv])))
  · exact .of_frame (exec_ident h sn pos link var plan ok) rfl hh ((ident_verdict _ h sn pos link plan ok rfl).trans (if_pos (by simp [hv, hs])))
  · obtain ⟨c, hc⟩ := Option.isSome_iff_exists.mp hs
    exact .of_frame (exec_ident h sn pos link var plan ok) rfl hh ((ident_verdict _ h sn pos link plan ok rfl).trans (if_neg (by simp [hc])))
  · rintro ⟨hn, hs⟩
    obtain h | h := h
    · omega
    · exact h hs
  · exact .of_on (exec_peerLinkDown n) ((linkFails_counted hn hd hm rfl).trans ((if_neg hs).trans (if_pos hh)))
  · exact .of_on (exec_peerLinkDown n) ((linkFails_counted hn hd hm rfl).trans ((if_neg hs).trans (if_neg hh)))
  · exact .of_on (exec_peerLinkDown n) ((linkFails_counted hn hd hm rfl).trans (if_pos hs))

/-! ## Plans (R350 to R355) -/

/-- The load that is under way ends with what the check of its image says. -/
theorem planLoaded_at {m : Mach} {a n : Nat} {b : List Byte} (h : m.hall.loading = some (a, n))
    (hb : b = if m.poisonIn a n then [] else m.bytes a n) : m.planLoaded =
      let k := m.checkRead a n
      if k.planCheck b = 0 then
        { k with hall.loading := none, hall.bufState := 2, hall.loadStatus := 0, hall.bufs := k.hall.bufs.set (1 - k.planBuf) (some (planOf b)) }
      else { k with hall.loading := none, hall.bufState := 3, hall.loadStatus := k.planCheck b, hall.bufs := k.hall.bufs.set (1 - k.planBuf) none } := by
  unfold Mach.planLoaded
  rw [h, hb]; rfl

/-! ## Maintenance (R356 to R361) -/

theorem field_maintWord_act {a n : Nat} (ha : a < 4) : field (place a 30 ||| place (n % 64) 24) 31 30 = a := by
  rw [field_or, field_place_self (by decide) (by omega), field_place_below (k := 6) (by omega) (by decide), Nat.or_zero]

theorem field_maintWord_link (a : Nat) {n : Nat} (hn : n < 64) : field (place a 30 ||| place (n % 64) 24) 29 24 = n := by
  rw [field_or, field_place_above (by decide), field_place_self (by decide) (by omega), Nat.zero_or, Nat.mod_eq_of_lt hn]

theorem maintWrite_takesOut {m k : Mach} {v : Word} {n : Nat} (ha : field v 31 30 = 1) (hn : field v 29 24 = n)
    (hk : k = m.wrField .plMaint 29 24 n) : m.maintWrite v =
      if (k.parentLink == some n && !k.altLink.any (fun a => a != n)) || (k.altLink == some n && !k.parentLink.any (fun a => a != n))
        || k.maintBusy || decide (k.sys.links ≤ n) then { k with hall.maintRefused := true }
      else
        let j := ({ (if decide ((k.peer n).st = .service) then k.sendOn .leave toAll n else k) with
          hall.maint := 1, hall.maintLink := n, hall.maintRefused := false } : Mach).setPeer n
          (fun l => { l with st := .maint, retry := [], farOk := false, noticed := decide ((k.peer n).st = .service) })
        (if decide ((k.peer n).st = .service) then j.linkOut else j).checkAlone := by
  subst hk hn
  unfold Mach.maintWrite
  dsimp only
  exact if_pos ha

theorem maintWrite_verifies {m k : Mach} {v : Word} {n : Nat} (ha : field v 31 30 = 2) (hn : field v 29 24 = n)
    (hk : k = m.wrField .plMaint 29 24 n) : m.maintWrite v =
      if (k.peer n).st = .maint then
        { k.setPeer n (fun l => { l with st := if k.en fnPeer then .training else .down, samples := [], noticed := false }) with
          hall.maint := 2, hall.maintLink := n, hall.maintRefused := false, hall.maintSince := none }
      else { k with hall.maintRefused := true } := by
  subst hk hn
  unfold Mach.maintWrite
  dsimp only
  exact (if_neg (by omega)).trans (if_pos ha)

theorem Gives.of_maintTakeOut {m j : Mach} {c : Cls} {n : Nat} (h : m.lands c .plMaint true)
    (e : m.maintWrite (place 1 30 ||| place (n % 64) 24) = j) : Gives (.maintTakeOut c n) m j :=
  .of_landed (exec_maintTakeOut c n) h e

theorem Gives.of_maintVerify {m j : Mach} {c : Cls} {n : Nat} (h : m.lands c .plMaint true)
    (e : m.maintWrite (place 2 30 ||| place (n % 64) 24) = j) : Gives (.maintVerify c n) m j :=
  .of_landed (exec_maintVerify c n) h e

/-- A link is not the only way where another link leads up, or where none of its own kind does. -/
theorem maintWrite_mayLeave {k : Mach} {n : Nat} (hl : n < k.sys.links) (hb : k.maintBusy = false)
    (hp : k.parentLink = some n → k.altLink.any (fun a => a != n) = true) (ha : k.altLink = some n → k.parentLink.any (fun a => a != n) = true) :
    ((k.parentLink == some n && !k.altLink.any (fun a => a != n)) || (k.altLink == some n && !k.parentLink.any (fun a => a != n))
        || k.maintBusy || decide (k.sys.links ≤ n)) = false := by
  have hpar : (k.parentLink == some n && !k.altLink.any (fun a => a != n)) = false := by
    cases hc : k.parentLink == some n
    · rfl
    · rw [hp (by simpa using hc)]; rfl
  have halt : (k.altLink == some n && !k.parentLink.any (fun a => a != n)) = false := by
    cases hc : k.altLink == some n
    · rfl
    · rw [ha (by simpa using hc)]; rfl
  rw [hpar, halt, hb]
  simpa using hl

theorem maintDone_verified {m : Mach} {r : OptRead} {x : OptSample} {c : Nat} (h2 : m.hall.maint = 2) (hs : m.hall.maintSince = some c)
    (hc : c + 1000 ≤ m.time.count) (hx : x = m.optSample { r with link := m.hall.maintLink }) : m.maintDone r =
      let k : Mach := { m with
        hall.maint := if linkHealth [x] == 0 && decide (meanExcess [x] < 5) && decide ((m.peer m.hall.maintLink).st ≠ .training) then 3 else 4
        hall.maintRefused := false
        hall.maintSince := none }
      if (k.peer m.hall.maintLink).st = .ident ∧ (k.peer m.hall.maintLink).farPos.isSome then k.judgeLink m.hall.maintLink else k := by
  subst hx
  exact if_neg (by simp [h2, hs, hc])

theorem measure_second {m k : Mach} {rs : List OptRead} (h : m.time.count % 100000 = 0) (hk : k = rs.foldl Mach.measureLink m) : m.measure rs =
    match k.suspectNow with
    | some (c, n, _, _) =>
      if field (suspectWord k.suspectNow) 31 16 = field k.hall.suspect 31 16 then { k with hall.suspect := suspectWord k.suspectNow }
      else ({ k with hall.suspect := suspectWord k.suspectNow } : Mach).raise (srcPeerLink n) .info
        (linkDetail (k.peer n).health 0 ||| place (c % 65536) 16)
    | none => { k with hall.suspect := suspectWord k.suspectNow } := by
  subst hk
  exact if_neg (by simp [h])

/-- Settles O45, by the condition of each row. -/
theorem plansLoadAndLinksAreMaintained : Obligations.PlansLoadAndLinksAreMaintained := by
  unfold Obligations.PlansLoadAndLinksAreMaintained
  refine ⟨fun m c v h => ⟨fun hb => .of_landed (exec_planLoad c v) h (if_pos (by simp [hb])),
      fun hb hn => .of_landed (exec_planLoad c v) h ((if_neg (by simp [hb])).trans (if_neg (by simp [hn]))),
      fun hb hn => .of_landed (exec_planLoad c v) h ((if_neg (by simp [hb])).trans (if_pos hn))⟩,
    fun m a n b h hb => ⟨_, rfl, fun hc => .of_on exec_planLoadDone ((planLoaded_at h hb).trans (if_pos hc)),
      fun hc => .of_on exec_planLoadDone ((planLoaded_at h hb).trans (if_neg hc))⟩,
    fun m h => .of_on exec_planLoadDone (by unfold Mach.planLoaded; rw [h]), fun m c n h hn => ?_,
    fun m r h => .of_on (exec_maintVerifyDone r) (if_pos h), fun m r x c h2 hs hc hx => ?_,
    fun m rs h => .of_on (exec_linkHealthMeasure rs) (if_pos h), fun m rs h => ⟨_, rfl, fun hn => ?_, fun x hx => ⟨fun hf => ?_, fun hf => ?_⟩⟩,
    fun m c v h => .of_landed (exec_suspectClear c v) h rfl⟩
  · have hout := maintWrite_takesOut (m := m) (field_maintWord_act (n := n) (by decide)) (field_maintWord_link 1 hn) rfl
    have hver := maintWrite_verifies (m := m) (field_maintWord_act (n := n) (by decide)) (field_maintWord_link 2 hn) rfl
    refine ⟨_, rfl, fun hl => .of_maintTakeOut h (hout.trans (if_pos ?_)), fun hb => .of_maintTakeOut h (hout.trans (if_pos ?_)),
      fun hp ha => .of_maintTakeOut h (hout.trans (if_pos ?_)), fun hl hb hp ha => ⟨_, rfl, fun hs => .of_maintTakeOut h (hout.trans ?_),
        fun hs => .of_maintTakeOut h (hout.trans ?_)⟩, fun hs => .of_maintVerify h (hver.trans (if_pos hs)),
      fun hs => .of_maintVerify h (hver.trans (if_neg hs))⟩
    · simp [hl]
    · simp [hb]
    · simp [hp, ha]
    · rw [maintWrite_mayLeave (k := m.wrField .plMaint 29 24 n) hl hb hp ha]; simp [hs]
    · rw [maintWrite_mayLeave (k := m.wrField .plMaint 29 24 n) hl hb hp ha]; simp [hs]
  · have hdone := maintDone_verified h2 hs hc hx
    have hpass : (linkHealth [x] == 0 && decide (meanExcess [x] < 5) && decide ((m.peer m.hall.maintLink).st ≠ .training)) = true ↔
        linkHealth [x] = 0 ∧ meanExcess [x] < 5 ∧ (m.peer m.hall.maintLink).st ≠ .training := by simp [and_assoc]
    simp only [hpass] at hdone
    refine ⟨_, rfl, fun hi hf => .of_on (exec_maintVerifyDone r) (hdone.trans (if_pos ⟨hi, hf⟩)),
      fun hn => .of_on (exec_maintVerifyDone r) (hdone.trans (if_neg ?_))⟩
    rintro ⟨hi, hf⟩
    obtain hn | hn := hn
    · exact hn hi
    · have hfar : (m.peer m.hall.maintLink).farPos.isSome = true := hf
      rw [hn] at hfar
      exact absurd hfar (by decide)
  · refine .of_on (exec_linkHealthMeasure rs) ((measure_second h rfl).trans ?_)
    rw [hn]
  · refine .of_on (exec_linkHealthMeasure rs) ((measure_second h rfl).trans ?_)
    rw [hx]; exact if_pos hf
  · refine .of_on (exec_linkHealthMeasure rs) ((measure_second h rfl).trans ?_)
    rw [hx]; exact if_neg hf

end Sys2Proof.Machine
end

section
/-! PROOFS. Time, reports, superframes and mastership (chapters 02, 11). -/

namespace Sys2Proof.Machine

/-- A heard frame leaves all of the hall but the highest term seen. -/
@[simp] theorem heard_hall (m : Mach) (h : PeerHdr) : (m.heard h).hall = { m.hall with high := maxTerm h.term m.hall.high } := by
  unfold Mach.heard Mach.noteHeader
  generalize maxTerm h.term m.hall.high = x
  rfl

@[simp] theorem heard_plan (m : Mach) (h : PeerHdr) : (m.heard h).plan = m.plan := by simp [Mach.plan]

@[simp] theorem heard_before (m : Mach) (h : PeerHdr) (a b : Nat) : (m.heard h).before a b = m.before a b := by
  simp [Mach.before, Mach.succPos]

/-! ## Time messages and reports (R327, R335 to R340) -/

theorem timeMessage_steady {m : Mach} (off : Int) (c : Nat) (hf : m.time.state ≠ .free) (hj : m.time.state ≠ .joining) :
    m.timeMessage off c = { m with
      free := m.free + 1
      time.sinceMsg := 1
      time.offset := off
      time.freqCorr := (Config.freeWord m.free).toInt
      time.state := timeStateOf off } := by
  unfold Mach.timeMessage
  dsimp only [Mach.take]
  split
  case h_1 h => exact absurd h hf
  case h_2 h => exact absurd h hj
  case h_3 => rfl

theorem timeMessage_joins {m : Mach} (off : Int) (c : Nat) (h : m.time.state = .free ∨ m.time.state = .joining) :
    m.timeMessage off c = { m with
      free := m.free + 1
      time.sinceMsg := 1
      time.offset := off
      time.freqCorr := (Config.freeWord m.free).toInt
      time.state := .joining
      time.adoptDelta := if m.time.inDomain then none else some ((c : Int) - (m.time.count : Int)) } := by
  unfold Mach.timeMessage
  dsimp only [Mach.take]
  split
  case h_1 => rfl
  case h_2 => rfl
  case h_3 hf hj => exact absurd h (not_or.mpr ⟨hf, hj⟩)

theorem timeFrame_follower {m : Mach} (h : PeerHdr) (off : Int) (c : Nat) (hm : m.hall.isMaster = false) (hp : m.parentLink = some h.link) :
    m.timeFrame h off c = m.timeMessage off c := if_neg (by simp [hm, hp])

theorem takeReport_held {m : Mach} {r : Report} (h : m.hall.reports.any (fun x => x.pos == r.pos && x.k == r.k) = true) :
    m.takeReport r = m := if_pos h

/-- A report at the master, by its superframe and frame. -/
theorem reportFrame_master {m : Mach} (h : PeerHdr) (r : Report) (hm : m.hall.isMaster = true) : m.reportFrame h r =
    if m.hall.reports.any (fun x => x.pos == r.pos && x.k == r.k) then m
    else if r.k = m.time.count / 100 ∧ m.time.count % 100 ≤ 58 then m.takeReport r
    else if m.hall.members.any (fun x => x.1 == r.pos) || m.hall.late.contains (r.pos, r.k) then m
    else { m.bump .plMsgStat 31 16 1 with hall.late := m.hall.late.filter (fun x => x.2 + 2 > m.time.count / 100) ++ [(r.pos, r.k)] } :=
  if_neg (by simp [hm])

/-- A report in time is taken, and one that is held already leaves the master as it is: taking it again would too. -/
theorem reportFrame_inTime {m : Mach} (h : PeerHdr) {r : Report} (hm : m.hall.isMaster = true) (hk : r.k = m.time.count / 100)
    (ht : m.time.count % 100 ≤ 58) : m.reportFrame h r = m.takeReport r := by
  rw [reportFrame_master h r hm]
  split
  case isTrue hh => rw [takeReport_held hh]
  case isFalse => exact if_pos ⟨hk, ht⟩

/-- A report that the master holds, or a late one that it counts with the table or has counted, changes nothing. -/
theorem reportFrame_known {m : Mach} (h : PeerHdr) {r : Report} (hm : m.hall.isMaster = true)
    (hs : m.hall.reports.any (fun x => x.pos == r.pos && x.k == r.k) = true ∨ (r.k ≠ m.time.count / 100 ∨ 58 < m.time.count % 100) ∧
      (m.hall.members.any (fun x => x.1 == r.pos) = true ∨ m.hall.late.contains (r.pos, r.k) = true)) : m.reportFrame h r = m := by
  rw [reportFrame_master h r hm]
  split
  case isTrue => rfl
  case isFalse hn =>
    obtain hs | ⟨hl, hs⟩ := hs
    · exact absurd hs hn
    · refine (if_neg (by omega)).trans (if_pos ?_)
      obtain hs | hs := hs <;> rw [hs] <;> simp

theorem reportFrame_late {m : Mach} (h : PeerHdr) {r : Report} (hm : m.hall.isMaster = true)
    (hl : r.k ≠ m.time.count / 100 ∨ 58 < m.time.count % 100) (hr : m.hall.reports.any (fun x => x.pos == r.pos && x.k == r.k) = false)
    (hb : m.hall.members.any (fun x => x.1 == r.pos) = false) (hw : m.hall.late.contains (r.pos, r.k) = false) : m.reportFrame h r =
      { m.bump .plMsgStat 31 16 1 with hall.late := m.hall.late.filter (fun x => x.2 + 2 > m.time.count / 100) ++ [(r.pos, r.k)] } := by
  rw [reportFrame_master h r hm, hr, hb, hw]
  refine (if_neg (by simp)).trans ((if_neg ?_).trans (if_neg (by simp)))
  rintro ⟨hk, ht⟩
  omega

theorem reportSend_due {m : Mach} (hc : m.time.count % 100 = 50) (hd : m.time.inDomain = true) (hj : m.hall.joined < m.time.count / 100) :
    m.reportSend =
      if m.hall.isMaster then { m with hall.refusals := m.hall.refusals.drop 2 }.takeReport (m.ownReport (m.time.count / 100))
      else match m.hall.claim with
        | some c => { m with hall.refusals := m.hall.refusals.drop 2 }.sendTo .report c.pos
        | none => { m with hall.refusals := m.hall.refusals.drop 2 }.sendUp .report := if_neg (by simp [hc, hd, hj])

/-- A follower's report goes up, or to the claimant it follows. -/
theorem reportSend_follower {m : Mach} (hc : m.time.count % 100 = 50) (hd : m.time.inDomain = true) (hj : m.hall.joined < m.time.count / 100)
    (hm : m.hall.isMaster = false) : m.reportSend =
      match m.hall.claim with
        | some c => { m with hall.refusals := m.hall.refusals.drop 2 }.sendTo .report c.pos
        | none => { m with hall.refusals := m.hall.refusals.drop 2 }.sendUp .report :=
  (reportSend_due hc hd hj).trans (if_neg (by simp [hm]))

/-! ## Table and superframe message (R340 to R347) -/

theorem tableSend_off {m : Mach} (h : m.plan = none ∨ m.hall.isMaster = false ∨ m.time.count % 100 < 59 ∨ 60 < m.time.count % 100) :
    m.tableSend = m := by
  unfold Mach.tableSend
  dsimp only
  cases hp : m.plan with
  | none => rfl
  | some p =>
    refine if_pos ?_
    obtain h | h | h | h := h
    · simp [hp] at h
    all_goals simp [h]

/-- Giving the hall the reports and members it has changes neither. -/
theorem table_of_same {k : Mach} {rs : List Report} {ms : List (Nat × Nat)} (t : Nat × List Report) (hr : rs = k.hall.reports)
    (hm : ms = k.hall.members) : ({ k with hall.reports := rs, hall.members := ms, hall.table := some t } : Mach) =
      { k with hall.table := some t } := by
  subst hr hm; rfl

theorem tableSend_alone {m : Mach} {p : Plan} (hp : m.plan = some p) (hm : m.hall.isMaster = true) (hc : m.time.count % 100 = 59)
    (ht : m.hall.table = none) (he : m.hall.members = []) (hr : m.hall.reports = []) : m.tableSend =
      ({ m.bump .plMsgStat 31 16 0 with hall.table := some (m.time.count / 100, p.shelves.filterMap (shelfReport [])) } : Mach).flood .table none := by
  unfold Mach.tableSend
  dsimp only
  rw [hp]
  refine (if_neg (by simp [hm, hc, ht])).trans ?_
  rw [he, hr]
  exact congrArg (fun k : Mach => k.flood .table none) (table_of_same (k := m.bump .plMsgStat 31 16 0) _ hr.symm he.symm)

theorem superframeFrame_passed {m : Mach} (h : PeerHdr) {s : SfMsg} (hs : atOrAbove s.term m.hall.term = false ∨ m.hall.isMaster = true ∧
    (s.master = m.sys.position ∨ seqAbove s.term m.hall.term = false ∧ m.before s.master m.sys.position = false)) :
    m.superframeFrame h s = m := by
  refine if_pos ?_
  obtain hs | ⟨hm, hs | ⟨hs, hb⟩⟩ := hs
  · simp [hs]
  · simp [hm, hs]
  · simp [hm, hs, hb]

/-- A follower keeps a fragment of a message in its time that it does not hold. -/
theorem superframeFrame_inTime {m : Mach} (h : PeerHdr) {s : SfMsg} {ps : List SfMsg} (hps : ps = if m.hall.lastMsg = some (msgKey s) then m.hall.parts else [])
    (ha : atOrAbove s.term m.hall.term = true) (hm : m.hall.isMaster = false) (ht : m.time.inDomain = false ∨ s.k = m.time.count / 100 + 1) :
    m.superframeFrame h s =
      if ps.any (fun p => p.frag == s.frag) ∨ s.frags ≤ s.frag then m
      else
        let a : Mach := { m with hall.lastMsg := some (msgKey s), hall.parts := ps ++ [s] }
        (if ps.length + 1 = s.frags then a.acceptMessage (joinParts (ps ++ [s]) s) else a).flood .superframe (some h.link) (some h.src) := by
  subst hps
  refine (if_neg ?_).trans ?_
  · obtain ht | ht := ht <;> simp [ha, hm, ht]
  · simp only [List.length_append, List.length_cons, List.length_nil, Nat.zero_add]

/-- The module that has taken the phase and the term of a message. -/
def Mach.notesMessage (m : Mach) (s : SfMsg) : Mach := { m with
  hall.phaseRef := s.phase
  hall.high := maxTerm s.term m.hall.high
  hall.claim := m.hall.claim.filter (fun c => seqAbove c.term s.term)
  time.sinceMsg := 1 }

theorem acceptMessage_free {m : Mach} (s : SfMsg) (h : m.time.inDomain = false) :
    m.acceptMessage s = { m.notesMessage s with hall.term := s.term, hall.master := some s.master } := if_pos (by simp [h])

/-- What a message is noted by leaves the mastership, whatever is noted. -/
theorem isMaster_of_noted (m : Mach) (phase : Int) (high : Nat) (claim : Option ClaimSt) (since : Nat) :
    ({ m with hall.phaseRef := phase, hall.high := high, hall.claim := claim, time.sinceMsg := since } : Mach).hall.isMaster = m.hall.isMaster := rfl

theorem notesMessage_isMaster (m : Mach) (s : SfMsg) : (m.notesMessage s).hall.isMaster = m.hall.isMaster :=
  isMaster_of_noted m _ _ _ _

/-- A module with the mark to step down it has is the same module. -/
theorem stepDown_of_follower {k : Mach} (x : Option (Nat × Nat)) (h : k.hall.isMaster = false) :
    ({ k with hall.stepDown := if k.hall.isMaster then x else k.hall.stepDown } : Mach) = k := by
  rw [h]; rfl

theorem acceptMessage_eq {m k : Mach} (s : SfMsg) (hk : k = m.notesMessage s) : m.acceptMessage s =
    if !k.time.inDomain then { k with hall.term := s.term, hall.master := some s.master }
    else
      let n : Mach := s.disarms.foldl Mach.disarmDomain (s.launches.foldl Mach.armDomain
        { k with hall.stepDown := if k.hall.isMaster then some (s.term, s.master) else k.hall.stepDown })
      if s.k = m.time.count / 100 ∧ s.bands.isNone then
        if n.hall.isMaster then n.applyItems s else n.applyMessage s
      else { n with hall.msg := some s } := by
  subst hk; rfl

/-- A follower in a domain keeps the next superframe's message; its disarms and launches act at once. -/
theorem acceptMessage_next {m : Mach} {s : SfMsg} (h : m.time.inDomain = true) (hm : m.hall.isMaster = false) (hk : s.k = m.time.count / 100 + 1) :
    m.acceptMessage s = { s.disarms.foldl Mach.disarmDomain (s.launches.foldl Mach.armDomain (m.notesMessage s)) with hall.msg := some s } := by
  have hfollows := (notesMessage_isMaster m s).trans hm
  have hin : (m.notesMessage s).time.inDomain = true := h
  rw [acceptMessage_eq s rfl, stepDown_of_follower _ hfollows]
  refine (if_neg (by simp [hin])).trans (if_neg ?_)
  rintro ⟨hnow, _⟩
  omega

theorem superframeSend_off {m : Mach} (h : m.plan = none ∨ m.hall.isMaster = false ∨ m.time.count % 100 < 86 ∨ 90 < m.time.count % 100 ∨
    m.hall.msg.isSome = true) : m.superframeSend = m := by
  unfold Mach.superframeSend
  dsimp only
  cases hp : m.plan with
  | none => rfl
  | some p =>
    refine if_pos ?_
    obtain h | h | h | h | h := h
    · simp [hp] at h
    all_goals simp [h]

/-- Without proposals each shelf has its fallback band, and the frame counts. -/
theorem superframeSend_fallback {m : Mach} {p : Plan} (hp : m.plan = some p) (hm : m.hall.isMaster = true) (ha : 86 ≤ m.time.count % 100)
    (hb : m.time.count % 100 ≤ 90) (hn : m.hall.msg = none) (hq : m.hall.proposals = none) {k : Mach} {s : SfMsg}
    (hk : k = { m.bump .plStepStat 31 16 1 with free := m.free + 1 })
    (hs : s = k.message (m.time.count / 100 + 1) (Config.freeWord m.free).toInt (some ((m.formBands p none).map (·.1)))) :
    m.superframeSend = ({ k with hall.msg := some s, hall.changes := [], hall.leftNow := [] } : Mach).floodMessage s := by
  subst hs hk
  unfold Mach.superframeSend
  dsimp only
  rw [hp]
  refine (if_neg (by simp [hm, hn]; omega)).trans ?_
  rw [hq]
  rfl

/-- Settles O46, by the condition of each row on the module that has heard the frame. -/
theorem timeAndReportsReachTheMaster : Obligations.TimeAndReportsReachTheMaster := by
  unfold Obligations.TimeAndReportsReachTheMaster
  refine ⟨fun m h off c hh => ⟨_, rfl, fun hn => .of_frame (exec_timeExchange h off c) rfl hh (if_pos hn), fun hm hp hf hj => ?_, fun hm hp hs => ?_⟩,
    fun m h r hh => ⟨_, rfl, fun hm hk ht => ?_, fun hm hs => ?_, fun hm hl hr hb hw => ?_, fun hm => ?_⟩,
    fun m h => .of_on exec_reportSend (if_pos (.inl h)), fun m hc hd hj hm => .of_on exec_reportSend ((reportSend_due hc hd hj).trans (if_pos hm)),
    fun m hc hd hj hm => ⟨fun hn => .of_on exec_reportSend ((reportSend_follower hc hd hj hm).trans (by rw [hn])),
      fun c hn => .of_on exec_reportSend ((reportSend_follower hc hd hj hm).trans (by rw [hn]))⟩,
    fun m h k rs hh => ⟨fun hm hk ht => .of_frame (exec_table h k rs) rfl hh (if_neg (by subst hk; simp [hm, ht])),
      fun hn => .of_frame (exec_table h k rs) rfl hh (if_pos ?_)⟩,
    fun m h => .of_on exec_tableSend (tableSend_off h), fun m p hp hm hc ht he hr => ⟨_, rfl, .of_on exec_tableSend (tableSend_alone hp hm hc ht he hr)⟩,
    fun m h pos hh => ⟨fun hm => .of_frame (exec_leave h pos) rfl hh (if_neg (by simp [hm])), fun p hp hm => .of_frame (exec_leave h pos) rfl hh ?_⟩,
    fun m h s hh => ⟨_, rfl, fun hs => .of_frame (exec_superframe h s) rfl hh (superframeFrame_passed h (by simpa using hs)), fun ps hps ha hm ht => ?_⟩,
    fun m s => ⟨_, rfl, fun hd => acceptMessage_free s hd, fun hd hm hk => acceptMessage_next hd hm hk⟩,
    fun m h => .of_on exec_superframeSend (superframeSend_off h),
    fun m p hp hm ha hb hn hq => ⟨_, _, rfl, rfl, .of_on exec_superframeSend (superframeSend_fallback hp hm ha hb hn hq rfl rfl)⟩,
    fun m hm hf hs ht => .of_on exec_holdoverEntry (if_pos ?_), fun m h => .of_on exec_holdoverEntry (if_neg ?_)⟩
  · exact .of_frame (exec_timeExchange h off c) rfl hh ((timeFrame_follower h off c hm hp).trans (timeMessage_steady off c hf hj))
  · exact .of_frame (exec_timeExchange h off c) rfl hh ((timeFrame_follower h off c hm hp).trans (timeMessage_joins off c hs))
  · exact .of_frame (exec_report h r) rfl hh (reportFrame_inTime h (by simpa using hm) hk ht)
  · exact .of_frame (exec_report h r) rfl hh (reportFrame_known h (by simpa using hm) (by simpa using hs))
  · exact .of_frame (exec_report h r) rfl hh ((reportFrame_late h (by simpa using hm) (by simpa using hl) (by simpa using hr) (by simpa using hb) (by simpa using hw)).trans (by simp))
  · exact .of_frame (exec_report h r) rfl hh (if_pos (by simp [hm]))
  · obtain hn | hn | hn := hn <;> simp [hn]
  · refine (if_pos (by simpa using hm)).trans ?_
    rw [heard_plan, hp]
  · have hfrag := superframeFrame_inTime (m := m.heard h) (s := s) (ps := ps) h (by simpa using hps) (by simpa using ha) (by simpa using hm) ht
    refine ⟨fun hx => .of_frame (exec_superframe h s) rfl hh (hfrag.trans (if_pos hx)), fun hx hlt => ⟨_, rfl, fun hn => ?_, fun hn => ?_⟩⟩
    · exact .of_frame (exec_superframe h s) rfl hh (hfrag.trans ((if_neg (by rw [hx]; simpa using hlt)).trans (by dsimp only; rw [if_neg hn])))
    · exact .of_frame (exec_superframe h s) rfl hh (hfrag.trans ((if_neg (by rw [hx]; simpa using hlt)).trans (by dsimp only; rw [if_pos hn])))
  · obtain ht | ht | ht := ht <;> simp [hm, hf, hs, ht]
  · obtain h | h | h | h := h <;> simp [h]

/-! ## Mastership (R343 to R346, R352) -/

/-- A claim stands by any one of the three ways. -/
theorem not_refused_of_second {a x b : Bool} (hx : x = true) : ¬ (!a && !x && !b) = true := by simp [hx]

/-- A claim above the one held is followed and passed on. -/
theorem claimFrame_above {m : Mach} (h : PeerHdr) {t pos : Nat} (tk : Nat) {d : Option (Nat × Nat)} (ha : seqAbove t m.hall.term = true)
    (hc : ∀ c, m.hall.claim = some c → seqAbove t c.term = true ∨ c.term = t ∧ m.before pos c.pos = true)
    (hd : (if m.hall.isMaster then some (t, pos) else m.hall.stepDown) = d) : m.claimFrame h t pos tk =
      { m with hall.claim := some ⟨t, pos, tk⟩, hall.high := maxTerm t m.hall.high, hall.stepDown := d }.flood .claim (some h.link) (some h.src) := by
  subst hd
  refine if_neg ?_
  cases hm : m.hall.claim with
  | none => simp [ha]
  | some c =>
    obtain hs | ⟨hs, hb⟩ := hc c hm
    · rw [Option.all_some, ha, hs, Bool.and_true, Bool.not_true, Bool.false_and, Bool.false_and]
      exact Bool.false_ne_true
    · have hbetter : (c.term == t && m.before pos c.pos) = true := by rw [hb, hs, beq_self_eq_true, Bool.and_true]
      exact not_refused_of_second hbetter

/-- A master gives way to a claim of its own term by a module before it. -/
theorem claimFrame_sameTerm {m : Mach} (h : PeerHdr) {t pos : Nat} (tk : Nat) (hm : m.hall.isMaster = true) (ht : t = m.hall.term)
    (hb : m.before pos m.sys.position = true) : m.claimFrame h t pos tk = { m with
      hall.claim := some ⟨t, pos, tk⟩
      hall.high := maxTerm t m.hall.high
      hall.stepDown := some (t, pos) }.flood .claim (some h.link) (some h.src) := by
  unfold Mach.claimFrame
  dsimp only
  rw [hm]
  exact if_neg (by simp [ht, hb])

theorem claimFrame_below {m : Mach} (h : PeerHdr) {t : Nat} (pos tk : Nat) (ha : seqAbove t m.hall.term = false) (hc : m.hall.claim = none)
    (hm : m.hall.isMaster = false) : m.claimFrame h t pos tk = m := by
  unfold Mach.claimFrame
  dsimp only
  rw [hc, hm]
  exact if_pos (by simp [ha])

theorem claimMastership_off {m : Mach} (h : m.succPos m.sys.position = none ∨ m.time.count % 100 ≠ 0 ∨ m.sys.master = false ∨
    m.sys.strapOk = false ∨ m.en fnPeer = false ∨ m.hall.isMaster = true ∨ m.hall.claim.isSome = true) : m.claimMastership = m := by
  unfold Mach.claimMastership
  cases hp : m.succPos m.sys.position with
  | none => rfl
  | some p =>
    refine if_pos ?_
    obtain h | h | h | h | h | h | h := h
    · simp [hp] at h
    all_goals simp [h]

theorem claimMastership_due {m : Mach} {p : Nat} (hp : m.succPos m.sys.position = some p) (hm : m.hall.isMaster = false) (hc : m.hall.claim = none)
    (hs : m.sys.master = true) (ho : m.sys.strapOk = true) (ht : m.time.count % 100 = 0) (he : m.en fnPeer = true)
    (hw : (if p ≤ 1 then 3 else 2 + p) ≤ m.time.sfSince) : m.claimMastership =
      { m with hall.claim := some ⟨(m.hall.high + 1) % 65536, m.sys.position, m.time.count + 100⟩, hall.high := (m.hall.high + 1) % 65536 }.flood
        .claim none := by
  unfold Mach.claimMastership
  rw [hp]
  exact if_neg (by simp [hm, hc, hs, ho, ht, he, hw])

/-- The claimant at its takeover: a module in the domain, locked and master of the claim's term, with its members due to report. -/
def Mach.mastered (m : Mach) (term : Nat) : Mach :=
  let j := if m.time.inDomain then m else m.joinDomain
  { j with
    hall.isMaster := true, hall.term := term, hall.master := some m.sys.position, hall.claim := none
    hall.members := m.hall.members.map (fun x => (x.1, 0)), hall.reports := [], hall.proposals := none, hall.changes := [], hall.leftNow := []
    time.state := .locked, time.offset := 0, time.adoptDelta := none, time.sfSince := 0 }

theorem becomeMaster_takesOver {m : Mach} {c : ClaimSt} {p : Plan} (hc : m.hall.claim = some c) (hp : m.plan = some p) (hs : c.pos = m.sys.position)
    (ht : c.takeover = m.time.count) (hm : m.hall.isMaster = false) (he : m.en fnPeer = true) : m.becomeMaster =
      (match m.hall.master with
        | some q => if q = m.sys.position then m.mastered c.term else (m.mastered c.term).declareLeft p q
        | none => m.mastered c.term).startTerm := by
  unfold Mach.becomeMaster
  rw [hc, hp]
  refine (if_neg (by simp [hs, ht, hm, he])).trans ?_
  unfold Mach.mastered
  cases m.time.inDomain <;> rfl

theorem becomeMaster_other {m : Mach} {c : ClaimSt} (hc : m.hall.claim = some c) (h : c.pos ≠ m.sys.position ∨ c.takeover ≠ m.time.count) :
    m.becomeMaster = m := by
  unfold Mach.becomeMaster
  rw [hc]
  cases m.plan with
  | none => rfl
  | some p => exact if_pos (by simpa [or_assoc] using Or.inl h)

theorem claimExpiry_at {m : Mach} {c : ClaimSt} (hc : m.hall.claim = some c) : m.claimExpiry =
    if c.pos ≠ m.sys.position ∧ c.takeover + 100 ≤ m.time.count then { m with hall.claim := none } else m := by
  unfold Mach.claimExpiry
  rw [hc]

theorem masterStepDown_off {m : Mach} (h : m.hall.stepDown = none ∨ m.hall.isMaster = false ∨ m.time.count % 100 ≠ 0) : m.masterStepDown = m := by
  unfold Mach.masterStepDown
  cases hs : m.hall.stepDown with
  | none => rfl
  | some x =>
    refine if_neg ?_
    obtain h | h | h := h
    · simp [hs] at h
    all_goals simp [h]

/-- No member is missing where each has reported within three superframes. -/
theorem missing_members_nil {m : Mach} (h : m.hall.members.all (fun x => decide (x.2 < 3)) = true) :
    m.hall.members.filter (fun x => decide (3 ≤ x.2)) = [] := by
  rw [List.filter_eq_nil_iff]
  intro x hx
  have := List.all_eq_true.mp h x hx
  simp at this ⊢
  omega

theorem declareMissing_master {m : Mach} {p : Plan} (hp : m.plan = some p) (hm : m.hall.isMaster = true) : m.declareMissing =
    ((m.hall.members.filter (fun x => decide (3 ≤ x.2))).map Prod.fst).foldl (fun k q => k.declareLeft p q) m := by
  unfold Mach.declareMissing
  rw [hp]
  exact if_pos hm

theorem declareMissing_off {m : Mach} (h : m.hall.isMaster = false ∨ m.plan = none ∨ m.hall.members.all (fun x => decide (x.2 < 3)) = true) :
    m.declareMissing = m := by
  cases hp : m.plan with
  | none => unfold Mach.declareMissing; rw [hp]
  | some p =>
    cases hm : m.hall.isMaster with
    | false => unfold Mach.declareMissing; rw [hp]; exact if_neg (by simp [hm])
    | true =>
      obtain h | h | h := h
      · simp [hm] at h
      · simp [hp] at h
      · rw [declareMissing_master hp hm, missing_members_nil h]; rfl

/-- Settles O47, by the condition of each row. -/
theorem mastershipPassesByClaims : Obligations.MastershipPassesByClaims := by
  unfold Obligations.MastershipPassesByClaims
  refine ⟨fun m h t pos tk hh => ⟨_, rfl, fun ha hc => .of_frame (exec_claim h t pos tk) rfl hh
        (claimFrame_above h tk (by simpa using ha) (by simpa using hc) (by simp)),
      fun hm ht hb => .of_frame (exec_claim h t pos tk) rfl hh
        (claimFrame_sameTerm h tk (by simpa using hm) (by simpa using ht) (by simpa using hb)),
      fun ha hc hm => .of_frame (exec_claim h t pos tk) rfl hh (claimFrame_below h pos tk (by simpa using ha) (by simpa using hc) (by simpa using hm))⟩,
    fun m p hp hm hc hs ho ht he hw => .of_on exec_mastershipClaim (claimMastership_due hp hm hc hs ho ht he hw),
    fun m h => .of_on exec_mastershipClaim (claimMastership_off h), fun m c hc h => .of_on exec_becomeMaster (becomeMaster_other hc h),
    fun m hc => .of_on exec_becomeMaster (by unfold Mach.becomeMaster; rw [hc]),
    fun m c p hc hp hs ht hm he => ⟨_, m.mastered c.term, rfl, rfl, fun hn => ?_, fun q hq hne => ?_⟩,
    fun m c hc => ⟨fun hp ht => .of_on exec_claimExpiry ((claimExpiry_at hc).trans (if_pos ⟨hp, ht⟩)),
      fun h => .of_on exec_claimExpiry ((claimExpiry_at hc).trans (if_neg (fun hx => ?_)))⟩,
    fun m t q hs hm ht => ⟨.of_on exec_masterStepDown ?_, fun hr => by unfold Mach.stepDownNow; dsimp only; rw [hr]⟩,
    fun m h => .of_on exec_masterStepDown (masterStepDown_off h), fun m h => .of_on exec_moduleDeclaredLeft (declareMissing_off h),
    fun m p hp hm => .of_on exec_moduleDeclaredLeft (declareMissing_master hp hm)⟩
  · refine .of_on exec_becomeMaster ((becomeMaster_takesOver hc hp hs ht hm he).trans ?_)
    obtain hn | hn := hn <;> rw [hn]
    exact congrArg Mach.startTerm (if_pos rfl)
  · refine .of_on exec_becomeMaster ((becomeMaster_takesOver hc hp hs ht hm he).trans ?_)
    rw [hq]
    exact congrArg Mach.startTerm (if_neg hne)
  · obtain ⟨hp, ht⟩ := hx
    obtain h | h := h
    · exact hp h
    · omega
  · unfold Mach.masterStepDown
    rw [hs]
    exact if_pos (by simp [hm, ht])

end Sys2Proof.Machine
end

section
/-! PROOFS. Slices and generations over the hall's links (chapters 09, 11). -/

namespace Sys2Proof.Machine

@[simp] theorem heard_ownPos (m : Mach) (h : PeerHdr) : (m.heard h).ownPos = m.ownPos := by
  unfold Mach.ownPos; rw [heard_sys]

@[simp] theorem heard_bank (m : Mach) (h : PeerHdr) (b : Nat) : (m.heard h).bank b = m.bank b := by simp [Mach.bank]

@[simp] theorem heard_fcBank (m : Mach) (h : PeerHdr) : (m.heard h).fcBank = m.fcBank := rdField_congr (heard_regs m h) _ _ _

@[simp] theorem heard_en (m : Mach) (h : PeerHdr) (fn : Nat) : (m.heard h).en fn = m.en fn := by
  unfold Mach.en; rw [rd_congr (heard_regs m h)]

@[simp] theorem heard_trainEn (m : Mach) (h : PeerHdr) : (m.heard h).trainEn = m.trainEn := by simp [Mach.trainEn, Mach.forecastEn]

/-! ## Frames routed to a position (R329) -/

theorem deliver_own {m : Mach} {h : PeerHdr} (t : FrameType) (f : Mach → Mach) (hd : h.dst = m.ownPos) : m.deliver h t f = f m := if_pos hd

/-- A frame for the module itself does its work there. -/
theorem deliver_heard {m : Mach} {h : PeerHdr} (t : FrameType) (f : Mach → Mach) (hd : h.dst = m.ownPos) :
    (m.heard h).deliver h t f = f (m.heard h) := deliver_own t f (by simpa using hd)

/-! ## Hall steps and partial sums (R270 to R275) -/

theorem hallStep_off {m : Mach} (h : m.time.count % 100 ≠ 64 ∨ m.time.inDomain = false ∨ m.hall.roles = []) : m.hallStep = m := by
  refine if_pos ?_
  obtain h | h | h := h <;> simp [h]

theorem hallStep_noTable {m : Mach} (hc : m.time.count % 100 = 64) (hd : m.time.inDomain = true) (hr : m.hall.roles ≠ []) (ht : m.hall.table = none) :
    m.hallStep = m.bump .plStepStat 15 8 1 := by
  refine (if_neg (by simp [hc, hd, hr])).trans ?_
  rw [ht]

theorem hallStep_table {m : Mach} {j : Nat} {rs : List Report} (hc : m.time.count % 100 = 64) (hd : m.time.inDomain = true)
    (hr : m.hall.roles ≠ []) (ht : m.hall.table = some (j, rs)) : m.hallStep =
      if j ≠ m.time.count / 100 ∨ !(m.bank m.fc.hallBank).valid ∨ !m.anvilOn then m.bump .plStepStat 15 8 1
      else ({ m with fc.hallRan := some m.fc.hallBank, hall.step := some ⟨m.time.count / 100, 0, stepInputs rs, true, none, [], []⟩ } : Mach).stepForward := by
  refine (if_neg (by simp [hc, hd, hr])).trans ?_
  rw [ht]

/-- The proposals of this superframe reach the master by frame 86. -/
theorem partialFrame_proposals {m : Mach} (h : PeerHdr) (layer slice : Nat) (down : Bool) (sum : List Word) (hd : h.dst = m.ownPos)
    (hm : m.hall.isMaster = true) (hc : m.time.count % 100 ≤ 86) :
    (m.heard h).partialFrame h (m.time.count / 100) layer levelProposals slice down sum =
      { m.heard h with hall.proposals := some (m.time.count / 100, pairsOf sum) } :=
  (deliver_heard _ _ hd).trans ((if_pos rfl).trans (if_pos (by simp [hm, hc])))

/-! ## Slice copies (R276 to R279) -/

theorem joinBlocks_single (b : List Byte) : joinBlocks [(0, b)] 1 = b := by simp [joinBlocks]

/-- A copy no role of the module receives changes nothing more. -/
theorem sliceCopyFrame_unheld {m : Mach} (h : PeerHdr) (slice block blocks : Nat) (st : List Byte) (hd : h.dst = m.ownPos)
    (hr : m.hall.roles = []) (ho : m.hall.oldCopies = []) : (m.heard h).sliceCopyFrame h slice block blocks st = m.heard h := by
  have hroles : (m.heard h).hall.roles = [] := by simpa using hr
  have hold : (m.heard h).hall.oldCopies = [] := by simpa using ho
  refine (deliver_heard _ _ hd).trans ?_
  rw [hroles, hold]
  rfl

/-- The one block of a state gives the role its state, and the copy is over. -/
theorem sliceCopyFrame_single {m : Mach} (h : PeerHdr) {r : Role} {slice : Nat} (st : List Byte) (hd : h.dst = m.ownPos) (ho : m.hall.oldCopies = [])
    (hr : m.hall.roles.find? (fun r => r.slice == slice && !r.primary && r.copying.isSome && !r.snap) = some r) (hb : r.blocks = []) :
    (m.heard h).sliceCopyFrame h slice 0 1 st =
      ({ m.heard h with hall.roles := m.hall.roles.map (fun (x : Role) =>
        if x.slice == slice && !x.primary then { r with state := st, blocks := [], replay := [], snap := true } else x) }.sendTo
          (.xferAck true) h.src).copyTaken h.src slice := by
  have hroles : (m.heard h).hall.roles = m.hall.roles := by simp
  have hold : (m.heard h).hall.oldCopies = [] := by simpa using ho
  refine (deliver_heard _ _ hd).trans ?_
  rw [hold, hroles]
  dsimp only [List.find?_nil]
  rw [hr]
  simp [hb, joinBlocks_single]

/-! ## Generations and acknowledgements (R287 to R290, R279) -/

/-- A generation below the one held is dropped. -/
theorem genFrame_older {m : Mach} (h : PeerHdr) {g : GenHdr} {x : GenSt} (i : Nat) (data : List Byte) (hd : h.dst = m.ownPos) (hx : m.fc.gens = [x])
    (hne : x.hdr ≠ g) (hlt : g.n < x.hdr.n) : (m.heard h).genFrame h g i data = m.heard h := by
  refine (deliver_heard _ _ hd).trans (if_pos ?_)
  simp [hx, hne, hlt]

/-- The module that has noted a generation: its header, its trainer and the count it is adopted at. -/
def Mach.genBegun (m : Mach) (g : GenHdr) : Mach :=
  { m with fc.gens := [⟨g, [], false, false, 0, 0⟩], fc.trainer := some g.trainer, fc.due := m.fc.due ++ [(g.adopt, g.n)] }

/-- The training of an acting trainer goes on beside a generation; any other gives way. -/
def Mach.trainsBeside (m : Mach) : Mach := if m.acting && m.fc.train.any m.trainLive then m else m.yieldTraining

/-- The first frame of a generation begins it. -/
theorem genFrame_first {m b : Mach} (h : PeerHdr) {g : GenHdr} (i : Nat) (data : List Byte) (hd : h.dst = m.ownPos) (hg : m.fc.gens = [])
    (hn : (m.bank m.fcBank).gen = none) (hb : b = ((m.heard h).genBegun g).trainsBeside) : (m.heard h).genFrame h g i data =
      if genFrames g ≤ i then b
      else
        let c := (b.storeAll (b.receivingCopy b.fcBank + 4096 * i) (data.take 4096)).1
        { c with fc.gens := c.fc.gens.map (fun x =>
          if x.hdr == g && !x.kept && !x.parts.any (fun p => p.1 == i) then { x with parts := x.parts ++ [(i, data.take 4096)] } else x) } := by
  have hgens : (m.heard h).fc.gens = [] := hg
  have hgen : ((m.heard h).bank (m.heard h).fcBank).gen = none := by simpa using hn
  subst hb
  refine (deliver_heard _ _ hd).trans ?_
  dsimp only
  rw [hgens, hgen]
  rfl

theorem xferAckFrame_idle {m : Mach} (h : PeerHdr) (n : Nat) (held : List Nat) (hd : h.dst = m.ownPos)
    (hs : m.fc.sending = none ∨ m.trainEn = false) : (m.heard h).xferAckFrame h none n held = m.heard h := by
  refine (deliver_heard _ _ hd).trans ?_
  cases hx : (m.heard h).fc.sending with
  | none => rfl
  | some t =>
    obtain hs | hs := hs
    · exact absurd (hx.symm.trans hs) (by simp)
    · exact if_pos (by simp [hs])

/-- An acknowledged slice copy: the missing blocks go out again, and a complete one ends the primary's copy. -/
theorem xferAckFrame_slice {m : Mach} (h : PeerHdr) (i n : Nat) (held : List Nat) (hd : h.dst = m.ownPos) :
    (m.heard h).xferAckFrame h (some i) n held =
      if held.length < n then ((List.range n).filter (fun b => !held.contains b)).foldl (fun k _ => k.sendTo .sliceCopy h.src) (m.heard h)
      else ({ m.heard h with hall.roles := m.hall.roles.map (fun (r : Role) =>
        if r.slice == i && r.primary then { r with copying := none, snap := false } else r) } : Mach).copyEnded i := by
  have hroles : (m.heard h).hall.roles = m.hall.roles := by simp
  refine (deliver_heard _ _ hd).trans ?_
  dsimp only
  rw [hroles]

/-- Settles O48: each routed frame by its destination, and the condition of each row. -/
theorem slicesAndGenerationsTravelTheHall : Obligations.SlicesAndGenerationsTravelTheHall := by
  unfold Obligations.SlicesAndGenerationsTravelTheHall
  refine ⟨fun m h => ⟨fun hh hd k layer level slice down sum => .of_frame (exec_partialSums h k layer level slice down sum) rfl hh (if_neg (by simpa using hd)),
      fun hh hd slice block blocks st => .of_frame (exec_sliceCopy h slice block blocks st) rfl hh (if_neg (by simpa using hd)),
      fun hh hd g i data => .of_frame (exec_gen h g i data) rfl hh (if_neg (by simpa using hd)),
      fun sl n held hh hd => .of_frame (exec_xferAck h sl n held) rfl hh (if_neg (by simpa using hd))⟩,
    fun m h => .of_on exec_hallStep (hallStep_off h), fun m hc hd hr ht => .of_on exec_hallStep (hallStep_noTable hc hd hr ht),
    fun m rs hc hd hr ht hv ha => .of_on exec_hallStep ((hallStep_table hc hd hr ht).trans (if_neg (by simp [hv, ha]))),
    fun m j rs hc hd hr ht h => .of_on exec_hallStep ((hallStep_table hc hd hr ht).trans (if_pos ?_)),
    fun m h sum hh hd hm hc => .of_frame (exec_partialSums h _ 0 levelProposals 0 false sum) rfl hh (partialFrame_proposals h 0 0 false sum hd hm hc),
    fun m h slice block blocks st hh hd hr ho => .of_frame (exec_sliceCopy h slice block blocks st) rfl hh (sliceCopyFrame_unheld h slice block blocks st hd hr ho),
    fun m h r slice st hh hd ho hr hb => ⟨_, rfl, .of_frame (exec_sliceCopy h slice 0 1 st) rfl hh (sliceCopyFrame_single h st hd ho hr hb)⟩,
    fun m => .of_on exec_sliceCopyRestart rfl,
    fun m h g x i data hh hd hx hne hlt => .of_frame (exec_gen h g i data) rfl hh (genFrame_older h i data hd hx hne hlt),
    fun m h g i data hh hd hg hn => ⟨(m.heard h).genBegun g, ((m.heard h).genBegun g).trainsBeside, _, rfl, rfl, rfl,
      fun hi => .of_frame (exec_gen h g i data) rfl hh ((genFrame_first h i data hd hg hn rfl).trans (if_pos hi)),
      fun hi => .of_frame (exec_gen h g i data) rfl hh ((genFrame_first h i data hd hg hn rfl).trans (if_neg (by omega)))⟩,
    fun m h n held hh hd hs => .of_frame (exec_xferAck h none n held) rfl hh (xferAckFrame_idle h n held hd hs),
    fun m h i n held hh hd => ⟨_, rfl, fun hl => .of_frame (exec_xferAck h (some i) n held) rfl hh ((xferAckFrame_slice h i n held hd).trans (if_pos hl)),
      fun hl => .of_frame (exec_xferAck h (some i) n held) rfl hh ((xferAckFrame_slice h i n held hd).trans (if_neg (by omega)))⟩⟩
  obtain h | h | h := h <;> simp [h]

end Sys2Proof.Machine
end

section
/-! PROOFS. The forecaster's runs and the anvil's ended jobs (chapters 07, 09). -/

namespace Sys2Proof.Machine

/-! ## The gate (R266) -/

/-- The gate changes its own marks only. -/
theorem gate_eq (m : Mach) : ∃ held good, m.gate = { m with fc.gateHeld := held, fc.gateGood := good } := by
  unfold Mach.gate
  dsimp only
  split
  · exact ⟨_, _, rfl⟩
  · split
    · exact ⟨_, _, rfl⟩
    · split
      · split
        · exact ⟨_, _, rfl⟩
        · exact ⟨_, _, rfl⟩
      · split
        · exact ⟨_, _, rfl⟩
        · exact ⟨_, _, rfl⟩

theorem gateUpdate_eq (m : Mach) : ∃ held good at', m.gateUpdate = { m with fc.gateHeld := held, fc.gateGood := good, fc.gateAt := at' } := by
  unfold Mach.gateUpdate
  dsimp only
  split
  · exact ⟨_, _, _, rfl⟩
  · obtain ⟨held, good, h⟩ := gate_eq m
    exact ⟨held, good, _, by rw [h]⟩

@[simp] theorem gateUpdate_regs (m : Mach) : m.gateUpdate.regs = m.regs := by
  obtain ⟨_, _, _, h⟩ := gateUpdate_eq m
  rw [h]

@[simp] theorem gateUpdate_run (m : Mach) : m.gateUpdate.fc.run = m.fc.run := by
  obtain ⟨_, _, _, h⟩ := gateUpdate_eq m
  rw [h]

@[simp] theorem gateUpdate_outs (m : Mach) : m.gateUpdate.fc.outs = m.fc.outs := by
  obtain ⟨_, _, _, h⟩ := gateUpdate_eq m
  rw [h]

theorem en_congr {m n : Mach} (h : n.regs = m.regs) (fn : Nat) : n.en fn = m.en fn := by
  unfold Mach.en; rw [rd_congr h]

theorem forecastEn_congr {m n : Mach} (h : n.regs = m.regs) : n.forecastEn = m.forecastEn := by
  unfold Mach.forecastEn; rw [en_congr h, en_congr h]

/-! ## The start of a run (R252 to R258) -/

theorem startUpdate_off {m : Mach} (h : m.time.count % 10 ≠ 0 ∨ m.fc.lastUpdate = m.time.count ∨ m.sys.tiles = 0 ∨ m.time.powered = false) :
    m.startUpdate = m := if_pos (by simpa using h)

/-- A due update with no run under way judges the gate, reads the schedules, and queues its job where the forecaster is ready. -/
theorem startUpdate_due {m n k : Mach} (hc : m.time.count % 10 = 0) (hl : m.fc.lastUpdate ≠ m.time.count) (ht : m.sys.tiles ≠ 0)
    (hp : m.time.powered = true) (hr : m.fc.run = none) (hn : n = m.gateUpdate)
    (hk : k = if n.forecastEn then n.readSchedules m.time.count else { n with fc.lastUpdate := m.time.count }) : m.startUpdate =
      if !k.ready fnForecast ∨ !k.forecastEn then { k with fc.published := false }
      else if n.forecastEn && n.schedPoison then { k.orReg .avArithStat fPoison with fc.published := false }
      else
        let g : Mach := if k.fc.lastBank ≠ k.fcBank then { k with fc.modelGen := (k.fc.modelGen + 1) % 256, fc.lastBank := k.fcBank } else k
        let w := (g.storeAll Config.planBuffer (wordsBytes (g.renderPlan m.time.count))).1
        let j := w.fcJob m.time.count k.fcBank
        { w with
          anvil.jobs := w.anvil.jobs ++ [j]
          anvil.nextJob := w.anvil.nextJob + 1
          fc.schedAbsent := g.schedAbsentAt m.time.count
          fc.run := some ⟨m.time.count, j.id, k.fcBank, w.bel.spPub.g, false, g.schedAbsentAt m.time.count, w.fc.modelGen,
            ((w.bank k.fcBank).gen).getD 0xFFFFFFFF, [], []⟩ } := by
  have hpub : m.publishForecast = m := by unfold Mach.publishForecast; rw [hr]
  subst hk hn
  refine (if_neg (by simp [hc, hl, ht, hp])).trans ?_
  rw [hpub]

/-- The schedules are read where the forecaster is enabled. -/
theorem readSchedules_of_enabled {m : Mach} (h : m.forecastEn = true) : m.gateUpdate.readSchedules m.time.count =
    if m.gateUpdate.forecastEn then m.gateUpdate.readSchedules m.time.count else { m.gateUpdate with fc.lastUpdate := m.time.count } :=
  (if_pos ((forecastEn_congr (gateUpdate_regs m)).trans h)).symm

/-! ## The publication of a run (R259 to R262) -/

theorem publishForecast_early {m : Mach} {r : FcRun} (hr : m.fc.run = some r) (ht : m.time.count < r.c + 10) : m.publishForecast = m := by
  unfold Mach.publishForecast
  rw [hr]
  exact if_pos ht

theorem publishForecast_due {m : Mach} {r : FcRun} (hr : m.fc.run = some r) (ht : r.c + 10 ≤ m.time.count) : m.publishForecast =
    if !r.fin then m.gateUpdate.abandonRun
    else
      let k : Mach := { m.gateUpdate with
        fc.run := none, fc.outs := m.gateUpdate.fc.outs ++ [⟨r.c + 10, r.points.getD 100 0, r.points.getD 1000 0, r.points.getD 5000 0⟩] }
      if k.fc.gateHeld then { k.bump .avFcMiss 31 16 1 with fc.published := false }
      else if !k.ready fnForecast then { k with fc.published := false }
      else
        ((({ k with
          fc.pub := some ⟨r.c + 10, r.c, true, r.schedAbsent, r.modelGen, r.generation, r.points⟩
          fc.buf := !k.fc.buf
          fc.published := true } : Mach).countForecast).publishBridges r (r.c + 10)).reqLine 1 := by
  unfold Mach.publishForecast
  rw [hr]
  exact if_neg (by omega)

theorem abandonRun_some {m : Mach} {r : FcRun} (hr : m.fc.run = some r) :
    m.abandonRun = { (m.dropJob r.job).bump .avFcMiss 15 0 1 with fc.run := none, fc.published := false } := by
  unfold Mach.abandonRun
  rw [hr]

/-! ## Ended jobs (R213, R260) -/

theorem jobComplete_none {m : Mach} (h : ∀ j, j ∈ m.anvil.jobs → j.phase ≠ .ended) : m.jobComplete = m := by
  have hf : m.anvil.jobs.find? (fun j => decide (j.phase = .ended) && !m.lockWaits j) = none := by
    rw [List.find?_eq_none]
    intro j hj
    simp [h j hj]
  unfold Mach.jobComplete
  rw [hf]

theorem jobComplete_first {m : Mach} {j : Job} {js : List Job} {e : JobEnd} (hj : m.anvil.jobs = j :: js) (hp : j.phase = .ended)
    (hw : m.lockWaits j = false) (he : j.fin = some e) :
    (j.kind = .user → m.jobComplete = m.completeJob j e) ∧ (j.kind = .forecast → m.jobComplete = m.runEnded j e) := by
  have hf : m.anvil.jobs.find? (fun j => decide (j.phase = .ended) && !m.lockWaits j) = some j := by
    rw [hj]; exact List.find?_cons_of_pos (by simp [hp, hw])
  unfold Mach.jobComplete
  rw [hf]
  dsimp only
  rw [he]
  exact ⟨fun hk => by rw [hk], fun hk => by rw [hk]⟩

theorem completeJob_op {m : Mach} {j : Job} {o : Nat} (e : JobEnd) (ho : j.op = some o) : m.completeJob j e =
    (((((m.writeReplay j e).bump .avJobDone 31 0 1).sessionJobEnd j e.status).dropJob j.id).endOp o e.status (j.result e)) := by
  unfold Mach.completeJob
  dsimp only
  rw [ho]

theorem runEnded_own {m : Mach} {j : Job} {e : JobEnd} {r : FcRun} (hr : m.fc.run = some r) (hj : r.job = j.id) : m.runEnded j e =
    if e.status = stOk ∧ m.time.count ≤ r.c + 9 then
      let w := ((m.dropJob j.id).storeAll (Config.fcBuffer m.fc.buf) r.header).1
      { w.advanceEncoders r.c with
        fc.run := some { r with fin := true, points := w.fcPoints w.fc.buf, bridges := w.runBridges r j.bridges (w.fcPoints w.fc.buf) } }
    else if e.status = stOk then m.dropJob j.id
    else { m.dropJob j.id with fc.run := none, fc.published := false } := by
  have hrun : (m.dropJob j.id).fc.run = some r := hr
  unfold Mach.runEnded
  dsimp only
  rw [hrun]
  exact if_neg (by simp [hj])

/-- Settles O50, by the condition of each row. -/
theorem forecastRunsStartAndPublish : Obligations.ForecastRunsStartAndPublish := by
  unfold Obligations.ForecastRunsStartAndPublish
  refine ⟨fun m h => .of_on exec_forecastRunStart (startUpdate_off h),
    fun m hc hl ht hp hr => ⟨fun hf => ?_, fun hf => ⟨_, _, _, rfl, rfl, rfl, fun hd => ?_, fun hd he hs => ?_, fun hd he hs => ?_⟩⟩,
    fun m h => .of_on exec_forecastPublish (by unfold Mach.publishForecast; rw [h]),
    fun m r hr ht => .of_on exec_forecastPublish (publishForecast_early hr ht), fun m r hr ht hf => .of_on exec_forecastPublish ?_,
    fun m r hr ht hf => ⟨_, rfl, fun hg => .of_on exec_forecastPublish ?_, fun hg hd => .of_on exec_forecastPublish ?_,
      fun hg hd => .of_on exec_forecastPublish ?_⟩,
    fun m h => .of_on exec_anvilJobComplete (jobComplete_none h),
    fun m j js e hj hp hw he => ⟨fun o hk ho => .of_on exec_anvilJobComplete ?_, fun r hk hr hjr hs ht => ⟨_, _, rfl, rfl, .of_on exec_anvilJobComplete ?_⟩,
      fun r hk hr hjr hs ht => .of_on exec_anvilJobComplete ?_, fun r hk hr hjr hs => .of_on exec_anvilJobComplete ?_⟩,
    fun m => ⟨fun hr hc hp => .of_on exec_initialEncodingDone ((if_pos (by simp [hr, hc])).trans (if_pos hp)),
      fun hr hc hp => .of_on exec_initialEncodingDone ((if_pos (by simp [hr, hc])).trans (if_neg (by simp [hp]))),
      fun h => .of_on exec_initialEncodingDone (if_neg ?_)⟩,
    fun m n row => ⟨.of_on (exec_rowFrame false n row) rfl, fun h => .of_on (exec_rowFrame true n row) (if_pos ?_),
      fun h => .of_on (exec_rowFrame true n row) (if_neg (by simp only [h, Bool.not_true, Bool.and_false, Bool.false_eq_true, not_false_eq_true]))⟩⟩
  · have hdis : m.gateUpdate.forecastEn = false := (forecastEn_congr (gateUpdate_regs m)).trans hf
    refine .of_on exec_forecastRunStart ((startUpdate_due hc hl ht hp hr rfl (if_neg (by simp [hdis])).symm).trans (if_pos (.inr ?_)))
    exact (congrArg Bool.not ((forecastEn_congr (m := m.gateUpdate) rfl).trans hdis)).trans rfl
  · exact .of_on exec_forecastRunStart ((startUpdate_due hc hl ht hp hr rfl (readSchedules_of_enabled hf)).trans (if_pos (.inl (by simp [hd]))))
  · exact .of_on exec_forecastRunStart ((startUpdate_due hc hl ht hp hr rfl (readSchedules_of_enabled hf)).trans
      ((if_neg (by simp [hd, he])).trans (if_pos (by simp [forecastEn_congr (gateUpdate_regs m), hf, hs]))))
  · exact .of_on exec_forecastRunStart ((startUpdate_due hc hl ht hp hr rfl (readSchedules_of_enabled hf)).trans
      ((if_neg (by simp [hd, he])).trans (if_neg (by simp [hs]))))
  · refine ((publishForecast_due hr ht).trans ((if_pos (by simp [hf])).trans ?_))
    exact abandonRun_some ((gateUpdate_run m).trans hr)
  · refine ((publishForecast_due hr ht).trans ((if_neg (by simp [hf])).trans ?_))
    rw [gateUpdate_outs]; exact if_pos hg
  · refine ((publishForecast_due hr ht).trans ((if_neg (by simp [hf])).trans ?_))
    rw [gateUpdate_outs]; exact (if_neg (by rw [hg]; exact Bool.false_ne_true)).trans (if_pos (by rw [hd]; rfl))
  · refine ((publishForecast_due hr ht).trans ((if_neg (by simp [hf])).trans ?_))
    rw [gateUpdate_outs]; exact (if_neg (by rw [hg]; exact Bool.false_ne_true)).trans (if_neg (by rw [hd]; exact Bool.false_ne_true))
  · exact (((jobComplete_first hj hp hw he).1 hk).trans (completeJob_op e ho))
  · exact (((jobComplete_first hj hp hw he).2 hk).trans ((runEnded_own hr hjr).trans (if_pos ⟨hs, ht⟩)))
  · exact (((jobComplete_first hj hp hw he).2 hk).trans
      ((runEnded_own hr hjr).trans ((if_neg (by omega)).trans (if_pos hs))))
  · exact (((jobComplete_first hj hp hw he).2 hk).trans
      ((runEnded_own hr hjr).trans ((if_neg (fun hx => hs hx.1)).trans (if_neg hs))))
  · obtain h | h := h <;> simp [h]
  · have hnew : m.fc.partnerRows.any (fun r => r.1 == n) = false := by simpa using h
    simp [hnew]

end Sys2Proof.Machine
end

section
/-! PROOFS. The cell ring (chapter 12). -/

namespace Sys2Proof.Machine

/-! ## Posting leaves the units that no register, ring, memory or collector belongs to -/

/-- What the cell ring, the forecaster, the hall and the channels hold. -/
def Mach.units (m : Mach) : CellSt × ForecastSt × HallSt × DmaSt := (m.cell, m.fc, m.hall, m.dma)

theorem raise_units (m : Mach) (s : Nat) (c : FCls) (d : Word) : (m.raise s c d).units = m.units :=
  (congrArg Mach.units (still_raiseKind m s c kindGeneral d) :)

theorem wr_units (m : Mach) (r : Reg) (v : Word) : (m.wr r v).units = m.units := rfl

theorem setRing_units (m : Mach) (n : Nat) (f : RingSt → RingSt) : (m.setRing n f).units = m.units := rfl

theorem checkRead_units (m : Mach) (a len : Nat) : (m.checkRead a len).units = m.units := by
  refine foldl_keeps Mach.units (fun k x => ?_) _ m
  split
  · exact raise_units _ _ _ _
  · rfl

theorem checkReads_units (m : Mach) (rs : List (Nat × Nat)) : (m.checkReads rs).units = m.units :=
  foldl_keeps (α := Nat × Nat) Mach.units (fun k r => checkRead_units k r.1 r.2) rs m

theorem setBytes_units : ∀ (bs : List Byte) (m : Mach) (a : Nat), (m.setBytes a bs).units = m.units
  | [], _, _ => rfl
  | b :: bs, m, a => by rw [Mach.setBytes, setBytes_units bs]; rfl

theorem storeInLine_units (m : Mach) (a : Nat) (bs : List Byte) : (m.storeInLine a bs).1.units = m.units := by
  unfold Mach.storeInLine
  dsimp only
  split
  · rfl
  · split
    · exact setBytes_units bs m a
    · rfl

theorem store_units : ∀ (fuel : Nat) (m : Mach) (a : Nat) (bs : List Byte), (m.store a fuel bs).1.units = m.units
  | 0, _, _, _ => by rw [Mach.store]
  | _ + 1, _, _, [] => by rw [Mach.store]; exact Nat.succ_ne_zero _
  | fuel + 1, m, a, b :: bs => by
    rw [Mach.store]
    · exact (store_units fuel _ _ _).trans (storeInLine_units _ _ _)
    · simp

theorem putRing_units (m : Mach) (a : Nat) (bs : List Byte) : (m.putRing a bs).units = m.units := by
  unfold Mach.putRing
  split
  · exact (store_units _ _ _ _).trans (checkReads_units _ _)
  · rfl

theorem release_units (m : Mach) (e : StsEntry) : (m.release e).units = m.units := by
  unfold Mach.release
  split <;> rfl

theorem msix_units (m : Mach) (v : Nat) : (m.msix v).units = m.units := by
  unfold Mach.msix; split <;> [rfl; split <;> rfl]

/-- The signal of a written entry leaves the units. -/
theorem entrySignal_units (k : Mach) (n : Nat) (irq : Bool) :
    (if irq then (if n < 6 then k.msix (n + 1) else if n = 8 then k.msix 7 else k.fwSignal n) else k).units = k.units := by
  split
  · split
    · exact msix_units k _
    · split
      · exact msix_units k _
      · rfl
  · rfl

theorem writeEntry_units (m : Mach) (n : Nat) (e : StsEntry) : (m.writeEntry n e).units = m.units := by
  refine (entrySignal_units _ n _).trans ?_
  rw [setRing_units, wr_units, putRing_units, release_units]

theorem drain_units (n : Nat) : ∀ (fuel : Nat) (m : Mach), (m.drain n fuel).units = m.units
  | 0, _ => rfl
  | fuel + 1, m => by
    rw [Mach.drain]
    split
    · rfl
    · split
      · rfl
      · split
        · rfl
        · rw [drain_units n fuel, writeEntry_units]; rfl

theorem post_units (m : Mach) (e : StsEntry) : (m.post e).units = m.units := by
  unfold Mach.post
  dsimp only
  split
  · exact release_units m e
  · exact drain_units _ _ _

theorem noteResumed_units (m : Mach) (id : Nat) : (m.noteResumed id).units = m.units := by
  unfold Mach.noteResumed
  split
  · rfl
  · split
    · rfl
    · exact post_units _ _

@[simp] theorem post_cell (m : Mach) (e : StsEntry) : (m.post e).cell = m.cell := congrArg Prod.fst (post_units m e)

theorem noteResumed_cell (m : Mach) (id : Nat) : (m.noteResumed id).cell = m.cell := congrArg Prod.fst (noteResumed_units m id)

/-! ## Changes of ports -/

/-- Changes of an entry that agree on it are the same change; past the end of the list there is nothing to change. -/
theorem modify_getD_congr {α : Type} {l : List α} {n : Nat} {d : α} {f g : α → α} (h : f (l.getD n d) = g (l.getD n d)) :
    l.modify n f = l.modify n g := by
  refine List.ext_getElem? fun k => ?_
  simp only [List.getElem?_modify]
  by_cases hk : n = k
  · subst hk
    cases hx : l[n]? with
    | none => rfl
    | some x =>
      have hd : l.getD n d = x := by simp [List.getD, hx]
      rw [hd] at h
      simp [h]
  · simp [hk]

theorem setPort_congr (m : Mach) {p : Nat} {f g : PortSt → PortSt} (h : f (m.port p) = g (m.port p)) : m.setPort p f = m.setPort p g := by
  unfold Mach.setPort
  rw [modify_getD_congr h]

theorem setPort_setPort (m : Mach) (p : Nat) (f g : PortSt → PortSt) : (m.setPort p f).setPort p g = m.setPort p (fun x => g (f x)) := by
  simp only [Mach.setPort, List.modify_modify_eq]; rfl

/-- What goes out on a ring stands in its port, and nothing else changes. -/
theorem ringSend_eq (m : Mach) (p : Nat) (a b : List (List Byte)) : m.ringSend p a b =
    m.setPort p (fun pt => if m.ringDriver then { pt with txA := a, txB := b } else pt) := by
  unfold Mach.ringSend
  split
  · rfl
  · change m = { m with cell.ports := m.cell.ports.modify p id }
    rw [List.modify_id]

/-- A step that changes port `p` only, whatever it does to it. -/
def PortLocal (F : Mach → Nat → Mach) : Prop := ∀ m p, ∃ f, F m p = m.setPort p f

theorem PortLocal.eq_ports {F : Mach → Nat → Mach} (h : PortLocal F) : ∀ (l : List Nat) (m : Mach),
    ∃ ps, l.foldl F m = { m with cell.ports := ps } ∧ ps.length = m.cell.ports.length
  | [], m => ⟨_, rfl, rfl⟩
  | x :: l, m => by
    obtain ⟨f, hf⟩ := h m x
    obtain ⟨ps, he, hlen⟩ := h.eq_ports l (F m x)
    rw [hf] at he hlen
    exact ⟨ps, by rw [List.foldl_cons, hf, he]; rfl, hlen.trans (List.length_modify _ _ _)⟩

theorem PortLocal.port_of_notMem {F : Mach → Nat → Mach} (h : PortLocal F) {q : Nat} : ∀ {l : List Nat} (m : Mach), q ∉ l →
    (l.foldl F m).port q = m.port q
  | [], _, _ => rfl
  | x :: l, m, hq => by
    obtain ⟨hne, hq⟩ := not_or.mp (List.mem_cons.not.mp hq)
    obtain ⟨f, hf⟩ := h m x
    rw [List.foldl_cons, h.port_of_notMem _ hq, hf, port_setPort_ne _ _ hne]

/-- A port in the list meets its step in a module that differs from the first in other ports only. -/
theorem PortLocal.port_of_mem {F : Mach → Nat → Mach} (h : PortLocal F) {q : Nat} {l : List Nat} (m : Mach) (hl : l.Nodup) (hq : q ∈ l) :
    ∃ ps, ps.length = m.cell.ports.length ∧ ({ m with cell.ports := ps } : Mach).port q = m.port q ∧
      (l.foldl F m).port q = (F { m with cell.ports := ps } q).port q := by
  induction l generalizing m with
  | nil => simp at hq
  | cons x l ih =>
    obtain ⟨hx, hl⟩ := List.nodup_cons.mp hl
    obtain ⟨f, hf⟩ := h m x
    obtain rfl | hq := List.mem_cons.mp hq
    · exact ⟨m.cell.ports, rfl, rfl, by rw [List.foldl_cons, h.port_of_notMem _ hx]⟩
    · have hne : q ≠ x := fun he => hx (he ▸ hq)
      obtain ⟨ps, hlen, hport, hlast⟩ := ih (F m x) hl hq
      rw [List.foldl_cons, hlast]
      rw [hf] at hlen hport ⊢
      exact ⟨ps, hlen.trans (List.length_modify _ _ _), hport.trans (port_setPort_ne _ _ hne), rfl⟩

/-! ## The start of a sweep (R370, R371) -/

theorem portStarts_iff (m : Mach) (p : Nat) : m.portStarts p = true ↔ m.portEn p = true ∧ (m.port p).sweep = none ∧ (m.port p).fresh = false ∧
    ((m.port p).ring ≠ 0 ∨ m.cell.mayBefore = true ∧ m.sys.capValid = true ∧ m.sys.cfgLoaded = true ∧ (m.en fnLoop = true → m.ready fnLoop = true)) := by
  have hloop : (!m.en fnLoop || m.ready fnLoop) = true ↔ (m.en fnLoop = true → m.ready fnLoop = true) := by cases m.en fnLoop <;> simp
  simp only [Mach.portStarts, Mach.ringMayStart, Bool.and_eq_true, Bool.or_eq_true, hloop, and_assoc, Option.isNone_iff_eq_none,
    Bool.not_eq_eq_eq_not, Bool.not_true, bne_iff_ne, ne_eq]

/-- Whether a port starts is a matter of that port and of what the sweeps do not touch. -/
theorem portStarts_of_ports {m : Mach} {ps : List PortSt} {p : Nat} (h : ({ m with cell.ports := ps } : Mach).port p = m.port p) :
    ({ m with cell.ports := ps } : Mach).portStarts p = m.portStarts p := by
  unfold Mach.portStarts
  rw [h]; rfl

theorem startSweep_local : PortLocal Mach.startSweep := by
  intro m p
  unfold Mach.startSweep
  split
  · exact ⟨id, by unfold Mach.setPort; rw [List.modify_id]⟩
  · exact ⟨_, by rw [Mach.ringBroadcast, ringSend_eq, setPort_setPort]⟩

/-- A port whose sweep has started at `now`: nothing of it is read, sent or balanced yet. -/
def SweptPort (now : Nat) (a b : PortSt) : Prop :=
  b.sweep = some now ∧ b.ring = (if a.ring = 0 then 1 else a.ring) ∧ b.outA = none ∧ b.outB = none ∧ b.void = false ∧ b.breakAt = none ∧
    b.endedB = false ∧ b.balDone = false ∧ b.units = a.units.map UnitSt.startSweep

theorem startSweep_port {m : Mach} {p : Nat} (h : m.portStarts p = true) (hp : p < m.cell.ports.length) :
    SweptPort m.time.count (m.port p) ((m.startSweep p).port p) := by
  unfold Mach.startSweep
  rw [if_neg (by simp [h])]
  dsimp only
  rw [Mach.ringBroadcast, ringSend_eq, setPort_setPort, port_setPort _ _ _ hp]
  split <;> exact ⟨rfl, rfl, rfl, rfl, rfl, rfl, rfl, rfl, rfl⟩

theorem startSweep_off {m : Mach} {p : Nat} (h : m.portStarts p = false) : m.startSweep p = m := if_pos (by simp [h])

/-- The sweeps of all ports start, each by its own port. -/
theorem sweeps_port (m : Mach) {p : Nat} (hp : p < 4) : (m.portStarts p = false → ((List.range 4).foldl Mach.startSweep m).port p = m.port p) ∧
    (m.portStarts p = true → p < m.cell.ports.length →
      SweptPort m.time.count (m.port p) (((List.range 4).foldl Mach.startSweep m).port p)) := by
  obtain ⟨ps, hlen, hport, hlast⟩ := startSweep_local.port_of_mem m List.nodup_range (List.mem_range.mpr hp)
  have hstarts := portStarts_of_ports hport
  refine ⟨fun h => ?_, fun h hl => ?_⟩
  · rw [hlast, startSweep_off (hstarts.trans h), hport]
  · have hswept := startSweep_port (hstarts.trans h) (lt_of_lt_of_eq hl hlen.symm)
    rw [hport] at hswept
    rw [hlast]
    exact hswept

/-- The campaign of a sweep works with its target, or with the configured spread. -/
def Mach.campaignAims (m : Mach) : Mach :=
  { m with cell.camp := m.cell.camp.map (fun c => { c with now := if c.target = 0 then m.rdField .crBalCfg 31 16 else c.target }) }

theorem sweepStart_due {m k : Mach} (h : m.time.count % 1000 = 0) (hk : k = (List.range 4).foldl Mach.startSweep m.campaignAims) : m.sweepStart =
    ((k.cell.camp.map (·.op)).toList ++ (k.cell.caps.map (·.op)).toList).foldl Mach.noteResumed k := by
  subst hk
  exact if_neg (by simp [h])

theorem sweepStart_camp {m : Mach} (h : m.time.count % 1000 = 0) : m.sweepStart.cell.camp = m.campaignAims.cell.camp := by
  obtain ⟨ps, he, -⟩ := startSweep_local.eq_ports (List.range 4) m.campaignAims
  rw [sweepStart_due h rfl, foldl_keeps Mach.cell noteResumed_cell, he]

/-- Without a campaign and a capacity sweep, a sweep's start is the start of its ports. -/
theorem sweepStart_plain {m : Mach} (h : m.time.count % 1000 = 0) (hc : m.cell.camp = none) (hs : m.cell.caps = none) :
    m.sweepStart = (List.range 4).foldl Mach.startSweep m.campaignAims := by
  obtain ⟨ps, he, -⟩ := startSweep_local.eq_ports (List.range 4) m.campaignAims
  have hcamp : ((List.range 4).foldl Mach.startSweep m.campaignAims).cell.camp = none := by
    rw [he]; simp [Mach.campaignAims, hc]
  have hcaps : ((List.range 4).foldl Mach.startSweep m.campaignAims).cell.caps = none := by
    rw [he]; exact hs
  rw [sweepStart_due h rfl, hcamp, hcaps]; rfl

/-! ## The ring's state (R372) -/

/-- The ring in the state its SAMPLE shows, with the wire tests that are due sent and the change of state recorded. -/
def Mach.ringShows (m : Mach) (p st a b : Nat) : Mach :=
  let k := (m.setPort p (fun pt => { pt with ring := st, a := a, b := b, entered := pt.entered || decide (st = 4 ∨ st = 5) })).sendWiretest p
  if st = (m.port p).ring then k
  else match st with
    | 2 => if 3 ≤ (m.port p).ring then k.cellFault p .info kindRing 0 0 else k
    | 5 => k.cellFault p .severe kindRing 0 0
    | 3 => (k.bump (.crPerr p) 7 0 1).cellFault p .corr kindRing a 0
    | _ => (k.bump (.crPerr p) 7 0 1).cellFault p .severe kindRing a 0

theorem sampleReturn_found {m : Mach} {p s st : Nat} {r : Option Nat} {a b : Nat} (hs : (m.port p).sweep = some s)
    (hf : ringFinding (m.unitsOf p) r a b = some st) : m.sampleReturn p r a b = m.ringShows p st a b := by
  refine (if_neg (by simp [hs])).trans ?_
  split
  case h_1 hn => simp [hf] at hn
  case h_2 st' hn =>
    obtain rfl : st = st' := Option.some.inj (hf.symm.trans hn)
    rfl

theorem ringFinding_intact (n a b : Nat) : ringFinding n (some n) a b = some 2 := if_pos rfl

theorem ringFinding_mismatch {n c : Nat} (a b : Nat) (h : c ≠ n) : ringFinding n (some c) a b = some 5 := if_neg h

theorem ringFinding_brokenOne {n a b : Nat} (h : a + b = n) : ringFinding n none a b = some 3 := if_pos h

theorem ringFinding_brokenTwo {n a b : Nat} (h : a + b < n) : ringFinding n none a b = some 4 := (if_neg (by omega)).trans (if_pos h)

theorem ringFinding_over {n a b : Nat} (h : n < a + b) : ringFinding n none a b = none := (if_neg (by omega)).trans (if_neg (by omega))

theorem sampleReturn_over {m : Mach} {p a b : Nat} (h : m.unitsOf p < a + b) : m.sampleReturn p none a b = m := by
  unfold Mach.sampleReturn
  dsimp only
  rw [ringFinding_over h]
  exact ite_self m

/-! ## READs (R373 to R376) -/

theorem ringRead_opens {m : Mach} {p s u : Nat} {fromB : Bool} (hs : (m.port p).sweep = some s) (hv : (m.port p).void = false)
    (hf : m.readFrom p s ≤ m.time.count) (hn : m.nextRead p fromB = some u)
    (ho : (if fromB then (m.port p).outB else (m.port p).outA) = none)
    (ht : (if fromB then (m.port p).freeB else (m.port p).freeA) ≤ m.time.count) :
    m.ringRead p fromB = m.openRead p fromB ⟨u, m.time.count, 1⟩ := by
  have hopen : (if fromB then (m.port p).outB.isSome else (m.port p).outA.isSome) = false := by
    cases fromB <;> exact (congrArg Option.isSome ho).trans rfl
  unfold Mach.ringRead
  dsimp only
  rw [hs, hn]
  exact if_neg (by simp [hv, hf, hopen, ht])

theorem ringRead_waits {m : Mach} {p : Nat} {fromB : Bool} (h : (m.port p).sweep = none ∨ (m.port p).void = true ∨ m.nextRead p fromB = none ∨
    m.time.count < (if fromB then (m.port p).freeB else (m.port p).freeA) ∨
    ∃ s, (m.port p).sweep = some s ∧ m.time.count < m.readFrom p s) : m.ringRead p fromB = m := by
  unfold Mach.ringRead
  dsimp only
  split
  case h_1 s u hs hn =>
    refine if_pos ?_
    obtain h | h | h | h | ⟨s', hs', h⟩ := h
    · simp [hs] at h
    · simp [h]
    · simp [hn] at h
    · simp [h]
    · obtain rfl : s = s' := Option.some.inj (hs.symm.trans hs')
      simp [h]
  case h_2 => rfl

theorem ringSend_port (m : Mach) {p : Nat} (a b : List (List Byte)) (hp : p < m.cell.ports.length) :
    ∃ x y, (m.ringSend p a b).port p = { m.port p with txA := x, txB := y } := by
  rw [ringSend_eq, port_setPort _ _ _ hp]
  split <;> exact ⟨_, _, rfl⟩

theorem ringSendTo_port (m : Mach) {p : Nat} (type : Nat) (fromB : Bool) (u : Nat) (d : List Byte) (hp : p < m.cell.ports.length) :
    ∃ x y, (m.ringSendTo p type fromB u d).port p = { m.port p with txA := x, txB := y } := by
  cases fromB
  · exact ringSend_port m _ _ hp
  · exact ringSend_port m _ _ hp

/-- A READ that is open: its direction waits for the answer, and is free again 5 F after it was first sent. -/
theorem openRead_port {m : Mach} {p : Nat} (fromB : Bool) (r : PendingRead) (hp : p < m.cell.ports.length) : ∃ x y,
    (m.openRead p fromB r).port p = { (if fromB then { m.port p with outB := some r, freeB := if r.tries = 1 then r.sent + 5 else (m.port p).freeB }
      else { m.port p with outA := some r, freeA := if r.tries = 1 then r.sent + 5 else (m.port p).freeA } : PortSt) with txA := x, txB := y } := by
  have hp' : ∀ f, p < (m.setPort p f).cell.ports.length := fun f => by simpa [Mach.setPort] using hp
  obtain ⟨x, y, he⟩ := ringSendTo_port _ 2 fromB r.unit [] (hp' _)
  refine ⟨x, y, he.trans ?_⟩
  rw [port_setPort _ _ _ hp]
  cases fromB <;> rfl

theorem readTimeout_open {m : Mach} {p : Nat} {fromB : Bool} {r : PendingRead}
    (h : (if fromB then (m.port p).outB else (m.port p).outA) = some r) : m.readTimeout p fromB =
      if m.time.count < r.sent + 2 then m
      else if r.tries = 1 then (m.bump (.crPerr p) 23 16 1).openRead p fromB ⟨r.unit, m.time.count, 2⟩
      else if fromB then m.setPort p (fun pt => { pt with outB := none, endedB := true })
      else m.setPort p (fun pt => { pt with outA := none, breakAt := some r.unit }) := by
  unfold Mach.readTimeout
  dsimp only
  rw [h]

/-! ## DATA, balancing and STOPBAL (R376 to R383) -/

/-- A good DATA frame in a sweep, by the READ it answers. -/
theorem ringData_good {m : Mach} {p s : Nat} {d : CellData} (hs : (m.port p).sweep = some s) (hc : crc16 (dataBytes d) = d.crc) : m.ringData p d =
    match (if d.fromB then (m.port p).outB else (m.port p).outA) with
    | none => m
    | some r =>
      if (m.port p).void = true ∨ d.type ≠ 3 ∨ d.sweep ≠ s / 1000 % 4294967296 then m
      else
        let u := ((m.port p).units.getD (r.unit - 1) UnitSt.reset).take1 d
        let j := if u.testing.isEmpty then (u, []) else u.judgeTest d
        let k : Mach := m.setPort p (fun pt => { pt with
          units := pt.units.set (r.unit - 1) j.1
          outA := if d.fromB then pt.outA else none
          outB := if d.fromB then none else pt.outB
          stampA := if d.fromB then pt.stampA else m.time.count
          stampB := if d.fromB then m.time.count else pt.stampB
          counts := if pt.counted then addCharges pt.counts r.unit d.charges else pt.counts })
        j.2.foldl (fun k f => k.cellFault p f.1 kindSense r.unit f.2) { k with
          cell.camp := m.cell.camp.map (fun c => if c.strings.testBit p then { c with charge := c.charge + chargeGiven d.charges } else c) } := by
  refine (if_neg (by simp [hc])).trans ?_
  rw [hs]
  dsimp only
  cases (if d.fromB then (m.port p).outB else (m.port p).outA) <;> rfl

theorem balSend_off {m : Mach} {p : Nat} (h : (m.port p).sweep = none ∨ (m.port p).balDone = true ∨ m.readsOver p = false) : m.balSend p = m := by
  refine if_pos ?_
  obtain h | h | h := h <;> simp [h]

theorem balSend_due {m : Mach} {p s : Nat} (hs : (m.port p).sweep = some s) (hb : (m.port p).balDone = false) (hr : m.readsOver p = true) :
    m.balSend p = ((m.setPort p (fun pt => { pt with
      balDone := true
      balLeft := ((List.range (m.unitsOf p)).map (· + 1)).filter (fun k => ((m.port p).units.getD (k - 1) UnitSt.reset).got) })).balNext p) := by
  refine (if_neg (by simp [hs, hb, hr])).trans ?_
  exact congrArg (fun k : Mach => k.balNext p) (setPort_congr m rfl)

/-- The next BAL frame carries the selection where the string balances and nothing where it does not. -/
theorem balNext_unit {m : Mach} {p k : Nat} {ks : List Nat} {u : UnitSt} (hk : (m.port p).balLeft = k :: ks)
    (hu : u = (m.port p).units.getD (k - 1) UnitSt.reset) : m.balNext p =
      let give := if (m.balTarget p).isSome then u.give else 0
      let take := if (m.balTarget p).isSome then u.take else 0
      (m.setPort p (fun pt => { pt with
        balLeft := ks, units := pt.units.modify (k - 1) (fun x => { x with giveOut := give, takeOut := take }) })).ringSendTo p 4 u.viaB k
        (leBytes 2 give ++ leBytes 2 take) := by
  subst hu
  unfold Mach.balNext
  rw [hk]

/-- A port that is told to stop: nothing more is to be sent, and its units carry no selection. -/
def Mach.stopPort (m : Mach) (p : Nat) : Mach :=
  (m.setPort p (fun pt => { pt with balLeft := [], units := pt.units.map (fun u => { u with giveOut := 0, takeOut := 0 }) })).ringBroadcast p 5 []

theorem stopPort_local : PortLocal Mach.stopPort := by
  intro m p
  exact ⟨_, by rw [Mach.stopPort, Mach.ringBroadcast, ringSend_eq, setPort_setPort]⟩

theorem stopPort_port {m : Mach} {p : Nat} (hp : p < m.cell.ports.length) : ((m.stopPort p).port p).balLeft = [] ∧
    ((m.stopPort p).port p).units = (m.port p).units.map (fun u => { u with giveOut := 0, takeOut := 0 }) := by
  obtain ⟨x, y, he⟩ := ringSend_port (m.setPort p (fun pt => { pt with
    balLeft := [], units := pt.units.map (fun u => { u with giveOut := 0, takeOut := 0 }) })) _ _ (by simpa [Mach.setPort] using hp)
  unfold Mach.stopPort Mach.ringBroadcast
  rw [he, port_setPort _ _ _ hp]
  exact ⟨rfl, rfl⟩

theorem sendStopbal_driver {m : Mach} (h : m.ringDriver = true) :
    m.sendStopbal = (bitsOf 4 m.cell.stopbal).foldl Mach.stopPort { m with cell.stopbal := 0 } := by
  have hd : ({ m with cell.stopbal := 0 } : Mach).ringDriver = true := h
  exact if_neg (by simp [hd])

/-- STOPBAL stops the units of every port asked for and touches no other. -/
theorem sendStopbal_port {m : Mach} {p : Nat} (h : m.ringDriver = true) (hp : p < 4) :
    (m.cell.stopbal.testBit p = false → m.sendStopbal.port p = m.port p) ∧
    (m.cell.stopbal.testBit p = true → p < m.cell.ports.length → (m.sendStopbal.port p).balLeft = [] ∧
      (m.sendStopbal.port p).units = (m.port p).units.map (fun u => { u with giveOut := 0, takeOut := 0 })) := by
  have hmem : p ∈ bitsOf 4 m.cell.stopbal ↔ m.cell.stopbal.testBit p = true := by simp [bitsOf, hp]
  rw [sendStopbal_driver h]
  refine ⟨fun hb => ?_, fun hb hl => ?_⟩
  · exact stopPort_local.port_of_notMem _ (fun hm => by simp [hmem.mp hm] at hb)
  · obtain ⟨ps, hlen, hport, hlast⟩ := stopPort_local.port_of_mem { m with cell.stopbal := 0 } (List.nodup_range.filter _) (hmem.mpr hb)
    have hstop := stopPort_port (m := { m with cell.stopbal := 0, cell.ports := ps }) (lt_of_lt_of_eq hl hlen.symm)
    exact ⟨(congrArg PortSt.balLeft hlast).trans hstop.1, (congrArg PortSt.units hlast).trans
      (hstop.2.trans (congrArg (fun x : PortSt => x.units.map (fun u => { u with giveOut := 0, takeOut := 0 })) hport))⟩

/-! ## The publication of a sweep (R384 to R390) -/

/-- Whether a port's sweep is to be published. -/
def Mach.publishes (m : Mach) (p : Nat) : Bool := (m.port p).sweep.any (fun s => decide (s + 1000 ≤ m.time.count))

theorem publishes_none {m : Mach} (h : ∀ p s, p < 4 → (m.port p).sweep = some s → m.time.count < s + 1000) :
    (List.range 4).filter m.publishes = [] := by
  rw [List.filter_eq_nil_iff]
  intro p hp
  cases hs : (m.port p).sweep with
  | none => simp [Mach.publishes, hs]
  | some s =>
    have := h p s (List.mem_range.mp hp) hs
    simp [Mach.publishes, hs]; omega

theorem publishes_one {m : Mach} {p s : Nat} (hp : p < 4) (hs : (m.port p).sweep = some s) (ht : s + 1000 ≤ m.time.count)
    (ho : ∀ q t, q < 4 → q ≠ p → (m.port q).sweep = some t → m.time.count < t + 1000) : (List.range 4).filter m.publishes = [p] := by
  have hall : ∀ q ∈ List.range 4, m.publishes q = (q == p) := by
    intro q hq
    by_cases hqp : q = p
    · subst hqp; simp [Mach.publishes, hs, ht]
    cases hqs : (m.port q).sweep with
    | none => simp [Mach.publishes, hqs, hqp]
    | some t =>
      have := ho q t (List.mem_range.mp hq) hqp hqs
      have hne : (q == p) = false := by simp [hqp]
      have hlate : ¬ t + 1000 ≤ m.time.count := by omega
      rw [hne]
      simp [Mach.publishes, hqs, hlate]
  rw [List.filter_congr hall]
  interval_cases p <;> rfl

/-- The last steps of a publication: what campaign and capacity sweep make of the ports published good. -/
def Mach.publishSteps (m : Mach) (r : Bool) (good : List Nat) : Mach :=
  (({ m with cell.ready := r } : Mach).campaignStep good).capsStep good
    ((List.range 4).any (fun q => !m.cell.caps.any (fun c => c.port == q) && bit (m.rd (.bdString q)) 10))

/-- A port whose sweep is good: its ring is not mismatched and every unit answered. -/
def Mach.sweptWell (m : Mach) (p : Nat) : Bool := decide ((m.port p).ring ≠ 5) && ((m.port p).units.take (m.unitsOf p)).all (fun u => u.got)

/-- The limits of the ports that are not fresh, after a good publication, with the publication's count and request line. -/
def Mach.showEntries (m : Mach) (now : Nat) : Mach :=
  Mach.reqLine { (m.portsEn.foldl (fun (x : Mach) q => x.staleEntry now q) ((List.range 4).foldl Mach.zeroEntry m)) with
    cell.pubAt := some now, bel.limFault := false } 3

/-- Whether the cell ring is ready after a publication. -/
def Mach.ringReady (m : Mach) (due good : List Nat) : Bool :=
  m.cell.ready || (!good.isEmpty || due.any (fun p => (m.port p).entered)) && m.portsEn.all (fun p => (m.port p).done || (m.port p).entered)

theorem cellPublish_eq {m n k : Mach} {due good : List Nat} (hd : (List.range 4).filter m.publishes = due) (hg : due.filter m.sweptWell = good)
    (hn : due.foldl (fun (k : Mach) p => if good.contains p then k.publishGood p (m.time.count - 1000) else k.publishBad p) m = n)
    (hk : (if good.isEmpty then n else n.showEntries m.time.count) = k) (hne : due.isEmpty = false) :
    m.cellPublish = k.publishSteps (k.ringReady due good) good := by
  subst hd hg hn hk
  exact if_neg (fun hx => Bool.false_ne_true (hne.symm.trans hx))

theorem cellPublish_off {m : Mach} (h : (List.range 4).filter m.publishes = []) : m.cellPublish = m := if_pos (congrArg List.isEmpty h)

theorem cellPublish_bad {m : Mach} {p : Nat} (h : (List.range 4).filter m.publishes = [p]) (hr : (m.port p).ring = 5) :
    ∃ r, m.cellPublish = (m.publishBad p).publishSteps r [] := by
  have hgood : [p].filter m.sweptWell = [] := List.filter_cons_of_neg (by simp [Mach.sweptWell, hr])
  have hfold : [p].foldl (fun (k : Mach) q => if ([] : List Nat).contains q then k.publishGood q (m.time.count - 1000) else k.publishBad q) m =
      m.publishBad p := by rw [List.foldl_cons, List.foldl_nil, if_neg (by simp)]
  exact ⟨_, cellPublish_eq h hgood hfold (if_pos rfl) rfl⟩

theorem cellPublish_good {m : Mach} {p : Nat} (h : (List.range 4).filter m.publishes = [p]) (hr : (m.port p).ring ≠ 5)
    (hu : ((m.port p).units.take (m.unitsOf p)).all (fun u => u.got) = true) :
    ∃ r, m.cellPublish = ((m.publishGood p (m.time.count - 1000)).showEntries m.time.count).publishSteps r [p] := by
  have hwell : m.sweptWell p = true := by rw [Mach.sweptWell, hu, decide_eq_true hr]; rfl
  have hgood : [p].filter m.sweptWell = [p] := List.filter_cons_of_pos hwell
  have hfold : [p].foldl (fun (k : Mach) q => if [p].contains q then k.publishGood q (m.time.count - 1000) else k.publishBad q) m =
      m.publishGood p (m.time.count - 1000) := by rw [List.foldl_cons, List.foldl_nil, if_pos (by simp)]
  exact ⟨_, cellPublish_eq h hgood hfold (if_neg Bool.false_ne_true) rfl⟩

/-- Settles O49, by the condition of each row. -/
theorem theCellRingSweepsItsStrings : Obligations.TheCellRingSweepsItsStrings := by
  unfold Obligations.TheCellRingSweepsItsStrings
  refine ⟨fun m h => .of_on exec_cellSweepStart (if_pos h), fun m h hc hs => ⟨_, .of_on exec_cellSweepStart (sweepStart_plain h hc hs), ?_, ?_, fun p hp => ?_⟩,
    fun m h => ⟨m.sweepStart, .of_on exec_cellSweepStart rfl, sweepStart_camp h⟩, portStarts_iff,
    fun m p a b r h => .of_on (exec_ringSampleReturn p r a b) (if_pos (by simp [h])), fun m p a b s hs => ?_,
    fun m p s u hs hv hf => ⟨fun hn ho ht => .of_on (exec_ringRead p false) (ringRead_opens hs hv hf hn ho ht),
      fun hn ho ht => .of_on (exec_ringRead p true) (ringRead_opens hs hv hf hn ho ht)⟩,
    fun m p r hp => ?_, fun m p fromB h => .of_on (exec_ringRead p fromB) (ringRead_waits h), fun m p u t ht => ?_,
    fun m p u t k ht ho => .of_on (exec_ringReadTimeout p false) ((readTimeout_open (fromB := false) ho).trans (if_pos ht)),
    fun m p d h => .of_on (exec_ringData p d) (if_pos h), fun m p s d hs hc => ⟨fun h => ?_, fun r hv hd hw hr => ?_⟩,
    fun m p h => .of_on (exec_balSend p) (balSend_off h), fun m p s hs hb hr => .of_on (exec_balSend p) (balSend_due hs hb hr),
    fun m p k ks u hk hu => ⟨fun hn => ?_, fun hn => ?_⟩, fun m h => .of_on exec_stopbal (if_pos ?_),
    fun m h => ⟨m.sendStopbal, .of_on exec_stopbal rfl, ?_, ?_, ?_, fun p hp => sendStopbal_port h hp⟩,
    fun m h => .of_on exec_cellRingPublish (cellPublish_off (publishes_none h)), fun m p s hp hs ht ho => ⟨fun hr => ?_, fun hr hu => ?_⟩⟩
  · obtain ⟨ps, he, -⟩ := startSweep_local.eq_ports (List.range 4) m.campaignAims
    rw [he]; rfl
  · obtain ⟨ps, he, -⟩ := startSweep_local.eq_ports (List.range 4) m.campaignAims
    rw [he]; rfl
  · exact sweeps_port m.campaignAims hp
  · refine ⟨_, rfl, fun hr => ?_, fun hr => ?_, fun c hc hr => ?_, fun hab hr => ?_, fun hab hr => ?_,
      fun hab => .of_on (exec_ringSampleReturn p none a b) (sampleReturn_over hab)⟩
    · refine .of_on (exec_ringSampleReturn p _ a b) ((sampleReturn_found hs (ringFinding_intact _ a b)).trans ?_)
      by_cases h2 : 2 = (m.port p).ring
      · exact if_pos h2
      · exact (if_neg h2).trans (if_neg (by omega))
    · exact .of_on (exec_ringSampleReturn p _ a b) ((sampleReturn_found hs (ringFinding_intact _ a b)).trans ((if_neg (by omega)).trans (if_pos hr)))
    · exact .of_on (exec_ringSampleReturn p _ a b) ((sampleReturn_found hs (ringFinding_mismatch a b hc)).trans (if_neg (Ne.symm hr)))
    · exact .of_on (exec_ringSampleReturn p _ a b) ((sampleReturn_found hs (ringFinding_brokenOne hab)).trans (if_neg (Ne.symm hr)))
    · exact .of_on (exec_ringSampleReturn p _ a b) ((sampleReturn_found hs (ringFinding_brokenTwo hab)).trans (if_neg (Ne.symm hr)))
  · obtain ⟨x, y, ha⟩ := openRead_port (m := m) false r hp
    obtain ⟨x', y', hb⟩ := openRead_port (m := m) true r hp
    rw [ha, hb]
    exact ⟨rfl, rfl, fun h => ⟨if_pos h, if_pos h⟩⟩
  · refine ⟨fun ho => ?_, fun ho => ?_, fun ho => ?_, fun ho => ?_⟩
    · exact .of_on (exec_ringReadTimeout p false) ((readTimeout_open (fromB := false) ho).trans ((if_neg (Nat.not_lt.mpr ht)).trans (if_pos rfl)))
    · exact .of_on (exec_ringReadTimeout p true) ((readTimeout_open (fromB := true) ho).trans ((if_neg (Nat.not_lt.mpr ht)).trans (if_pos rfl)))
    · exact .of_on (exec_ringReadTimeout p false) ((readTimeout_open (fromB := false) ho).trans ((if_neg (Nat.not_lt.mpr ht)).trans (if_neg (by simp))))
    · exact .of_on (exec_ringReadTimeout p true) ((readTimeout_open (fromB := true) ho).trans ((if_neg (Nat.not_lt.mpr ht)).trans (if_neg (by simp))))
  · refine .of_on (exec_ringData p d) ((ringData_good hs hc).trans ?_)
    cases hr : (if d.fromB then (m.port p).outB else (m.port p).outA) with
    | none => rfl
    | some r =>
      refine if_pos ?_
      obtain h | h | h | h := h
      · exact .inl h
      · exact .inr (.inl h)
      · exact .inr (.inr h)
      · exact absurd (hr.symm.trans h) (by simp)
  · refine ⟨_, _, _, rfl, rfl, rfl, .of_on (exec_ringData p d) ((ringData_good hs hc).trans ?_)⟩
    rw [hr]
    refine (if_neg (by simp [hv, hd, hw])).trans ?_
    simp only [List.isEmpty_iff]
  · rw [balNext_unit hk hu, hn]; rfl
  · obtain ⟨x, hx⟩ := Option.ne_none_iff_exists'.mp hn
    rw [balNext_unit hk hu, hx]; rfl
  · have hd : ({ m with cell.stopbal := 0 } : Mach).ringDriver = false := h
    rw [hd]; rfl
  · obtain ⟨ps, he, -⟩ := stopPort_local.eq_ports (bitsOf 4 m.cell.stopbal) { m with cell.stopbal := 0 }
    rw [sendStopbal_driver h, he]
  · obtain ⟨ps, he, -⟩ := stopPort_local.eq_ports (bitsOf 4 m.cell.stopbal) { m with cell.stopbal := 0 }
    rw [sendStopbal_driver h, he]
  · obtain ⟨ps, he, -⟩ := stopPort_local.eq_ports (bitsOf 4 m.cell.stopbal) { m with cell.stopbal := 0 }
    rw [sendStopbal_driver h, he]
  · obtain ⟨r, he⟩ := cellPublish_bad (publishes_one hp hs ht ho) hr
    exact ⟨_, r, rfl, .of_on exec_cellRingPublish he⟩
  · obtain ⟨r, he⟩ := cellPublish_good (publishes_one hp hs ht ho) hr hu
    exact ⟨_, _, r, rfl, rfl, .of_on exec_cellRingPublish he⟩

end Sys2Proof.Machine
end

section
/-! PROOFS. Packages, training and generations (chapter 9). -/

namespace Sys2Proof.Machine

/-! ## Frames of the forecaster -/

@[simp] theorem post_fc (m : Mach) (e : StsEntry) : (m.post e).fc = m.fc := congrArg (fun u => u.2.1) (post_units m e)

@[simp] theorem checkReads_fc (m : Mach) (rs : List (Nat × Nat)) : (m.checkReads rs).fc = m.fc :=
  congrArg (fun u => u.2.1) (checkReads_units m rs)

@[simp] theorem otherBundles_fc (m : Mach) : m.otherBundles.fc = m.fc := rfl

@[simp] theorem endOp_fc (m : Mach) (id st : Nat) (ws : List Word) : (m.endOp id st ws).fc = m.fc := by
  unfold Mach.endOp
  split
  · rfl
  · split
    · rfl
    · exact post_fc _ _

theorem noteResumed_of_none {m : Mach} {id : Nat} {o : Op} (ho : m.opById id = some o) (hn : o.resumeNote = none) : m.noteResumed id = m := by
  unfold Mach.noteResumed; rw [ho]; dsimp only; rw [hn]

/-! ## A package, block by block -/

/-- The load of bank `l.bank` stands first and its operation `o`, which owes no notification, is not suspended. -/
structure Mach.Loads (m : Mach) (l : LoadSt) (o : Op) : Prop where
  first : ∃ ls, m.fc.loads = l :: ls
  op : m.opById l.op = some o
  silent : o.resumeNote = none
  going : o.state ≠ .suspended

theorem find_loads_first {m : Mach} {l : LoadSt} (h : ∃ ls, m.fc.loads = l :: ls) : m.fc.loads.find? (fun x => x.bank == l.bank) = some l := by
  obtain ⟨ls, h⟩ := h
  rw [h]
  exact List.find?_cons_of_pos (p := fun x : LoadSt => x.bank == l.bank) (beq_self_eq_true l.bank)

theorem loadBlock_none {m : Mach} {b : Nat} (h : ∀ l, l ∈ m.fc.loads → l.bank ≠ b) : m.loadBlock b = m := by
  have hf : m.fc.loads.find? (fun l => l.bank == b) = none := List.find?_eq_none.2 fun l hl => by simpa using h l hl
  unfold Mach.loadBlock; rw [hf]

theorem loadBlock_suspended {m : Mach} {l : LoadSt} {o : Op} (hl : ∃ ls, m.fc.loads = l :: ls) (ho : m.opById l.op = some o)
    (hs : o.state = .suspended) : m.loadBlock l.bank = m := by
  unfold Mach.loadBlock
  rw [find_loads_first hl]
  exact if_pos (by rw [ho]; simp [hs])

/-- The block that a load reads next, as `loadBlock` goes on once the operation is seen to run. -/
theorem loadBlock_going {m : Mach} {l : LoadSt} {o : Op} (h : m.Loads l o) : m.loadBlock l.bank =
    if l.addr.any (fun a => m.poisonIn (a + l.data.length) (min 65536 (l.len - l.data.length))) then
      (l.addr.elim m (fun a => m.checkRead (a + l.data.length) (min 65536 (l.len - l.data.length)))).endLoad l stMemPoison
    else if (l.data ++ (l.addr.elim ((Config.builtinPackage.drop l.data.length).take (min 65536 (l.len - l.data.length)))
        (fun a => m.bytes (a + l.data.length) (min 65536 (l.len - l.data.length))))).length < l.len then
      ({ m with fc.loads := m.fc.loads.map (fun x => if x.bank == l.bank then { x with data :=
        l.data ++ (l.addr.elim ((Config.builtinPackage.drop l.data.length).take (min 65536 (l.len - l.data.length)))
          (fun a => m.bytes (a + l.data.length) (min 65536 (l.len - l.data.length)))) } else x) } : Mach).loadPoint l
    else m.loadEnds l (l.data ++ (l.addr.elim ((Config.builtinPackage.drop l.data.length).take (min 65536 (l.len - l.data.length)))
        (fun a => m.bytes (a + l.data.length) (min 65536 (l.len - l.data.length))))) := by
  unfold Mach.loadBlock
  rw [find_loads_first h.first]
  dsimp only
  rw [if_neg (by rw [h.op]; simp [h.going]), noteResumed_of_none h.op h.silent]
  cases l.addr <;> rfl

theorem loadBlock_poisoned {m : Mach} {l : LoadSt} {o : Op} (h : m.Loads l o) {a n : Nat} (ha : l.addr = some a)
    (hn : n = min 65536 (l.len - l.data.length)) (hp : m.poisonIn (a + l.data.length) n = true) :
    m.loadBlock l.bank = (m.checkRead (a + l.data.length) n).endLoad l stMemPoison := by
  subst hn
  rw [loadBlock_going h, ha]
  exact if_pos hp

theorem loadBlock_more {m : Mach} {l : LoadSt} {o : Op} (h : m.Loads l o) {a n : Nat} (ha : l.addr = some a)
    (hn : n = min 65536 (l.len - l.data.length)) (hp : m.poisonIn (a + l.data.length) n = false)
    (hl : (l.data ++ m.bytes (a + l.data.length) n).length < l.len) :
    m.loadBlock l.bank = ({ m with fc.loads := m.fc.loads.map (fun x => if x.bank == l.bank then
      { x with data := l.data ++ m.bytes (a + l.data.length) n } else x) } : Mach).loadPoint l := by
  subst hn
  rw [loadBlock_going h, ha]
  exact (if_neg (by simpa using hp)).trans (if_pos hl)

theorem loadBlock_last {m : Mach} {l : LoadSt} {o : Op} (h : m.Loads l o) {a n : Nat} (ha : l.addr = some a)
    (hn : n = min 65536 (l.len - l.data.length)) (hp : m.poisonIn (a + l.data.length) n = false)
    (hl : l.len ≤ (l.data ++ m.bytes (a + l.data.length) n).length) :
    m.loadBlock l.bank = m.loadEnds l (l.data ++ m.bytes (a + l.data.length) n) := by
  subst hn
  rw [loadBlock_going h, ha]
  exact (if_neg (by simpa using hp)).trans (if_neg (Nat.not_lt.2 hl))

theorem loadBlock_builtin {m : Mach} {l : LoadSt} {o : Op} (h : m.Loads l o) (ha : l.addr = none)
    (hl : l.len ≤ (l.data ++ (Config.builtinPackage.drop l.data.length).take (min 65536 (l.len - l.data.length))).length) :
    m.loadBlock l.bank = m.loadEnds l (l.data ++ (Config.builtinPackage.drop l.data.length).take (min 65536 (l.len - l.data.length))) := by
  rw [loadBlock_going h, ha]
  exact (if_neg Bool.false_ne_true).trans (if_neg (Nat.not_lt.2 hl))

theorem loadPoint_running {m : Mach} {l : LoadSt} {o : Op} (ho : m.opById l.op = some o) (hs : o.state = .running) : m.loadPoint l = m := by
  unfold Mach.loadPoint; rw [ho]; dsimp only; rw [hs]

theorem loadPoint_suspending {m : Mach} {l : LoadSt} {o : Op} (ho : m.opById l.op = some o) (hs : o.state = .suspending) :
    m.loadPoint l = (m.setOp l.op .suspended).notify o.rt stSuspended [] := by
  unfold Mach.loadPoint; rw [ho]; dsimp only; rw [hs]

theorem loadPoint_cancelling {m : Mach} {l : LoadSt} {o : Op} (ho : m.opById l.op = some o) (hs : o.state = .cancelling) :
    m.loadPoint l = m.endLoad l stCancelled := by
  unfold Mach.loadPoint; rw [ho]; dsimp only; rw [hs]

theorem loadEnds_wrong {m : Mach} {l : LoadSt} {a : Nat} {d : List Byte} (ha : l.addr = some a) (h : sha3_256 (d.drop 256) ≠ (pkgHdr d).digest) :
    m.loadEnds l d = m.endLoad l stModelDigest := by
  unfold Mach.loadEnds; rw [ha]; exact if_pos (bne_iff_ne.2 h)

theorem loadEnds_right {m : Mach} {l : LoadSt} {a : Nat} {d : List Byte} (ha : l.addr = some a) (h : sha3_256 (d.drop 256) = (pkgHdr d).digest) :
    m.loadEnds l d = (m.placePackage l.bank d).endLoad l stOk := by
  unfold Mach.loadEnds; rw [ha]; exact if_neg (by rw [h]; simp)

theorem loadEnds_builtin {m : Mach} {l : LoadSt} (d : List Byte) (ha : l.addr = none) : m.loadEnds l d =
    (((m.placePackage l.bank d).setBank l.bank (fun k => { k with trainable := true })).setSt .avFcCtrl
      (putBit (m.rd .avFcCtrl) 8 false)).endLoad l stOk := by
  unfold Mach.loadEnds; rw [ha]

/-! ## Cycles of a training run -/

theorem autoTrain_idle {m : Mach} (h : m.id.appRun = false ∨ bit (m.rd .avFcCtrl) 29 = false ∨ m.ready fnForecast = false ∨ m.trainEn = false ∨
    m.opcodeHeld ocTrainRun = true ∨ m.tagHeld 0x700 = true ∨ (m.trainCheck 0x308 0).isSome = true) : m.autoTrain = m := by
  refine if_neg fun hc => ?_
  simp only [Bool.and_eq_true, Bool.not_eq_true', Option.isNone_iff_eq_none] at hc
  obtain ⟨⟨⟨⟨⟨⟨happ, hbit⟩, hready⟩, hen⟩, hop⟩, htag⟩, hcheck⟩ := hc
  rcases h with h | h | h | h | h | h | h <;> simp_all

theorem autoTrain_runs {m : Mach} (happ : m.id.appRun = true) (hbit : bit (m.rd .avFcCtrl) 29 = true) (hready : m.ready fnForecast = true)
    (hen : m.trainEn = true) (hop : m.opcodeHeld ocTrainRun = false) (htag : m.tagHeld 0x700 = false) (hcheck : m.trainCheck 0x308 0 = none) :
    m.autoTrain = m.opTrainRun (m.fwRt 0x700 ocTrainRun) .fw 0x308 0 0 :=
  if_pos (by rw [happ, hbit, hready, hen, hop, htag, hcheck]; rfl)

theorem opTrainRun_starts {m : Mach} {rt : RTo} {c : Cls} {w4 lr cycles : Word} (h : m.trainCheck w4 lr = none) : m.opTrainRun rt c w4 lr cycles =
    (({ (m.addOp rt c).1 with fc.train := some ⟨(m.addOp rt c).2, rt.tag, field w4 7 0, field w4 11 8, lr,
      if cycles = 0 then none else some cycles.toNat, none⟩ } : Mach).reply rt stAccepted []) := by
  unfold Mach.opTrainRun; rw [h]

/-- What lets a cycle of the run `t` begin at the present count (R284). -/
def Mach.cycleDue (m : Mach) (t : TrainSt) : Prop :=
  m.time.count % 100000 = 0 ∧ 0 < m.time.count ∧ t.cycle = none ∧ m.trainLive t = true ∧ m.trainEn = true ∧ m.anvilOn = true ∧
    (m.bank m.fcBank).trainable = true

theorem cycleStart_none {m : Mach} (h : m.fc.train = none) : m.cycleStart = m := by unfold Mach.cycleStart; rw [h]

theorem cycleStart_idle {m : Mach} {t : TrainSt} (ht : m.fc.train = some t) (h : ¬ m.cycleDue t) : m.cycleStart = m := by
  unfold Mach.cycleStart
  rw [ht]
  refine if_pos (Classical.byContradiction fun hc => h ?_)
  simp only [not_or, not_not, Bool.not_eq_true', Bool.not_eq_false, Option.not_isSome_iff_eq_none] at hc
  obtain ⟨hmod, hpos, hcyc, hlive, hen, hon, htr⟩ := hc
  exact ⟨hmod, Nat.pos_of_ne_zero hpos, by simpa using hcyc, hlive, hen, hon, htr⟩

theorem cycleStart_idle' {m : Mach} (h : m.fc.train = none ∨ ∀ t, m.fc.train = some t → ¬ m.cycleDue t) : m.cycleStart = m := by
  rcases h with h | h
  · exact cycleStart_none h
  · cases ht : m.fc.train with
    | none => exact cycleStart_none ht
    | some t => exact cycleStart_idle ht (h t ht)

theorem cycleStart_due {m : Mach} {t : TrainSt} (ht : m.fc.train = some t) (h : m.cycleDue t) : m.cycleStart =
    if !m.acting then m.yieldTraining
    else
      { if (m.noteResumed t.op).fc.opt then m.noteResumed t.op
          else (m.noteResumed t.op).putTrainArea 0 (Config.trainInit (m.noteResumed t.op).runningWeights) with
        fc.train := some { t with cycle := some ((m.noteResumed t.op).time.count / 100000) }
        fc.opt := true
        anvil.trained := true } := by
  obtain ⟨hmod, hpos, hcyc, hlive, hen, hon, htr⟩ := h
  unfold Mach.cycleStart
  rw [ht]
  exact if_neg (by simp [hmod, Nat.pos_iff_ne_zero.1 hpos, hcyc, hlive, hen, hon, htr])

theorem endCycle_of {m : Mach} {t : TrainSt} {n : Nat} (ht : m.fc.train = some t) (hc : t.cycle = some n) : m.endCycle =
    if t.left.map (fun l => l - 1) = some 0 then ({ m with fc.train := none } : Mach).endOp t.op stOk []
    else { m with fc.train := some { t with cycle := none, left := t.left.map (fun l => l - 1) } } := by
  unfold Mach.endCycle
  rw [ht]
  exact if_neg (by simp [hc])

@[simp] theorem endCycle_sending (m : Mach) : m.endCycle.fc.sending = m.fc.sending := by
  unfold Mach.endCycle
  split
  · rfl
  · split
    · rfl
    · dsimp only
      split
      · rw [endOp_fc]
      · rfl

/-- What lets the cycle of the run `t` end at present. -/
def Mach.cycleEnding (m : Mach) (t : TrainSt) : Prop :=
  ((m.trainLive t = true ∧ m.trainEn = true) ∨ m.trainLast t = true) ∧ m.acting = true ∧ m.levelTwoRuns = true

theorem cycleDone_ending {m : Mach} {t : TrainSt} {n : Nat} (ht : m.fc.train = some t) (hc : t.cycle = some n) (h : m.cycleEnding t) :
    m.cycleDone = if m.trainPoison then (m.checkReads m.trainReads).poisonCycle
      else (if (m.otherBundles.putTrainArea 0 (m.trainSteps t n t.steps)).trainEn && decide (m.time.count < 100000 * (n + t.lag)) then
        (m.otherBundles.putTrainArea 0 (m.trainSteps t n t.steps)).makeGeneration n t.lag
        else m.otherBundles.putTrainArea 0 (m.trainSteps t n t.steps)).endCycle := by
  obtain ⟨hlive, hact, htwo⟩ := h
  unfold Mach.cycleDone
  rw [ht]
  dsimp only
  rw [hc]
  exact if_neg (by simp only [hact, htwo]; rcases hlive with ⟨hl, he⟩ | hl <;> simp [*])

theorem cycleDone_idle {m : Mach} (h : ∀ t n, m.fc.train = some t → t.cycle = some n → ¬ m.cycleEnding t) : m.cycleDone = m := by
  unfold Mach.cycleDone
  cases ht : m.fc.train with
  | none => rfl
  | some t =>
    dsimp only
    cases hc : t.cycle with
    | none => rfl
    | some n =>
      refine if_pos (Classical.byContradiction fun hn => h t n ht hc ?_)
      simpa only [not_or, Bool.not_eq_true', Bool.not_eq_false, Bool.or_eq_true, Bool.and_eq_true, Mach.cycleEnding] using hn

theorem cycleEnds_quiet {m n : Mach} (h : m.cycleDone = n) (hs : n.fc.sending = none ∨ n.fc.sending = m.fc.sending) : m.cycleEnds = n := by
  unfold Mach.cycleEnds
  rw [h]
  dsimp only
  split
  · next t ht => exact if_pos (by rcases hs with hs | hs <;> simp_all)
  · rfl

theorem cycleEnds_sends {m n : Mach} {x : GenTx} (h : m.cycleDone = n) (hx : n.fc.sending = some x) (hm : m.fc.sending ≠ some x) :
    m.cycleEnds = n.sendGeneration x := by
  unfold Mach.cycleEnds
  rw [h]
  dsimp only
  rw [hx]
  exact if_neg hm

/-! ## Re-encoding and adoption -/

theorem encodeFirst_append (f : GenSt → GenSt) {g : GenSt} (new : List GenSt) (hk : g.kept = true) (he : g.encoded = false) :
    ∀ old : List GenSt, (∀ x, x ∈ old → x.kept = false ∨ x.encoded = true) → encodeFirst f (old ++ g :: new) = old ++ f g :: new
  | [], _ => if_pos (by simp [hk, he])
  | x :: old, h => by
    have hx : ¬ (x.kept && !x.encoded) = true := by rcases h x List.mem_cons_self with h | h <;> simp [h]
    exact (if_neg hx).trans (congrArg (x :: ·) (encodeFirst_append f new hk he old fun y hy => h y (List.mem_cons_of_mem _ hy)))

theorem reencoded_idle {m : Mach} (h : m.levelTwoRuns = false ∨ ∀ g, g ∈ m.fc.gens → g.kept = false ∨ g.encoded = true) : m.reencoded = m := by
  refine if_pos ?_
  rcases h with h | h
  · simp [h]
  · have hany : m.fc.gens.any (fun g => g.kept && !g.encoded) = false :=
      List.any_eq_false.2 fun g hg => by rcases h g hg with h | h <;> simp [h]
    simp [hany]

theorem reencoded_due {m : Mach} {g : GenSt} (hm : g ∈ m.fc.gens) (hk : g.kept = true) (he : g.encoded = false) (ht : m.levelTwoRuns = true) :
    m.reencoded = if m.meetsPoison (m.encodeReads (m.receivingCopy m.fcBank)) then m.poisonWork (m.encodeReads (m.receivingCopy m.fcBank))
      else { m.otherBundles with
        anvil.trained := true
        fc.gens := encodeFirst (fun g => { g with encoded := true, encTo := m.time.count - 3, enc := m.encodeAll g.bytes }) m.fc.gens } := by
  have hany : m.fc.gens.any (fun g => g.kept && !g.encoded) = true := List.any_eq_true.2 ⟨g, hm, by simp [hk, he]⟩
  exact if_neg (by simp [ht, hany])

/-- The module once the announcements of the present count are taken. -/
def Mach.dueTaken (m : Mach) : Mach := { m with fc.due := m.fc.due.filter (fun d => decide (m.time.count < d.1)) }

theorem adoptGeneration_idle {m : Mach} (h : ∀ d, d ∈ m.fc.due → d.1 ≠ m.time.count) : m.adoptGeneration = m := by
  have hf : m.fc.due.find? (fun d => d.1 == m.time.count) = none := List.find?_eq_none.2 fun d hd => by simpa using h d hd
  unfold Mach.adoptGeneration; rw [hf]

theorem adoptGeneration_due {m : Mach} {d : Nat × Nat} {ds : List (Nat × Nat)} (h : m.fc.due = d :: ds) (hd : d.1 = m.time.count) :
    m.adoptGeneration = match newestGen (m.fc.gens.filter m.adoptable) with
      | some g => if g.hdr.n < d.2 then { m.dueTaken.adopt g with fc.late := satAdd m.fc.late 1 65535 } else m.dueTaken.adopt g
      | none => if m.fc.gens.any (fun g => g.hdr.n == d.2 && m.withheld g) then m.dueTaken
        else { m.dueTaken with fc.lagging := true, fc.late := satAdd m.fc.late 1 65535 } := by
  have hf : m.fc.due.find? (fun d => d.1 == m.time.count) = some d := by
    rw [h]
    exact List.find?_cons_of_pos (p := fun d : Nat × Nat => d.1 == m.time.count) (beq_iff_eq.2 hd)
  unfold Mach.adoptGeneration; rw [hf]; rfl

theorem filter_adoptable_none {m : Mach} (h : ∀ g, g ∈ m.fc.gens → m.adoptable g = false) : newestGen (m.fc.gens.filter m.adoptable) = none := by
  rw [List.filter_eq_nil_iff.2 fun g hg => by simp [h g hg]]; rfl

theorem filter_adoptable_one {m : Mach} {g : GenSt} (hg : m.fc.gens = [g]) (h : m.adoptable g = true) :
    newestGen (m.fc.gens.filter m.adoptable) = some g := by
  rw [hg, List.filter_cons_of_pos h]; rfl

/-! ## A generation is complete -/

theorem generationComplete_none {m : Mach} (h : ∀ g, g ∈ m.fc.gens → g.kept = true ∨ g.parts.length ≠ genFrames g.hdr) : m.generationComplete = m := by
  have hf : m.fc.gens.find? (fun g => !g.kept && g.parts.length == genFrames g.hdr) = none :=
    List.find?_eq_none.2 fun g hg => by rcases h g hg with h | h <;> simp [h]
  unfold Mach.generationComplete; rw [hf]

theorem generationComplete_first {m : Mach} {g : GenSt} {gs : List GenSt} (h : m.fc.gens = g :: gs) (hk : g.kept = false)
    (hl : g.parts.length = genFrames g.hdr) : m.generationComplete =
      if sha3_256 g.bytes != g.hdr.digest then
        ({ m with fc.gens := m.fc.gens.filter (fun h => h.hdr != g.hdr) } : Mach).raise srcForecast .corr (place g.hdr.trainer 0)
      else if g.hdr.package != (m.bank m.fcBank).digest then
        ({ m with fc.gens := m.fc.gens.filter (fun h => h.hdr != g.hdr) } : Mach).raise srcForecast .info (place g.hdr.trainer 0)
      else { m with fc.gens := m.fc.gens.map (fun h => if h.hdr == g.hdr then { h with kept := true } else h) } := by
  have hf : m.fc.gens.find? (fun g => !g.kept && g.parts.length == genFrames g.hdr) = some g := by
    rw [h, List.find?_cons_of_pos (by simp [hk, hl])]
  unfold Mach.generationComplete; rw [hf]

theorem trainPark_caps {m : Mach} {j : Job} (hw : m.trainWork = true) (hc : m.rdField .avSchedCfg 6 0 < 100) (hj : j ∈ m.anvil.jobs)
    (hl : 3 ≤ j.level) (hp : j.phase = .queued ∨ j.phase = .parked) : m.trainPark = { m with anvil.capped := true } := by
  have hany : m.anvil.jobs.any (fun j => decide (3 ≤ j.level) && (decide (j.phase = .queued) || decide (j.phase = .parked))) = true :=
    List.any_eq_true.2 ⟨j, hj, by simpa [hl] using hp⟩
  exact if_pos (by simp [hw, hc, hany])

theorem trainPark_idle {m : Mach} (h : m.trainWork = false ∨ 100 ≤ m.rdField .avSchedCfg 6 0 ∨ ∀ j, j ∈ m.anvil.jobs → j.level < 3) :
    m.trainPark = m := by
  refine if_neg fun hc => ?_
  simp only [Bool.and_eq_true, decide_eq_true_eq, List.any_eq_true] at hc
  obtain ⟨⟨hw, hlt⟩, j, hj, hl, -⟩ := hc
  rcases h with h | h | h
  · exact Bool.false_ne_true (h.symm.trans hw)
  · exact absurd hlt (Nat.not_lt.2 h)
  · exact absurd (h j hj) (Nat.not_lt.2 hl)

/-- Settles O51: the block, cycle and generation rows by the equations of their functions above. -/
theorem trainingRunsInCycles : Obligations.TrainingRunsInCycles := by
  unfold Obligations.TrainingRunsInCycles
  refine ⟨fun m b h => .of_on (exec_modelLoadBlock b) (loadBlock_none h), fun m l ls o hl ho hn => ⟨fun hs => ?_, ?_, ?_⟩,
    fun m h => .of_on exec_autoTrainRun (autoTrain_idle h), fun m happ hbit hready hen hop htag hcheck => ?_,
    fun m h => .of_on exec_trainingCycleStart (cycleStart_idle' ?_),
    fun m t ht h => .of_on exec_trainingCycleStart (cycleStart_idle ht ?_),
    fun m t o ht hmod hpos hc ho hs hn hen hon htr => ?_, fun m t n ht hc hlive hen hact htwo => ?_,
    fun m t n ht hc => ⟨fun hl => ?_, fun hl => ?_, fun l hl => ?_⟩, fun m t h => .of_on exec_trainingCycleDone (cycleEnds_quiet (cycleDone_idle ?_) (.inr rfl)),
    fun m g old new hg hold hk he htwo hp => .of_on exec_reencodeDone ?_, fun m g hg hk he htwo hp => .of_on exec_reencodeDone ?_,
    fun m h => .of_on exec_reencodeDone (reencoded_idle h), fun m h => .of_on exec_generationAdopt (adoptGeneration_idle h),
    fun m d ds h hd => ⟨_, rfl, ?_⟩, fun m j hw hc hj hl hp => .of_on exec_trainCapPark (trainPark_caps hw hc hj hl hp),
    fun m h => .of_on exec_trainCapPark (trainPark_idle h), fun m h => .of_on exec_generationComplete (generationComplete_none h),
    fun m g gs h hk hl => ⟨_, rfl, fun hd => ?_, fun hd hp => ?_, fun hd hp => ?_⟩⟩
  · exact .of_on (exec_modelLoadBlock l.bank) (loadBlock_suspended ⟨ls, hl⟩ ho hs)
  · intro a n ha hlen hs
    have hload : m.Loads l o := ⟨⟨ls, hl⟩, ho, hn, hs⟩
    refine ⟨fun hp => .of_on (exec_modelLoadBlock l.bank) (loadBlock_poisoned hload ha hlen hp), ?_⟩
    rintro d rfl hp
    refine ⟨fun hmore => ⟨_, rfl, fun hr => ?_, fun hr => ?_, fun hr => ?_⟩, fun hend => ⟨fun hdig => ?_, fun hdig => ?_⟩⟩ <;>
      refine .of_on (exec_modelLoadBlock l.bank) ?_
    · exact (loadBlock_more hload ha hlen hp hmore).trans (loadPoint_running ho hr)
    · exact (loadBlock_more hload ha hlen hp hmore).trans (loadPoint_suspending ho hr)
    · exact (loadBlock_more hload ha hlen hp hmore).trans (loadPoint_cancelling ho hr)
    · exact (loadBlock_last hload ha hlen hp hend).trans (loadEnds_wrong ha hdig)
    · exact (loadBlock_last hload ha hlen hp hend).trans (loadEnds_right ha hdig)
  · rintro d ha hs rfl hend
    exact .of_on (exec_modelLoadBlock l.bank) ((loadBlock_builtin ⟨⟨ls, hl⟩, ho, hn, hs⟩ ha hend).trans (loadEnds_builtin _ ha))
  · exact ⟨_, _, _, rfl, rfl, .of_on exec_autoTrainRun ((autoTrain_runs happ hbit hready hen hop htag hcheck).trans (opTrainRun_starts hcheck))⟩
  · rcases h with h | h | h | h | h
    · exact .inl h
    all_goals exact .inr fun t _ hdue => by obtain ⟨hmod, -, -, -, hen, hon, htr⟩ := hdue; simp_all
  · rintro ⟨-, -, hc, hlive, -⟩
    rcases h with h | h <;> simp_all
  · have hlive : m.trainLive t = true := by unfold Mach.trainLive; rw [ho]; simp [hs]
    have hdue := cycleStart_due ht ⟨hmod, hpos, hc, hlive, hen, hon, htr⟩
    refine ⟨fun hact => .of_on exec_trainingCycleStart (hdue.trans (if_pos (by rw [hact]; rfl))),
      fun hact => ⟨_, rfl, .of_on exec_trainingCycleStart (hdue.trans ((if_neg (by rw [hact]; exact Bool.false_ne_true)).trans ?_))⟩⟩
    rw [noteResumed_of_none ho hn]
  · have hdone := cycleDone_ending ht hc ⟨.inl ⟨hlive, hen⟩, hact, htwo⟩
    have hen' : (m.otherBundles.putTrainArea 0 (m.trainSteps t n t.steps)).trainEn = m.trainEn := rfl
    rw [hen', hen] at hdone
    refine ⟨_, _, rfl, rfl, fun hp => ?_, fun hp hlate => ?_, fun hp hlt => ?_⟩
    · exact .of_on exec_trainingCycleDone (cycleEnds_quiet (hdone.trans (if_pos hp)) (.inr (by simp)))
    · refine .of_on exec_trainingCycleDone (cycleEnds_quiet (hdone.trans ?_) (.inr (endCycle_sending _)))
      rw [if_neg (by rw [hp]; exact Bool.false_ne_true), if_neg (by simpa using hlate)]
    · have hgen := hdone.trans ((if_neg (by rw [hp]; exact Bool.false_ne_true)).trans (congrArg Mach.endCycle (if_pos (by simpa using hlt))))
      exact ⟨fun hs => .of_on exec_trainingCycleDone (cycleEnds_quiet hgen (.inl hs)),
        fun x hx hm => .of_on exec_trainingCycleDone (cycleEnds_sends hgen hx hm)⟩
  · exact (endCycle_of ht hc).trans (if_pos (by rw [hl]; rfl))
  · rw [endCycle_of ht hc, hl]; rfl
  · rw [endCycle_of ht hc, hl]; rfl
  · rintro t' n ht' hc' ⟨hlive, hact, htwo⟩
    rcases h with h | ⟨h, hc⟩ | h | h <;> simp_all
  · refine (reencoded_due (by rw [hg]; simp) hk he htwo).trans ((if_neg (by rw [hp]; exact Bool.false_ne_true)).trans ?_)
    rw [hg, encodeFirst_append _ new hk he old hold]
  · exact (reencoded_due hg hk he htwo).trans (if_pos hp)
  · have hdue := adoptGeneration_due h hd
    refine ⟨fun hg hw => ?_, fun hg hw => ?_, fun g hg ha hn => ?_, fun g hg ha hn => ?_⟩ <;> refine .of_on exec_generationAdopt (hdue.trans ?_)
    · rw [filter_adoptable_none hg]; exact if_pos hw
    · rw [filter_adoptable_none hg]; exact if_neg (by rw [hw]; exact Bool.false_ne_true)
    · rw [filter_adoptable_one hg ha]; exact if_neg (Nat.not_lt.2 hn)
    · rw [filter_adoptable_one hg ha]; exact if_pos hn
  · exact .of_on exec_generationComplete ((generationComplete_first h hk hl).trans (if_pos (bne_iff_ne.2 hd)))
  · exact .of_on exec_generationComplete ((generationComplete_first h hk hl).trans ((if_neg (by simpa using hd)).trans (if_pos (bne_iff_ne.2 hp))))
  · exact .of_on exec_generationComplete ((generationComplete_first h hk hl).trans ((if_neg (by simpa using hd)).trans (if_neg (by simpa using hp))))

end Sys2Proof.Machine
end

section
/-! PROOFS. Lock-step of two modules (chapter 10). -/

namespace Sys2Proof.Machine

/-- A session of lock-step is under way. -/
def Mach.inLockSession (m : Mach) : Prop := m.anvil.lock.state = .running ∨ m.anvil.lock.state = .searching

/-! ## The partner's digest -/

theorem lockDigestFrame_bad (m : Mach) (ord : Nat) (sl : List DWord) (sc : DWord) : m.lockDigestFrame false ord sl sc = m.bump .avLsPort 15 0 1 := rfl

theorem lockDigestFrame_outside {m : Mach} (ord : Nat) (sl : List DWord) (sc : DWord) (h : m.anvil.lock.state ≠ .running) :
    m.lockDigestFrame true ord sl sc = m := (if_neg (by decide)).trans (if_pos h)

/-- A good digest of a running session is kept and compared with the module's own one. -/
theorem lockDigestFrame_running {m : Mach} {d : LsDigest} (ord : Nat) (sl : List DWord) (sc : DWord) (h : m.anvil.lock.state = .running)
    (hd : m.anvil.lock.digest = some d) : m.lockDigestFrame true ord sl sc =
      if d.ord ≠ ord then { m with anvil.lock.theirs := some (ord, sl, sc) }
      else if d.slots = sl ∧ d.scalar = sc then { m with anvil.lock.theirs := none, anvil.lock.digest := none, anvil.lock.ord := d.ord }
      else { m with anvil.lock.theirs := some (ord, sl, sc), anvil.lock.ord := d.ord } := by
  refine (if_neg (by decide)).trans ((if_neg (not_not.2 h)).trans ?_)
  unfold Mach.lockCompare
  dsimp only
  rw [hd]

/-! ## Divergence and its search -/

/-- The digests of one ordinal differ while the session runs. -/
def Mach.diverges (m : Mach) (d : LsDigest) (t : Nat × List DWord × DWord) : Prop :=
  m.anvil.lock.state = .running ∧ d.ord = t.1 ∧ (d.slots ≠ t.2.1 ∨ d.scalar ≠ t.2.2)

/-- The scalar register that the search names: the lowest that differs where the scalar digests differ, else 0. -/
def divergedScalar (d : LsDigest) (theirs : DWord) (sc : List DWord) : Nat :=
  if d.scalar != theirs then (((List.range 31).map (fun i => i + 1)).find? (fun i => d.sc.getD i 0 != sc.getD i 0)).getD 0 else 0

theorem divergedScalar_equal {d : LsDigest} {theirs : DWord} (sc : List DWord) (h : d.scalar = theirs) : divergedScalar d theirs sc = 0 :=
  if_neg (by simp [h])

theorem divergedScalar_differs {d : LsDigest} {theirs : DWord} (sc : List DWord) (h : d.scalar ≠ theirs) :
    divergedScalar d theirs sc = ((((List.range 31).map (fun k => k + 1)).find? (fun k => d.sc.getD k 0 != sc.getD k 0)).getD 0) :=
  if_pos (bne_iff_ne.2 h)

/-- The module whose session begins the search for the line that differs. -/
def Mach.searching (m : Mach) (d : LsDigest) (t : Nat × List DWord × DWord) (sc : List DWord) : Mach :=
  { m with anvil.lock := { m.anvil.lock with
      state := .searching
      divSlot := firstDiff d.slots t.2.1
      scalarDiff := d.scalar != t.2.2
      scIdx := divergedScalar d t.2.2 sc } }

theorem lockDiverge_missing {m : Mach} (sc : List DWord) (h : m.anvil.lock.digest = none ∨ m.anvil.lock.theirs = none) : m.lockDiverge sc = m := by
  unfold Mach.lockDiverge
  split
  · rcases h with h | h <;> simp_all
  · rfl

theorem lockDiverge_both {m : Mach} {d : LsDigest} {t : Nat × List DWord × DWord} (sc : List DWord) (hd : m.anvil.lock.digest = some d)
    (ht : m.anvil.lock.theirs = some t) : m.lockDiverge sc =
      if m.anvil.lock.state ≠ .running ∨ d.ord ≠ t.1 ∨ (d.slots = t.2.1 ∧ d.scalar = t.2.2) then m
      else match m.anvil.jobs.find? (fun j => some j.id == m.anvil.lock.job) with
        | some j => if m.jobOpState j = .cancelling then (m.searching d t sc).cancelJob j else (m.searching d t sc).suspendJob j m.tilesNow
        | none => m.searching d t sc := by
  unfold Mach.lockDiverge
  rw [hd, ht]
  rfl

theorem lockDiverge_idle {m : Mach} (sc : List DWord)
    (h : ∀ d t, m.anvil.lock.digest = some d → m.anvil.lock.theirs = some t → ¬ m.diverges d t) : m.lockDiverge sc = m := by
  cases hd : m.anvil.lock.digest with
  | none => exact lockDiverge_missing sc (.inl hd)
  | some d =>
    cases ht : m.anvil.lock.theirs with
    | none => exact lockDiverge_missing sc (.inr ht)
    | some t =>
      refine (lockDiverge_both sc hd ht).trans (if_pos ?_)
      have := h d t hd ht
      unfold Mach.diverges at this
      tauto

theorem lockDiverge_searches {m : Mach} {d : LsDigest} {t : Nat × List DWord × DWord} (sc : List DWord) (hd : m.anvil.lock.digest = some d)
    (ht : m.anvil.lock.theirs = some t) (h : m.diverges d t) : m.lockDiverge sc =
      match m.anvil.jobs.find? (fun j => some j.id == m.anvil.lock.job) with
      | some j => if m.jobOpState j = .cancelling then (m.searching d t sc).cancelJob j else (m.searching d t sc).suspendJob j m.tilesNow
      | none => m.searching d t sc := by
  unfold Mach.diverges at h
  exact (lockDiverge_both sc hd ht).trans (if_neg (by tauto))

theorem lockSearched_idle {m : Mach} (hs : List (Nat × DWord)) (h : m.anvil.lock.state ≠ .searching) : m.lockSearched hs = m := if_pos h

/-! ## The ports and the partner's outcomes -/

theorem lockPortDown_outside {m : Mach} (h : ¬ m.inLockSession) :
    m.lockPortDown = { m with anvil.lock.linkUp := false, anvil.lock.partnerM := false } := if_neg h

theorem lockPortDown_session {m : Mach} (h : m.inLockSession) :
    m.lockPortDown = ({ m with anvil.lock.linkUp := false, anvil.lock.partnerM := false } : Mach).endSession stLsPartner := if_pos h

/-- An outcome for a waiting launch: within 10 F it is judged, after them refused. -/
theorem lockOutcome_waiting {m : Mach} {i : Nat} (hw : m.anvil.lock.waiting = some i) :
    (∀ p h t, m.lockOutcome (.checked p h t) =
      if m.time.count ≤ (m.slot i).count + 10 then m.lockChecked i p h t else m.lockRefuse i stLsPartner) ∧
    m.lockOutcome .missing = (if (m.slot i).count + 10 ≤ m.time.count then m.lockRefuse i stLsPartner else m) ∧
    (∀ st ord, m.lockOutcome (.jobEnd st ord) = m) ∧ m.lockOutcome .reset = m.lockRefuse i stLsPartner := by
  unfold Mach.lockOutcome
  rw [hw]
  exact ⟨fun p h t => rfl, rfl, fun st ord => rfl, rfl⟩

/-- An outcome without a waiting launch speaks of the session. -/
theorem lockOutcome_session {m : Mach} (hw : m.anvil.lock.waiting = none) :
    (∀ p h t, m.lockOutcome (.checked p h t) = m) ∧ m.lockOutcome .missing = m ∧
    m.lockOutcome .reset = (if m.anvil.lock.state = .running ∨ m.anvil.lock.state = .searching then m.endSession stLsPartner else m) ∧
    ∀ st ord, m.lockOutcome (.jobEnd st ord) =
      if m.anvil.lock.state ≠ .running ∧ m.anvil.lock.state ≠ .searching then m
      else if st = stResumedNonrepro then m.endSession stLsMismatch
      else if endsPartner st then m.endSession stLsPartner
      else if m.anvil.lock.state = .searching then m
      else ({ m with anvil.lock.theirEnd := some (st, ord) } : Mach).judgeEnds := by
  unfold Mach.lockOutcome
  rw [hw]
  exact ⟨fun p h t => rfl, rfl, rfl, fun st ord => rfl⟩

/-- The end of the partner's job in a session. -/
theorem jobEnd_session {m : Mach} (hw : m.anvil.lock.waiting = none) (h : m.inLockSession) (st ord : Nat) : m.lockOutcome (.jobEnd st ord) =
    if st = stResumedNonrepro then m.endSession stLsMismatch
    else if endsPartner st then m.endSession stLsPartner
    else if m.anvil.lock.state = .searching then m
    else ({ m with anvil.lock.theirEnd := some (st, ord) } : Mach).judgeEnds :=
  ((lockOutcome_session hw).2.2.2 st ord).trans (if_neg fun hn => h.elim hn.1 hn.2)

/-- The end of the partner's job in a running session, of a status that does not end the session by itself. -/
theorem jobEnd_running {m : Mach} (hw : m.anvil.lock.waiting = none) (h : m.anvil.lock.state = .running) {st : Nat} (ord : Nat)
    (hr : st ≠ stResumedNonrepro) (he : endsPartner st = false) :
    m.lockOutcome (.jobEnd st ord) = ({ m with anvil.lock.theirEnd := some (st, ord) } : Mach).judgeEnds := by
  refine (jobEnd_session hw (.inl h) st ord).trans ((if_neg hr).trans ((if_neg (by rw [he]; exact Bool.false_ne_true)).trans (if_neg ?_)))
  rw [h]
  decide

theorem judgeEnds_waits {m : Mach} (h : m.anvil.lock.ownEnd = none) : m.judgeEnds = m := by unfold Mach.judgeEnds; rw [h]

theorem judgeEnds_both {m : Mach} {a b : Nat × Nat} (ha : m.anvil.lock.ownEnd = some a) (hb : m.anvil.lock.theirEnd = some b) :
    m.judgeEnds = if a ≠ b then m.endSession stDiverged else if a.1 = stOk then m.endSession stOk
      else m.take.2.endSession (m.take.1.toNat % 256) := by
  unfold Mach.judgeEnds; rw [ha, hb]

/-- The end of the partner's job that meets the end of the module's own. -/
theorem jobEnd_both {m : Mach} (hw : m.anvil.lock.waiting = none) (h : m.anvil.lock.state = .running) {st ord : Nat} {a : Nat × Nat}
    (hr : st ≠ stResumedNonrepro) (he : endsPartner st = false) (ho : m.anvil.lock.ownEnd = some a) {w : Mach}
    (hwm : w = { m with anvil.lock.theirEnd := some (st, ord) }) : m.lockOutcome (.jobEnd st ord) =
      if a ≠ (st, ord) then w.endSession stDiverged else if a.1 = stOk then w.endSession stOk else w.take.2.endSession (w.take.1.toNat % 256) := by
  subst hwm
  exact (jobEnd_running hw h ord hr he).trans (judgeEnds_both (m := { m with anvil.lock.theirEnd := some (st, ord) }) ho rfl)

/-- Settles O54: each row by the equations of its function above. -/
theorem lockStepComparesTwoModules : Obligations.LockStepComparesTwoModules := by
  unfold Obligations.LockStepComparesTwoModules
  refine ⟨fun m ord sl sc => ⟨.of_on (exec_lockstepDigest _ ord sl sc) (lockDigestFrame_bad m ord sl sc),
      fun h => .of_on (exec_lockstepDigest _ ord sl sc) (lockDigestFrame_outside ord sl sc h)⟩, fun m d ord sl sc hs hd => ?_,
    fun m sc h => .of_on (exec_lockstepDivergence sc) (lockDiverge_idle sc ?_),
    fun m sc d t hd ht h => .of_on (exec_lockstepDivergence sc) (lockDiverge_idle sc ?_), fun m sc d t hd ht hs hord hdiff => ?_,
    fun m hs h => .of_on (exec_lockstepSearchDone hs) (lockSearched_idle hs h), fun m hs d hsearch hd => ⟨_, _, rfl, rfl, ?_⟩,
    fun m hr hs => .of_on exec_lockstepPortDown (lockPortDown_outside fun h => h.elim hr hs),
    fun m h => ⟨_, .of_on exec_lockstepPortDown (lockPortDown_session h), rfl, rfl, rfl, rfl, rfl, rfl, rfl⟩,
    fun m b => ⟨fun h => .of_on (exec_lockstepPortUp b) (if_neg (by rw [h]; exact Bool.false_ne_true)),
      fun h => .of_on (exec_lockstepPortUp b) (if_pos h)⟩, fun m i p h t hw => ?_, fun m hw => ?_, fun m i st ord hw => ?_,
    fun m i st => rfl, fun m st ord hw => ?_⟩
  · have hrun := lockDigestFrame_running ord sl sc hs hd
    refine ⟨fun ho => ?_, fun ho hsl hsc => ?_, fun ho hne => ?_⟩ <;> refine .of_on (exec_lockstepDigest _ ord sl sc) (hrun.trans ?_)
    · exact if_pos ho
    · subst ho
      exact (if_neg (not_not.2 rfl)).trans (if_pos ⟨hsl, hsc⟩)
    · subst ho
      exact (if_neg (not_not.2 rfl)).trans (if_neg fun he => hne.elim (· he.1) (· he.2))
  · rintro d t hd ht ⟨hrun, -, -⟩
    rcases h with h | h | h <;> simp_all
  · rintro d' t' hd' ht' ⟨-, hord, hne⟩
    obtain rfl : d = d' := Option.some.inj (hd.symm.trans hd')
    obtain rfl : t = t' := Option.some.inj (ht.symm.trans ht')
    exact h.elim (· hord) fun he => hne.elim (· he.1) (· he.2)
  · have hdiv := lockDiverge_searches sc hd ht ⟨hs, hord, hdiff⟩
    refine ⟨divergedScalar d t.2.2 sc, _, divergedScalar_equal sc, divergedScalar_differs sc, rfl, fun j hj => ⟨fun hc => ?_, fun hc => ?_⟩,
      fun hj => ?_⟩ <;> refine .of_on (exec_lockstepDivergence sc) (hdiv.trans ?_) <;> rw [hj]
    · exact if_pos hc
    · exact if_neg hc
    · rfl
  · refine .of_on (exec_lockstepSearchDone hs) ?_
    refine (if_neg (not_not.2 hsearch)).trans ?_
    rw [hd]
    rfl
  · obtain ⟨hchecked, hmissing, -, -⟩ := lockOutcome_waiting hw
    exact ⟨fun hc => .of_on (exec_lockstepPartnerOutcome _) ((hchecked p h t).trans (if_pos hc)),
      fun hc => .of_on (exec_lockstepPartnerOutcome _) ((hchecked p h t).trans (if_neg (Nat.not_le.2 hc))),
      fun hc => .of_on (exec_lockstepPartnerOutcome _) (hmissing.trans (if_pos hc)),
      fun hc => .of_on (exec_lockstepPartnerOutcome _) (hmissing.trans (if_neg (Nat.not_le.2 hc)))⟩
  · obtain ⟨hchecked, hmissing, hreset, -⟩ := lockOutcome_session hw
    exact ⟨fun p h t => .of_on (exec_lockstepPartnerOutcome _) (hchecked p h t), .of_on (exec_lockstepPartnerOutcome _) hmissing,
      fun hr hs => .of_on (exec_lockstepPartnerOutcome _) (hreset.trans (if_neg fun h => h.elim hr hs)),
      fun h => .of_on (exec_lockstepPartnerOutcome _) (hreset.trans (if_pos h))⟩
  · obtain ⟨-, -, hend, hreset⟩ := lockOutcome_waiting hw
    exact ⟨.of_on (exec_lockstepPartnerOutcome _) (hend st ord), .of_on (exec_lockstepPartnerOutcome _) hreset⟩
  · obtain ⟨-, -, -, hend⟩ := lockOutcome_session hw
    refine ⟨fun hr hs => .of_on (exec_lockstepPartnerOutcome _) ((hend st ord).trans (if_pos ⟨hr, hs⟩)), fun h => ⟨fun hst => ?_, fun hst => ?_⟩,
      fun hs hr he => ?_, fun hs hr he => ⟨_, rfl, fun ho => ?_, fun a ho hne => ?_, fun ho hst => ?_, fun ho hst => ?_⟩⟩ <;>
      refine .of_on (exec_lockstepPartnerOutcome _) ?_
    · exact (jobEnd_session hw h st ord).trans (if_pos hst)
    · have hend : st ≠ stResumedNonrepro ∧ endsPartner st = true := by rcases hst with rfl | rfl | rfl | rfl <;> decide
      exact (jobEnd_session hw h st ord).trans ((if_neg hend.1).trans (if_pos hend.2))
    · exact (jobEnd_session hw (.inr hs) st ord).trans ((if_neg hr).trans ((if_neg (by rw [he]; exact Bool.false_ne_true)).trans (if_pos hs)))
    · exact (jobEnd_running hw hs ord hr he).trans (judgeEnds_waits ho)
    · exact (jobEnd_both hw hs hr he ho rfl).trans (if_pos hne)
    · exact (jobEnd_both hw hs hr he ho rfl).trans ((if_neg (not_not.2 rfl)).trans (if_pos hst))
    · exact (jobEnd_both hw hs hr he ho rfl).trans ((if_neg (not_not.2 rfl)).trans (if_neg hst))

end Sys2Proof.Machine
end

section
/-! PROOFS. Memory errors, stacks and heat (chapters 7 and 19). -/

namespace Sys2Proof.Machine

/-! ## Which lines are read with a check -/

theorem lineHome_sram {m : Mach} {l off : Nat} (h : m.space l = .sram off) : m.lineHome l = some none := by
  unfold Mach.lineHome; rw [h]

theorem scrubHome_sram {m : Mach} {l off : Nat} (h : m.space l = .sram off) : m.scrubHome l = some none := by
  unfold Mach.scrubHome; rw [h]

theorem lineHome_stack {m : Mach} {l s off : Nat} (h : m.space l = .stack s off) :
    m.lineHome l = some (some s) ↔ ((m.stackSt s).inService = true ∧ (off < (m.stackSt s).watermark ∨ l ∈ m.cleanLines)) := by
  unfold Mach.lineHome
  rw [h]
  simp only [Option.ite_none_right_eq_some, Bool.and_eq_true, Bool.or_eq_true, decide_eq_true_eq, List.contains_iff_mem, and_true]

theorem scrubHome_stack {m : Mach} {l s off : Nat} (h : m.space l = .stack s off) :
    m.scrubHome l = some (some s) ↔ ((m.stackSt s).inService = true ∧ off < (m.stackSt s).watermark) := by
  unfold Mach.scrubHome; rw [h]; simp

/-! ## Errors that a read or the scrubber finds -/

theorem eccRead_outside {m : Mach} {a : Nat} (es : List (Nat × Byte)) (h : m.lineHome (64 * (a / 64)) = none) : m.eccRead a es = m := by
  unfold Mach.eccRead; dsimp only; rw [h]

/-- What a read does with the line of `home` whose symbols are `ys`, as their syndromes tell. -/
theorem eccRead_found {m : Mach} {a : Nat} {home : Option Nat} (es : List (Nat × Byte)) (h : m.lineHome (64 * (a / 64)) = some home) :
    (findingOf (syndromes (m.symbolsRead (64 * (a / 64)) es)) = .good → m.eccRead a es = m) ∧
    (∀ k d, findingOf (syndromes (m.symbolsRead (64 * (a / 64)) es)) = .one k d →
      m.eccRead a es = m.corrected home (64 * (a / 64)) (m.symbolsRead (64 * (a / 64)) es) k d) ∧
    (findingOf (syndromes (m.symbolsRead (64 * (a / 64)) es)) = .bad → m.eccRead a es =
      (({ m with flawed := (64 * (a / 64), m.flawOf (64 * (a / 64)) ++ es) :: m.flawed.filter (fun x => x.1 != 64 * (a / 64)) } : Mach).uncorrectable
        home (64 * (a / 64)) 2).trainMeets (64 * (a / 64))) := by
  unfold Mach.eccRead
  dsimp only
  rw [h]
  dsimp only
  exact ⟨fun hf => by rw [hf], fun k d hf => by rw [hf], fun hf => by rw [hf]⟩

theorem scrub_outside {m : Mach} {a : Nat} (es : List (Nat × Byte)) (h : m.scrubHome (64 * (a / 64)) = none) : m.scrub a es = m := by
  unfold Mach.scrub; dsimp only; rw [h]

/-- What the scrubber does with the line of `home`, as the syndromes of its symbols tell; then the pass goes on. -/
theorem scrub_found {m : Mach} {a : Nat} {home : Option Nat} (es : List (Nat × Byte)) (h : m.scrubHome (64 * (a / 64)) = some home) :
    (findingOf (syndromes (m.symbolsRead (64 * (a / 64)) es)) = .good → m.scrub a es = m.scrubPass home (64 * (a / 64))) ∧
    (∀ k d, findingOf (syndromes (m.symbolsRead (64 * (a / 64)) es)) = .one k d → m.scrub a es =
      (m.corrected home (64 * (a / 64)) (m.symbolsRead (64 * (a / 64)) es) k d).scrubPass home (64 * (a / 64))) ∧
    (findingOf (syndromes (m.symbolsRead (64 * (a / 64)) es)) = .bad → m.scrub a es =
      ((((m.putSymbols (64 * (a / 64)) (m.symbolsRead (64 * (a / 64)) es)).poisonLine (64 * (a / 64))).uncorrectable home (64 * (a / 64)) 3).trainMeets
        (64 * (a / 64))).scrubPass home (64 * (a / 64))) := by
  unfold Mach.scrub
  dsimp only
  rw [h]
  dsimp only
  exact ⟨fun hf => by rw [hf], fun k d hf => by rw [hf], fun hf => by rw [hf]⟩

/-! ## Windows of corrected errors -/

theorem ceWindow_within {m : Mach} (h : m.time.count % 6000000 ≠ 0) : m.ceWindow = m := if_pos h

theorem foldl_fixed {α β : Type} {f : β → α → β} {x : β} : ∀ l : List α, (∀ a, a ∈ l → f x a = x) → l.foldl f x = x
  | [], _ => rfl
  | a :: l, h => by
    rw [List.foldl_cons, h a List.mem_cons_self]
    exact foldl_fixed l fun b hb => h b (List.mem_cons_of_mem _ hb)

theorem ceWindow_quiet {m : Mach} (h : m.time.count % 6000000 = 0) (hs : ∀ i, i < 64 → m.anvil.sliceCe.getD i 0 < m.anvil.ceThresh)
    (hd : ∀ s, s < 8 → (m.stackSt s).winCe < m.anvil.ceThresh) : m.ceWindow = { m with
      anvil.sliceCe := List.replicate 64 0
      anvil.ceThresh := m.rdField .avEccCfg 31 16
      stks := m.stks.map (fun x => { x with winCe := 0 }) } := by
  refine (if_neg (not_not.2 h)).trans ?_
  dsimp only
  rw [foldl_fixed (List.range 64) fun i hi => if_neg (Nat.not_le.2 (hs i (List.mem_range.1 hi))),
    foldl_fixed (List.range 8) fun s hi => if_neg (Nat.not_le.2 (hd s (List.mem_range.1 hi)))]

/-! ## Stacks -/

theorem stackLeaves_out {m : Mach} {s : Nat} (hot : Bool) (h : (m.stackSt s).inService = false) : m.stackLeaves s hot = m :=
  if_neg (by rw [h]; exact Bool.false_ne_true)

theorem stackRetrain_idle {m : Mach} {s : Nat} (ok cool : Bool) (h : m.sys.stks.testBit s = false ∨ (m.stackSt s).inService = true) :
    m.stackRetrain s ok cool = m := by
  unfold Mach.stackRetrain
  exact if_pos (by rcases h with h | h <;> rw [h] <;> simp)

section
variable {m : Mach} {s : Nat} (hfit : m.sys.stks.testBit s = true) (hout : (m.stackSt s).inService = false)
include hfit hout

theorem stackRetrain_first_good (cool : Bool) (hb : (m.stackSt s).outBy = 0) (hw : (m.stackSt s).wasOut = false) :
    m.stackRetrain s true cool = m.setStack s (fun x => { x with trained := true, inService := true }) := by
  unfold Mach.stackRetrain
  exact (if_neg (by rw [hfit, hout]; decide)).trans ((if_pos (by rw [hb, hw]; decide)).trans (if_pos rfl))

theorem stackRetrain_first_bad (cool : Bool) (hb : (m.stackSt s).outBy = 0) : m.stackRetrain s false cool =
    (m.setStack s (fun x => { x with outBy := 1, lastTry := m.time.count })).raise (srcStack s) .severe 0 := by
  unfold Mach.stackRetrain
  exact (if_neg (by rw [hfit, hout]; decide)).trans ((if_pos (by rw [hb]; simp)).trans (if_neg Bool.false_ne_true))

/-- A stack that is out for a reason, or that comes back, is tried when it has rested for 6,000,000 F and is cool. -/
theorem stackRetrain_again (ok cool : Bool) (hb : (m.stackSt s).outBy = 0 → (m.stackSt s).wasOut = true ∧ ok = true) :
    m.stackRetrain s ok cool =
      if (m.stackSt s).outBy ≠ 0 ∧ (m.time.count < (m.stackSt s).lastTry + 6000000 ∨ ((m.stackSt s).outBy = 2 ∧ cool = false)) then m
      else if !ok then m.setStack s (fun x => { x with lastTry := m.time.count })
      else (({ m with
          poison := m.poison.filter (fun l => decide (l < dramBase + s * stackSize) || decide (dramBase + s * stackSize + stackSize ≤ l))
          cleanLines := m.cleanLines.filter (fun l => decide (l < dramBase + s * stackSize) || decide (dramBase + s * stackSize + stackSize ≤ l))
          flawed := m.flawed.filter (fun x => decide (x.1 < dramBase + s * stackSize) || decide (dramBase + s * stackSize + stackSize ≤ x.1))
          fc.opt := if s = 0 then false else m.fc.opt } : Mach).setStack s
        (fun x => { x with inService := true, trained := true, outBy := 0, wasOut := false, returned := true, watermark := 0 })).raise
          (srcStack s) .info 0 := by
  unfold Mach.stackRetrain
  refine (if_neg (by rw [hfit, hout]; decide)).trans (if_neg fun h => ?_)
  simp only [Bool.and_eq_true, decide_eq_true_eq, Bool.not_eq_true', Bool.and_eq_false_iff] at h
  obtain ⟨hw, hok⟩ := hb h.1
  rcases h.2 with h | h <;> simp_all

theorem stackRetrain_rests (ok cool : Bool) (hb : (m.stackSt s).outBy ≠ 0)
    (h : m.time.count < (m.stackSt s).lastTry + 6000000 ∨ ((m.stackSt s).outBy = 2 ∧ cool = false)) : m.stackRetrain s ok cool = m :=
  (stackRetrain_again hfit hout ok cool fun h0 => absurd h0 hb).trans (if_pos ⟨hb, h⟩)

theorem stackRetrain_fails_again (cool : Bool) (hb : (m.stackSt s).outBy ≠ 0) (ht : (m.stackSt s).lastTry + 6000000 ≤ m.time.count)
    (hc : (m.stackSt s).outBy = 2 → cool = true) : m.stackRetrain s false cool = m.setStack s (fun x => { x with lastTry := m.time.count }) := by
  refine (stackRetrain_again hfit hout false cool fun h0 => absurd h0 hb).trans ((if_neg ?_).trans (if_pos rfl))
  rintro ⟨-, h | ⟨h2, hcool⟩⟩
  · exact absurd ht (not_le.2 h)
  · rw [hc h2] at hcool; exact Bool.noConfusion hcool

theorem stackRetrain_returns (cool : Bool) {f : Nat → Bool} (h0 : (m.stackSt s).outBy = 0 → (m.stackSt s).wasOut = true)
    (ht : (m.stackSt s).outBy ≠ 0 → (m.stackSt s).lastTry + 6000000 ≤ m.time.count ∧ ((m.stackSt s).outBy = 2 → cool = true))
    (hf : ∀ l, f l = decide (l < dramBase + s * stackSize ∨ dramBase + s * stackSize + stackSize ≤ l)) :
    m.stackRetrain s true cool = (({ m with
      poison := m.poison.filter f
      cleanLines := m.cleanLines.filter f
      flawed := m.flawed.filter (fun x => f x.1)
      fc.opt := if s = 0 then false else m.fc.opt } : Mach).setStack s
        (fun x => { x with inService := true, trained := true, outBy := 0, wasOut := false, returned := true, watermark := 0 })).raise
          (srcStack s) .info 0 := by
  obtain rfl : f = fun l => decide (l < dramBase + s * stackSize) || decide (dramBase + s * stackSize + stackSize ≤ l) :=
    funext fun l => (hf l).trans (Bool.decide_or _ _)
  refine (stackRetrain_again hfit hout true cool fun hb => ⟨h0 hb, rfl⟩).trans ((if_neg ?_).trans (if_neg Bool.false_ne_true))
  rintro ⟨hb, h | ⟨h2, hcool⟩⟩
  · exact absurd (ht hb).1 (not_le.2 h)
  · rw [(ht hb).2 h2] at hcool; exact Bool.noConfusion hcool

end

theorem watermarkTo_rises {m : Mach} {s top : Nat} (hin : (m.stackSt s).inService = true) (hlt : (m.stackSt s).watermark < top)
    (hle : top ≤ stackSize) (hmod : top % 64 = 0) : m.watermarkTo s top = m.setStack s (fun x => { x with watermark := top }) :=
  if_pos (by simp only [hin, hlt, hle, hmod, decide_true]; rfl)

theorem watermarkTo_idle {m : Mach} {s top : Nat}
    (h : (m.stackSt s).inService = false ∨ top ≤ (m.stackSt s).watermark ∨ stackSize < top ∨ top % 64 ≠ 0) : m.watermarkTo s top = m := by
  refine if_neg fun hc => ?_
  simp only [Bool.and_eq_true, decide_eq_true_eq, beq_iff_eq] at hc
  obtain ⟨⟨⟨hin, hlt⟩, hle⟩, hmod⟩ := hc
  rcases h with h | h | h | h
  · exact Bool.false_ne_true (h.symm.trans hin)
  · exact Nat.not_le.2 hlt h
  · exact Nat.not_le.2 h hle
  · exact h hmod

/-! ## Heat -/

theorem thermalStep_same {m : Mach} (hd : m.phys.dieNext = m.phys.dieStep) (hs : max m.bel.snap.coolOwn m.phys.dieNext = m.phys.modStep) :
    m.thermalStep = m := if_pos ⟨hd, hs⟩

theorem thermalStep_changes {m : Mach} (h : m.phys.dieNext ≠ m.phys.dieStep ∨ max m.bel.snap.coolOwn m.phys.dieNext ≠ m.phys.modStep) :
    m.thermalStep = if decide (m.phys.dieNext = 3) && decide (m.phys.dieStep ≠ 3) then
        ({ m with phys := { m.phys with dieStep := m.phys.dieNext, modStep := max m.bel.snap.coolOwn m.phys.dieNext } } : Mach).raise srcThermal .severe
          (place m.bel.snap.coolantStep 0)
      else { m with phys := { m.phys with dieStep := m.phys.dieNext, modStep := max m.bel.snap.coolOwn m.phys.dieNext } } :=
  if_neg fun hs => h.elim (· hs.1) (· hs.2)

theorem thermalStop_begins {m : Mach} (hs : m.phys.stopped = false) (hd : 1150 ≤ m.phys.die) :
    m.thermalStop = { m.anvilOff with phys.stopped := true, phys.coolRun := 0, anvil.bist := false } :=
  if_pos (by rw [hs]; simpa using hd)

theorem thermalStop_ends {m : Mach} (hs : m.phys.stopped = true) (hc : 500000 ≤ m.phys.coolRun) :
    m.thermalStop = { m with phys.stopped := false } :=
  (if_neg (by rw [hs]; exact Bool.false_ne_true)).trans (if_pos (by rw [hs]; simpa using hc))

theorem thermalStop_idle {m : Mach} (h : m.phys.stopped = false → m.phys.die < 1150) (hc : m.phys.stopped = true → m.phys.coolRun < 500000) :
    m.thermalStop = m := by
  unfold Mach.thermalStop
  cases hs : m.phys.stopped with
  | false => exact (if_neg (by simpa using h hs)).trans (if_neg Bool.false_ne_true)
  | true => exact (if_neg Bool.false_ne_true).trans (if_neg (by simpa using hc hs))

theorem inletCold_records {m : Mach} (hl : 100 ≤ m.phys.inletLow) (hf : m.phys.inletFault = false) :
    m.inletCold = (({ m with phys.inletFault := true } : Mach).raise srcThermal .info (place m.bel.snap.coolantStep 0)) :=
  if_pos (by rw [hf]; simpa using hl)

theorem inletCold_idle {m : Mach} (h : m.phys.inletLow < 100 ∨ m.phys.inletFault = true) : m.inletCold = m :=
  if_neg (by rcases h with h | h <;> simp [h])

/-- Settles O55: each row by the equations of its function above. -/
theorem memoryErrorsAndHeatAreHandled : Obligations.MemoryErrorsAndHeatAreHandled := by
  unfold Obligations.MemoryErrorsAndHeatAreHandled
  refine ⟨fun m a es => ⟨fun h => .of_on (exec_eccReadError a es) (eccRead_outside es h), fun h => .of_on (exec_scrubLine a es) (scrub_outside es h)⟩,
    fun m l off s => ⟨fun h => ⟨lineHome_sram h, scrubHome_sram h⟩, fun h => ⟨lineHome_stack h, scrubHome_stack h⟩⟩,
    fun m a l h es ys hl hh hy => ?_, fun m a l h es ys hl hh hy => ?_,
    fun m h => .of_on exec_ceWindowEnd (ceWindow_within h), fun m h hs hd => .of_on exec_ceWindowEnd (ceWindow_quiet h hs hd),
    fun m h => ⟨_, _, .of_on exec_ceWindowEnd (if_neg (not_not.2 h)), rfl, rfl, rfl, rfl, rfl, fun x hx => ?_⟩,
    fun m s h => ⟨fun ho => .of_on (exec_stackOutOfService s h) (stackLeaves_out h ho), fun hi => .of_on (exec_stackOutOfService s h) (if_pos hi)⟩,
    fun m s ok cool h => .of_on (exec_stackRetrain s ok cool) (stackRetrain_idle ok cool h),
    fun m s cool hfit hout hb => ⟨fun hw => .of_on (exec_stackRetrain s true cool) (stackRetrain_first_good hfit hout cool hb hw),
      .of_on (exec_stackRetrain s false cool) (stackRetrain_first_bad hfit hout cool hb)⟩,
    fun m s ok cool hfit hout hb => ⟨fun h => .of_on (exec_stackRetrain s ok cool) (stackRetrain_rests hfit hout ok cool hb h),
      fun ht hc => .of_on (exec_stackRetrain s false cool) (stackRetrain_fails_again hfit hout cool hb ht hc)⟩,
    fun m s cool f hfit hout h0 ht hf => .of_on (exec_stackRetrain s true cool) (stackRetrain_returns hfit hout cool h0 ht hf),
    fun m s top => ⟨fun hin hlt hle hmod => .of_on (exec_watermarkAdvance s top) (watermarkTo_rises hin hlt hle hmod),
      fun h => .of_on (exec_watermarkAdvance s top) (watermarkTo_idle h)⟩,
    fun m s h => ⟨fun hfit => .of_on (exec_stackHot s h) (if_pos hfit),
      fun hfit => .of_on (exec_stackHot s h) (if_neg (by rw [hfit]; exact Bool.false_ne_true))⟩,
    fun m d s hd hs => ?_,
    fun m => ⟨fun hs hd => .of_on exec_thermalStop (thermalStop_begins hs hd), fun hs hc => .of_on exec_thermalStop (thermalStop_ends hs hc),
      fun h hc => .of_on exec_thermalStop (thermalStop_idle h hc)⟩,
    fun m => ⟨fun hl hf => .of_on exec_coolantInletLow (inletCold_records hl hf), fun h => .of_on exec_coolantInletLow (inletCold_idle h)⟩⟩
  · subst hl hy
    obtain ⟨hgood, hone, hbad⟩ := eccRead_found es hh
    refine ⟨fun hf => .of_on (exec_eccReadError a es) (hgood hf), ?_, fun hf => ⟨_, _, rfl, rfl, .of_on (exec_eccReadError a es) (hbad hf)⟩⟩
    rintro k d w hf rfl
    refine ⟨?_, ?_⟩
    · rintro s rfl
      exact .of_on (exec_eccReadError a es) (hone k d hf)
    · rintro rfl
      exact ⟨_, rfl, .of_on (exec_eccReadError a es) (hone k d hf)⟩
  · subst hl hy
    obtain ⟨hgood, hone, hbad⟩ := scrub_found es hh
    exact ⟨fun hf => .of_on (exec_scrubLine a es) (hgood hf), fun k d hf => .of_on (exec_scrubLine a es) (hone k d hf),
      fun hf => ⟨_, rfl, .of_on (exec_scrubLine a es) (hbad hf)⟩⟩
  · obtain ⟨y, -, rfl⟩ := List.mem_map.1 hx
    rfl
  · subst hs hd
    refine ⟨fun hd hs => .of_on exec_thermalStepChange (thermalStep_same hd hs), fun hne hh => ?_, fun h3 hn3 => ?_⟩
    · exact .of_on exec_thermalStepChange ((thermalStep_changes hne).trans (if_neg (by rcases hh with hh | hh <;> simp [hh])))
    · exact .of_on exec_thermalStepChange ((thermalStep_changes (.inl fun he => hn3 (he.symm.trans h3))).trans (if_pos (by simp [h3, hn3])))

end Sys2Proof.Machine
end

section
/-! PROOFS. Request lines, credit and control of the DMA channels (chapter 15). -/

namespace Sys2Proof.Machine

/-! ## Request lines -/

/-- The module once a lost request of line `l` is dropped and counted in every channel bound to it. -/
def Mach.lineLost (m : Mach) (l : Nat) : Mach :=
  ((List.range 32).filter (fun k => m.bound k l)).foldl (fun (x : Mach) k => x.bump (.dmChErr k) 23 16 1)
    ({ m with dma.lines := m.dma.lines.filter (fun x => x.line != l) } : Mach)

theorem lineLost_dma (m : Mach) (l : Nat) : (m.lineLost l).dma = { m.dma with lines := m.dma.lines.filter (fun x => x.line != l) } :=
  foldl_keeps Mach.dma (fun x k => bump_dma x (.dmChErr k) 23 16 1) _ _

theorem withdrawLine_late {m : Mach} {l : Nat} (h : ∃ x, x ∈ m.dma.lines ∧ x.line = l ∧ x.acked = [] ∧ x.since + 1 ≤ m.time.count) :
    m.withdrawLine l = m.lineLost l := by
  obtain ⟨x, hx, hl, ha, ht⟩ := h
  exact if_pos (List.any_eq_true.2 ⟨x, hx, by simpa [hl, ha] using ht⟩)

theorem withdrawLine_young {m : Mach} {l : Nat} (h : ∀ x, x ∈ m.dma.lines → x.line = l → x.acked = [] → m.time.count < x.since + 1) :
    m.withdrawLine l = m := by
  refine if_neg fun hc => ?_
  obtain ⟨x, hx, hc⟩ := List.any_eq_true.1 hc
  simp only [Bool.and_eq_true, beq_iff_eq, List.isEmpty_iff, decide_eq_true_eq] at hc
  obtain ⟨⟨hl, ha⟩, ht⟩ := hc
  exact absurd ht (not_le.2 (h x hx hl ha))

/-- A request stands on line `l` that nothing has acknowledged. -/
def Mach.requested (m : Mach) (l : Nat) : Bool := m.dma.lines.any (fun x => x.line == l && x.acked.isEmpty)

theorem requested_iff (m : Mach) (l : Nat) : m.requested l = true ↔ ∃ x, x ∈ m.dma.lines ∧ x.line = l ∧ x.acked = [] := by
  simp [Mach.requested]

theorem reqLine_of {m w : Mach} {l : Nat} (h : m.withdrawLine l = w) : m.reqLine l =
    if w.requested l then w else { w with dma.lines := w.dma.lines.filter (fun x => x.line != l) ++ [⟨l, w.time.count, []⟩] } := by
  unfold Mach.reqLine; rw [h]; rfl

theorem reqLine_lost {m : Mach} {l : Nat} (h : ∃ x, x ∈ m.dma.lines ∧ x.line = l ∧ x.acked = [] ∧ x.since + 1 ≤ m.time.count) :
    m.reqLine l = { m.lineLost l with dma.lines := (m.lineLost l).dma.lines ++ [⟨l, m.time.count, []⟩] } := by
  have hlines : (m.lineLost l).dma.lines = m.dma.lines.filter (fun x => x.line != l) := by rw [lineLost_dma]
  have htime : (m.lineLost l).time = m.time := foldl_keeps Mach.time (fun x k => bump_time x (.dmChErr k) 23 16 1) _ _
  rw [reqLine_of (withdrawLine_late h), if_neg, hlines, List.filter_filter]
  · simp [htime]
  · rw [requested_iff, hlines]
    rintro ⟨x, hx, hl, -⟩
    simp [hl] at hx

/-! ## Credit -/

/-- The credit tick of channel `c`. -/
def Mach.creditStep (m : Mach) (c : Nat) : Mach :=
  if (m.ch c).state == 2 && m.pacing c == 2 then
    m.setCh c (fun x => { x with credit := min (x.credit + m.rdField (.dmChCfg c) 11 0 * 16) (2 * m.burstMax c) })
  else m

/-- Channel `c` as the tick leaves it. -/
def Mach.credited (m : Mach) (c : Nat) : DmaCh :=
  if (m.ch c).state = 2 ∧ m.pacing c = 2 then
    { m.ch c with credit := min ((m.ch c).credit + m.rdField (.dmChCfg c) 11 0 * 16) (2 * m.burstMax c) }
  else m.ch c

theorem creditTick_eq (m : Mach) : m.creditTick = (List.range 32).foldl Mach.creditStep m := rfl

@[simp] theorem creditStep_regs (m : Mach) (c : Nat) : (m.creditStep c).regs = m.regs := by unfold Mach.creditStep; split <;> rfl

@[simp] theorem creditStep_mem (m : Mach) (c : Nat) : (m.creditStep c).mem = m.mem := by unfold Mach.creditStep; split <;> rfl

theorem ch_outside {m : Mach} {c : Nat} (h : m.dma.chs.length ≤ c) : m.ch c = DmaCh.reset := by
  rw [Mach.ch, List.getD_eq_default _ _ h]

theorem creditStep_ch_ne (m : Mach) {c k : Nat} (h : k ≠ c) : (m.creditStep c).ch k = m.ch k := by
  unfold Mach.creditStep
  split
  · exact ch_setCh_ne m _ h
  · rfl

theorem creditStep_ch (m : Mach) (c : Nat) : (m.creditStep c).ch c = m.credited c := by
  unfold Mach.creditStep Mach.credited
  by_cases hc : (m.ch c).state = 2 ∧ m.pacing c = 2
  · have hlen : c < m.dma.chs.length := by
      refine Nat.lt_of_not_le fun hle => ?_
      rw [ch_outside hle] at hc
      exact absurd hc.1 (by decide)
    rw [if_pos (by simpa using hc), if_pos hc, ch_setCh m _ _ hlen]
  · rw [if_neg (by simpa using hc), if_neg hc]

theorem credited_congr {m n : Mach} (h : n.regs = m.regs) {c : Nat} (hc : n.ch c = m.ch c) : n.credited c = m.credited c := by
  unfold Mach.credited Mach.pacing Mach.burstMax
  rw [rdField_congr h, rdField_congr h, rdField_congr h, hc]

theorem foldl_creditStep_ch : ∀ (l : List Nat), l.Nodup → ∀ (m : Mach) (c : Nat),
    (l.foldl Mach.creditStep m).ch c = if c ∈ l then m.credited c else m.ch c
  | [], _, _, _ => rfl
  | k :: l, hnd, m, c => by
    obtain ⟨hk, hl⟩ := List.nodup_cons.1 hnd
    rw [List.foldl_cons, foldl_creditStep_ch l hl]
    by_cases hc : c = k
    · subst hc
      rw [if_neg hk, if_pos List.mem_cons_self, creditStep_ch]
    · have hne := creditStep_ch_ne m hc
      simp only [List.mem_cons, hc, false_or, credited_congr (creditStep_regs m k) hne, hne]

/-! ## Start, enable and disable -/

/-- The other registers of a channel have addresses of their own. -/
theorem dmCh_addr_ne (n : Nat) :
    (Reg.syFuncEn).addr ≠ (Reg.dmChCtrl n).addr ∧ (Reg.dmChHeadLo n).addr ≠ (Reg.dmChCtrl n).addr ∧
    (Reg.dmChHeadHi n).addr ≠ (Reg.dmChCtrl n).addr ∧ (Reg.dmChDone n).addr ≠ (Reg.dmChBad n).addr ∧
    (Reg.dmChDone n).addr ≠ (Reg.dmChChain n).addr ∧ (Reg.dmChBad n).addr ≠ (Reg.dmChChain n).addr ∧
    (Reg.dmChCtrl n).addr ≠ (Reg.dmChDone n).addr ∧ (Reg.dmChCtrl n).addr ≠ (Reg.dmChBad n).addr ∧
    (Reg.dmChCtrl n).addr ≠ (Reg.dmChChain n).addr := by
  simp only [Reg.addr]; omega

theorem en_wr_dmChCtrl (m : Mach) (n fn : Nat) (v : Word) : (m.wr (.dmChCtrl n) v).en fn = m.en fn := by
  obtain ⟨hne, -⟩ := dmCh_addr_ne n
  unfold Mach.en
  rw [rd_wr_ne _ _ hne]

theorem writeChannel_owned {m : Mach} {c : Cls} {n : Nat} (v : Word) (h : chOwned c n = true) :
    m.writeChannel c n (.dmChCtrl n) v = m.writeChCtrl n v := if_neg (by rw [h]; decide)

theorem writeChannel_foreign {m : Mach} {c : Cls} {n : Nat} (v : Word) (h : chOwned c n = false) :
    m.writeChannel c n (.dmChCtrl n) v = m.accessFault c (Reg.addr (.dmChCtrl n)) := if_pos (by rw [h]; decide)

theorem enableChannel_idle {m : Mach} {n : Nat} (h : (m.ch n).state ≠ 0 ∨ m.en fnDma = false) : m.enableChannel n = m :=
  if_neg (by rcases h with h | h <;> simp [h])

theorem writeChCtrl_enable (m : Mach) (n : Nat) : m.writeChCtrl n 0x80000000 = (m.wr (.dmChCtrl n) 0x80000000).enableChannel n := by
  unfold Mach.writeChCtrl
  refine (if_neg (by decide)).trans (if_neg ?_)
  rw [show bit (0x80000000 : Word) 30 = false from by decide, Bool.and_false]
  exact Bool.false_ne_true

theorem writeChCtrl_start {m : Mach} {n : Nat} (h : (m.ch n).state ≠ 0) : m.writeChCtrl n 0xC0000000 =
    if bit (m.rd (.dmChCtrl n)) 31 then (m.wr (.dmChCtrl n) 0x80000000).startChannel n else m.wr (.dmChCtrl n) 0x80000000 := by
  unfold Mach.writeChCtrl
  refine (if_neg (by decide)).trans ?_
  dsimp only
  rw [show flag (bit (0xC0000000 : Word) 31) 31 = 0x80000000 from by decide, show bit (0xC0000000 : Word) 30 = true from by decide, Bool.and_true,
    enableChannel_idle (m := m.wr (.dmChCtrl n) 0x80000000) (.inl h)]

theorem startChannel_ready {m : Mach} {n : Nat} (he : m.en fnDma = true) (h : (m.ch n).state = 1 ∨ (m.ch n).state = 3) : m.startChannel n =
    (m.wr (.dmChChain n) 0).setCh n (fun x => { DmaCh.reset with
      state := 2
      cur := addr48 (m.rd (.dmChHeadLo n)) (m.rd (.dmChHeadHi n))
      next := addr48 (m.rd (.dmChHeadLo n)) (m.rd (.dmChHeadHi n))
      lastStatus := x.lastStatus }) :=
  if_pos (by rw [he]; simpa using h)

theorem startChannel_running {m : Mach} {n : Nat} (h : (m.ch n).state = 2) : m.startChannel n = m :=
  if_neg (by rw [h]; simp)

theorem writeChCtrl_disable (m : Mach) (n : Nat) : m.writeChCtrl n 0 = (m.wr (.dmChCtrl n) 0).disableChannel n := by
  unfold Mach.writeChCtrl
  exact if_pos (by decide)

theorem dropChannel_regs (m : Mach) (n : Nat) : (m.dropChannel n).regs = (((m.wr (.dmChDone n) (Config.freeWord m.free)).wr (.dmChBad n)
    (Config.freeWord (m.free + 1))).wr (.dmChChain n) (Config.freeWord (m.free + 2))).regs := by
  simp only [Mach.dropChannel, setCh_regs, Mach.wr, take_fst, take_regs, take_free]

section
variable {m : Mach} (n : Nat)

theorem dropChannel_done (hwf : Regs.wf m.regs = true) : (m.dropChannel n).rd (.dmChDone n) = Config.freeWord m.free := by
  obtain ⟨-, -, -, hdb, hdc, -⟩ := dmCh_addr_ne n
  rw [rd_congr (dropChannel_regs m n), rd_wr_ne _ _ hdc, rd_wr_ne _ _ hdb, rd_wr_self _ _ _ hwf]

theorem dropChannel_bad (hwf : Regs.wf m.regs = true) : (m.dropChannel n).rd (.dmChBad n) = Config.freeWord (m.free + 1) := by
  obtain ⟨-, -, -, -, -, hbc, -⟩ := dmCh_addr_ne n
  rw [rd_congr (dropChannel_regs m n), rd_wr_ne _ _ hbc, rd_wr_self _ _ _ (wr_wf _ _ _ hwf)]

theorem dropChannel_chain (hwf : Regs.wf m.regs = true) : (m.dropChannel n).rd (.dmChChain n) = Config.freeWord (m.free + 2) := by
  rw [rd_congr (dropChannel_regs m n), rd_wr_self _ _ _ (wr_wf _ _ _ (wr_wf _ _ _ hwf))]

theorem dropChannel_ctrl : (m.dropChannel n).rd (.dmChCtrl n) = m.rd (.dmChCtrl n) := by
  obtain ⟨-, -, -, -, -, -, hkd, hkb, hkc⟩ := dmCh_addr_ne n
  rw [rd_congr (dropChannel_regs m n), rd_wr_ne _ _ hkc, rd_wr_ne _ _ hkb, rd_wr_ne _ _ hkd]

end

theorem dropChannel_ch {m : Mach} {n : Nat} (h : n < m.dma.chs.length) :
    (m.dropChannel n).ch n = { DmaCh.reset with cur := (m.ch n).cur, lastStatus := (m.ch n).lastStatus } := getD_modify_self _ _ _ _ h

theorem dropChannel_ch_ne (m : Mach) {n k : Nat} (h : k ≠ n) : (m.dropChannel n).ch k = m.ch k := getD_modify_ne _ _ _ h

theorem Gives.of_channelWrite {i : Instr} {m k : Mach} {c : Cls} {n : Nat} {v : Word} (hi : ∀ s, exec i s = s.on (fun x => x.writeNamed c (.dmChCtrl n) v))
    (hl : m.lands c (.dmChCtrl n) true) (ho : chOwned c n = true) (e : m.writeChCtrl n v = k) : Gives i m k :=
  .of_landed hi hl ((writeChannel_owned v ho).trans e)

/-- Settles O56: each row by the equations of its function above. -/
theorem dmaLinesCreditsAndChannelsAreControlled : Obligations.DmaLinesCreditsAndChannelsAreControlled := by
  unfold Obligations.DmaLinesCreditsAndChannelsAreControlled
  refine ⟨fun m l => ⟨fun h => .of_on (exec_dmaRequestLine l) (if_neg (Nat.not_lt.2 h)), fun h hx hy => ?_, fun h hx => ⟨m.lineLost l, rfl, ?_, ?_⟩,
      fun h ha => ?_⟩,
    fun m l => ⟨fun h => .of_on (exec_dmaRequestWithdraw l) (withdrawLine_late h), fun h => .of_on (exec_dmaRequestWithdraw l) (withdrawLine_young h)⟩,
    fun m => ⟨_, .of_on exec_dmaCreditTick rfl, foldl_keeps Mach.regs creditStep_regs _ m, foldl_keeps Mach.mem creditStep_mem _ m, fun c hc => ?_⟩,
    fun m c n hl ho => ⟨fun hs hb he => ?_, fun hs => ?_, fun hs he => ?_, fun hs => ?_, fun hs => ?_, fun hs hlen hwf => ?_⟩,
    fun m c n hl ho => ⟨.of_landed (exec_dmaChannelStart c n) hl (writeChannel_foreign _ ho),
      .of_landed (exec_dmaChannelEnable c n) hl (writeChannel_foreign _ ho), .of_landed (exec_dmaChannelDisable c n) hl (writeChannel_foreign _ ho)⟩⟩
  · exact .of_on (exec_dmaRequestLine l) ((if_pos h).trans ((reqLine_of (withdrawLine_young hy)).trans (if_pos ((requested_iff m l).2 hx))))
  · rw [lineLost_dma]
  · exact .of_on (exec_dmaRequestLine l) ((if_pos h).trans (reqLine_lost hx))
  · have hyoung := withdrawLine_young fun x hx hl hn => absurd hn (ha x hx hl)
    refine .of_on (exec_dmaRequestLine l) ((if_pos h).trans ((reqLine_of hyoung).trans (if_neg ?_)))
    rw [requested_iff]
    rintro ⟨x, hx, hl, hn⟩
    exact ha x hx hl hn
  · exact (foldl_creditStep_ch _ List.nodup_range m c).trans (if_pos (List.mem_range.2 hc))
  · refine .of_channelWrite (exec_dmaChannelStart c n) hl ho ((writeChCtrl_start (by omega)).trans ((if_pos hb).trans ?_))
    obtain ⟨-, hlo, hhi, -⟩ := dmCh_addr_ne n
    rw [startChannel_ready (m := m.wr (.dmChCtrl n) 0x80000000) ((en_wr_dmChCtrl ..).trans he) hs, rd_wr_ne _ _ hlo, rd_wr_ne _ _ hhi]
  · refine .of_channelWrite (exec_dmaChannelStart c n) hl ho ((writeChCtrl_start (by omega)).trans ?_)
    split
    · exact startChannel_running (m := m.wr (.dmChCtrl n) 0x80000000) hs
    · rfl
  · exact .of_channelWrite (exec_dmaChannelEnable c n) hl ho ((writeChCtrl_enable m n).trans
      (if_pos ⟨hs, (en_wr_dmChCtrl ..).trans he⟩))
  · refine .of_channelWrite (exec_dmaChannelEnable c n) hl ho ((writeChCtrl_enable m n).trans
      (enableChannel_idle (m := m.wr (.dmChCtrl n) 0x80000000) ?_))
    exact hs.imp id (en_wr_dmChCtrl ..).trans
  · exact .of_channelWrite (exec_dmaChannelDisable c n) hl ho ((writeChCtrl_disable m n).trans (if_pos hs))
  · have hctrl := wr_wf m (.dmChCtrl n) 0 hwf
    exact ⟨_, .of_channelWrite (exec_dmaChannelDisable c n) hl ho ((writeChCtrl_disable m n).trans (if_neg hs)),
      dropChannel_ch (m := m.wr (.dmChCtrl n) 0) hlen, rfl, fun j hj => dropChannel_ch_ne (m.wr (.dmChCtrl n) 0) hj,
      dropChannel_done n hctrl, dropChannel_bad n hctrl, dropChannel_chain n hctrl, (dropChannel_ctrl n).trans (rd_wr_self _ _ _ hwf)⟩

end Sys2Proof.Machine
end

section
/-! PROOFS. The CXL port and the host window (chapter 16). -/

namespace Sys2Proof.Machine

/-! ## CXL.mem accesses -/

theorem memRead_down {m : Mach} (a : Nat) (h : m.cxl.linkUp = false) : m.memRead a = m := if_pos (by rw [h]; rfl)

theorem memRead_up {m : Mach} (a : Nat) (h : m.cxl.linkUp = true) :
    (m.hdmAddr a = none → m.memRead a = m.answer zeroLine false true) ∧
    ∀ d, m.hdmAddr a = some d → m.memRead a = match m.judge .host (d / 64 * 64) 64 false with
      | .undecoded => m.answer zeroLine false true
      | .denied => (m.deny .host (d / 64 * 64) false true).answer zeroLine true false
      | .ok =>
        if !m.sys.capValid then (m.deny .host (d / 64 * 64) false true).answer zeroLine true false
        else if m.stackOut (d / 64 * 64) then m.answer zeroLine true false
        else (m.checkRead (d / 64 * 64) 64).answer (m.words (d / 64 * 64) 16) (m.poisoned (d / 64 * 64)) false := by
  unfold Mach.memRead
  rw [h]
  exact ⟨fun hd => by rw [hd]; rfl, fun d hd => by rw [hd]; rfl⟩

theorem memWrite_down {m : Mach} (a : Nat) (bs : List (Option Byte)) (h : m.cxl.linkUp = false) : m.memWrite a bs = m := if_pos (by rw [h]; rfl)

/-- What a permitted write does with line `l`: a part of a poisoned line is dropped, any other write clears the line's poison. -/
def Mach.lineWritten (m : Mach) (l : Nat) (bs : List (Option Byte)) : Mach :=
  if !(decide (bs.length = 64) && bs.all Option.isSome) && m.poisoned l then (m.checkRead l 64).answer [] false true
  else ((m.setBytes l (mergeBytes (m.bytes l 64) bs)).cleanLine l).answer [] false false

theorem memWrite_up {m : Mach} (a : Nat) (bs : List (Option Byte)) (h : m.cxl.linkUp = true) :
    (m.hdmAddr a = none → m.memWrite a bs = m.answer [] false true) ∧
    ∀ d, m.hdmAddr a = some d → m.memWrite a bs = match m.judge .host (d / 64 * 64) 64 true with
      | .undecoded => m.answer [] false true
      | .denied => (m.deny .host (d / 64 * 64) true true).answer [] false false
      | .ok =>
        if !m.sys.capValid then (m.deny .host (d / 64 * 64) true true).answer [] false false
        else if m.stackOut (d / 64 * 64) then (m.bump .cxDenyCnt 31 24 1).answer [] false false
        else m.lineWritten (d / 64 * 64) bs := by
  unfold Mach.memWrite
  rw [h]
  exact ⟨fun hd => by rw [hd]; rfl, fun d hd => by rw [hd]; rfl⟩

theorem lineWritten_whole {m : Mach} {l : Nat} {bs : List (Option Byte)} (h : (bs.length = 64 ∧ bs.all Option.isSome = true) ∨ m.poisoned l = false) :
    m.lineWritten l bs = ((m.setBytes l (mergeBytes (m.bytes l 64) bs)).cleanLine l).answer [] false false :=
  if_neg (by rcases h with ⟨hl, ha⟩ | h <;> simp only [*] <;> simp)

theorem lineWritten_part {m : Mach} {l : Nat} {bs : List (Option Byte)} (h : bs.length ≠ 64 ∨ bs.all Option.isSome = false) (hp : m.poisoned l = true) :
    m.lineWritten l bs = (m.checkRead l 64).answer [] false true :=
  if_pos (by rcases h with h | h <;> simp only [hp, h] <;> simp)

/-! ## The link -/

/-- The module with the link up in the given mode. -/
def Mach.linked (m : Mach) (s w : Nat) (f c e b : Bool) (x : Nat) : Mach :=
  { m with cxl.linkUp := true, cxl.speed := s, cxl.width := w, cxl.flit256 := f, cxl.cacheEn := c, cxl.memEn := e, cxl.bme := b,
           cxl.msixMask := x, cxl.wasRate := 16 * s + w }

section
variable {m : Mach} {s w : Nat} {f : Bool} (c e b : Bool) (x : Nat)

theorem linkUp_refused (h : m.time.powered = false ∨ m.cxl.linkUp = true ∨ linkModeOk s w f = false) : m.linkUp s w f c e b x = m :=
  if_pos (by rcases h with h | h | h <;> simp [h])

theorem linkUp_comes (hp : m.time.powered = true) (hd : m.cxl.linkUp = false) (hm : linkModeOk s w f = true) : m.linkUp s w f c e b x =
    if decide (m.cxl.wasRate ≠ 0) && (decide (s < m.cxl.wasRate / 16) || decide (w < m.cxl.wasRate % 16)) then
      ((m.linked s w f c e b x).bump .cxLinkErr 15 0 1).raise srcCxl .info 0
    else m.linked s w f c e b x := if_neg (by rw [hp, hd, hm]; decide)

end

theorem linkDown_idle {m : Mach} (h : m.cxl.linkUp = false) : m.linkDown false = m := if_pos (by rw [h]; rfl)

/-! ## Decoders -/

theorem decoderDpa_one (m : Mach) (skip : Nat) :
    m.decoderDpa 1 skip = skip + (if m.cxl.dec0.committed then m.cxl.dec0.dpa + m.cxl.dec0.size else 0) := by
  unfold Mach.decoderDpa
  simp only [true_and]

theorem hdmCommit_zero (m : Mach) (hpa size skip ways : Nat) :
    (ways = 1 → m.dpaOk skip size = true → m.hdmCommit 0 hpa size skip ways = { m with cxl.dec0 := ⟨true, false, hpa, size, skip⟩ }) ∧
    ((ways ≠ 1 ∨ m.dpaOk skip size = false) → m.hdmCommit 0 hpa size skip ways = { m with cxl.dec0 := ⟨false, true, hpa, size, skip⟩ }) := by
  refine ⟨fun hw hd => ?_, fun h => ?_⟩
  · have hgood : ways = 1 ∧ m.dpaOk (m.decoderDpa 0 skip) size = true ∧ ¬ (0 = 1 ∧ m.range2 = 0) := ⟨hw, hd, fun h => Nat.zero_ne_one h.1⟩
    exact congrArg (fun d : HdmDec => { m with cxl.dec0 := d }) (if_pos hgood)
  · refine congrArg (fun d : HdmDec => { m with cxl.dec0 := d }) (if_neg ?_)
    rintro ⟨hw, hd, -⟩
    exact h.elim (· hw) fun hf => Bool.false_ne_true (hf.symm.trans hd)

theorem hdmCommit_one {m : Mach} (hpa size : Nat) {skip : Nat} (ways : Nat) {d : Nat} (h : d = m.decoderDpa 1 skip) :
    (ways = 1 → m.dpaOk d size = true → m.range2 ≠ 0 → m.hdmCommit 1 hpa size skip ways = { m with cxl.dec1 := ⟨true, false, hpa, size, d⟩ }) ∧
    ((ways ≠ 1 ∨ m.dpaOk d size = false ∨ m.range2 = 0) → m.hdmCommit 1 hpa size skip ways = { m with cxl.dec1 := ⟨false, true, hpa, size, d⟩ }) := by
  subst h
  refine ⟨fun hw hd hr => ?_, fun h => ?_⟩
  · have hgood : ways = 1 ∧ m.dpaOk (m.decoderDpa 1 skip) size = true ∧ ¬ (1 = 1 ∧ m.range2 = 0) := ⟨hw, hd, fun h => hr h.2⟩
    exact congrArg (fun d : HdmDec => { m with cxl.dec1 := d }) (if_pos hgood)
  · refine congrArg (fun d : HdmDec => { m with cxl.dec1 := d }) (if_neg ?_)
    rintro ⟨hw, hd, hr⟩
    rcases h with h | h | h
    · exact h hw
    · exact Bool.false_ne_true (h.symm.trans hd)
    · exact hr ⟨rfl, h⟩

/-! ## The host window -/

theorem hostAccess_undecoded {m : Mach} {c : Cls} {a : Nat} {w : Bool} {d : List Byte} (n : Nat) (h : m.judge c a d.length w = .undecoded) :
    m.hostAccess c a w d n = m.answer [] false true := by
  unfold Mach.hostAccess; rw [h]

theorem hostAccess_denied {m : Mach} {c : Cls} {a : Nat} {w : Bool} {d : List Byte} (n : Nat) (h : m.judge c a d.length w = .denied) :
    m.hostAccess c a w d n = (m.deny c a w (decide (c = .fw))).answer [] false true := by
  unfold Mach.hostAccess; rw [h]

theorem hostAccess_permitted {m : Mach} {c : Cls} {a x : Nat} {w : Bool} {d : List Byte} (n : Nat) (h : m.judge c a d.length w = .ok)
    (hs : m.space a = .host x) : m.hostAccess c a w d n =
      if !m.hostOpen then m.answer [] false true
      else if w then ({ m with cxl.hostReq := m.cxl.hostReq ++ [(w, x, if w then d else [])] } : Mach).answer [] false false
      else if n = 0 then ({ m with cxl.hostReq := m.cxl.hostReq ++ [(w, x, if w then d else [])] } : Mach).answer
        (bytesWords ((d.length + 3) / 4) d) false false
      else ({ m with cxl.hostReq := m.cxl.hostReq ++ [(w, x, if w then d else [])] } : Mach).answer [] false true := by
  unfold Mach.hostAccess; rw [h]; dsimp only; rw [hs]

/-- Settles O58: each row by the equations of its function above. -/
theorem theCxlPortAnswersTheHost : Obligations.TheCxlPortAnswersTheHost := by
  unfold Obligations.TheCxlPortAnswersTheHost
  refine ⟨fun m a bs => ⟨fun h => ⟨.of_on (exec_cxlMemRead a) (memRead_down a h), .of_on (exec_cxlMemWrite a bs) (memWrite_down a bs h)⟩,
      fun h hd => ⟨.of_on (exec_cxlMemRead a) ((memRead_up a h).1 hd), .of_on (exec_cxlMemWrite a bs) ((memWrite_up a bs h).1 hd)⟩⟩,
    ?_, ?_, ?_, fun m s w f c e b x h => .of_on (exec_cxlLinkUp s w f c e b x) (linkUp_refused c e b x h), ?_,
    fun m h => .of_on (exec_cxlLinkDown false) (linkDown_idle h), ?_, fun m hpa size skip ways => ⟨fun hw hd => ?_, fun h => ?_, fun d hd => ?_, fun i hi => ?_⟩,
    fun m c a x w d n => ⟨fun h => .of_on (exec_hostWindowAccess c a w d n) (hostAccess_undecoded n h),
      fun h => .of_on (exec_hostWindowAccess c a w d n) (hostAccess_denied n h), fun h hs => ⟨fun ho => ?_, ?_, ?_, ?_⟩⟩⟩
  · rintro m a d l bs hup hd rfl
    have hr := (memRead_up a hup).2 d hd
    have hw := (memWrite_up a bs hup).2 d hd
    refine ⟨fun hj => .of_on (exec_cxlMemRead a) ?_, fun hj => .of_on (exec_cxlMemWrite a bs) ?_, fun hj hc => .of_on (exec_cxlMemRead a) ?_,
      fun hj hc => .of_on (exec_cxlMemWrite a bs) ?_⟩
    · rw [hr, hj]
    · rw [hw, hj]
    · rw [hr, hj]; exact if_pos (by rw [hc]; rfl)
    · rw [hw, hj]; exact if_pos (by rw [hc]; rfl)
  · rintro m a d l hup hd rfl
    have hr := (memRead_up a hup).2 d hd
    refine ⟨fun hj => .of_on (exec_cxlMemRead a) ?_, fun hj hc ho => .of_on (exec_cxlMemRead a) ?_, fun hj hc ho => .of_on (exec_cxlMemRead a) ?_⟩
    · rw [hr, hj]
    · rw [hr, hj]; exact (if_neg (by rw [hc]; decide)).trans (if_pos ho)
    · rw [hr, hj]; exact (if_neg (by rw [hc]; decide)).trans (if_neg (by rw [ho]; decide))
  · rintro m a d l bs hup hd rfl
    have hw := (memWrite_up a bs hup).2 d hd
    refine ⟨fun hj => .of_on (exec_cxlMemWrite a bs) (by rw [hw, hj]), fun hj hc ho => .of_on (exec_cxlMemWrite a bs) ?_, fun hj hc ho => ?_⟩
    · rw [hw, hj]; exact (if_neg (by rw [hc]; decide)).trans (if_pos ho)
    · have hline : m.memWrite a bs = m.lineWritten (d / 64 * 64) bs := by
        rw [hw, hj]; exact (if_neg (by rw [hc]; decide)).trans (if_neg (by rw [ho]; decide))
      exact ⟨fun hlen hall => .of_on (exec_cxlMemWrite a bs) (hline.trans (lineWritten_whole (.inl ⟨hlen, hall⟩))),
        fun _ hp => .of_on (exec_cxlMemWrite a bs) (hline.trans (lineWritten_whole (.inr hp))),
        fun hpart hp => .of_on (exec_cxlMemWrite a bs) (hline.trans (lineWritten_part hpart hp))⟩
  · rintro m s w f c e b x k hp hd hm rfl
    have hup := linkUp_comes c e b x hp hd hm
    refine ⟨fun h => .of_on (exec_cxlLinkUp s w f c e b x) (hup.trans (if_neg ?_)), fun hn h => .of_on (exec_cxlLinkUp s w f c e b x) (hup.trans (if_pos ?_))⟩
    · simp only [Bool.and_eq_true, Bool.or_eq_true, decide_eq_true_eq]; omega
    · simp only [Bool.and_eq_true, Bool.or_eq_true, decide_eq_true_eq]; omega
  · intro m k hk
    refine ⟨.of_on (exec_cxlLinkDown true) ((if_neg (by rw [Bool.not_true, Bool.and_false]; exact Bool.false_ne_true)).trans ((if_pos rfl).trans hk.symm)),
      fun h => .of_on (exec_cxlLinkDown false) ((if_neg (by rw [h]; decide)).trans ((if_neg Bool.false_ne_true).trans ?_))⟩
    exact congrArg (fun k : Mach => (k.bump .cxLinkErr 31 16 1).raise srcCxl .corr 0) hk.symm
  · exact .of_on (exec_hdmDecoderCommit 0 hpa size skip ways) ((hdmCommit_zero m hpa size skip ways).1 hw hd)
  · exact .of_on (exec_hdmDecoderCommit 0 hpa size skip ways) ((hdmCommit_zero m hpa size skip ways).2 h)
  · obtain ⟨hgood, hbad⟩ := hdmCommit_one hpa size ways (hd.trans (decoderDpa_one m skip).symm)
    exact ⟨fun hw hd hr => .of_on (exec_hdmDecoderCommit 1 hpa size skip ways) (hgood hw hd hr),
      fun h => .of_on (exec_hdmDecoderCommit 1 hpa size skip ways) (hbad h)⟩
  · obtain ⟨j, rfl⟩ := Nat.exists_eq_add_of_le' hi
    exact .of_on (exec_hdmDecoderCommit (j + 2) hpa size skip ways) rfl
  · exact .of_on (exec_hostWindowAccess c a w d n) ((hostAccess_permitted n h hs).trans (if_pos (by rw [ho]; rfl)))
  · rintro ho rfl
    exact .of_on (exec_hostWindowAccess c a true d n) ((hostAccess_permitted n h hs).trans ((if_neg (by rw [ho]; decide)).trans (if_pos rfl)))
  · rintro ho rfl hn
    exact .of_on (exec_hostWindowAccess c a false d n) ((hostAccess_permitted n h hs).trans
      ((if_neg (by rw [ho]; decide)).trans ((if_neg Bool.false_ne_true).trans (if_pos hn))))
  · rintro ho rfl hn
    exact .of_on (exec_hostWindowAccess c a false d n) ((hostAccess_permitted n h hs).trans
      ((if_neg (by rw [ho]; decide)).trans ((if_neg Bool.false_ne_true).trans (if_neg hn))))

end Sys2Proof.Machine
end

section
/-! PROOFS. SPDM over the mailbox (chapter 17). -/

namespace Sys2Proof.Machine

/-- The mailbox answers: the module has power and a trained link. -/
def Mach.answers (m : Mach) : Prop := m.time.powered = true ∧ m.cxl.linkUp = true

theorem doe_silent {m : Mach} (f : Mach → Mach) (h : m.time.powered = false ∨ m.cxl.linkUp = false) : m.doe f = m :=
  if_neg (by rcases h with h | h <;> simp [h])

theorem doe_answers {m : Mach} (f : Mach → Mach) (h : m.answers) : m.doe f = f m := if_pos (by rw [h.1, h.2]; rfl)

/-- A request that an answering mailbox serves by `f`. -/
theorem Gives.of_doe {i : Instr} {m n : Mach} {f : Mach → Mach} (hi : ∀ s, exec i s = s.on (fun k => k.doe f)) (h : m.answers) (e : f m = n) :
    Gives i m n := .of_on hi ((doe_answers f h).trans e)

/-! ## Phase and version -/

section
variable {m : Mach} {r : SpdmReq} {p : SpdmPhase}

theorem spdmFits_of (hp : m.id.spdm = p) (hv : r.version = m.id.spdmVer) : ¬ (!m.spdmFits r p) = true := by
  rw [Mach.spdmFits, hp, hv]; simp

theorem spdmFits_phase (hp : m.id.spdm ≠ p) : (!m.spdmFits r p) = true := by simp [Mach.spdmFits, hp]

theorem spdmFits_version (hv : r.version ≠ m.id.spdmVer) : (!m.spdmFits r p) = true := by simp [Mach.spdmFits, hv]

theorem spdmUnfit_phase (hp : m.id.spdm ≠ p) : m.spdmUnfit r p = { m with id.response := spdmMsg r.version 0x7F 0x04 0 [] } := if_pos hp

theorem spdmUnfit_version (hp : m.id.spdm = p) : m.spdmUnfit r p = { m with id.response := spdmMsg r.version 0x7F 0x41 0 [] } :=
  if_neg (not_not.2 hp)

end

/-- Each of the four attesting requests answers `spdmUnfit` where it does not fit a negotiated connection. -/
theorem attesting_unfit {m : Mach} {r : SpdmReq} (h : (!m.spdmFits r .negotiated) = true) :
    m.spdmDigests r = m.spdmUnfit r .negotiated ∧ m.spdmCertificate r = m.spdmUnfit r .negotiated ∧
    m.spdmChallenge r = m.spdmUnfit r .negotiated ∧ m.spdmMeasurements r = m.spdmUnfit r .negotiated :=
  ⟨if_pos h, if_pos h, if_pos h, if_pos h⟩

theorem gives_of_unfit {m n : Mach} {r : SpdmReq} (ha : m.answers) (h : (!m.spdmFits r .negotiated) = true)
    (e : m.spdmUnfit r .negotiated = n) :
    Gives (.getDigests r) m n ∧ Gives (.getCertificate r) m n ∧ Gives (.challenge r) m n ∧ Gives (.getMeasurements r) m n := by
  obtain ⟨hd, hc, hch, hme⟩ := attesting_unfit h
  exact ⟨.of_doe (exec_getDigests r) ha (hd.trans e), .of_doe (exec_getCertificate r) ha (hc.trans e),
    .of_doe (exec_challenge r) ha (hch.trans e), .of_doe (exec_getMeasurements r) ha (hme.trans e)⟩

/-! ## The connection -/

theorem spdmVersion_other (m : Mach) {r : SpdmReq} (h : r.version ≠ 0x10) :
    m.spdmVersion r = { m with id.response := spdmMsg 0x10 0x7F 0x41 0 [] } := if_pos h

theorem spdmVersion_starts (m : Mach) {r : SpdmReq} {resp : List Byte} (h : r.version = 0x10)
    (hr : resp = spdmMsg 0x10 0x04 0 0 ([0, 2] ++ leBytes 2 0x1200 ++ leBytes 2 0x1300)) : m.spdmVersion r =
      { m with id.spdm := .version, id.vca := reqBytes r 0x84 ++ resp, id.transcript := [], id.mTranscript := [], id.response := resp } := by
  subst hr
  exact if_neg (not_not.2 h)

theorem spdmCapabilities_phase {m : Mach} {r : SpdmReq} (h : m.id.spdm ≠ .version) :
    m.spdmCapabilities r = { m with id.response := spdmMsg r.version 0x7F 0x04 0 [] } := if_pos h

theorem spdmCapabilities_version {m : Mach} {r : SpdmReq} (h : m.id.spdm = .version) (h2 : r.version ≠ 0x12) (h3 : r.version ≠ 0x13) :
    m.spdmCapabilities r = { m with id.response := spdmMsg 0x10 0x7F 0x41 0 [] } := (if_neg (not_not.2 h)).trans (if_pos ⟨h2, h3⟩)

theorem spdmCapabilities_takes {m : Mach} {r : SpdmReq} {resp : List Byte} (h : m.id.spdm = .version) (hv : r.version = 0x12 ∨ r.version = 0x13)
    (hr : resp = spdmMsg r.version 0x61 0 0 ([0, 17] ++ leBytes 2 0 ++ leBytes 4 0x16 ++ Config.spdmSizes)) : m.spdmCapabilities r =
      { m with id.spdm := .capabilities, id.spdmVer := r.version, id.vca := m.id.vca ++ reqBytes r 0xE1 ++ resp, id.response := resp } := by
  subst hr
  exact (if_neg (not_not.2 h)).trans (if_neg fun hn => hv.elim hn.1 hn.2)

theorem spdmNegotiate_phase {m : Mach} {r : SpdmReq} (h : m.id.spdm ≠ .capabilities) :
    m.spdmNegotiate r = { m with id.response := spdmMsg r.version 0x7F 0x04 0 [] } := (if_pos (spdmFits_phase h)).trans (spdmUnfit_phase h)

theorem spdmNegotiate_ends {m : Mach} {r : SpdmReq} (h : m.id.spdm = .capabilities) (hv : r.version = m.id.spdmVer)
    (ha : algorithmsCommon r.body = false) : m.spdmNegotiate r =
      { m with id.response := spdmMsg r.version 0x7F 0x07 0xE3 [], id.spdm := .start, id.vca := [], id.transcript := [], id.mTranscript := [] } :=
  (if_neg (spdmFits_of h hv)).trans (if_pos (by rw [ha]; rfl))

/-- The ALGORITHMS response of R511. -/
def algorithmsResponse (r : SpdmReq) : List Byte :=
  spdmMsg r.version 0x63 0 0 (leBytes 2 40 ++ [1, 0] ++ leBytes 4 0x10 ++ leBytes 4 0 ++ leBytes 4 8 ++ leBytes 12 0 ++ [1, 0] ++ leBytes 2 0
    ++ [0x04, 0x00, 0x44, 0x00])

theorem spdmNegotiate_opens {m : Mach} {r : SpdmReq} (h : m.id.spdm = .capabilities) (hv : r.version = m.id.spdmVer)
    (ha : algorithmsCommon r.body = true) : m.spdmNegotiate r =
      { m with id.spdm := .negotiated
               id.vca := m.id.vca ++ reqBytes r 0xE3 ++ algorithmsResponse r
               id.transcript := m.id.vca ++ reqBytes r 0xE3 ++ algorithmsResponse r
               id.mTranscript := m.id.vca ++ reqBytes r 0xE3 ++ algorithmsResponse r
               id.response := algorithmsResponse r } :=
  (if_neg (spdmFits_of h hv)).trans (if_neg (by rw [ha]; decide))

/-- A request whose signature the module can make, if it asks for one, is not refused for it. -/
theorem signs_of {m : Mach} {r : SpdmReq} (hc : r.param1 % 2 = 1 → m.id.certOk = true) : ¬ (r.param1 % 2 = 1 ∧ m.id.certOk = false) :=
  fun hn => Bool.false_ne_true (hn.2.symm.trans (hc hn.1))

/-- The indices that a GET_MEASUREMENTS asks for: none, all, or one. -/
def measured (op : Nat) : List Nat := if op = 0 then [] else if op = 255 then [1, 2, 3, 4, 5, 6, 7] else [op]

theorem measured_of {m : Mach} {op : Nat} {is : List Nat} (h : (op = 0 ∧ is = []) ∨ (op = 255 ∧ is = [1, 2, 3, 4, 5, 6, 7]) ∨
    (op ≠ 0 ∧ op ≠ 255 ∧ is = [op] ∧ (m.measurement op).isSome = true)) :
    is = measured op ∧ ¬ (op ≠ 0 ∧ op ≠ 255 ∧ (m.measurement op).isNone = true) := by
  unfold measured
  rcases h with ⟨rfl, rfl⟩ | ⟨rfl, rfl⟩ | ⟨h0, h255, rfl, hm⟩
  · exact ⟨rfl, fun h => h.1 rfl⟩
  · exact ⟨rfl, fun h => h.2.1 rfl⟩
  · refine ⟨by rw [if_neg h0, if_neg h255], fun h => ?_⟩
    rw [Option.isNone_iff_eq_none.1 h.2.2] at hm
    exact Bool.false_ne_true hm

/-! ## The attesting requests of a negotiated connection -/

section
variable {m : Mach} {r : SpdmReq} (h : m.id.spdm = .negotiated) (hv : r.version = m.id.spdmVer)
include h hv

theorem spdmDigests_answers {resp : List Byte} (hr : resp = spdmMsg r.version 0x01 0 1 (sha3_256 m.chain)) :
    m.spdmDigests r = { m with id.transcript := m.id.transcript ++ reqBytes r 0x81 ++ resp, id.response := resp } := by
  subst hr
  exact if_neg (spdmFits_of h hv)

theorem spdmCertificate_without (hc : m.id.certOk = false) :
    m.spdmCertificate r = { m with id.response := spdmMsg r.version 0x7F 0x05 0 [] } :=
  (if_neg (spdmFits_of h hv)).trans (if_pos (by rw [hc]; rfl))

theorem spdmCertificate_outside (hc : m.id.certOk = true) (hp : r.param1 ≠ 0 ∨ m.chain.length ≤ leNat (r.body.take 2)) :
    m.spdmCertificate r = { m with id.response := spdmMsg r.version 0x7F 0x01 0 [] } :=
  (if_neg (spdmFits_of h hv)).trans ((if_neg (by rw [hc]; decide)).trans (if_pos hp))

theorem spdmCertificate_answers {part resp : List Byte} (hc : m.id.certOk = true) (hp : r.param1 = 0) (hl : leNat (r.body.take 2) < m.chain.length)
    (hpart : part = (m.chain.drop (leNat (r.body.take 2))).take (leNat ((r.body.drop 2).take 2)))
    (hr : resp = spdmMsg r.version 0x02 0 0 (leBytes 2 part.length ++ leBytes 2 (m.chain.length - leNat (r.body.take 2) - part.length) ++ part)) :
    m.spdmCertificate r = { m with id.transcript := m.id.transcript ++ reqBytes r 0x82 ++ resp, id.response := resp } := by
  subst hr hpart
  exact (if_neg (spdmFits_of h hv)).trans ((if_neg (by rw [hc]; decide)).trans
    (if_neg fun hn => hn.elim (fun h0 => h0 hp) fun hle => Nat.not_lt.2 hle hl))

theorem spdmChallenge_without (hc : m.id.certOk = false) :
    m.spdmChallenge r = { m with id.response := spdmMsg r.version 0x7F 0x05 0 [] } :=
  (if_neg (spdmFits_of h hv)).trans (if_pos (by rw [hc]; rfl))

theorem spdmChallenge_slot (hc : m.id.certOk = true) (hp : r.param1 ≠ 0) :
    m.spdmChallenge r = { m with id.response := spdmMsg r.version 0x7F 0x01 0 [] } :=
  (if_neg (spdmFits_of h hv)).trans ((if_neg (by rw [hc]; decide)).trans (if_pos hp))

theorem spdmChallenge_answers (hc : m.id.certOk = true) (hp : r.param1 = 0) {w : Mach} {n body sig : List Byte} (hn : m.nonce 8 = (n, w))
    (hb : body = spdmMsg r.version 0x03 0 1 (sha3_256 w.chain ++ n ++
      (if r.param2 = 0 then [] else sha3_256 (w.measBlocks (if r.param2 = 1 then [1, 2] else [1, 2, 3, 4, 5, 6, 7]))) ++ leBytes 2 0 ++ reqContext r 32))
    (hs : sig = w.spdmSign r.version "responder-challenge_auth signing" (w.id.transcript ++ reqBytes r 0x83 ++ body)) :
    m.spdmChallenge r = { w with id.transcript := w.id.vca, id.response := body ++ sig } := by
  unfold Mach.spdmChallenge
  refine (if_neg (spdmFits_of h hv)).trans ((if_neg (by rw [hc]; decide)).trans ((if_neg (not_not.2 hp)).trans ?_))
  subst hs hb
  rw [hn]
  rfl

theorem spdmMeasurements_without (hs : r.param1 % 2 = 1) (hc : m.id.certOk = false) :
    m.spdmMeasurements r = { m with id.response := spdmMsg r.version 0x7F 0x05 0 [] } :=
  (if_neg (spdmFits_of h hv)).trans (if_pos ⟨hs, hc⟩)

theorem spdmMeasurements_unknown (hc : r.param1 % 2 = 1 → m.id.certOk = true) (h0 : r.param2 ≠ 0) (h255 : r.param2 ≠ 255)
    (hm : (m.measurement r.param2).isNone = true) : m.spdmMeasurements r = { m with id.response := spdmMsg r.version 0x7F 0x01 0 [] } :=
  (if_neg (spdmFits_of h hv)).trans ((if_neg (signs_of hc)).trans (if_pos ⟨h0, h255, hm⟩))

theorem spdmMeasurements_answers (hc : r.param1 % 2 = 1 → m.id.certOk = true)
    (hm : ¬ (r.param2 ≠ 0 ∧ r.param2 ≠ 255 ∧ (m.measurement r.param2).isNone = true)) {w : Mach} {n body sig rec : List Byte}
    (hn : m.nonce 8 = (n, w)) (hrec : rec = w.measBlocks (measured r.param2))
    (hb : body = spdmMsg r.version 0x60 (if r.param2 = 0 then 7 else 0) 0 (leBytes 1 (measured r.param2).length ++ leBytes 3 rec.length ++ rec ++ n ++
      leBytes 2 0 ++ reqContext r (if r.param1 % 2 = 1 then 33 else 0)))
    (hs : sig = w.spdmSign r.version "responder-measurements signing" (w.id.mTranscript ++ reqBytes r 0xE0 ++ body)) :
    m.spdmMeasurements r = if r.param1 % 2 = 1 then { w with id.mTranscript := w.id.vca, id.response := body ++ sig }
      else { w with id.mTranscript := w.id.mTranscript ++ reqBytes r 0xE0 ++ body, id.response := body } := by
  unfold Mach.spdmMeasurements
  refine (if_neg (spdmFits_of h hv)).trans ((if_neg (signs_of hc)).trans ((if_neg hm).trans ?_))
  subst hs hb hrec
  rw [hn]
  rfl

end

/-- Settles O59: every request by the equations of its function above; the layouts are the model's (log entry 20). -/
theorem spdmAttestsTheModule : Obligations.SpdmAttestsTheModule := by
  unfold Obligations.SpdmAttestsTheModule
  refine ⟨fun m r code h => ⟨.of_on (exec_getVersion r) (doe_silent _ h), .of_on (exec_getCapabilities r) (doe_silent _ h),
      .of_on (exec_negotiateAlgorithms r) (doe_silent _ h), .of_on (exec_getDigests r) (doe_silent _ h), .of_on (exec_getCertificate r) (doe_silent _ h),
      .of_on (exec_challenge r) (doe_silent _ h), .of_on (exec_getMeasurements r) (doe_silent _ h),
      .of_on (exec_spdmUnsupportedRequest code r) (doe_silent _ h)⟩,
    fun m r hp hl => ?_, fun m r hp hl hph => ⟨_, rfl, gives_of_unfit ⟨hp, hl⟩ (spdmFits_phase hph) (spdmUnfit_phase hph)⟩,
    fun m r hp hl hph hv => ⟨_, rfl, gives_of_unfit ⟨hp, hl⟩ (spdmFits_version hv) (spdmUnfit_version hph)⟩, fun m r hp hl hph hv => ?_,
    fun m r code hp hl hcode => .of_doe (exec_spdmUnsupportedRequest code r) ⟨hp, hl⟩ (if_neg hcode)⟩
  · have ha : m.answers := ⟨hp, hl⟩
    exact ⟨fun h => .of_doe (exec_getVersion r) ha (spdmVersion_other m h), fun h => ⟨_, rfl, .of_doe (exec_getVersion r) ha (spdmVersion_starts m h rfl)⟩,
      fun h => .of_doe (exec_getCapabilities r) ha (spdmCapabilities_phase h),
      fun h h2 h3 => .of_doe (exec_getCapabilities r) ha (spdmCapabilities_version h h2 h3),
      fun h hv => ⟨_, rfl, .of_doe (exec_getCapabilities r) ha (spdmCapabilities_takes h hv rfl)⟩,
      fun h => .of_doe (exec_negotiateAlgorithms r) ha (spdmNegotiate_phase h),
      fun h hv hc => .of_doe (exec_negotiateAlgorithms r) ha (spdmNegotiate_ends h hv hc),
      fun h hv hc => ⟨_, .of_doe (exec_negotiateAlgorithms r) ha (spdmNegotiate_opens h hv hc), rfl, rfl, rfl, rfl, rfl, rfl⟩⟩
  · have ha : m.answers := ⟨hp, hl⟩
    refine ⟨⟨_, rfl, .of_doe (exec_getDigests r) ha (spdmDigests_answers hph hv rfl)⟩,
      fun hc => ⟨.of_doe (exec_getCertificate r) ha (spdmCertificate_without hph hv hc), .of_doe (exec_challenge r) ha (spdmChallenge_without hph hv hc)⟩,
      fun hc h => .of_doe (exec_getCertificate r) ha (spdmCertificate_outside hph hv hc h),
      fun hc h0 hlt => ⟨_, _, rfl, rfl, .of_doe (exec_getCertificate r) ha (spdmCertificate_answers hph hv hc h0 hlt rfl rfl)⟩,
      fun hc h0 => ⟨_, _, _, rfl, rfl, rfl, .of_doe (exec_challenge r) ha (spdmChallenge_answers hph hv hc h0 rfl rfl rfl)⟩,
      fun hc h0 => .of_doe (exec_challenge r) ha (spdmChallenge_slot hph hv hc h0),
      fun hs hc => .of_doe (exec_getMeasurements r) ha (spdmMeasurements_without hph hv hs hc),
      fun hc h0 h255 hm => .of_doe (exec_getMeasurements r) ha (spdmMeasurements_unknown hph hv hc h0 h255 hm), fun is his => ?_⟩
    obtain ⟨rfl, hm⟩ := measured_of his
    refine ⟨_, _, _, _, rfl, rfl, rfl, rfl, fun hs => ?_, fun hs hc => ?_⟩
    · have hsign : ¬ r.param1 % 2 = 1 := by omega
      exact .of_doe (exec_getMeasurements r) ha ((spdmMeasurements_answers hph hv (fun h => absurd h hsign) hm rfl rfl rfl rfl).trans (if_neg hsign))
    · exact .of_doe (exec_getMeasurements r) ha ((spdmMeasurements_answers hph hv (fun _ => hc) hm rfl rfl rfl rfl).trans (if_pos hs))

end Sys2Proof.Machine
end

section
/-! PROOFS. Firmware updates and the recorder (chapters 17 and 18). -/

namespace Sys2Proof.Machine

/-! ## Who may write an action, and when -/

theorem updWrite_refused (m : Mach) {c : Cls} (a : Nat) (h : c = .fw ∨ c = .peer) : m.updWrite c a = m.accessFault c (Reg.addr .idUpdCtrl) := if_pos h

/-- The five actions of ID_UPD_CTRL. -/
def Mach.updAction (m : Mach) (a : Nat) : Mach :=
  match a with
  | 1 => m.updStage
  | 2 => m.updCommit
  | 3 => m.updDiscard
  | 4 => m.updToken
  | _ => m.updEndTest

theorem updWrite_acts (m : Mach) {c : Cls} {a : Nat} (hc : c = .host ∨ c = .tk) (ha : 0 < a ∧ a ≤ 5) : m.updWrite c a =
    if m.id.updState = 1 then { m with id.updStatus := stUpdBusy } else m.updAction a :=
  (if_neg (by rcases hc with rfl | rfl <;> decide)).trans (if_neg (by omega))

/-- A landed write of an action by HOST or TK while no copy runs. -/
theorem Gives.of_updAction {i : Instr} {m n : Mach} {c : Cls} {v : Word} (a : Nat) (hi : ∀ s, exec i s = s.on (fun k => k.writeNamed c .idUpdCtrl v))
    (hv : field v 31 29 = a) (ha : 0 < a ∧ a ≤ 5) (hl : m.lands c .idUpdCtrl true) (hc : c = .host ∨ c = .tk) (hs : m.id.updState ≠ 1)
    (e : m.updAction a = n) : Gives i m n := by
  subst hv
  exact .of_landed hi hl ((updWrite_acts m hc ha).trans ((if_neg hs).trans e))

theorem Gives.of_updBusy {i : Instr} {m : Mach} {c : Cls} {v : Word} (a : Nat) (hi : ∀ s, exec i s = s.on (fun k => k.writeNamed c .idUpdCtrl v))
    (hv : field v 31 29 = a) (ha : 0 < a ∧ a ≤ 5) (hl : m.lands c .idUpdCtrl true) (hc : c = .host ∨ c = .tk) (hs : m.id.updState = 1) :
    Gives i m { m with id.updStatus := stUpdBusy } := by
  subst hv
  exact .of_landed hi hl ((updWrite_acts m hc ha).trans (if_pos hs))

/-! ## The actions -/

theorem updAction_keyless {m : Mach} (h : m.id.pufOk = false) : m.updStage = m.updEnds 3 stUpdKey ∧
    m.updCommit = m.updEnds m.id.updState stUpdKey ∧ m.updDiscard = m.updEnds m.id.updState stUpdKey ∧
    m.updToken = m.updEnds m.id.updState stUpdKey ∧ m.updEndTest = m.updEnds m.id.updState stUpdKey := by
  have hk : (!m.id.pufOk) = true := by rw [h]; rfl
  exact ⟨if_pos hk, if_pos hk, if_pos hk, if_pos hk, if_pos hk⟩

/-- The record of a trial's end carries the version that ran. -/
theorem trialRecord (k : Mach) (b : Bool) (p : SlotPair) : (if p.trial = true then k.fwRecord b p.runSlot p.trialVersion stOk else k) =
    if p.trial = true then k.fwRecord b p.runSlot ((p.running.map Image.version).getD 0) stOk else k := by
  split
  · next h => rw [SlotPair.trialVersion, if_pos h]
  · rfl

/-- The image at the update address may be copied: it is of no kind, or of one that is not under trial. -/
def Mach.stageable (m : Mach) : Prop := ∀ k, m.imageKind m.updAddr = some k → (m.slots2 k).trial = false

theorem stageable_some {m : Mach} {k : Bool} (hk : m.imageKind m.updAddr = some k) (ht : (m.slots2 k).trial = false) : m.stageable := by
  intro k' h'
  obtain rfl : k = k' := Option.some.inj (hk.symm.trans h')
  exact ht

theorem stageable_none {m : Mach} (hk : m.imageKind m.updAddr = none) : m.stageable := fun k h => by rw [hk] at h; exact (Option.some_ne_none k h.symm).elim

section
variable {m : Mach} (hp : m.id.pufOk = true)
include hp

theorem keyed : ¬ (!m.id.pufOk) = true := by rw [hp]; decide

theorem updStage_trial {k : Bool} (hk : m.imageKind m.updAddr = some k) (ht : (m.slots2 k).trial = true) : m.updStage = m.updEnds 3 stBadState :=
  (if_neg (keyed hp)).trans (if_pos (by rw [hk]; exact ht))

/-- A stage of an image that may be copied turns on the judgement of its region. -/
theorem updStage_judged (h : m.stageable) : m.updStage =
    if m.judge .host m.updAddr (m.rd .idUpdLen).toNat false != .ok then
      (if m.judge .host m.updAddr (m.rd .idUpdLen).toNat false = .denied then m.deny .host m.updAddr false false else m).updEnds 3 stRegion
    else
      { (match m.imageKind m.updAddr with
        | some k => m.setSlots2 k { (m.slots2 k).put (!(m.slots2 k).runSlot) none with staged := false }
        | none => m) with
        id.job := some ⟨m.updAddr, (m.rd .idUpdLen).toNat⟩
        id.updState := 1
        id.updKind := (m.imageKind m.updAddr).getD false } := by
  refine (if_neg (keyed hp)).trans (if_neg ?_)
  cases hk : m.imageKind m.updAddr with
  | none => exact Bool.false_ne_true
  | some k => rw [Option.any_some, h k hk]; exact Bool.false_ne_true

theorem updStage_denied (h : m.stageable) (hj : m.judge .host m.updAddr (m.rd .idUpdLen).toNat false = .denied) :
    m.updStage = (m.deny .host m.updAddr false false).updEnds 3 stRegion := by
  rw [updStage_judged hp h, hj]
  rfl

theorem updStage_undecoded (h : m.stageable) (hj : m.judge .host m.updAddr (m.rd .idUpdLen).toNat false = .undecoded) :
    m.updStage = m.updEnds 3 stRegion := by
  rw [updStage_judged hp h, hj]
  rfl

theorem updStage_kind {k : Bool} (hk : m.imageKind m.updAddr = some k) (ht : (m.slots2 k).trial = false)
    (hj : m.judge .host m.updAddr (m.rd .idUpdLen).toNat false = .ok) : m.updStage =
      { m.setSlots2 k { (m.slots2 k).put (!(m.slots2 k).runSlot) none with staged := false } with
        id.job := some ⟨m.updAddr, (m.rd .idUpdLen).toNat⟩, id.updState := 1, id.updKind := k } := by
  rw [updStage_judged hp (stageable_some hk ht), hj, hk]
  rfl

theorem updStage_noKind (hk : m.imageKind m.updAddr = none) (hj : m.judge .host m.updAddr (m.rd .idUpdLen).toNat false = .ok) :
    m.updStage = { m with id.job := some ⟨m.updAddr, (m.rd .idUpdLen).toNat⟩, id.updState := 1, id.updKind := false } := by
  rw [updStage_judged hp (stageable_none hk), hj, hk]
  rfl

theorem updCommit_idle (ht : m.id.tk.trial = false) (ha : m.id.app.trial = false) : m.updCommit = m.updEnds m.id.updState stBadState :=
  (if_neg (keyed hp)).trans (if_pos (by rw [ht, ha]; rfl))

theorem updCommit_trials (h : m.id.tk.trial = true ∨ m.id.app.trial = true) {k a : Mach}
    (hk : k = ({ m with id.tk := m.id.tk.commit, id.app := m.id.app.commit } : Mach).updReport m.id.updState stOk)
    (ha : a = if m.id.tk.trial = true then k.fwRecord false m.id.tk.runSlot ((m.id.tk.running.map Image.version).getD 0) stOk else k) :
    m.updCommit = if m.id.app.trial = true then a.fwRecord true m.id.app.runSlot ((m.id.app.running.map Image.version).getD 0) stOk else a := by
  subst ha hk
  have htrial : ¬ (!m.id.tk.trial && !m.id.app.trial) = true := by rcases h with h | h <;> simp [h]
  refine ((if_neg (keyed hp)).trans (if_neg htrial)).trans ?_
  dsimp only
  rw [trialRecord, trialRecord]

theorem updDiscard_idle (h : m.anyStaged = false) : m.updDiscard = m.updEnds m.id.updState stBadState :=
  (if_neg (keyed hp)).trans (if_pos (by rw [h]; rfl))

theorem updDiscard_erases (h : m.anyStaged = true) {k : Bool} {p : SlotPair}
    (hk : k = if (m.slots2 m.id.updKind).staged then m.id.updKind else !m.id.updKind) (hs : p = m.slots2 k) : m.updDiscard =
      ((m.setSlots2 k { p.put (!p.runSlot) none with staged := false }).updReport 0 stOk).fwRecord k (!p.runSlot)
        (((p.at (!p.runSlot)).map Image.version).getD 0) stOk := by
  subst hs hk
  exact (if_neg (keyed hp)).trans (if_neg (by rw [h]; decide))

/-- A token's bytes are read, then judged, then the module's state. -/
theorem updToken_keyed : m.updToken =
    if !m.tokenOk then (m.checkRead m.updAddr 2452).updEnds m.id.updState stUpdSig
    else if !m.outOfService then (m.checkRead m.updAddr 2452).updEnds m.id.updState stBadState
    else ({ m.checkRead m.updAddr 2452 with fault.testMode := true } : Mach).updEnds m.id.updState stOk := if_neg (keyed hp)

theorem updEndTest_keyed : m.updEndTest =
    if !m.fault.testMode then m.updEnds m.id.updState stBadState else m.endTestMode.updEnds m.id.updState stOk := if_neg (keyed hp)

end

/-! ## The end of a copy -/

theorem stageDone_none {m : Mach} (h : m.id.job = none) : m.stageDone = m := by unfold Mach.stageDone; rw [h]

theorem stageDone_failed {m k : Mach} {j : StageJob} {st : Nat} (h : m.id.job = some j) (hk : k = { m.checkRead j.addr j.len with id.job := none })
    (hv : k.verifyImage (m.cleanBytes j.addr j.len) j.len = .error st) : m.stageDone = k.updEnds 3 st := by
  subst hk
  unfold Mach.stageDone
  rw [h]
  dsimp only
  rw [hv]

theorem stageDone_staged {m k w : Mach} {j : StageJob} {app : Bool} {img : Image} (h : m.id.job = some j)
    (hk : k = { m.checkRead j.addr j.len with id.job := none }) (hv : k.verifyImage (m.cleanBytes j.addr j.len) j.len = .ok (app, img))
    (hw : w = k.setSlots2 app { (k.slots2 app).put (!(k.slots2 app).runSlot) (some img) with staged := true }) :
    m.stageDone = (({ w with id.updKind := app } : Mach).updReport 2 stOk).fwRecord app (!(k.slots2 app).runSlot) img.version stOk := by
  subst hw hk
  unfold Mach.stageDone
  rw [h]
  dsimp only
  rw [hv]

/-! ## The recorder -/

theorem storeRecord_idle {m : Mach} (h : m.ev.mounted = false ∨ m.ev.frozen = true ∨ m.ev.queue = []) : m.storeRecord = m := by
  unfold Mach.storeRecord
  split
  · next r rest hm hq => rcases h with h | h | h <;> simp_all
  · rfl

theorem storeRecord_stores {m : Mach} {r : EvRec} {rs : List EvRec} (hm : m.ev.mounted = true) (hf : m.ev.frozen = false) (hq : m.ev.queue = r :: rs) :
    m.storeRecord = (({ m with
      ev.queue := rs
      ev.stored := ⟨m.ev.nextSeq, r⟩ :: keepStored (m.areaBytes - r.length) 1048575 m.ev.stored
      ev.nextSeq := (m.ev.nextSeq + 1) % 4294967296 } : Mach).reqLine 5) := by
  unfold Mach.storeRecord
  rw [hm, hf, hq]
  rfl

theorem freezeEffect_idle {m : Mach} (h : m.ev.freezePending = false ∨ m.ev.freezeNew = true) : m.freezeEffect = m :=
  if_neg (by rcases h with h | h <;> simp [h])

theorem freezeEffect_freezes {m : Mach} (hp : m.ev.freezePending = true) (hn : m.ev.freezeNew = false) : m.freezeEffect =
    { m with ev.freezePending := false, ev.frozen := true, ev.freezeStart := m.time.count, ev.idle := 0, ev.lostInFreeze := 0 } :=
  if_pos (by rw [hp, hn]; rfl)

theorem autoThaw_idle {m : Mach} (h : m.ev.frozen = false ∨ m.ev.idle < 1000000) : m.autoThaw = m :=
  if_neg (by rcases h with h | h <;> simp [h])

theorem autoThaw_thaws {m : Mach} (hf : m.ev.frozen = true) (hi : 1000000 ≤ m.ev.idle) : m.autoThaw = m.thaw.raise srcRecorder .info 3 :=
  if_pos (by rw [hf]; simpa using hi)

theorem flashFail_of {m k : Mach} (hk : k = ({ m with ev.retired := m.ev.retired + 1 } : Mach).raise srcRecorder .corr 1) : m.flashFail =
    if k.ev.retired * 20 > Config.flashBlocks + 1 ∧ !k.ev.retiredFault then ({ k with ev.retiredFault := true } : Mach).raise srcRecorder .severe 2
    else k := by
  subst hk; rfl

/-- Settles O60: the actions by the equations of the update functions above, the recorder's rows by theirs. -/
theorem firmwareUpdatesAndTheRecorderFollowTheirRules : Obligations.FirmwareUpdatesAndTheRecorderFollowTheirRules := by
  unfold Obligations.FirmwareUpdatesAndTheRecorderFollowTheirRules
  refine ⟨fun m c hl hc => ⟨_, rfl, .of_landed (exec_stage c) hl (updWrite_refused m _ hc), .of_landed (exec_updCommit c) hl (updWrite_refused m _ hc),
      .of_landed (exec_discard c) hl (updWrite_refused m _ hc), .of_landed (exec_token c) hl (updWrite_refused m _ hc),
      .of_landed (exec_endTest c) hl (updWrite_refused m _ hc)⟩,
    fun m c hl hc hs => ⟨_, rfl, .of_updBusy 1 (exec_stage c) (by decide) (by decide) hl hc hs,
      .of_updBusy 2 (exec_updCommit c) (by decide) (by decide) hl hc hs, .of_updBusy 3 (exec_discard c) (by decide) (by decide) hl hc hs,
      .of_updBusy 4 (exec_token c) (by decide) (by decide) hl hc hs, .of_updBusy 5 (exec_endTest c) (by decide) (by decide) hl hc hs⟩,
    fun m c hl hc hs hp => ?_, fun m c hl hc hs hp => ?_, fun m state status => rfl, fun p => ⟨fun h => if_neg (by rw [h]; decide), fun h => if_pos h⟩,
    fun m h => .of_on exec_stageDone (stageDone_none h),
    fun m j k hj hk => ⟨fun st hv => .of_on exec_stageDone (stageDone_failed hj hk hv),
      fun app img hv => ⟨_, rfl, .of_on exec_stageDone (stageDone_staged hj hk hv rfl)⟩⟩,
    fun m h => .of_on exec_eventRecordStore (storeRecord_idle h), fun m r rs hm hf hq => .of_on exec_eventRecordStore (storeRecord_stores hm hf hq),
    fun m => ⟨fun h => .of_on exec_freezeEffect (freezeEffect_idle h), fun hp hn => .of_on exec_freezeEffect (freezeEffect_freezes hp hn)⟩,
    fun m => ⟨fun h => .of_on exec_autoThaw (autoThaw_idle h), fun hf hi => .of_on exec_autoThaw (autoThaw_thaws hf hi)⟩,
    fun m k hk => ⟨fun h => .of_on exec_flashWriteFail ((flashFail_of hk).trans (if_neg ?_)),
      fun h hf => .of_on exec_flashWriteFail ((flashFail_of hk).trans (if_pos ⟨h, by rw [hf]; rfl⟩))⟩⟩
  · obtain ⟨hstage, hcommit, hdiscard, htoken, hend⟩ := updAction_keyless hp
    exact ⟨.of_updAction 1 (exec_stage c) (by decide) (by decide) hl hc hs hstage, _, rfl,
      .of_updAction 2 (exec_updCommit c) (by decide) (by decide) hl hc hs hcommit, .of_updAction 3 (exec_discard c) (by decide) (by decide) hl hc hs hdiscard,
      .of_updAction 4 (exec_token c) (by decide) (by decide) hl hc hs htoken, .of_updAction 5 (exec_endTest c) (by decide) (by decide) hl hc hs hend⟩
  · have hstage {n : Mach} (e : m.updStage = n) : Gives (.stage c) m n := .of_updAction 1 (exec_stage c) (by decide) (by decide) hl hc hs e
    have hcommit {n : Mach} (e : m.updCommit = n) : Gives (.updCommit c) m n := .of_updAction 2 (exec_updCommit c) (by decide) (by decide) hl hc hs e
    have hdiscard {n : Mach} (e : m.updDiscard = n) : Gives (.discard c) m n := .of_updAction 3 (exec_discard c) (by decide) (by decide) hl hc hs e
    have htoken {n : Mach} (e : m.updToken = n) : Gives (.token c) m n := .of_updAction 4 (exec_token c) (by decide) (by decide) hl hc hs e
    have hend {n : Mach} (e : m.updEndTest = n) : Gives (.endTest c) m n := .of_updAction 5 (exec_endTest c) (by decide) (by decide) hl hc hs e
    refine ⟨fun k hk ht => hstage (updStage_trial hp hk ht), fun k hk ht hj => hstage (updStage_denied hp (stageable_some hk ht) hj), ?_,
      fun h hj => hstage (updStage_undecoded hp h hj), fun hk hj => hstage (updStage_denied hp (stageable_none hk) hj),
      fun hk hj => hstage (updStage_noKind hp hk hj), fun ht ha => hcommit (updCommit_idle hp ht ha),
      fun h => ⟨_, _, _, rfl, rfl, rfl, hcommit (updCommit_trials hp h rfl rfl)⟩, fun h => hdiscard (updDiscard_idle hp h),
      fun h => ⟨_, _, rfl, rfl, hdiscard (updDiscard_erases hp h rfl rfl)⟩,
      fun ht => htoken ((updToken_keyed hp).trans (if_pos (by rw [ht]; rfl))),
      fun ht ho => htoken ((updToken_keyed hp).trans ((if_neg (by rw [ht]; decide)).trans (if_pos (by rw [ho]; rfl)))),
      fun ht ho => htoken ((updToken_keyed hp).trans ((if_neg (by rw [ht]; decide)).trans (if_neg (by rw [ho]; decide)))),
      fun ht => hend ((updEndTest_keyed hp).trans (if_pos (by rw [ht]; rfl))),
      fun ht => hend ((updEndTest_keyed hp).trans (if_neg (by rw [ht]; decide)))⟩
    rintro k w hk ht hj rfl
    exact hstage (updStage_kind hp hk ht hj)
  · rintro ⟨hgt, hnot⟩
    rcases h with h | h
    · exact Nat.not_lt.2 h hgt
    · rw [h] at hnot; exact Bool.noConfusion hnot

end Sys2Proof.Machine
end

section
/-! PROOFS. Slot 0 of a bundle: the sequencer (chapter 8). -/

namespace Sys2Proof.Machine

/-! ## Scalar registers -/

theorem scReg_zero (j : Job) : j.scReg 0 = 0 := rfl

theorem setSc_zero (j : Job) (v : DWord) : j.setSc 0 v = j := rfl

theorem scReg_setSc_same (j : Job) {k : Nat} (v : DWord) (hk : 0 < k) (hl : k < j.sc.length) : (j.setSc k v).scReg k = v := by
  rw [Job.setSc, if_neg (Nat.pos_iff_ne_zero.1 hk), Job.scReg, if_neg (Nat.pos_iff_ne_zero.1 hk)]
  simp [hl]

theorem scReg_setSc_other (j : Job) {k i : Nat} (v : DWord) (h : i ≠ k) : (j.setSc k v).scReg i = j.scReg i := by
  unfold Job.setSc
  split
  · rfl
  · simp [Job.scReg, List.getElem?_set_ne h.symm]

/-! ## The instructions of slot 0 -/

theorem slot0_above {x : Bx} {i : Ins} (h : 8 < i.op) : x.slot0 i = .error stAnvIllegal := by
  unfold Bx.slot0
  split
  case h_10 => rfl
  all_goals omega

section
variable {x : Bx} {i : Ins}

theorem slot0_loop (h : i.op = 2) : x.slot0 i =
    if i.imm % 4294967296 = 0 ∨ 4 ≤ x.j.loops.length then .error stAnvIllegal
    else if i.imm / 4294967296 % 16777216 = 0 then .ok (x, .next)
    else .ok (x, .loop (x.j.pc + i.imm / 4294967296 % 16777216) (i.imm % 4294967296)) := by
  unfold Bx.slot0; rw [h]; rfl

theorem slot0_brnz (h : i.op = 3) : x.slot0 i =
    if x.j.progLen ≤ i.imm % 2097152 ∨ 32 ≤ i.a then .error stAnvIllegal
    else .ok (x, if x.j.scReg i.a != 0 then .goto (i.imm % 2097152) else .next) := by
  unfold Bx.slot0; rw [h]; rfl

theorem slot0_salu (h : i.op = 4) : x.slot0 i = (x.salu i).map (fun y => (y, .next)) := by
  unfold Bx.slot0; rw [h]; rfl

end

/-- The operation of a SALU with two register operands (R230). -/
def saluFn (sub : Nat) : DWord → DWord → DWord :=
  match sub with | 0 => (· + ·) | 1 => (· - ·) | 2 => (· * ·) | 3 => (· &&& ·) | 4 => (· ||| ·) | _ => (· ^^^ ·)

theorem salu_registers (x : Bx) {i : Ins} (hd : i.dst < 32) (ha : i.a < 32) (hb : i.b < 32) (hs : i.sub < 6) :
    x.salu i = .ok { x with j := x.j.setSc i.dst (saluFn i.sub (x.j.scReg i.a) (x.j.scReg i.b)) } := by
  have hlegal : ¬ (8 < i.sub % 32768 ∨ 32 ≤ i.dst ∨ 32 ≤ i.a ∨ ((!bit (BitVec.ofNat 32 i.sub) 15) = true ∧ i.sub % 32768 ≠ 8 ∧ 32 ≤ i.b)) := by omega
  refine (if_neg hlegal).trans ?_
  dsimp only
  generalize i.sub = sub at hs
  interval_cases sub <;> rfl

theorem salu_copy (x : Bx) {i : Ins} (hd : i.dst < 32) (ha : i.a < 32) (hs : i.sub = 8) :
    x.salu i = .ok { x with j := x.j.setSc i.dst (BitVec.ofNat 64 i.imm) } := by
  have hlegal : ¬ (8 < i.sub % 32768 ∨ 32 ≤ i.dst ∨ 32 ≤ i.a ∨ ((!bit (BitVec.ofNat 32 i.sub) 15) = true ∧ i.sub % 32768 ≠ 8 ∧ 32 ≤ i.b)) := by omega
  refine (if_neg hlegal).trans ?_
  dsimp only
  rw [hs]
  rfl

/-! ## The flow after a bundle -/

theorem flow_next (j : Job) : (j.flow .next).pc = (loopBack j.pc j.loops).1 ∧ (j.flow .next).loops = (loopBack j.pc j.loops).2 := ⟨rfl, rfl⟩

theorem loopBack_inside {pc : Nat} {f : LoopFrame} (fs : List LoopFrame) (h : pc ≠ f.last) : loopBack pc (f :: fs) = (pc + 1, f :: fs) := if_neg h

theorem loopBack_again {pc : Nat} {f : LoopFrame} (fs : List LoopFrame) (h : pc = f.last) (hl : 1 < f.left) :
    loopBack pc (f :: fs) = (f.first, { f with left := f.left - 1 } :: fs) := (if_pos h).trans (if_pos hl)

/-- Settles O53: the instructions and the flow by their equations above. -/
theorem slotZeroRunsTheSequencer : Obligations.SlotZeroRunsTheSequencer := by
  unfold Obligations.SlotZeroRunsTheSequencer
  refine ⟨fun x i => ⟨?_, fun h => by unfold Bx.slot0; rw [h]; rfl, fun h => slot0_above h⟩, fun x i n k hop hn hk himm => ?_,
    fun x i hop himm => ⟨fun h => ?_, fun hlt ha hne => ?_, fun hlt ha he => ?_⟩, ?_,
    fun x i hop hs hd ha => by rw [slot0_salu hop, salu_copy x hd ha hs]; rfl, fun x i h => by unfold Bx.slot0; rw [h]; rfl,
    fun j k v => ⟨scReg_zero _, setSc_zero j v, scReg_setSc_same j v, fun i h => scReg_setSc_other j v h⟩,
    fun j last times => ⟨rfl, rfl⟩, fun j f fs hl => ⟨fun h => ?_, fun h hleft => ?_⟩, fun j b => ⟨rfl, fun h => ?_⟩⟩
  · rintro (h | h) <;> · unfold Bx.slot0; rw [h]; rfl
  · have hloop := slot0_loop (x := x) hop
    rw [show i.imm % 4294967296 = k by omega, show i.imm / 4294967296 % 16777216 = n by omega] at hloop
    exact ⟨fun h => hloop.trans (if_pos h),
      fun h0 hlen hpos => hloop.trans ((if_neg (by omega)).trans (if_neg (by omega)))⟩
  · exact (slot0_brnz hop).trans (if_pos (by rwa [Nat.mod_eq_of_lt himm]))
  · rw [slot0_brnz hop, Nat.mod_eq_of_lt himm, if_neg (by omega), if_pos (bne_iff_ne.2 hne)]
  · rw [slot0_brnz hop, if_neg (by rw [Nat.mod_eq_of_lt himm]; omega), if_neg (by simp [he])]
  · rintro x i f hop hd ha hb hs rfl
    rw [slot0_salu hop, salu_registers x hd ha hb hs]
    rfl
  · obtain ⟨hpc, hloops⟩ := flow_next j
    rw [hpc, hloops, hl, loopBack_inside fs h]
    exact ⟨rfl, rfl⟩
  · obtain ⟨hpc, hloops⟩ := flow_next j
    rw [hpc, hloops, hl, loopBack_again fs h hleft]
    exact ⟨rfl, rfl⟩
  · rw [(flow_next j).1, h]
    rfl

end Sys2Proof.Machine
end

section
/-! PROOFS. Descriptors, bursts and fences of the DMA engine (chapter 15). -/

namespace Sys2Proof.Machine

/-! ## Changes of a channel -/

theorem setCh_congr (m : Mach) {n : Nat} {f g : DmaCh → DmaCh} (h : f (m.ch n) = g (m.ch n)) : m.setCh n f = m.setCh n g := by
  unfold Mach.setCh
  rw [modify_getD_congr h]

theorem ch_inside {m : Mach} {n : Nat} (h : (m.ch n).state = 2) : n < m.dma.chs.length := by
  refine Nat.lt_of_not_le fun hle => ?_
  rw [ch_outside hle] at h
  exact absurd h (by decide)

/-! ## The fetch of a descriptor -/

/-- A running channel without a descriptor. -/
def Mach.fetches (m : Mach) (n : Nat) : Prop := n < 32 ∧ (m.ch n).state = 2 ∧ (m.ch n).desc = []

/-- Channel `n` takes the descriptor's words `w`, as R455 to R457 read them. -/
def Mach.descTaken (m : Mach) (n : Nat) (w : List Word) : Mach :=
  m.setCh n (fun c => { c with
    desc := w
    left := (wordAt w 1).toNat
    bad := 0
    fence := false
    srcAt := if bit (wordAt w 0) 4 then 0 else descSrc w
    srcLeft := if bit (wordAt w 0) 4 then 0 else (wordAt w 1).toNat
    srcIdx := 0
    dstAt := if bit (wordAt w 0) 5 then 0 else descDst w
    dstLeft := if bit (wordAt w 0) 5 then 0 else (wordAt w 1).toNat
    dstIdx := 0
    srcs := if bit (wordAt w 0) 4 then [] else [(descSrc w, (wordAt w 1).toNat)]
    dsts := if bit (wordAt w 0) 5 then [] else [(descDst w, (wordAt w 1).toNat)] })

theorem dmaFetch_idle {m : Mach} {n : Nat} (d : List Byte) (h : ¬ m.fetches n) : m.dmaFetch n d = m := if_neg h

theorem dmaFetch_limit {m : Mach} {n : Nat} (d : List Byte) (h : m.fetches n) (hl : m.rdField (.dmChLimit n) 23 0 ≤ (m.rd (.dmChChain n)).toNat) :
    m.dmaFetch n d = m.haltChannel n 1 := (if_pos h).trans (if_pos hl)

/-- Within the chain limit, the fetch turns on the judgement of the descriptor's address. -/
theorem dmaFetch_judged {m k : Mach} {n : Nat} (d : List Byte) (h : m.fetches n) (hl : (m.rd (.dmChChain n)).toNat < m.rdField (.dmChLimit n) 23 0)
    (hk : k = m.setCh n (fun c => { c with cur := c.next })) : m.dmaFetch n d = match k.judge (chClass n) (m.ch n).next 32 false with
      | .undecoded => k.haltChannel n 2
      | .denied => (k.deny (chClass n) (m.ch n).next false false).haltChannel n 2
      | .ok =>
        if (k.dmaRead n (m.ch n).next 32 d).status ≠ 0 then (k.dmaRead n (m.ch n).next 32 d).m.haltChannel n 2
        else
          if (((k.dmaRead n (m.ch n).next 32 d).m.bump (.dmChChain n) 31 0 1).descStatus n (bytesWords 8 (k.dmaRead n (m.ch n).next 32 d).bytes)).1 ≠ 0 then
            ((((k.dmaRead n (m.ch n).next 32 d).m.bump (.dmChChain n) 31 0 1).descStatus n (bytesWords 8 (k.dmaRead n (m.ch n).next 32 d).bytes)).2.descTaken n
              (bytesWords 8 (k.dmaRead n (m.ch n).next 32 d).bytes)).markBad n
              (((k.dmaRead n (m.ch n).next 32 d).m.bump (.dmChChain n) 31 0 1).descStatus n (bytesWords 8 (k.dmaRead n (m.ch n).next 32 d).bytes)).1
          else (((k.dmaRead n (m.ch n).next 32 d).m.bump (.dmChChain n) 31 0 1).descStatus n (bytesWords 8 (k.dmaRead n (m.ch n).next 32 d).bytes)).2.descTaken n
            (bytesWords 8 (k.dmaRead n (m.ch n).next 32 d).bytes) := by
  subst hk
  exact (if_pos h).trans (if_neg (Nat.not_le.2 hl))

/-! ## Bursts and their beats -/

theorem dmaBurst_none {m : Mach} (d : List Byte) (b : BurstIn) (h : m.burstPick = none) : m.dmaBurst d b = m := by
  unfold Mach.dmaBurst; rw [h]

theorem dmaBurst_picked {m k : Mach} {n : Nat} (d : List Byte) (b : BurstIn) (h : m.burstPick = some n)
    (hk : k = if (m.ch n).inBurst = true then m else m.startBurst n) :
    m.dmaBurst d b = if b.parity then k.markBad n 0x86 else Mach.beats n b.beats k d := by
  subst hk
  unfold Mach.dmaBurst; rw [h]

theorem beats_over {m : Mach} {n : Nat} (f : Nat) (d : List Byte) (h : (m.ch n).inBurst = false ∨ m.burstPick ≠ some n) :
    Mach.beats n (f + 1) m d = m := by
  rw [Mach.beats]
  exact if_pos (by rcases h with h | h <;> simp [h])

/-- What follows a beat: the next one, a descriptor marked bad, or a halt. -/
def Mach.afterBeat (w : Mach) (n f : Nat) (r : List Byte) : Moved → Mach
  | .ok => Mach.beats n f w r
  | .bad st => w.markBad n st
  | .halt => w.haltChannel n 2

theorem beats_goes {m w : Mach} {n : Nat} (f : Nat) {d r : List Byte} {x : Moved} (hb : (m.ch n).inBurst = true) (hp : m.burstPick = some n)
    (hx : (if (m.ch n).burst ≠ 0 then m.readBeat n d else m.writeBeat n d) = (x, w, r)) :
    Mach.beats n (f + 1) m d = w.afterBeat n f r x := by
  have hbeat : (if (m.ch n).burst != 0 then m.readBeat n d else m.writeBeat n d) = (x, w, r) := by rw [← hx]; simp only [bne_iff_ne]
  rw [Mach.beats]
  refine (if_neg (by rw [hb, hp]; simp)).trans ?_
  rw [hbeat]
  cases x <;> rfl

theorem nextPiece_left {m : Mach} {n : Nat} (list : Bool) (base count at_ : Nat) {left : Nat} (idx : Nat) (w : Bool) (d : List Byte) (h : left ≠ 0) :
    m.nextPiece n list base count at_ left idx w d = (.ready at_ left idx, m, d) := if_pos h

theorem readBeat_piece {m : Mach} {n k : Nat} {d : List Byte} {io : DmaIo} (h : (m.ch n).srcLeft ≠ 0)
    (hk : k = min (m.ch n).burst (min (m.ch n).srcLeft (64 - (m.ch n).srcAt % 64))) (hio : io = m.dmaRead n (m.ch n).srcAt k d) :
    m.readBeat n d = if io.status ≠ 0 then (.bad io.status, io.m, io.rest)
      else (.ok, io.m.setCh n (fun c' => { c' with
        srcAt := (m.ch n).srcAt + k, srcLeft := (m.ch n).srcLeft - k, srcIdx := (m.ch n).srcIdx, burst := c'.burst - k, buf := c'.buf ++ io.bytes }),
        io.rest) := by
  subst hio hk
  unfold Mach.readBeat
  dsimp only
  rw [nextPiece_left _ _ _ _ _ _ _ h]
  rfl

/-- A write beat whose piece continues the line gathered so far. -/
theorem writeBeat_piece {m w : Mach} {n k : Nat} (d : List Byte) (h : (m.ch n).dstLeft ≠ 0)
    (hk : k = min (m.ch n).buf.length (min (m.ch n).dstLeft (64 - (m.ch n).dstAt % 64)))
    (hline : (m.ch n).line = [] ∨ (m.ch n).dstAt = (m.ch n).lineAt + (m.ch n).line.length)
    (hw : w = m.setCh n (fun c => { c with
      dstAt := (m.ch n).dstAt + k, dstLeft := (m.ch n).dstLeft - k, dstIdx := (m.ch n).dstIdx
      lineAt := if (m.ch n).line.isEmpty then (m.ch n).dstAt else (m.ch n).lineAt
      line := (m.ch n).line ++ (m.ch n).buf.take k, buf := (m.ch n).buf.drop k })) :
    m.writeBeat n d = if ((m.ch n).dstAt + k) % 64 = 0 ∨ (m.ch n).left = (m.ch n).line.length + k then ((w.flushLine n).1, (w.flushLine n).2, d)
      else (.ok, w, d) := by
  have hset : m.setCh n (fun c => { c.dstTo ((m.ch n).dstAt + k) ((m.ch n).dstLeft - k) (m.ch n).dstIdx with
      lineAt := if c.line.isEmpty then (m.ch n).dstAt else c.lineAt, line := c.line ++ c.buf.take k, buf := c.buf.drop k }) = w := by
    rw [hw]
    exact setCh_congr m rfl
  unfold Mach.writeBeat
  dsimp only
  rw [nextPiece_left _ _ _ _ _ _ _ h]
  refine (if_neg (by rcases hline with h | h <;> simp [h])).trans ?_
  rw [← hk, hset]

theorem flushLine_writes {m w : Mach} {n : Nat} {bs : List Byte}
    (hw : w = (if (m.ch n).overlapBad = true then ({ m with free := m.free + 1 } : Mach) else m).setCh n (fun c => { c with line := [] }))
    (hb : (m.ch n).overlapBad = false → bs = (m.ch n).line)
    (ho : (m.ch n).overlapBad = true → bs = (m.ch n).line.mapIdx (fun i _ => Config.overlapByte m.free ((m.ch n).lineAt + i))) :
    m.flushLine n = if (w.dmaWrite n (m.ch n).lineAt bs).2 then
        (.ok, ((w.dmaWrite n (m.ch n).lineAt bs).1.setCh n (fun c => { c with left := c.left - bs.length })).noteTarget n (m.ch n).lineAt)
      else (.bad 0x81, (w.dmaWrite n (m.ch n).lineAt bs).1.setCh n (fun c => { c with failed := true })) := by
  subst hw
  have hbs : bs = if (m.ch n).overlapBad = true then (m.ch n).line.mapIdx (fun i _ => Config.overlapByte m.free ((m.ch n).lineAt + i)) else (m.ch n).line := by
    cases hov : (m.ch n).overlapBad with
    | false => exact hb hov
    | true => exact ho hov
  subst hbs
  rfl

/-! ## Timeouts -/

theorem dmaTimeout_still {m : Mach} {n : Nat} (h : (m.ch n).moving = false) : m.dmaTimeout n =
    if (m.ch n).state == 2 && (m.ch n).fence then m.setCh n (fun c => { c with failed := true }) else m :=
  if_neg (by rw [h]; exact Bool.false_ne_true)

/-! ## The end of a descriptor and of a fence -/

/-- A descriptor whose bytes have moved, or that is bad, and that no fence holds. -/
def Mach.descEnds (m : Mach) (n : Nat) : Prop :=
  n < 32 ∧ (m.ch n).state = 2 ∧ (m.ch n).desc ≠ [] ∧ (m.ch n).left = 0 ∧ (!(m.ch n).fence) = true

theorem dmaDone_idle {m : Mach} {n : Nat} (h : ¬ m.descEnds n) : m.dmaDone n = m := if_neg h

theorem dmaDone_ends {m : Mach} {n : Nat} (h : m.descEnds n) : m.dmaDone n =
    if (m.ch n).bad ≠ 0 then m.writeBack n (m.ch n).bad
    else if (m.ch n).leftOver then (m.markBad n 0x85).writeBack n 0x85
    else if bit (wordAt (m.ch n).desc 0) 7 then m.startFence n
    else m.writeBack n 0x01 := if_pos h

theorem startFence_eq (m : Mach) (n : Nat) : ∃ r, m.startFence n = { m.setCh n (fun c => { c with
    fence := true, readBack := (m.ch n).hostLast.toList ++ (m.ch n).peerLast.map Prod.snd }) with cxl.hostReq := r } := by
  have hset : m.setCh n (fun c => { c with fence := true, readBack := c.hostLast.toList ++ c.peerLast.map Prod.snd }) = m.setCh n (fun c => { c with
      fence := true, readBack := (m.ch n).hostLast.toList ++ (m.ch n).peerLast.map Prod.snd }) := setCh_congr m rfl
  unfold Mach.startFence
  dsimp only
  rw [hset]
  split
  · next h _ => exact ⟨m.cxl.hostReq ++ [(false, h, [])], rfl⟩
  · exact ⟨m.cxl.hostReq, rfl⟩

theorem dmaFenceDone_idle {m : Mach} {n : Nat} (h : 32 ≤ n ∨ (m.ch n).state ≠ 2 ∨ (m.ch n).fence = false) : m.dmaFenceDone n = m :=
  if_neg fun ⟨hn, hs, hf⟩ => by
    rcases h with h | h | h
    · exact Nat.not_lt.2 h hn
    · exact h hs
    · exact Bool.false_ne_true (h.symm.trans hf)

theorem dmaFenceDone_waits {m w k : Mach} {n : Nat} (hn : n < 32) (hs : (m.ch n).state = 2) (hf : (m.ch n).fence = true)
    (hw : w = m.setCh n (fun c => { c with readBack := [] })) (hk : k = (w.markBad n 0x82).setCh n (fun c => { c with failed := false })) :
    m.dmaFenceDone n = if (m.ch n).failed then (k.wr (.dmChErr n) (k.rd (.dmChErr n) &&& 0x00FFFFFF)).writeBack n 0x82 else w.writeBack n 0x02 := by
  subst hk hw
  exact if_pos ⟨hn, hs, hf⟩

/-! ## The write-back -/

/-- The channel once the write-back `status` has landed in `w` (R465). -/
def Mach.wroteBack (m w : Mach) (n status : Nat) : Mach :=
  (if bit (wordAt (m.ch n).desc 0) 6 then
      (if n < 16 then (if status < 0x80 then w.bump (.dmChDone n) 31 0 1 else w).msix (8 + n)
        else (if status < 0x80 then w.bump (.dmChDone n) 31 0 1 else w).fwSignal (16 + n))
    else (if status < 0x80 then w.bump (.dmChDone n) 31 0 1 else w)).setCh n (fun c => { c with
      desc := []
      lastStatus := status
      bad := 0
      fence := false
      next := descNext (m.ch n).desc
      state := if descNext (m.ch n).desc = 0 then 1 else 2 })

/-- What the write of a status to `a` gives: registers other than the mailbox refuse it. -/
def Mach.statusWrite (m : Mach) (n a status : Nat) : Mach × Bool :=
  if a < regSize ∧ !(decide (mailBase ≤ a)) then (m, false)
  else if a < regSize then (m.setByte a (BitVec.ofNat 8 status), true)
  else m.dmaWrite n a [BitVec.ofNat 8 status]

theorem writeBack_eq (m : Mach) (n status : Nat) : m.writeBack n status = match m.judge (chClass n) ((m.ch n).cur + 3) 1 true with
    | .undecoded => m.haltChannel n 3
    | .denied => (m.deny (chClass n) ((m.ch n).cur + 3) true false).haltChannel n 3
    | .ok => if !(m.statusWrite n ((m.ch n).cur + 3) status).2 then (m.statusWrite n ((m.ch n).cur + 3) status).1.haltChannel n 3
      else m.wroteBack (m.statusWrite n ((m.ch n).cur + 3) status).1 n status := rfl

theorem statusWrite_registers {m : Mach} (n : Nat) {a : Nat} (status : Nat) (h : a < mailBase) : m.statusWrite n a status = (m, false) :=
  if_pos ⟨Nat.lt_trans h (by decide), by simpa using h⟩

theorem statusWrite_mailbox {m : Mach} (n : Nat) {a : Nat} (status : Nat) (h : mailBase ≤ a) (hr : a < regSize) :
    m.statusWrite n a status = (m.setByte a (BitVec.ofNat 8 status), true) := (if_neg (by simp [h])).trans (if_pos hr)

theorem statusWrite_memory {m : Mach} (n : Nat) {a : Nat} (status : Nat) (h : regSize ≤ a) :
    m.statusWrite n a status = m.dmaWrite n a [BitVec.ofNat 8 status] :=
  (if_neg fun hn => Nat.not_lt.2 h hn.1).trans (if_neg (Nat.not_lt.2 h))

/-- Settles O57: the fetch, the beats, the line's write, the ends and the write-back by the equations of their functions above. -/
theorem dmaDescriptorsMoveAndEnd : Obligations.DmaDescriptorsMoveAndEnd := by
  unfold Obligations.DmaDescriptorsMoveAndEnd
  refine ⟨fun m n d h => .of_on (exec_dmaDescriptorFetch n d) (dmaFetch_idle d ?_),
    fun m n d hn hs hd hl => .of_on (exec_dmaDescriptorFetch n d) (dmaFetch_limit d ⟨hn, hs, hd⟩ hl), fun m n d k hn hs hd hl hk => ?_,
    fun m d b h => .of_on (exec_dmaBurst d b) (dmaBurst_none d b h), fun m d n b w k hp hw hk => ?_,
    fun m d n f => ⟨rfl, fun h => beats_over f d h, fun x w r hb hp hx => (beats_goes f hb hp hx).trans (by cases x <;> rfl)⟩, ?_, ?_, ?_, fun m n => ⟨fun h => ?_, fun h hs hf => ?_, fun h hs => ?_⟩,
    fun m n => ⟨fun h => .of_on (exec_dmaLateWriteError n) (if_pos h), fun h => .of_on (exec_dmaLateWriteError n) (if_neg (Nat.not_lt.2 h))⟩,
    fun m n h => .of_on (exec_dmaDescriptorDone n) (dmaDone_idle ?_), fun m n hn hs hd hl hf => ?_,
    fun m n h => .of_on (exec_dmaFenceDone n) (dmaFenceDone_idle h), fun m n w k hn hs hf hw hk => ⟨fun hb => ?_, fun hb => ?_⟩, ?_, ?_⟩
  · rintro ⟨hn, hs, hd⟩
    exact h.elim (Nat.not_le.2 hn) fun h => h.elim (· hs) (· hd)
  · have hfetch := dmaFetch_judged d ⟨hn, hs, hd⟩ hl hk
    refine ⟨fun hj => ?_, fun hj => ?_, fun hj hst => ?_, fun hj hst => ⟨_, _, _, rfl, rfl, rfl, fun h0 => ?_, fun h0 => ?_⟩⟩ <;>
      refine .of_on (exec_dmaDescriptorFetch n d) ?_ <;> rw [hfetch, hj]
    · exact if_pos hst
    · exact (if_neg (not_not.2 hst)).trans (if_neg (not_not.2 h0))
    · exact (if_neg (not_not.2 hst)).trans (if_pos h0)
  · have hstart : k = if (m.ch n).inBurst = true then m else m.startBurst n := by
      rw [hk]
      split
      · rfl
      · next hnot => rw [hw, if_neg hnot]; rfl
    exact ⟨.of_on (exec_dmaBurst d _) (dmaBurst_picked d ⟨true, b⟩ hp hstart), .of_on (exec_dmaBurst d _) (dmaBurst_picked d ⟨false, b⟩ hp hstart)⟩
  · rintro m d n k c io rfl h hk hio
    have hread := readBeat_piece h hk hio
    exact ⟨fun hst => hread.trans (if_pos hst), fun hst => hread.trans (if_neg (not_not.2 hst))⟩
  · rintro m d n k c w rfl h hk hline hw
    have hwrite := writeBeat_piece d h hk hline hw
    exact ⟨fun hfull => hwrite.trans (if_pos hfull), fun hmod hleft => hwrite.trans (if_neg fun hfull => hfull.elim hmod hleft)⟩
  · rintro m n c bs w rfl hw hb ho
    have hflush := flushLine_writes hw hb ho
    exact ⟨fun hok => hflush.trans (if_pos hok), fun hok => hflush.trans (if_neg (by rw [hok]; exact Bool.false_ne_true))⟩
  · exact .of_on (exec_dmaTargetTimeout n) (if_pos h)
  · exact .of_on (exec_dmaTargetTimeout n) ((dmaTimeout_still h).trans (if_pos (by rw [hs, hf]; rfl)))
  · exact .of_on (exec_dmaTargetTimeout n) ((dmaTimeout_still h).trans (if_neg (by rcases hs with hs | hs <;> simp [hs])))
  · rintro ⟨hn, hs, hd, hl, hf⟩
    rcases h with h | h | h | h | h
    · exact Nat.not_lt.2 h hn
    · exact h hs
    · exact hd h
    · exact h hl
    · rw [h] at hf; exact Bool.noConfusion hf
  · have hend := dmaDone_ends ⟨hn, hs, hd, hl, by rw [hf]; rfl⟩
    refine ⟨fun hb => ?_, fun hb hover => ?_, fun hb hover hbit => ?_, fun hb hover hbit => ?_⟩
    · exact .of_on (exec_dmaDescriptorDone n) (hend.trans (if_pos hb))
    · exact .of_on (exec_dmaDescriptorDone n) (hend.trans ((if_neg (not_not.2 hb)).trans (if_pos hover)))
    · obtain ⟨r, hr⟩ := startFence_eq m n
      have hch := ch_setCh m n (fun c => { c with
        fence := true, readBack := (m.ch n).hostLast.toList ++ (m.ch n).peerLast.map Prod.snd }) (ch_inside hs)
      refine ⟨_, .of_on (exec_dmaDescriptorDone n) (hend.trans ((if_neg (not_not.2 hb)).trans
        ((if_neg (by rw [hover]; exact Bool.false_ne_true)).trans ((if_pos hbit).trans hr)))), ?_, ?_, rfl, rfl⟩
      · exact congrArg DmaCh.fence hch
      · exact congrArg DmaCh.readBack hch
    · exact .of_on (exec_dmaDescriptorDone n) (hend.trans ((if_neg (not_not.2 hb)).trans
        ((if_neg (by rw [hover]; exact Bool.false_ne_true)).trans (if_neg (by rw [hbit]; exact Bool.false_ne_true)))))
  · exact .of_on (exec_dmaFenceDone n) ((dmaFenceDone_waits hn hs hf hw hk).trans (if_neg (by rw [hb]; exact Bool.false_ne_true)))
  · exact .of_on (exec_dmaFenceDone n) ((dmaFenceDone_waits hn hs hf hw hk).trans (if_pos hb))
  · rintro m n st a rfl
    refine ⟨fun hj => ?_, fun hj => ?_, fun hj ha => ?_, fun hj ha hw => ?_⟩ <;> rw [writeBack_eq, hj]
    · rw [statusWrite_registers n st ha]; rfl
    · rw [statusWrite_memory n st ha]; exact if_pos (by rw [hw]; rfl)
  · rintro m n st a w v x rfl hj hland rfl rfl
    have hwrite : m.statusWrite n ((m.ch n).cur + 3) st = (w, true) := by
      rcases hland with ⟨hlo, hhi, rfl⟩ | ⟨hge, hw⟩
      · exact statusWrite_mailbox n st hlo hhi
      · exact (statusWrite_memory n st hge).trans hw
    rw [writeBack_eq, hj]
    dsimp only
    rw [hwrite]
    rfl

end Sys2Proof.Machine
end

section
/-! PROOFS. The anvil: issue, parking, restoring, digests and lost tiles (chapters 7 and 8). -/

namespace Sys2Proof.Machine

/-! ## Which job issues -/

theorem anvilFree_running {m : Mach} {j : Job} (level : Nat) (h : m.runningJob = some j) : m.anvilFree level = false := by
  unfold Mach.anvilFree
  rw [h, Option.isNone_some, Bool.and_false, Bool.false_and]

theorem anvilIssue_step {m : Mach} (h1 : m.levelOne = true) (h2 : m.anvilFree 1 = true) : m.anvilIssue = m.stepForward := if_pos (by rw [h1, h2]; rfl)

theorem anvilIssue_bundle {m : Mach} (h : m.levelOne = false ∨ m.anvilFree 1 = false) : m.anvilIssue = m.issueBundle :=
  if_neg (by rcases h with h | h <;> simp [h])

theorem issueBundle_running {m : Mach} {j : Job} (h : m.runningJob = some j) : m.issueBundle = if m.mayIssue j then m.runBundle j else m := by
  unfold Mach.issueBundle; rw [h]

theorem issueBundle_idle {m : Mach} (h : m.runningJob = none) (hn : m.nextUp = none) : m.issueBundle = m := by
  unfold Mach.issueBundle; rw [h, hn]

theorem issueBundle_next {m : Mach} {j : Job} (h : m.runningJob = none) (hn : m.nextUp = some j) :
    m.issueBundle = if decide (j.phase = .queued) && !j.saved && m.mayIssue j then m.runBundle j else m := by
  unfold Mach.issueBundle; rw [h, hn]

theorem anvilIssue_of_running {m : Mach} {j : Job} (h : m.runningJob = some j) : m.anvilIssue = if m.mayIssue j then m.runBundle j else m :=
  (anvilIssue_bundle (.inr (anvilFree_running 1 h))).trans (issueBundle_running h)

/-- The job `j` issues its bundle: it runs and may, or is the next in line and may begin. -/
def Mach.issues (m : Mach) (j : Job) : Prop :=
  m.runningJob = some j ∨ (m.runningJob = none ∧ (m.levelOne = false ∨ m.anvilFree 1 = false) ∧ m.nextUp = some j ∧ j.phase = .queued ∧ j.saved = false)

theorem anvilIssue_runs {m : Mach} {j : Job} (h : m.issues j) (hm : m.mayIssue j = true) : m.anvilIssue = m.runBundle j := by
  rcases h with h | ⟨h, hl, hn, hq, hs⟩
  · exact (anvilIssue_of_running h).trans (if_pos hm)
  · exact (anvilIssue_bundle hl).trans ((issueBundle_next h hn).trans (if_pos (by rw [hq, hs, hm]; rfl)))

/-! ## A bundle -/

/-- The module once the resumption of the job's operation is noted. -/
def Mach.awake (m : Mach) (j : Job) : Mach := match j.op with | some o => m.noteResumed o | none => m

/-- The job as it issues: begun, or running again. -/
def Mach.begun (m : Mach) (j : Job) : Job := if j.issued then { j with phase := .running } else m.beginJob j

/-- The boundary that the bundle `ws` of `r` reaches, as its slots (`one`) and its later parts (`full`) tell. -/
def Mach.bundleReached (k : Mach) (r : Job) (ws : List Word) (start : Bool)
    (one : Except (Nat × Nat × Nat) (Bx × Option (Flow × List DWord))) (full : Except (Nat × Nat × Nat) Bx) : Mach :=
  match one, full with
  | .error (st, slot, op), _ => (k.slotPoison r ws st slot).stopAtBundle r st slot op
  | .ok (_, none), .error (st, slot, op) => (k.slotPoison r ws st slot).stopAtBundle r st slot op
  | .ok (y, done), _ =>
    let z : Mach := if start then { y.m.bundleCycles.2 with anvil.busy := (y.m.bundleCycles.2.anvil.busy + 1) % 2 ^ 64 } else y.m.bundleCycles.2
    let d : Job := { y.j with ordDone := y.j.ordDone + (if start then 1 else 0), cycles := y.j.cycles + y.m.bundleCycles.1 }
    match done with
    | none => z.setJob r.id (fun _ => d)
    | some (flow, hs) => z.bundleEnd d flow hs ws

theorem runBundle_of {m w k : Mach} {j r : Job} {x : Bx} {ws : List Word} (hw : w = m.awake j) (hr : r = w.begun j) (hk : k = w.setJob j.id (fun _ => r))
    (hx : x = { m := k, j := r, t := k.tilesNow, lines := [] }) (hws : ws = k.words (j.prog + 64 * j.pc) 16) : m.runBundle j =
      if j.progLen ≤ j.pc then k.stopJob j.id ⟨stAnvIllegal, j.pc, 0, 0⟩
      else if (!j.issued && k.poisonIn j.descTable (64 * j.descCount)) || k.poisonIn (j.prog + 64 * j.pc) 64 then
        (k.checkReads ((if !j.issued then [(j.descTable, 64 * j.descCount)] else []) ++ [(j.prog + 64 * j.pc, 64)])).stopAtBundle r stMemPoison 0 0
      else k.bundleReached r ws j.seq.isNone (x.bundle ws) (if j.seq.isNone then x.whole ws partsMax else .ok x) := by
  subst hws hx hk hr hw
  unfold Mach.runBundle Mach.begun Mach.awake
  cases j.issued <;> rfl

theorem begun_id (m : Mach) (j : Job) : (m.begun j).id = j.id := by unfold Mach.begun; split <;> rfl

section
variable {k : Mach} {r : Job} {ws : List Word} {start : Bool} {one : Except (Nat × Nat × Nat) (Bx × Option (Flow × List DWord))}
  {full : Except (Nat × Nat × Nat) Bx} {y : Bx}

theorem bundleReached_error {st slot op : Nat} (h : one = .error (st, slot, op)) :
    k.bundleReached r ws start one full = (k.slotPoison r ws st slot).stopAtBundle r st slot op := by
  subst h; rfl

theorem bundleReached_laterError {st slot op : Nat} (h : one = .ok (y, none)) (hf : full = .error (st, slot, op)) :
    k.bundleReached r ws start one full = (k.slotPoison r ws st slot).stopAtBundle r st slot op := by
  subst h hf; rfl

/-- Past a boundary: the cycles it took and, at a bundle's first one, the busy count. -/
def Bx.past (y : Bx) (start : Bool) : Mach :=
  if start then { y.m.bundleCycles.2 with anvil.busy := (y.m.bundleCycles.2.anvil.busy + 1) % 2 ^ 64 } else y.m.bundleCycles.2

/-- The job past a boundary. -/
def Bx.pastJob (y : Bx) (start : Bool) : Job :=
  { y.j with ordDone := y.j.ordDone + (if start then 1 else 0), cycles := y.j.cycles + y.m.bundleCycles.1 }

theorem bundleReached_part (h : one = .ok (y, none)) {u : Bx} (hf : full = .ok u) :
    k.bundleReached r ws start one full = (y.past start).setJob r.id (fun _ => y.pastJob start) := by
  subst h hf; rfl

theorem bundleReached_end {fl : Flow} {hs : List DWord} (h : one = .ok (y, some (fl, hs))) :
    k.bundleReached r ws start one full = (y.past start).bundleEnd (y.pastJob start) fl hs ws := by
  subst h
  cases full <;> rfl

end

/-- The module at a bundle's end: the job moved on, and its digest compared where a session compares it. -/
def Mach.digested (z : Mach) (f : Job) (hs : List DWord) (ws : List Word) : Mach :=
  let p := z.setJob f.id (fun _ => f)
  if p.anvil.lock.state = .running ∧ p.anvil.lock.job = some f.id then
    ({ p with anvil.lock.digest := some (lockDigest f.ordDone f hs ws) } : Mach).lockCompare
  else p

section
variable {z q : Mach} {d f : Job} {fl : Flow} {hs : List DWord} {ws : List Word} (hf : f = d.flow fl) (hq : q = z.digested f hs ws)
include hf hq

theorem bundleEnd_eq : z.bundleEnd d fl hs ws = match (generalizing := false) fl with
    | .halt => q.stopJob f.id ⟨stOk, f.pc, 0, 0⟩
    | _ => match (generalizing := false) f.op.bind q.opById with
      | some o => if f.stopOrd = some f.ordDone ∧ !f.stopped ∧ o.rt.tag ≠ 0 then
          (q.setJob f.id (fun j => { j with stopped := true })).setOp o.id .suspending else q
      | none => q := by
  subst hq hf
  unfold Mach.bundleEnd Mach.digested
  simp only [Bool.and_eq_true, decide_eq_true_eq, beq_iff_eq] <;> cases fl <;> rfl

theorem bundleEnd_halt (h : fl = .halt) : z.bundleEnd d fl hs ws = q.stopJob f.id ⟨stOk, f.pc, 0, 0⟩ := by
  rw [bundleEnd_eq hf hq]
  subst h
  rfl

/-- Every flow but HALT leaves the job running unless it is to stop at this ordinal. -/
theorem bundleEnd_goes (h : fl ≠ .halt) : z.bundleEnd d fl hs ws = (match (generalizing := false) f.op.bind q.opById with
    | some o => if f.stopOrd = some f.ordDone ∧ !f.stopped ∧ o.rt.tag ≠ 0 then
        (q.setJob f.id (fun j => { j with stopped := true })).setOp o.id .suspending else q
    | none => q) := by
  rw [bundleEnd_eq hf hq]
  cases fl
  case halt => exact absurd rfl h
  all_goals rfl

theorem bundleEnd_on (h : fl ≠ .halt)
    (ho : ∀ o, f.op.bind q.opById = some o → f.stopOrd ≠ some f.ordDone ∨ f.stopped = true ∨ o.rt.tag = 0) : z.bundleEnd d fl hs ws = q := by
  rw [bundleEnd_goes hf hq h]
  split
  · next o hop =>
    refine if_neg fun hc => ?_
    obtain ⟨hord, hstop, htag⟩ := hc
    rcases ho o hop with h | h | h
    · exact h hord
    · rw [h] at hstop; exact Bool.noConfusion hstop
    · exact htag h
  · rfl

theorem bundleEnd_stops (h : fl ≠ .halt) {o : Op} (hop : f.op.bind q.opById = some o) (hord : f.stopOrd = some f.ordDone) (hstop : f.stopped = false)
    (htag : o.rt.tag ≠ 0) : z.bundleEnd d fl hs ws = (q.setJob f.id (fun j => { j with stopped := true })).setOp o.id .suspending := by
  rw [bundleEnd_goes hf hq h, hop]
  exact if_pos ⟨hord, by rw [hstop]; rfl, htag⟩

end

/-! ## Parking and restoring -/

theorem preempt_none {m : Mach} (h : m.runningJob = none) : m.preempt = m := by unfold Mach.preempt; rw [h]

theorem preempt_running {m : Mach} {j : Job} (h : m.runningJob = some j) : m.preempt =
    if m.lowerWork j.level then (m.parkJob j).bump .avPreemptCnt 31 0 1 else if !m.levelOn j.level then m.parkJob j else m := by
  unfold Mach.preempt; rw [h]

theorem restoreNext_idle {m : Mach} (h : m.runningJob.isSome = true ∨ m.nextUp = none ∨ m.anvilOn = false) : m.restoreNext = m := by
  unfold Mach.restoreNext
  split
  · next j hr hn => exact if_neg (by rcases h with h | h | h <;> simp_all)
  · rfl

theorem restoreNext_due {m : Mach} {j : Job} (hr : m.runningJob = none) (hn : m.nextUp = some j) (ho : m.anvilOn = true) :
    m.restoreNext = m.restoreJob j := by
  unfold Mach.restoreNext
  rw [hr, hn]
  exact if_pos ho

theorem restoreJob_unsaved {m : Mach} {j : Job} (h : j.saved = false) : m.restoreJob j = m := if_pos (by rw [h]; rfl)

/-- The saved job runs again; `non` says whether another T makes it non-reproducible. -/
def Mach.restored (m : Mach) (j : Job) (non : Bool) : Mach :=
  m.setJob j.id (fun i => { i with phase := .running, saved := false, nonrepro := i.nonrepro || non })

/-- A job under another T owes its notification, and withdraws the promise of its session (R246, R315). -/
def Mach.promiseBroken (w : Mach) (j : Job) (inSession : Bool) : Mach :=
  let v : Mach := if inSession then { w.endSession stLsMismatch with anvil.lock.sent := some (.jobEnd stResumedNonrepro j.ordDone) } else w
  { v with ops := v.ops.map (fun o => if some o.id == j.op && o.rt.tag != 0 then { o with resumeNote := some stResumedNonrepro } else o) }

theorem promiseBroken_session (w : Mach) (j : Job) : (w.promiseBroken j true).anvil.lock.state = .ended ∧
    (w.promiseBroken j true).anvil.lock.result = stLsMismatch ∧
    (w.promiseBroken j true).anvil.lock.sent = some (.jobEnd stResumedNonrepro j.ordDone) ∧ (w.promiseBroken j true).anvil.jobs = w.anvil.jobs ∧
    (w.promiseBroken j true).regs = w.regs ∧ (w.promiseBroken j true).mem = w.mem := ⟨rfl, rfl, rfl, rfl, rfl, rfl⟩

section
variable {m : Mach} {j : Job} (hs : j.saved = true)
include hs

theorem restoreJob_poisoned (hp : m.poisonIn j.save saveSize = true) :
    m.restoreJob j = (m.checkRead j.save saveSize).stopAtBundle j stMemPoison 0 0 := (if_neg (by rw [hs]; decide)).trans (if_pos hp)

theorem restoreJob_changed (hp : m.poisonIn j.save saveSize = false) (hc : m.word (j.save + saveCrcAt) ≠ crc32 (m.saveRest j.save)) :
    m.restoreJob j = m.stopJob j.id ⟨stSaveCorrupt, j.pc, 0, 0⟩ :=
  (if_neg (by rw [hs]; decide)).trans ((if_neg (by rw [hp]; exact Bool.false_ne_true)).trans (if_pos (bne_iff_ne.2 hc)))

theorem restoreJob_intact (hp : m.poisonIn j.save saveSize = false) (hc : m.word (j.save + saveCrcAt) = crc32 (m.saveRest j.save)) {non : Bool}
    (hn : non = (!j.repro && decide (j.tSave ≠ m.tilesNow))) :
    m.restoreJob j = if non then (m.restored j non).promiseBroken j (non && (m.restored j non).inSession j) else m.restored j non := by
  subst hn
  refine (if_neg (by rw [hs]; decide)).trans ((if_neg (by rw [hp]; exact Bool.false_ne_true)).trans ((if_neg (by rw [hc]; simp)).trans ?_))
  cases hn : (!j.repro && decide (j.tSave ≠ m.tilesNow)) <;> rfl

end

/-! ## Digests and lost tiles -/

theorem digestDone_none {m : Mach} (h : ∀ j, j ∈ m.anvil.jobs → j.phase ≠ .hashing) : m.digestDone = m := by
  have hf : m.anvil.jobs.find? (fun j => decide (j.phase = .hashing)) = none := List.find?_eq_none.2 fun j hj => by simpa using h j hj
  unfold Mach.digestDone; rw [hf]

theorem digestDone_first {m : Mach} {j : Job} {js : List Job} {ds : List (List Word)} {msg : List Byte} (h : m.anvil.jobs = j :: js)
    (hp : j.phase = .hashing) (hds : ds = (List.range j.descCount).map (fun d => m.words (j.descTable + 64 * d) 16))
    (hmsg : msg = m.digestHead j ++ j.included.flatMap (m.packedTensor ds j.bases)) : m.digestDone =
      if m.digestPoison j ds then
        (((m.checkReads (m.digestReads j ds)).setJob j.id (fun j => { j with flags := j.flags ||| fPoison })).orReg .avArithStat fPoison).stopJob j.id
          ⟨stMemPoison, 0, 0, 0⟩
      else m.setJob j.id (fun j => { j with phase := .queued, digest := some (sha3_256 msg, msg.length) }) := by
  have hf : m.anvil.jobs.find? (fun j => decide (j.phase = .hashing)) = some j := by rw [h, List.find?_cons_of_pos (by simp [hp])]
  subst hmsg hds
  unfold Mach.digestDone; rw [hf]

theorem tileFault_absent {m : Mach} {t : Nat} (p : Bool) (h : 64 ≤ t ∨ m.tilesIn.testBit t = false) : m.tileFault t p = m :=
  if_pos (h.imp id fun h => by rw [h]; rfl)

theorem tileFault_present {m w : Mach} {t : Nat} (p : Bool) (ht : t < 64) (hb : m.tilesIn.testBit t = true)
    (hw : w = (if t < 32 then (m.wr .avTileMapLo (clearBit (m.rd .avTileMapLo) (t % 32))).wr .avTileFailLo (setBit (m.rd .avTileFailLo) (t % 32)) else
      (m.wr .avTileMapHi (clearBit (m.rd .avTileMapHi) (t % 32))).wr .avTileFailHi (setBit (m.rd .avTileFailHi) (t % 32)))) : m.tileFault t p =
    { (w.raise (srcTile t) .severe (flag p 0)).stopAll stTileLost m.tilesNow (fun j => decide (j.phase = .running)) with
      anvil.jobs := ((w.raise (srcTile t) .severe (flag p 0)).stopAll stTileLost m.tilesNow (fun j => decide (j.phase = .running))).anvil.jobs.map
        (fun j => if decide (j.kind = .forecast) && (decide (j.phase = .running) || decide (j.phase = .parked)) then j.restart else j) } := by
  subst hw
  refine (if_neg (by rw [hb]; simpa using ht)).trans ?_
  by_cases hlt : t < 32
  · simp only [if_pos hlt]
  · simp only [if_neg hlt]

/-- What an issuing job's bundle comes to (R220 to R222), with the names that the statement gives its parts. -/
theorem bundle_issues {m w k : Mach} {j r : Job} {x : Bx} (hi : m.issues j) (hm : m.mayIssue j = true) (hw : w = m.awake j) (hr : r = w.begun j)
    (hk : k = w.setJob j.id (fun _ => r)) (hx : x = { m := k, j := r, t := k.tilesNow, lines := [] }) : m.anvilIssue =
      if j.progLen ≤ j.pc then k.stopJob j.id ⟨stAnvIllegal, j.pc, 0, 0⟩
      else if (!j.issued && k.poisonIn j.descTable (64 * j.descCount)) || k.poisonIn (j.prog + 64 * j.pc) 64 then
        (k.checkReads ((if !j.issued then [(j.descTable, 64 * j.descCount)] else []) ++ [(j.prog + 64 * j.pc, 64)])).stopAtBundle r stMemPoison 0 0
      else k.bundleReached r (k.words (j.prog + 64 * j.pc) 16) j.seq.isNone (x.bundle (k.words (j.prog + 64 * j.pc) 16))
        (if j.seq.isNone then x.whole (k.words (j.prog + 64 * j.pc) 16) partsMax else .ok x) :=
  (anvilIssue_runs hi hm).trans (runBundle_of hw hr hk hx rfl)

/-- Settles O52: issue by the boundary that the bundle reaches, the other rows by the equations of their functions above. -/
theorem theAnvilIssuesParksAndRestores : Obligations.TheAnvilIssuesParksAndRestores := by
  unfold Obligations.TheAnvilIssuesParksAndRestores
  refine ⟨fun m h1 h2 => .of_on exec_anvilBundleIssue (anvilIssue_step h1 h2),
    fun m h hr hn => .of_on exec_anvilBundleIssue ((anvilIssue_bundle h).trans (issueBundle_idle hr hn)), fun m j h hr hn hj => ?_,
    fun m j hr hm => .of_on exec_anvilBundleIssue ((anvilIssue_of_running hr).trans (if_neg (by rw [hm]; exact Bool.false_ne_true))),
    fun m j hi hm => ?_, fun m h => .of_on exec_anvilPreempt (preempt_none h), fun m j p hr hp => ?_,
    fun m h => .of_on exec_anvilRestore (restoreNext_idle h), fun m j hr hn ho => ?_, fun m h => .of_on exec_digestHashDone (digestDone_none h),
    fun m j js ds msg h hp hds hmsg => ⟨fun hd => ?_, fun hd => ?_⟩, fun m t p h => .of_on (exec_tileFault t p) (tileFault_absent p h),
    fun m t p ht hb => ⟨_, _, rfl, rfl, .of_on (exec_tileFault t p) (tileFault_present p ht hb rfl)⟩⟩
  · refine .of_on exec_anvilBundleIssue ((anvilIssue_bundle h).trans ((issueBundle_next hr hn).trans (if_neg ?_)))
    rcases hj with hj | hj | hj <;> simp [hj]
  · obtain ⟨w, hw⟩ : ∃ w, w = m.awake j := ⟨_, rfl⟩
    obtain ⟨r, hr⟩ : ∃ r, r = w.begun j := ⟨_, rfl⟩
    obtain ⟨k, hk⟩ : ∃ k, k = w.setJob j.id (fun _ => r) := ⟨_, rfl⟩
    obtain ⟨x, hx⟩ : ∃ x : Bx, x = { m := k, j := r, t := k.tilesNow, lines := [] } := ⟨_, rfl⟩
    have hbundle := bundle_issues hi hm hw hr hk hx
    have hid : r.id = j.id := hr ▸ begun_id w j
    refine ⟨w, k, r, x, hw, hr, hk, hx, fun hpc => .of_on exec_anvilBundleIssue (hbundle.trans (if_pos hpc)), fun hpc hp => ?_, fun hpc hd hp => ?_⟩
    · refine .of_on exec_anvilBundleIssue (hbundle.trans ((if_neg (Nat.not_le.2 hpc)).trans ((if_pos ?_).trans ?_)))
      · rcases hp with ⟨hfresh, hp⟩ | hp
        · rw [hfresh, hp]; rfl
        · rw [hp, Bool.or_true]
      · cases j.issued <;> rfl
    · have hgo : ¬ ((!j.issued && k.poisonIn j.descTable (64 * j.descCount)) || k.poisonIn (j.prog + 64 * j.pc) 64) = true := by
        rcases hd with hd | hd <;> simp [hd, hp]
      have hreach := hbundle.trans ((if_neg (Nat.not_le.2 hpc)).trans (if_neg hgo))
      refine ⟨fun st slot op he => .of_on exec_anvilBundleIssue (hreach.trans (bundleReached_error he)),
        fun y st slot op hy hseq he => .of_on exec_anvilBundleIssue (hreach.trans (bundleReached_laterError hy ?_)), ?_⟩
      · rw [hseq]; exact he
      · rintro y n v z d rfl rfl hz hd
        have hzp : z = y.past j.seq.isNone := by rw [hz]; cases j.seq <;> rfl
        have hdp : d = y.pastJob j.seq.isNone := by rw [hd]; cases j.seq <;> rfl
        refine ⟨fun hy hu => ?_, fun fl hs hy => ⟨_, _, _, rfl, rfl, rfl, fun hfl => ?_, fun hfl ho => ?_, fun o hfl hop hord hstop htag => ?_⟩⟩ <;>
          refine .of_on exec_anvilBundleIssue (hreach.trans ?_)
        · obtain ⟨u, hu⟩ : ∃ u, (if j.seq.isNone then x.whole (k.words (j.prog + 64 * j.pc) 16) partsMax else .ok x) = .ok u := by
            cases hseq : j.seq with
            | none => exact hu hseq
            | some q => exact ⟨x, rfl⟩
          rw [bundleReached_part hy hu, hzp, hdp, hid]
        all_goals rw [bundleReached_end hy, ← hzp, ← hdp]
        · exact bundleEnd_halt rfl rfl hfl
        · exact bundleEnd_on rfl rfl hfl ho
        · exact bundleEnd_stops rfl rfl hfl hop hord hstop htag
  · have hpre := preempt_running hr
    subst hp
    exact ⟨fun hl => .of_on exec_anvilPreempt (hpre.trans (if_pos hl)),
      fun hl ho => .of_on exec_anvilPreempt (hpre.trans ((if_neg (by rw [hl]; exact Bool.false_ne_true)).trans (if_pos (by rw [ho]; rfl)))),
      fun hl ho => .of_on exec_anvilPreempt (hpre.trans ((if_neg (by rw [hl]; exact Bool.false_ne_true)).trans (if_neg (by rw [ho]; decide))))⟩
  · have hdue := restoreNext_due hr hn ho
    refine ⟨fun hs => .of_on exec_anvilRestore (hdue.trans (restoreJob_unsaved hs)),
      fun hs => ⟨fun hp => .of_on exec_anvilRestore (hdue.trans (restoreJob_poisoned hs hp)),
        fun hp hc => .of_on exec_anvilRestore (hdue.trans (restoreJob_changed hs hp hc)), fun hp hc => ?_⟩⟩
    have hint := hdue.trans (restoreJob_intact hs hp hc rfl)
    have hbne : (j.tSave != m.tilesNow) = decide (j.tSave ≠ m.tilesNow) := by rw [Bool.eq_iff_iff]; simp
    refine ⟨m.restored j (!j.repro && decide (j.tSave ≠ m.tilesNow)), by rw [← hbne]; rfl, fun hsame => ?_, fun hrep ht hlock => ?_, fun hrep ht hin => ?_⟩
    · exact .of_on exec_anvilRestore (hint.trans (if_neg (by rcases hsame with h | h <;> simp [h])))
    · have hnon : (!j.repro && decide (j.tSave ≠ m.tilesNow)) = true := by simp [hrep, ht]
      have hout : m.inSession j = false := by unfold Mach.inSession; simp [hlock]
      refine .of_on exec_anvilRestore (hint.trans ((if_pos hnon).trans ?_))
      have hout' : (m.restored j true).inSession j = false := hout
      rw [hnon, hout']
      rfl
    · have hnon : (!j.repro && decide (j.tSave ≠ m.tilesNow)) = true := by simp [hrep, ht]
      have hin' : (m.restored j true).inSession j = true := hin
      rw [hnon, hin', Bool.and_true, if_pos rfl] at hint
      rw [hnon]
      exact ⟨_, .of_on exec_anvilRestore hint, promiseBroken_session (m.restored j true) j⟩
  · exact .of_on exec_digestHashDone ((digestDone_first h hp hds hmsg).trans (if_neg (by rw [hd]; exact Bool.false_ne_true)))
  · exact .of_on exec_digestHashDone ((digestDone_first h hp hds hmsg).trans (if_pos hd))

end Sys2Proof.Machine
end

section
/-! PROOFS. The commands of the clock, the links, the engines and the outside world (O3): what each leaves behind. -/

namespace Sys2Proof.Machine

/-! ## An effect outside the register file and memory -/

/-- What every command ends with touches the register file and memory alone, so an effect that speaks of neither stands. -/
theorem settle_only (m n : Mach) : settle m n = { n with regs := (settle m n).regs, mem := (settle m n).mem } := by unfold settle; split <;> rfl

theorem Gives.shows {c : Instr} {m n : Mach} {p : Mach → Prop} (h : Gives c m n)
    (e : ∀ rs ms, p { n with regs := rs, mem := ms }) : Completes c m p :=
  h.completes (by rw [settle_only]; exact e _ _)

theorem Completes.of_eq {c : Instr} {m n : Mach} {p : Mach → Prop} {f : Mach → Mach} (h : ∀ s, exec c s = s.on f) (hn : f m = n)
    (e : ∀ rs ms, p { n with regs := rs, mem := ms }) : Completes c m p :=
  (Gives.of_on h hn).shows e

/-! ## POWER_GOOD and bring-up -/

/-- Power, and the straps it read. -/
def Mach.powerRead (m : Mach) : Bool × Nat := (m.time.powered, m.sys.straps)

@[simp] theorem setSlots2_powerRead (m : Mach) (app : Bool) (p : SlotPair) : (m.setSlots2 app p).powerRead = m.powerRead := by
  unfold Mach.setSlots2; split <;> rfl

@[simp] theorem raise_powerRead (m : Mach) (s : Nat) (c : FCls) (d : Word) : (m.raise s c d).powerRead = m.powerRead := by simp [Mach.powerRead]

@[simp] theorem fwRecord_powerRead (m : Mach) (app slot : Bool) (v : Word) (st : Nat) : (m.fwRecord app slot v st).powerRead = m.powerRead := by
  simp [Mach.powerRead, Mach.fwRecord]

@[simp] theorem trialReverts_powerRead (m : Mach) (app : Bool) : (m.trialReverts app).powerRead = m.powerRead := by simp [Mach.trialReverts]

@[simp] theorem bootKind_powerRead (m : Mach) (app takes : Bool) : (m.bootKind app takes).powerRead = m.powerRead := by
  unfold Mach.bootKind
  dsimp only
  split
  · simp [apply_ite Mach.powerRead]
  · simp [apply_ite Mach.powerRead]

theorem applyWord_powerRead (m : Mach) (w : Staged) : (m.applyWord w).powerRead = m.powerRead := by
  unfold Mach.applyWord; split <;> simp [Mach.powerRead]

@[simp] theorem setSt_powerRead (m : Mach) (r : Reg) (v : Word) : (m.setSt r v).powerRead = m.powerRead := applyWord_powerRead m _

@[simp] theorem loadWindows_powerRead (m : Mach) : m.loadWindows.powerRead = m.powerRead := by
  unfold Mach.loadWindows Mach.loadWindow
  dsimp only
  split <;> simp

@[simp] theorem loadInitial_powerRead (m : Mach) : m.loadInitial.powerRead = m.powerRead := by
  unfold Mach.loadInitial
  dsimp only
  generalize BitVec.ofNat 32 _ = en
  split <;> simp

theorem raises_powerRead (d : Nat → Word) (us : List Nat) (m : Mach) :
    (us.foldl (fun k u => k.raise srcKernel .severe (d u)) m).powerRead = m.powerRead := by
  induction us generalizing m with
  | nil => rfl
  | cons u us ih => rw [List.foldl_cons, ih, raise_powerRead]

@[simp] theorem setCaps_powerRead (m : Mach) : m.setCaps.powerRead = m.powerRead :=
  (raises_powerRead _ _ _).trans (loadInitial_powerRead m)

@[simp] theorem startKernel_powerRead (m : Mach) (reset : Bool) : (m.startKernel reset).powerRead = m.powerRead := by
  unfold Mach.startKernel
  dsimp only
  split
  · simp
  · refine (bootKind_powerRead _ true reset).trans ?_
    split
    · exact (setCaps_powerRead _).trans (bootKind_powerRead m false true)
    · exact (raise_powerRead _ _ _ _).trans (bootKind_powerRead m false true)

@[simp] theorem deriveKeys_powerRead (m : Mach) (puf cert : Bool) : (m.deriveKeys puf cert).powerRead = m.powerRead := by
  unfold Mach.deriveKeys
  dsimp only
  split
  · rfl
  · exact raise_powerRead _ _ _ _

@[simp] theorem readStraps_powerRead (m : Mach) : m.readStraps.powerRead = m.powerRead := by
  unfold Mach.readStraps
  dsimp only
  split
  · rfl
  · exact raise_powerRead _ _ _ _

theorem powerUp_powerRead {m : Mach} {p : PowerInputs} (hp : m.time.powered = false) (hl : p.leverLatched = true) (ha : 184 < p.feedA) :
    (m.powerUp p).powerRead = (true, p.straps) := by
  unfold Mach.powerUp
  dsimp only
  rw [if_neg (by simp [hp, hl, ha])]
  simp only [startKernel_powerRead, deriveKeys_powerRead, readStraps_powerRead]
  split <;> rfl

theorem mountRecorder_mounts {m : Mach} (hc : m.sys.capValid = true) (hm : m.ev.mounted = false) (hf : m.ev.mountFailed = false) :
    (m.mountRecorder true).ev.mounted = true ∧ (m.mountRecorder true).ev.powerGoodQueued = true := by
  unfold Mach.mountRecorder
  dsimp only
  rw [if_neg (by simp [hc, hm, hf]), if_neg (by decide)]
  split <;> simp

theorem bringupTimeout_fails {m : Mach} (hc : m.sys.capValid = true) (hl : m.sys.cfgLoaded = false) (ht : 10000 ≤ m.time.upFrames) :
    m.bringupTimeout = { m.loadFails with sys.loadLate := true } := if_pos (by simp [hc, hl, ht])

theorem loadFails_sys (m : Mach) : m.loadFails.sys = { m.sys with cfgLoaded := true, cfgFailed := true } := raise_sys _ _ _ _

theorem saveConfig_due {m : Mach} {k : Nat} (h : m.sys.savePending = some k) (ha : m.id.appRun = true) :
    ∃ ws, m.saveConfig = { m with sys.savePending := none, sys.saved := (⟨k, ws, true⟩ :: m.sys.saved).take 2 } := by
  unfold Mach.saveConfig
  rw [h]
  exact ⟨_, if_neg (by simp [ha])⟩

theorem tileSelfTest_ends {m : Mach} (f : Nat) (hc : m.sys.capValid = true) (ht : m.sys.tiles ≠ 0) (hb : m.anvil.bist = false)
    (hs : m.phys.stopped = false) : (m.tileSelfTest f).anvil.bist = true := by
  unfold Mach.tileSelfTest
  dsimp only
  rw [if_neg (by simp [hc, ht, hb, hs])]

theorem readinessLimit_over {m : Mach} {k l : Nat} (h : readyLimits.find? (fun x => x.1 == k) = some (k, l)) (hp : m.time.powered = true)
    (ho : m.readyOwed k = true) (hr : m.ready k = false) (hd : m.sys.limitDone.testBit k = false) (hl : l ≤ m.sys.readyAge.getD k 0) :
    m.readinessLimit k = { m with sys.limitDone := m.sys.limitDone ||| (1 <<< k) }.raise srcKernel .severe (place k 0) := by
  unfold Mach.readinessLimit
  rw [h]
  exact if_pos (by simp only [hp, ho, hr, hd, hl, Bool.not_false, Bool.and_self, decide_true])

/-! ## Stage links, tests, feeds and supply -/

@[simp] theorem coolantRecord_bel (m : Mach) (s : Nat) : (m.coolantRecord s).bel = m.bel := emit_bel _ _ _ _

theorem linkLoss_links {m : Mach} {i : Nat} (h : (m.link i).lock = true) :
    (m.linkLoss i).eng.links = m.eng.links.modify i (fun l => { l with lock := false, inService := false, goodRun := 0 }) := by
  unfold Mach.linkLoss
  dsimp only
  rw [if_neg (by simp [h])]
  split
  · rfl
  · exact raise_links _ _ _ _

theorem testPhase_moves {m : Mach} (hr : m.eng.test.running = true) (hc : m.eng.test.cause = none) (ht : m.testCauses = [])
    (hp : m.phaseNow ≠ .done) : m.testPhase = { m with eng.test.phase := m.phaseNow } :=
  (testPhase_on hr hc).trans ((if_pos (by simp [ht])).trans (if_neg hp))

theorem judgeFeeds_feedA (m : Mach) : m.judgeFeeds.pair.feedA = m.pair.feedA ∧ m.judgeFeeds.pair.voltA = m.pair.voltA := by
  by_cases h : m.pair.feedA = true ∨ m.pair.feedB = true
  · rw [judgeFeeds_powered h]; exact ⟨rfl, rfl⟩
  · simp only [not_or, Bool.not_eq_true] at h
    rw [judgeFeeds_lost h.1 h.2]
    split <;> exact ⟨rfl, rfl⟩

theorem feedReturn_a_returns {m : Mach} {v : Nat} (hv : 184 < v) (hr : 100 ≤ m.pair.runA) (ha : m.pair.feedA = false) :
    m.feedReturn false v = ({ m with pair.voltA := v, pair.feedA := true }.raise srcFeed .info (flag false 0)).judgeFeeds :=
  if_neg (by simp [ha]; omega)

theorem settle_mem_nil {m n : Mach} (h : n.mem = []) : (settle m n).mem = [] := by
  have hor : (n.orReg .fcStat (flag true 28)).mem = [] := h
  unfold settle
  dsimp only
  split
  · rw [hor]; rfl
  · rw [h]; rfl

theorem holdUpEnd_due {m : Mach} (hp : m.time.powered = true) (hd : m.pair.dying = true) (hf : 10 ≤ m.pair.dyingFrames) :
    m.holdUpEnd = m.flashOnly := if_pos (by simp [hp, hd, hf])

theorem holdUpEnd_shows {m : Mach} (hp : m.time.powered = true) (hd : m.pair.dying = true) (hf : 10 ≤ m.pair.dyingFrames) :
    (settle m m.holdUpEnd).time = TimeSt.reset ∧ (settle m m.holdUpEnd).ev.stored = m.ev.stored ∧ (settle m m.holdUpEnd).mem = [] := by
  rw [holdUpEnd_due hp hd hf, settle_time, settle_ev]
  exact ⟨rfl, rfl, settle_mem_nil rfl⟩

theorem pairLinkUp_pairUp (m : Mach) (h : Bool) (l : PartnerTime) (c : Nat) : (m.pairLinkUp h l c).pair.pairUp = true := by
  unfold Mach.pairLinkUp
  dsimp only
  split
  · rfl
  · split
    · rfl
    · split <;> rfl

/-! ## Peer links, plans and maintenance -/

@[simp] theorem length_bytes (m : Mach) : ∀ (n a : Nat), (m.bytes a n).length = n
  | 0, _ => rfl
  | n + 1, a => congrArg (· + 1) (length_bytes m n (a + 1))

/-- What the check of a plan image and its placing read: the buffer in force, the module's units and names, and the hall's buffers. -/
def Mach.planSide (m : Mach) : Word × SysSt × IdSt × HallSt := (m.rd .plPlanSel, m.sys, m.id, m.hall)

theorem checkRead_planSide (m : Mach) (a len : Nat) : (m.checkRead a len).planSide = m.planSide := by
  refine foldl_keeps Mach.planSide (fun k x => ?_) _ m
  split
  · have hsel : (k.uncorrectable ‹_› x.1 2).rd .plPlanSel = k.rd .plPlanSel :=
      (rd_raiseKind _ _ _ _ _ ⟨by decide, by decide, by decide⟩).trans ((rd_wr_ne _ _ (by decide)).trans (rd_wr_ne k _ (by decide)))
    simp only [Mach.planSide, hsel]
    simp [Mach.uncorrectable, Mach.eccLast]
  · rfl

theorem planLoaded_passes {m : Mach} {a k : Nat} (h : m.hall.loading = some (a, k)) (hp : m.poisonIn a k = false)
    (hc : m.planCheck (m.bytes a k) = 0) : m.planLoaded.hall.bufState = 2 ∧
      m.planLoaded.hall.bufs = m.hall.bufs.set (1 - m.planBuf) (some (planOf (m.bytes a k))) := by
  have hside := checkRead_planSide m a k
  simp only [Mach.planSide, Prod.mk.injEq] at hside
  obtain ⟨hsel, hsys, hid, hhall⟩ := hside
  have hcheck : (m.checkRead a k).planCheck (m.bytes a k) = 0 := by
    unfold Mach.planCheck Mach.ownPos at hc ⊢
    rw [hsys, hid]; exact hc
  have hbuf : (m.checkRead a k).planBuf = m.planBuf := congrArg (fun v => (field v 0 0)) hsel
  rw [planLoaded_at h (if_neg (by simp [hp])).symm]
  dsimp only
  rw [if_pos hcheck]
  exact ⟨rfl, by rw [hbuf, hhall]⟩

theorem maintTakeOut_unserved {m k : Mach} {c : Cls} {i : Nat} (h : m.lands c .plMaint true) (hi : i < 64) (hk : k = m.wrField .plMaint 29 24 i)
    (hl : i < m.sys.links) (hs : (k.peer i).st ≠ .service) (hb : k.maintBusy = false) (hp : k.parentLink ≠ some i) (ha : k.altLink ≠ some i) :
    Gives (.maintTakeOut c i) m (({ k with hall.maint := 1, hall.maintLink := i, hall.maintRefused := false } : Mach).setPeer i
      (fun l => { l with st := .maint, retry := [], farOk := false, noticed := false })).checkAlone := by
  refine .of_maintTakeOut h ((maintWrite_takesOut (field_maintWord_act (by decide)) (field_maintWord_link 1 hi) hk).trans ?_)
  rw [maintWrite_mayLeave (hk ▸ hl : i < k.sys.links) hb (absurd · hp) (absurd · ha)]
  simp [hs]

theorem maintDone_held {m : Mach} {r : OptRead} {s : Nat} {x : OptSample} (h : m.hall.maint = 2) (hs : m.hall.maintSince = some s)
    (ht : s + 1000 ≤ m.time.count) (hx : x = m.optSample { r with link := m.hall.maintLink }) (hp : (m.peer m.hall.maintLink).st = .held) :
    (m.maintDone r).hall.maint = if linkHealth [x] = 0 ∧ meanExcess [x] < 5 then 3 else 4 := by
  rw [maintDone_verified h hs ht hx]
  refine (congrArg (fun k : Mach => k.hall.maint) (if_neg (fun hi => ?_))).trans ?_
  · exact absurd (hp.symm.trans hi.1) (by decide)
  · simp [hp]

end Sys2Proof.Machine
end

section
/-! PROOFS. The commands of the clock, the links, the engines and the outside world (O3): the hall, its time and its mastership. -/

namespace Sys2Proof.Machine

@[simp] theorem flood_hall (m : Mach) (t : FrameType) (e src : Option Nat) : (m.flood t e src).hall = m.hall :=
  foldl_keeps Mach.hall (f := fun k i => k.sendOn t toAll i src) (fun _ _ => rfl) _ m

@[simp] theorem flood_time (m : Mach) (t : FrameType) (e src : Option Nat) : (m.flood t e src).time = m.time :=
  foldl_keeps Mach.time (f := fun k i => k.sendOn t toAll i src) (fun _ _ => rfl) _ m

/-- A message in one fragment carries no orders but its own. -/
theorem joinParts_quiet {s : SfMsg} (hl : s.launches = []) (hd : s.disarms = []) (h0 : s.frag = 0) (h1 : s.frags = 1) :
    (joinParts [s] s).launches = [] ∧ (joinParts [s] s).disarms = [] := by
  simp [joinParts, h0, h1, hl, hd]

/-- A whole message of the next superframe without launches or disarms is kept as the message, and brings time. -/
theorem superframe_kept {m : Mach} (h : PeerHdr) {s : SfMsg} (hd : m.time.inDomain = true) (hm : m.hall.isMaster = false)
    (ha : atOrAbove s.term m.hall.term = true) (hk : s.k = m.time.count / 100 + 1) (hl : s.launches = []) (hx : s.disarms = []) (h0 : s.frag = 0)
    (h1 : s.frags = 1) (hn : m.hall.lastMsg ≠ some (msgKey s)) :
    (m.superframeFrame h s).hall.msg = some (joinParts [s] s) ∧ (m.superframeFrame h s).time.sinceMsg = 1 := by
  obtain ⟨hjl, hjd⟩ := joinParts_quiet hl hx h0 h1
  rw [superframeFrame_inTime (ps := []) h (if_neg hn).symm ha hm (.inr hk), if_neg (by simp [h0, h1])]
  dsimp only
  rw [if_pos (by simp [h1]), flood_hall, flood_time, List.nil_append,
    acceptMessage_next (by exact hd) (by exact hm) (by exact hk), hjl, hjd]
  exact ⟨rfl, rfl⟩

theorem becomeMaster_unmastered {m : Mach} {c : ClaimSt} {p : Plan} (hc : m.hall.claim = some c) (hp : m.plan = some p)
    (hs : c.pos = m.sys.position) (ht : c.takeover = m.time.count) (hm : m.hall.isMaster = false) (he : m.en fnPeer = true)
    (hn : m.hall.master = none) : m.becomeMaster = (m.mastered c.term).startTerm := by
  rw [becomeMaster_takesOver hc hp hs ht hm he, hn]

theorem masterStepDown_due {m : Mach} {t q : Nat} (hs : m.hall.stepDown = some (t, q)) (hm : m.hall.isMaster = true) (ht : m.time.count % 100 = 0) :
    m.masterStepDown = m.stepDownNow t q := by
  unfold Mach.masterStepDown
  rw [hs]
  exact if_pos (by simp [hm, ht])

theorem stepDownNow_alone {m : Mach} (t q : Nat) (h : m.hall.replace = none) : m.stepDownNow t q = { m with
    hall.isMaster := false, hall.stepDown := none, hall.term := t, hall.master := some q
    hall.disarms := [], hall.changes := [], hall.leftNow := [] } := by
  unfold Mach.stepDownNow
  dsimp only
  rw [h]

theorem generationComplete_keeps {m : Mach} {g : GenSt} (h : m.fc.gens = [g]) (hk : g.kept = false) (hl : g.parts.length = genFrames g.hdr)
    (hd : sha3_256 g.bytes = g.hdr.digest) (hp : g.hdr.package = (m.bank m.fcBank).digest) :
    m.generationComplete = { m with fc.gens := [{ g with kept := true }] } := by
  rw [generationComplete_first h hk hl, if_neg (by simp [hd]), if_neg (by simp [hp]), h]
  simp

end Sys2Proof.Machine
end

section
/-! PROOFS. The commands of the clock, the links, the engines and the outside world (O3): cell ring, forecaster and training. -/

namespace Sys2Proof.Machine

/-! ## Cell ring -/

theorem campaignAims_none {m : Mach} (h : m.cell.camp = none) : m.campaignAims = m := by
  have hnone (f : CampSt → CampSt) : m.cell.camp.map f = m.cell.camp := by rw [h]; rfl
  unfold Mach.campaignAims
  rw [hnone]

theorem sendStopbal_asked {m : Mach} (h : m.ringDriver = true) : m.sendStopbal.cell.stopbal = 0 := by
  obtain ⟨ps, he, -⟩ := stopPort_local.eq_ports (bitsOf 4 m.cell.stopbal) { m with cell.stopbal := 0 }
  rw [sendStopbal_driver h, he]

theorem sweepStart_alone {m : Mach} (h : m.time.count % 1000 = 0) (hc : m.cell.camp = none) (hs : m.cell.caps = none) :
    m.sweepStart = (List.range 4).foldl Mach.startSweep m :=
  (sweepStart_plain h hc hs).trans (by rw [campaignAims_none hc])

/-- A good SAMPLE return of the whole string shows an intact ring. -/
theorem sampleReturn_intact {m : Mach} {p s : Nat} (a b : Nat) (hs : (m.port p).sweep = some s) (hr : (m.port p).ring < 3) :
    m.sampleReturn p (some (m.unitsOf p)) a b =
      (m.setPort p (fun t => { t with ring := 2, a := a, b := b, entered := t.entered || false })).sendWiretest p := by
  refine (sampleReturn_found hs (ringFinding_intact _ a b)).trans ?_
  by_cases h2 : 2 = (m.port p).ring
  · exact if_pos h2
  · exact (if_neg h2).trans (if_neg (by omega))

/-- The port that has taken a good DATA frame into its unit. -/
theorem ringData_taken {m : Mach} {p s : Nat} {d : CellData} {r : PendingRead} {u : UnitSt} (hs : (m.port p).sweep = some s)
    (hc : crc16 (dataBytes d) = d.crc) (hv : (m.port p).void = false) (hd : d.type = 3) (hw : d.sweep = s / 1000 % 4294967296)
    (hr : (if d.fromB then (m.port p).outB else (m.port p).outA) = some r) (hu : u = ((m.port p).units.getD (r.unit - 1) UnitSt.reset).take1 d)
    (ht : u.testing = []) : (m.ringData p d).cell.ports = (m.setPort p (fun t => { t with
      units := t.units.set (r.unit - 1) u
      outA := if d.fromB then t.outA else none
      outB := if d.fromB then none else t.outB
      stampA := if d.fromB then t.stampA else m.time.count
      stampB := if d.fromB then m.time.count else t.stampB
      counts := if t.counted then addCharges t.counts r.unit d.charges else t.counts })).cell.ports := by
  rw [ringData_good hs hc, hr]
  dsimp only
  rw [if_neg (by simp [hv, hd, hw]), ← hu, if_pos (by simp [ht])]
  rfl

/-! ## Forecaster -/

theorem startUpdate_starts {m k w : Mach} (hc : m.time.count % 10 = 0) (hl : m.fc.lastUpdate ≠ m.time.count) (ht : m.sys.tiles ≠ 0)
    (hp : m.time.powered = true) (hr : m.fc.run = none) (hen : m.forecastEn = true) (hk : k = m.gateUpdate.readSchedules m.time.count)
    (hb : k.fc.lastBank = k.fcBank) (hd : k.ready fnForecast = true) (he : k.forecastEn = true) (hs : m.gateUpdate.schedPoison = false)
    (hw : w = (k.storeAll Config.planBuffer (wordsBytes (k.renderPlan m.time.count))).1) : m.startUpdate = { w with
      anvil.jobs := w.anvil.jobs ++ [w.fcJob m.time.count k.fcBank], anvil.nextJob := w.anvil.nextJob + 1
      fc.schedAbsent := k.schedAbsentAt m.time.count
      fc.run := some ⟨m.time.count, (w.fcJob m.time.count k.fcBank).id, k.fcBank, w.bel.spPub.g, false, k.schedAbsentAt m.time.count, w.fc.modelGen,
        ((w.bank k.fcBank).gen).getD 0xFFFFFFFF, [], []⟩ } := by
  rw [startUpdate_due hc hl ht hp hr rfl (hk.trans (readSchedules_of_enabled hen)), if_neg (by simp [hd, he]), if_neg (by simp [hs]),
    if_neg (not_not_intro hb), hw]

theorem publishForecast_publishes {m k : Mach} {r : FcRun} (hr : m.fc.run = some r) (ht : r.c + 10 ≤ m.time.count) (hf : r.fin = true)
    (hk : k = { m.gateUpdate with
      fc.run := none, fc.outs := m.fc.outs ++ [⟨r.c + 10, r.points.getD 100 0, r.points.getD 1000 0, r.points.getD 5000 0⟩] })
    (hg : k.fc.gateHeld = false) (hd : k.ready fnForecast = true) : m.publishForecast =
      ((({ k with fc.pub := some ⟨r.c + 10, r.c, true, r.schedAbsent, r.modelGen, r.generation, r.points⟩, fc.buf := !k.fc.buf
                  fc.published := true } : Mach).countForecast).publishBridges r (r.c + 10)).reqLine 1 := by
  rw [publishForecast_due hr ht, gateUpdate_outs, ← hk, if_neg (by simp [hf])]
  exact (if_neg (by rw [hg]; exact Bool.false_ne_true)).trans (if_neg (by rw [hd]; exact Bool.false_ne_true))

/-! ## Training -/

theorem cycleStart_begins {m : Mach} {t : TrainSt} {o : Op} (ht : m.fc.train = some t) (hmod : m.time.count % 100000 = 0) (hpos : 0 < m.time.count)
    (hc : t.cycle = none) (ho : m.opById t.op = some o) (hs : o.state = .running) (hn : o.resumeNote = none) (hen : m.trainEn = true)
    (hon : m.anvilOn = true) (htr : (m.bank m.fcBank).trainable = true) (hact : m.acting = true) :
    m.cycleStart.fc.train = some { t with cycle := some (m.time.count / 100000) } := by
  have hlive : m.trainLive t = true := by unfold Mach.trainLive; rw [ho]; simp [hs]
  rw [cycleStart_due ht ⟨hmod, hpos, hc, hlive, hen, hon, htr⟩, noteResumed_of_none ho hn]
  exact congrArg (fun k : Mach => k.fc.train) (if_neg (by simp [hact]))

theorem cycleEnds_generation {m : Mach} {t : TrainSt} {c : Nat} (ht : m.fc.train = some t) (hc : t.cycle = some c) (hlive : m.trainLive t = true)
    (hen : m.trainEn = true) (hact : m.acting = true) (htwo : m.levelTwoRuns = true) (hp : m.trainPoison = false)
    (hlt : m.time.count < 100000 * (c + t.lag)) {e : Mach}
    (he : e = ((m.otherBundles.putTrainArea 0 (m.trainSteps t c t.steps)).makeGeneration c t.lag).endCycle) (hs : e.fc.sending = none) :
    m.cycleEnds = e := by
  have hen' : (m.otherBundles.putTrainArea 0 (m.trainSteps t c t.steps)).trainEn = true := hen
  refine cycleEnds_quiet ((cycleDone_ending ht hc ⟨.inl ⟨hlive, hen⟩, hact, htwo⟩).trans ?_) (.inl hs)
  rw [if_neg (by simp [hp]), if_pos (by simp [hen', hlt]), he]

theorem reencoded_one {m : Mach} {g : GenSt} (hg : m.fc.gens = [g]) (hk : g.kept = true) (he : g.encoded = false) (ht : m.levelTwoRuns = true)
    (hp : m.meetsPoison (m.encodeReads (m.receivingCopy m.fcBank)) = false) : m.reencoded = { m.otherBundles with
      anvil.trained := true, fc.gens := [{ g with encoded := true, encTo := m.time.count - 3, enc := m.encodeAll g.bytes }] } := by
  rw [reencoded_due (hg ▸ List.mem_singleton_self g) hk he ht, if_neg (by simp [hp]), hg]
  exact congrArg (fun gs => ({ m.otherBundles with anvil.trained := true, fc.gens := gs } : Mach)) (if_pos (by simp [hk, he]))

theorem adoptGeneration_inTime {m : Mach} {d : Nat × Nat} {g : GenSt} (h : m.fc.due = [d]) (hd : d.1 = m.time.count) (hg : m.fc.gens = [g])
    (ha : m.adoptable g = true) (hn : d.2 ≤ g.hdr.n) : m.adoptGeneration = ({ m with fc.due := [] } : Mach).adopt g := by
  have htaken : m.dueTaken = { m with fc.due := [] } := by simp [Mach.dueTaken, h, hd]
  rw [adoptGeneration_due h hd, filter_adoptable_one hg ha, ← htaken]
  exact if_neg (Nat.not_lt.2 hn)

end Sys2Proof.Machine
end

section
/-! PROOFS. The commands of the clock, the links, the engines and the outside world (O3): anvil, lock-step, memory errors and heat. -/

namespace Sys2Proof.Machine

theorem restoreNext_repro {m : Mach} {j : Job} (hr : m.runningJob = none) (hn : m.nextUp = some j) (ho : m.anvilOn = true) (hs : j.saved = true)
    (hp : m.poisonIn j.save saveSize = false) (hc : m.word (j.save + saveCrcAt) = crc32 (m.saveRest j.save)) (hrep : j.repro = true) :
    m.restoreNext = m.restored j false := by
  rw [restoreNext_due hr hn ho, restoreJob_intact (non := false) hs hp hc (by simp [hrep])]
  exact if_neg Bool.false_ne_true

theorem eta_jobs {m : Mach} {js : List Job} (h : m.anvil.jobs = js) : { m with anvil.jobs := js } = m := by rw [← h]

theorem stopAll_jobless {m : Mach} (status tiles : Nat) (only : Job → Bool) (h : m.anvil.jobs = []) : m.stopAll status tiles only = m := by
  unfold Mach.stopAll
  rw [h]
  rfl

/-- A lost tile of a module without jobs: out of the map, among the failed ones, with its fault. -/
theorem tileFault_idle {m : Mach} {t : Nat} (p : Bool) (ht : t < 32) (hb : m.tilesIn.testBit t = true) (hj : m.anvil.jobs = []) :
    m.tileFault t p = ((m.wr .avTileMapLo (clearBit (m.rd .avTileMapLo) t)).wr .avTileFailLo (setBit (m.rd .avTileFailLo) t)).raise
      (srcTile t) .severe (flag p 0) := by
  have hw : (((m.wr .avTileMapLo (clearBit (m.rd .avTileMapLo) t)).wr .avTileFailLo (setBit (m.rd .avTileFailLo) t)).raise (srcTile t) .severe
      (flag p 0)).anvil.jobs = [] := by rw [raise_anvil]; exact hj
  rw [tileFault_present p (by omega) hb rfl, if_pos ht, Nat.mod_eq_of_lt ht, stopAll_jobless _ _ _ hw]
  conv => rhs; rw [← eta_jobs hw]
  rw [hw, List.map_nil]

theorem thermalStep_phys {m : Mach} {d s : Nat} (hd : d = m.phys.dieNext) (hs : s = max m.bel.snap.coolOwn d)
    (h : d ≠ m.phys.dieStep ∨ s ≠ m.phys.modStep) : m.thermalStep.phys = { m.phys with dieStep := d, modStep := s } := by
  subst hs hd
  rw [thermalStep_changes h]
  split
  · exact raise_phys _ _ _ _
  · rfl

theorem lockDiverge_jobless {m : Mach} {d : LsDigest} {t : Nat × List DWord × DWord} (sc : List DWord) (hd : m.anvil.lock.digest = some d)
    (ht : m.anvil.lock.theirs = some t) (h : m.diverges d t) (hj : m.anvil.jobs = []) : m.lockDiverge sc = m.searching d t sc := by
  rw [lockDiverge_searches sc hd ht h, hj]; rfl

theorem lockDigestFrame_equal {m : Mach} {d : LsDigest} (h : m.anvil.lock.state = .running) (hd : m.anvil.lock.digest = some d) :
    m.lockDigestFrame true d.ord d.slots d.scalar = { m with anvil.lock.theirs := none, anvil.lock.digest := none, anvil.lock.ord := d.ord } :=
  (lockDigestFrame_running _ _ _ h hd).trans ((if_neg (not_not.2 rfl)).trans (if_pos ⟨rfl, rfl⟩))

theorem lockSearched_lock {m : Mach} (hs : List (Nat × DWord)) (h : m.anvil.lock.state = .searching) :
    (m.lockSearched hs).anvil.lock.state = .ended ∧ (m.lockSearched hs).anvil.lock.result = stDiverged := by
  unfold Mach.lockSearched
  rw [if_neg (not_not.2 h)]
  simp [Mach.endSession]

theorem ceWindow_ends {m : Mach} (h : m.time.count % 6000000 = 0) :
    m.ceWindow.anvil.sliceCe = List.replicate 64 0 ∧ ∀ x, x ∈ m.ceWindow.stks → x.winCe = 0 := by
  unfold Mach.ceWindow
  rw [if_neg (not_not.2 h)]
  refine ⟨rfl, fun x hx => ?_⟩
  obtain ⟨y, -, rfl⟩ := List.mem_map.1 hx
  rfl

end Sys2Proof.Machine
end

section
/-! PROOFS. The commands of the clock, the links, the engines and the outside world (O3): DMA, the CXL port, attestation, updates and the recorder. -/

namespace Sys2Proof.Machine

/-! ## DMA -/

theorem dmaChannelStart_ready {m : Mach} {c : Cls} {i : Nat} (hl : m.lands c (.dmChCtrl i) true) (ho : chOwned c i = true)
    (hs : (m.ch i).state = 1 ∨ (m.ch i).state = 3) (hb : bit (m.rd (.dmChCtrl i)) 31 = true) (he : m.en fnDma = true) :
    Gives (.dmaChannelStart c i) m (((m.wr (.dmChCtrl i) 0x80000000).wr (.dmChChain i) 0).setCh i (fun x => { DmaCh.reset with
      state := 2
      cur := addr48 (m.rd (.dmChHeadLo i)) (m.rd (.dmChHeadHi i))
      next := addr48 (m.rd (.dmChHeadLo i)) (m.rd (.dmChHeadHi i))
      lastStatus := x.lastStatus })) := by
  refine .of_channelWrite (exec_dmaChannelStart c i) hl ho ((writeChCtrl_start (by omega)).trans ((if_pos hb).trans ?_))
  obtain ⟨-, hlo, hhi, -⟩ := dmCh_addr_ne i
  rw [startChannel_ready (m := m.wr (.dmChCtrl i) 0x80000000) ((en_wr_dmChCtrl ..).trans he) hs, rd_wr_ne _ _ hlo, rd_wr_ne _ _ hhi]

theorem dmaChannelStart_runs {m : Mach} {c : Cls} {i : Nat} (hl : m.lands c (.dmChCtrl i) true) (ho : chOwned c i = true)
    (hs : (m.ch i).state = 1 ∨ (m.ch i).state = 3) (hb : bit (m.rd (.dmChCtrl i)) 31 = true) (he : m.en fnDma = true) (hi : i < m.dma.chs.length) :
    Completes (.dmaChannelStart c i) m (fun n => (n.ch i).state = 2 ∧ (n.ch i).next = addr48 (m.rd (.dmChHeadLo i)) (m.rd (.dmChHeadHi i))) := by
  have hch := ch_setCh ((m.wr (.dmChCtrl i) 0x80000000).wr (.dmChChain i) 0) i (fun x => { DmaCh.reset with
    state := 2
    cur := addr48 (m.rd (.dmChHeadLo i)) (m.rd (.dmChHeadHi i))
    next := addr48 (m.rd (.dmChHeadLo i)) (m.rd (.dmChHeadHi i))
    lastStatus := x.lastStatus }) hi
  exact (dmaChannelStart_ready hl ho hs hb he).shows fun _ _ => ⟨congrArg DmaCh.state hch, congrArg DmaCh.next hch⟩

theorem dmaChannelEnable_idles {m : Mach} {c : Cls} {i : Nat} (hl : m.lands c (.dmChCtrl i) true) (ho : chOwned c i = true)
    (hs : (m.ch i).state = 0) (he : m.en fnDma = true) (hi : i < m.dma.chs.length) :
    Completes (.dmaChannelEnable c i) m (fun n => (n.ch i).state = 1) :=
  (Gives.of_channelWrite (exec_dmaChannelEnable c i) hl ho ((writeChCtrl_enable m i).trans (if_pos ⟨hs, (en_wr_dmChCtrl ..).trans he⟩))).shows
    fun _ _ => congrArg DmaCh.state (ch_setCh (m.wr (.dmChCtrl i) 0x80000000) i _ hi)

theorem dmaFetch_takes {m k b : Mach} {i : Nat} {d : List Byte} {w : List Word} (h : m.fetches i)
    (hl : (m.rd (.dmChChain i)).toNat < m.rdField (.dmChLimit i) 23 0) (hk : k = m.setCh i (fun c => { c with cur := c.next }))
    (hj : k.judge (chClass i) (m.ch i).next 32 false = .ok) (hst : (k.dmaRead i (m.ch i).next 32 d).status = 0)
    (hw : w = bytesWords 8 (k.dmaRead i (m.ch i).next 32 d).bytes) (hb : b = (k.dmaRead i (m.ch i).next 32 d).m.bump (.dmChChain i) 31 0 1)
    (h0 : (b.descStatus i w).1 = 0) : m.dmaFetch i d = (b.descStatus i w).2.descTaken i w := by
  subst hb hw
  rw [dmaFetch_judged d h hl hk, hj]
  exact (if_neg (not_not.2 hst)).trans (if_neg (not_not.2 h0))

theorem startBurst_unpaced {m : Mach} {i : Nat} (h : m.pacing i = 0) :
    m.startBurst i = { m.setCh i (fun c => { c with credit := c.credit - 0, burst := m.burstLen i }) with dma.last := i } := by
  unfold Mach.startBurst
  dsimp only
  rw [if_neg (by omega), if_neg (by omega)]

theorem dmaDone_clean {m : Mach} {i : Nat} (h : m.descEnds i) (hb : (m.ch i).bad = 0) (hover : (m.ch i).leftOver = false) :
    m.dmaDone i = if bit (wordAt (m.ch i).desc 0) 7 then m.startFence i else m.writeBack i 0x01 :=
  (dmaDone_ends h).trans ((if_neg (not_not.2 hb)).trans (if_neg (by rw [hover]; exact Bool.false_ne_true)))

theorem startFence_ch {m : Mach} {i : Nat} (hs : (m.ch i).state = 2) : ((m.startFence i).ch i).fence = true ∧
    ((m.startFence i).ch i).readBack = (m.ch i).hostLast.toList ++ (m.ch i).peerLast.map Prod.snd := by
  obtain ⟨r, hr⟩ := startFence_eq m i
  have hch := ch_setCh m i (fun c => { c with
    fence := true, readBack := (m.ch i).hostLast.toList ++ (m.ch i).peerLast.map Prod.snd }) (ch_inside hs)
  rw [hr]
  exact ⟨congrArg DmaCh.fence hch, congrArg DmaCh.readBack hch⟩

theorem Gives.shows_ch {i : Instr} {m n : Mach} {p : Nat → DmaCh → Prop} (h : Gives i m n) (e : ∀ c, p c (n.ch c)) :
    Completes i m (fun w => ∀ c, p c (w.ch c)) := h.shows fun _ _ => e

theorem creditTick_ch (m : Mach) {c : Nat} (hc : c < 32) : m.creditTick.ch c = m.credited c := by
  rw [creditTick_eq, foldl_creditStep_ch _ List.nodup_range, if_pos (List.mem_range.2 hc)]

theorem reqLine_first {m : Mach} (l : Nat) (h : m.dma.lines = []) : (m.reqLine l).dma.lines = [⟨l, m.time.count, []⟩] := by
  rw [reqLine_of (withdrawLine_young (by simp [h])), if_neg (by simp [Mach.requested, h]), h]
  rfl

theorem lineLost_single {m : Mach} {l : Nat} {x : ReqLine} (h : m.dma.lines = [x]) (hl : x.line = l) : m.lineLost l =
    ((List.range 32).filter (fun k => m.bound k l)).foldl (fun (x : Mach) k => x.bump (.dmChErr k) 23 16 1) ({ m with dma.lines := [] } : Mach) := by
  unfold Mach.lineLost
  rw [h, List.filter_cons_of_neg (by simp [hl]), List.filter_nil]

/-! ## The CXL port -/

theorem linkUp_shows {m : Mach} {s w : Nat} {f : Bool} (c e b : Bool) (x : Nat) (hp : m.time.powered = true) (hd : m.cxl.linkUp = false)
    (hm : linkModeOk s w f = true) : (m.linkUp s w f c e b x).cxl.linkUp = true ∧ (m.linkUp s w f c e b x).cxl.speed = s ∧
      (m.linkUp s w f c e b x).cxl.width = w ∧ (m.linkUp s w f c e b x).cxl.bme = b := by
  rw [linkUp_comes c e b x hp hd hm]
  split
  · have hstill := congrArg Mach.cxl (still_raiseKind ((m.linked s w f c e b x).bump .cxLinkErr 15 0 1) srcCxl .info kindGeneral 0)
    exact ⟨(congrArg CxlSt.linkUp hstill :), (congrArg CxlSt.speed hstill :), (congrArg CxlSt.width hstill :), (congrArg CxlSt.bme hstill :)⟩
  · exact ⟨rfl, rfl, rfl, rfl⟩

/-- The module whose CXL link is lost: its decoders, messages and attestation start anew. -/
def Mach.unlinked (m : Mach) : Mach := { m with
  cxl.linkUp := false, cxl.speed := 0, cxl.width := 0, cxl.flit256 := false, cxl.cacheEn := false, cxl.memEn := false, cxl.bme := false
  cxl.dec0 := HdmDec.reset, cxl.dec1 := HdmDec.reset, cxl.msixMask := 0xFFFFFFFF, cxl.msixPend := 0
  id.spdm := .start, id.vca := [], id.transcript := [], id.mTranscript := [] }

theorem linkDown_lost {m : Mach} (h : m.cxl.linkUp = true) :
    m.linkDown false = (m.unlinked.releaseRdown.bump .cxLinkErr 31 16 1).raise srcCxl .corr 0 :=
  (if_neg (by rw [h]; decide)).trans (if_neg Bool.false_ne_true)

theorem memRead_answers {m : Mach} {a d : Nat} (hup : m.cxl.linkUp = true) (hd : m.hdmAddr a = some d) (hc : m.sys.capValid = true)
    (ho : m.stackOut (d / 64 * 64) = false) (hj : m.judge .host (d / 64 * 64) 64 false = .ok) :
    m.memRead a = (m.checkRead (d / 64 * 64) 64).answer (m.words (d / 64 * 64) 16) (m.poisoned (d / 64 * 64)) false := by
  rw [(memRead_up a hup).2 d hd, hj]
  exact (if_neg (by rw [hc]; decide)).trans (if_neg (by rw [ho]; decide))

theorem memWrite_writes {m : Mach} {a d : Nat} {bs : List (Option Byte)} (hup : m.cxl.linkUp = true) (hd : m.hdmAddr a = some d)
    (hc : m.sys.capValid = true) (ho : m.stackOut (d / 64 * 64) = false) (hj : m.judge .host (d / 64 * 64) 64 true = .ok) (hlen : bs.length = 64)
    (hall : bs.all Option.isSome = true) : m.memWrite a bs =
      ((m.setBytes (d / 64 * 64) (mergeBytes (m.bytes (d / 64 * 64) 64) bs)).cleanLine (d / 64 * 64)).answer [] false false := by
  rw [(memWrite_up a bs hup).2 d hd, hj]
  exact (if_neg (by rw [hc]; decide)).trans ((if_neg (by rw [ho]; decide)).trans (lineWritten_whole (.inl ⟨hlen, hall⟩)))

/-! ## Attestation -/

theorem spdmMeasurements_none {m : Mach} {r : SpdmReq} (h : m.id.spdm = .negotiated) (hv : r.version = m.id.spdmVer) (h1 : r.param1 = 0)
    (h2 : r.param2 = 0) : (m.spdmMeasurements r).id.response =
      spdmMsg r.version 0x60 7 0 (leBytes 1 0 ++ leBytes 3 0 ++ (m.nonce 8).1 ++ leBytes 2 0 ++ reqContext r 0) := by
  have hsign : ¬ r.param1 % 2 = 1 := by omega
  obtain ⟨⟨n, w⟩, hn⟩ : ∃ x, m.nonce 8 = x := ⟨_, rfl⟩
  rw [spdmMeasurements_answers h hv (fun hs => absurd hs hsign) (fun hx => hx.1 h2) hn rfl rfl rfl, if_neg hsign]
  simp [h1, h2, hn, measured, Mach.measBlocks]

/-! ## Firmware updates and the recorder -/

@[simp] theorem updEnds_id (m : Mach) (state status : Nat) : (m.updEnds state status).id = { m.id with updState := state, updStatus := status } :=
  emit_id _ _ _ _

@[simp] theorem fwRecord_id (m : Mach) (app slot : Bool) (v : Word) (st : Nat) : (m.fwRecord app slot v st).id = m.id := emit_id _ _ _ _

theorem updCommit_app {m : Mach} (hp : m.id.pufOk = true) (h : m.id.app.trial = true) : m.updCommit.id.app = m.id.app.commit ∧
    m.updCommit.id.tk = m.id.tk.commit ∧ m.updCommit.id.updStatus = stOk := by
  rw [updCommit_trials hp (.inr h) rfl rfl, if_pos h, fwRecord_id]
  split
  · rw [fwRecord_id]; exact ⟨rfl, rfl, rfl⟩
  · exact ⟨rfl, rfl, rfl⟩

theorem updDiscard_staged {m : Mach} (hp : m.id.pufOk = true) (h : m.anyStaged = true) :
    m.updDiscard.id.updState = 0 ∧ m.updDiscard.id.updStatus = stOk := by
  rw [updDiscard_erases hp h rfl rfl, fwRecord_id]
  exact ⟨rfl, rfl⟩

theorem updToken_starts {m : Mach} (hp : m.id.pufOk = true) (ht : m.tokenOk = true) (ho : m.outOfService = true) :
    m.updToken.fault.testMode = true ∧ m.updToken.id.updStatus = stOk := by
  rw [updToken_keyed hp, if_neg (by rw [ht]; decide), if_neg (by rw [ho]; decide)]
  exact ⟨emit_testMode _ _ _ _, by rw [updEnds_id]⟩

theorem updEndTest_ends {m : Mach} (hp : m.id.pufOk = true) (ht : m.fault.testMode = true) : m.updEndTest.id.updStatus = stOk := by
  rw [updEndTest_keyed hp, if_neg (by rw [ht]; decide), updEnds_id]

theorem verifyImage_congr {m n : Mach} (hs : n.sys.variant = m.sys.variant) (ha : n.id.app = m.id.app) (ht : n.id.tk = m.id.tk) :
    n.verifyImage = m.verifyImage := by
  funext bs len
  unfold Mach.verifyImage Mach.slots2
  rw [hs, ha, ht]

theorem stageDone_refused {m : Mach} {j : StageJob} {st : Nat} (h : m.id.job = some j)
    (hv : m.verifyImage (m.cleanBytes j.addr j.len) j.len = .error st) :
    m.stageDone.id.job = none ∧ m.stageDone.id.updState = 3 ∧ m.stageDone.id.updStatus = st := by
  have hside := checkRead_planSide m j.addr j.len
  simp only [Mach.planSide, Prod.mk.injEq] at hside
  obtain ⟨-, hsys, hid, -⟩ := hside
  rw [stageDone_failed (st := st) h rfl, updEnds_id]
  · exact ⟨rfl, rfl, rfl⟩
  · have hsame := verifyImage_congr (n := { m.checkRead j.addr j.len with id.job := none }) (congrArg SysSt.variant hsys)
      (congrArg IdSt.app hid :) (congrArg IdSt.tk hid :)
    exact (congrFun (congrFun hsame _) _).trans hv

theorem withdrawLine_ev (m : Mach) (l : Nat) : (m.withdrawLine l).ev = m.ev := by
  unfold Mach.withdrawLine
  split
  · exact foldl_keeps Mach.ev (fun x k => bump_ev x (.dmChErr k) 23 16 1) _ _
  · rfl

theorem reqLine_ev (m : Mach) (l : Nat) : (m.reqLine l).ev = m.ev := by
  unfold Mach.reqLine
  dsimp only
  split <;> exact withdrawLine_ev m l

theorem flashFail_retired (m : Mach) : m.flashFail.ev.retired = m.ev.retired + 1 := by
  rw [flashFail_of rfl]
  split <;> simp

end Sys2Proof.Machine
end

section
/-! PROOFS. O3: configuration transactions and launched commits, and the commands of the clock, the links, the engines and the outside world
assembled. -/

namespace Sys2Proof.Machine

/-- The last window of a commit without a launch count, whose words pass: they apply at the next strike. -/
theorem commitWindow_passes {m k : Mach} {rt : RTo} (hs : m.txn.state = .validating) (hc : m.txn.commit = some (rt, 0))
    (ha : m.txn.applyAt = none) (hw : m.txn.winAt ≠ some m.time.count) (hn : windowsFor m.txn.staged.length ≤ m.txn.windows + 1)
    (hk : k = m.windowUsed) (hv : k.validate m.txn.staged m.txn.owner m.txn.overflow = none) :
    m.commitWindow = { k with txn := { k.txn with applyAt := some (m.time.count + 1), deferred := decide (0 < m.txn.windows) } } := by
  subst hk
  refine (commitWindow_used hs hc ha hw).trans ((if_neg (by omega)).trans ?_)
  rw [hv, Option.elim_none, if_neg (not_not.2 rfl)]

theorem txnTimeout_txn {m : Mach} (hs : m.txn.state = .opened) (ha : 10000 ≤ m.txn.age) :
    m.txnTimeout.txn = { TxnSt.reset with timedOut := some m.txn.owner } := by
  unfold Mach.txnTimeout
  rw [if_pos ⟨hs, ha⟩]
  exact raise_txn _ _ _ _

/-- A launched commit due at the next strike has the verdict of its words under the class of its origin. -/
theorem revalidate_slot {m : Mach} {i : Nat} {l : LaunchSlot} {c : Cls} (h : m.slots[i]? = some l) (hs : l.state = .armed)
    (ha : l.action = actCommit) (hn : l.count = m.time.count + 1) (hc : c = if l.origin = 0 then .host else if l.origin = 1 then .fw else .tk) :
    m.revalidate.slots[i]? = some { l with
      valid := (m.validate l.staged c false).elim 0 CfgFail.status, result := (m.validate l.staged c false).elim [] CfgFail.result } := by
  subst hc
  unfold Mach.revalidate
  rw [List.getElem?_map, h, Option.map_some, if_pos (by simp [LaunchSlot.armed, hs, ha, hn])]

/-- Settles O3: each command by the equation of its function on the conditions of its clause, read at the fields of its effect. -/
theorem everyTimedOrOutsideCommandCompletes : Obligations.EveryTimedOrOutsideCommandCompletes := by
  unfold Obligations.EveryTimedOrOutsideCommandCompletes
  refine ⟨
    -- Bring-up (chapters 17, 18)
    fun m p hp hl ha => .of_eq (exec_powerGood p) rfl fun _ _ => Prod.mk.inj (powerUp_powerRead hp hl ha),
    fun m hc hm hf => .of_eq (exec_recorderMount true) rfl fun _ _ => mountRecorder_mounts hc hm hf,
    fun m c hc ha hl hs hv => .of_eq exec_bringupLoad (bringupLoad_passes hc ha hl hs rfl hv) fun _ _ => rfl,
    fun m hc hl ht => .of_eq exec_bringupLoadTimeout (bringupTimeout_fails hc hl ht) fun _ _ => by simp [loadFails_sys],
    fun m k hk ha => have ⟨ws, hw⟩ := saveConfig_due hk ha
      .of_eq exec_configSave hw fun _ _ => ⟨rfl, ws, rfl⟩,
    fun m f hc ht hb hs => .of_eq (exec_tileSelfTest f) rfl fun _ _ => tileSelfTest_ends f hc ht hb hs,
    fun m ha hr hv hl ht hf => ⟨_, rfl, .of_on exec_builtinPackageLoad (if_neg (by simpa [ha, hr, hv, hl, ht] using hf))⟩,
    fun m k l h hp ho hr hd hl => .of_eq (exec_readinessLimitFault k) (readinessLimit_over h hp ho hr hd hl) fun _ _ => by simp,
    -- The strike and the bellows (chapters 02, 04)
    fun m f _ => .of_on (exec_strike f) rfl,
    fun m h hf => .of_eq exec_setpointMissingFault (if_pos (by simp [h, hf])) fun _ _ => by simp,
    fun m p hp hd he hf => .of_eq exec_cellLimitsStaleFault ((limitsFault_at hp).trans ((if_neg (by omega)).trans (if_pos (by simp [he, hf]))))
      fun _ _ => by simp,
    fun m hb hh hq hf ht => .of_eq exec_brakeHoldFault (if_pos (by simp [Mach.brakeDriven, hb, hh, hq, hf, ht])) fun _ _ => by simp,
    fun m hh hq hr hs => have hmay := capsMaySend_eq_true hh hq hr hs
      ⟨.of_on exec_capMessageSend (sendCaps_may hmay), fun hd => .of_eq exec_capMessageRepeat (repeatCaps_due hmay hd) fun _ _ => rfl⟩,
    fun m n cap draw rel hn => .of_eq (exec_trayReport n cap draw rel) (if_neg hn) fun _ _ => rfl,
    fun m n hr hs hn hm ht => .of_eq (exec_trayReportMissed n) (if_pos (by simp [hr, hs, hn, hm, ht])) fun _ _ => by simp,
    fun m h => .of_eq exec_coolantStepChange (if_neg h) fun _ _ => by simp,
    fun m h hf => .of_eq exec_coolantStep3Fault (if_pos (by simp [h, hf])) fun _ _ => by simp,
    fun m x hc hx => .of_eq exec_gridScheduleStep (schedStep_newest hc hx) fun _ _ => rfl,
    -- Loops, stage links and the loop test (chapters 05, 06)
    fun m k j n hq hn hl => .of_eq (exec_swapHoldTimeout k j) (if_pos (by simp [hq, -List.getD_eq_getElem?_getD, hn, hl])) fun _ _ => rfl,
    fun m k hq hs hf => .of_eq (exec_bridgeFade k) (if_pos (by simp [hq, hs, hf])) fun _ _ => rfl,
    fun m k hq hm hs hl => .of_eq (exec_loopStop k) (if_pos (by simp [hq, hm, hs, hl])) fun _ _ => raise_loops _ _ _ _,
    fun m k hq hs hf hn hl => .of_eq (exec_followingErrorFault k) (if_pos (by simp [hq, hs, hf, hn, hl])) fun _ _ => raise_loops _ _ _ _,
    fun m n f hn hr hl hi hf hg => .of_eq (exec_stageFeedbackFrame n f) ((feedback_taken hn hr hl hi hf).trans (by rw [hg])) fun _ _ => rfl,
    fun m n => .of_eq (exec_stageLinkLock n) rfl fun _ _ => rfl,
    fun m n h => .of_eq (exec_stageLinkLockLoss n) rfl fun _ _ => linkLoss_links h,
    fun m n hr hm hf => .of_eq (exec_stageLinkMissFault n) (if_pos ⟨hr, hm, hf⟩) fun _ _ => raise_links _ _ _ _,
    fun m n hr hm hf => .of_eq (exec_outputLateFault n) (if_pos ⟨hr, hm, hf⟩) fun _ _ => raise_links _ _ _ _,
    fun m hr hc ht hp => .of_eq exec_loopTestPhase (testPhase_moves hr hc ht hp) fun _ _ => rfl,
    fun m c hc hr => have ht := testEnd_test m .aborted c
      .of_eq exec_loopTestAbort ((testAbortNow_some hc).trans (if_pos hr)) fun _ _ => ⟨congrArg TestSt.phase ht, congrArg TestSt.abort ht⟩,
    -- Module loads and the automatic training run (chapters 08, 09)
    fun m l o hl ho hs hn a d ha hd hp hlt => .of_eq (exec_modelLoadBlock l.bank)
      ((loadBlock_more ⟨⟨[], hl⟩, ho, hn, by simp [hs]⟩ ha hd hp (by simpa using hlt)).trans (loadPoint_running ho hs))
      fun _ _ => by simp [hl],
    fun m happ hbit hready hen hop htag hcheck => ⟨_, _, _, rfl, rfl,
      .of_on exec_autoTrainRun ((autoTrain_runs happ hbit hready hen hop htag hcheck).trans (opTrainRun_starts hcheck))⟩,
    -- Resets (chapter 03)
    fun m p full h hr hh hf =>
      have hg := Gives.of_moduleReset h (opModuleReset_releases (m := m.hasRead p) (m.backTo ocModuleReset p) full hr hh (.inr hf))
      ⟨_, rfl, fun e => by subst e; exact hg, fun e => by subst e; exact hg⟩,
    fun m r k h hr hk => .of_on exec_resetExecute (resetExecute_due h hr hk),
    -- The pair, feeds, lever and supply (chapters 14, 19)
    fun m f hu hg hs => .of_eq (exec_pairFrame f) (if_pos (by simp [hu, hg, hs])) fun _ _ => rfl,
    fun m => ⟨fun h => .of_eq exec_claimTake (if_neg (by simp [h])) fun _ _ => rfl, fun h => .of_eq exec_claimGiveUp (if_pos h) fun _ _ => rfl⟩,
    fun m i k seg hr hp he => .of_eq (exec_alignmentSegment true _ seg) (alignSegment_taken hr hp he) fun _ _ => ⟨rfl, rfl⟩,
    fun m hq hr => .of_eq exec_alignmentFail ((if_pos (by simp [hq])).trans (if_pos hr)) fun _ _ => ⟨rfl, rfl⟩,
    fun m k row h => .of_eq (exec_rowFrame true k row) (if_pos (by simpa using h)) fun _ _ => rfl,
    fun m h => .of_eq exec_pairLinkDown (pairDown_unaligned h) fun _ _ => by dsimp only; split <;> simp,
    fun m h l c => .of_eq (exec_pairLinkUp h l c) rfl fun _ _ => pairLinkUp_pairUp m h l c,
    fun m ha hf => .of_eq exec_holdingWithoutStandby (if_pos (by simp [ha, hf])) fun _ _ => by simp,
    fun m v => ⟨fun hv ha => .of_eq (exec_feedLoss false v) (feedLoss_a_lost hv ha) fun _ _ => by simp [judgeFeeds_feedA],
      fun hv hr ha => .of_eq (exec_feedReturn false v) (feedReturn_a_returns hv hr ha) fun _ _ => by simp [judgeFeeds_feedA]⟩,
    fun m => .of_eq exec_ejectorOpen rfl fun _ _ => rfl,
    fun m o hn => .of_eq (exec_plcaNodeTake true o) (plcaTake_unnumbered true o hn) fun _ _ => rfl,
    fun m hp hd => .of_eq exec_operatingTimeSave (if_pos (by simp [hp, hd])) fun _ _ => rfl,
    fun m hp hd hf => .of_on exec_holdUpEnd (holdUpEnd_shows hp hd hf),
    fun m low => .of_eq (exec_brakeNNetChange low) rfl fun _ _ => by simp [Mach.brakeNetChange],
    -- Peer links, plans and maintenance (chapter 11)
    fun m h sn pos link var plan ok hh k hk hv => .of_frame (exec_ident h sn pos link var plan ok) rfl hh
      ((ident_verdict _ h sn pos link plan ok hk).trans (if_neg (by simp [hv]))),
    fun m h a b hh => .of_frame (exec_health h a b) rfl hh rfl,
    fun m i hi hs => .of_on (exec_peerLinkLock i) (if_pos ⟨hi, hs⟩),
    fun m i hi hs hh => .of_on (exec_peerLinkDown i)
      ((linkFails_counted hi (by simp [hs]) (by simp [hs]) rfl).trans ((if_neg (by simp [hs])).trans (if_pos hh))),
    fun m i q h => .of_eq (exec_peerRetransmit i q) (if_pos h) fun _ _ => rfl,
    fun m i q k h hk hl => by
      subst hk
      exact .of_eq (exec_peerFrameLost i q) ((if_pos h).trans (if_neg (Nat.not_le.mpr hl))) fun _ _ => rfl,
    fun m h => .of_on exec_identRepeat (if_neg (by simp [h])),
    fun m c v h hb hn => (Gives.of_landed (exec_planLoad c v) h ((if_neg (by simp [hb])).trans (if_neg (by simp [hn])))).shows
      fun _ _ => ⟨rfl, rfl⟩,
    fun m a k h hp hc => .of_eq exec_planLoadDone rfl fun _ _ => planLoaded_passes h hp hc,
    fun m c i k h hi hk => ⟨maintTakeOut_unserved h hi hk,
      fun hs => (Gives.of_maintVerify h ((maintWrite_verifies (field_maintWord_act (by decide)) (field_maintWord_link 2 hi) rfl).trans
        (if_pos hs))).shows fun _ _ => ⟨rfl, rfl, rfl⟩⟩,
    fun m r s h hs ht hp => .of_eq (exec_maintVerifyDone r) rfl fun _ _ => maintDone_held h hs ht rfl hp,
    fun m rs k h hk hn => .of_on (exec_linkHealthMeasure rs) ((measure_second h hk).trans (by rw [hn])),
    fun m c v h hb => (Gives.of_landed (exec_suspectClear c v) h (if_pos hb)).shows fun _ _ => rfl,
    -- Time, reports and superframes (chapters 02, 11)
    fun m h off c hh hm hp hf hj => (Gives.of_frame (exec_timeExchange h off c) rfl hh
      ((timeFrame_follower h off c (by simpa using hm) hp).trans (timeMessage_steady off c hf hj))).shows fun _ _ => ⟨rfl, rfl, rfl⟩,
    fun m h r hh => ⟨fun hm hk ht => .of_frame (exec_report h r) rfl hh (reportFrame_inTime h (by simpa using hm) hk ht),
      fun hm => .of_frame (exec_report h r) rfl hh (if_pos (by simp [hm]))⟩,
    fun m hc hd hj => ⟨fun hm => .of_on exec_reportSend ((reportSend_due hc hd hj).trans (if_pos hm)),
      fun hm hn => .of_on exec_reportSend ((reportSend_follower hc hd hj hm).trans (by rw [hn]))⟩,
    fun m h rs hh hm ht => .of_frame (exec_table h _ rs) rfl hh (if_neg (by simp [hm, ht])),
    fun m p hp hm hc ht he hr => .of_on exec_tableSend (tableSend_alone hp hm hc ht he hr),
    fun m h pos hh => ⟨fun hm => .of_frame (exec_leave h pos) rfl hh (if_neg (by simp [hm])),
      fun p hp hm => .of_frame (exec_leave h pos) rfl hh ((if_pos (by simpa using hm)).trans (by rw [heard_plan, hp]))⟩,
    fun m h s hh hd hm ha hk hl hx h0 h1 hn => (Gives.of_frame (exec_superframe h s) rfl hh rfl).shows fun _ _ =>
      superframe_kept (m := m.heard h) h hd (by simpa using hm) (by simpa using ha) hk hl hx h0 h1 (by simpa using hn),
    fun m p hp hm ha hb hn hq => ⟨_, _, rfl, rfl, .of_on exec_superframeSend (superframeSend_fallback hp hm ha hb hn hq rfl rfl)⟩,
    fun m hm hf hs ht => .of_eq exec_holdoverEntry (if_pos (by simp [hm, hf, hs, ht])) fun _ _ => rfl,
    -- Mastership (chapter 11)
    fun m h t pos tk hh ha hc hm => .of_frame (exec_claim h t pos tk) rfl hh
      ((claimFrame_above h tk (by simpa using ha) (by simp [hc]) rfl).trans (by simp [hm])),
    fun m p hp hm hc hs ho ht he hw => .of_on exec_mastershipClaim (claimMastership_due hp hm hc hs ho ht he hw),
    fun m c p hc hp hs ht hm he hn => ⟨_, m.mastered c.term, rfl, rfl, .of_on exec_becomeMaster (becomeMaster_unmastered hc hp hs ht hm he hn)⟩,
    fun m c hc hp ht => .of_eq exec_claimExpiry ((claimExpiry_at hc).trans (if_pos ⟨hp, ht⟩)) fun _ _ => rfl,
    fun m t q hs hm ht hr => .of_eq exec_masterStepDown ((masterStepDown_due hs hm ht).trans (stepDownNow_alone t q hr))
      fun _ _ => ⟨rfl, rfl, rfl⟩,
    fun m p hp hm => .of_on exec_moduleDeclaredLeft (declareMissing_master hp hm),
    -- Hall steps, slices and generations (chapter 11)
    fun m rs hc hd hr ht hv ha => .of_on exec_hallStep ((hallStep_table hc hd hr ht).trans (if_neg (by simp [hv, ha]))),
    fun m h sum hh hd hm hc => (Gives.of_frame (exec_partialSums h _ 0 levelProposals 0 false sum) rfl hh
      (partialFrame_proposals h 0 0 false sum hd hm hc)).shows fun _ _ => rfl,
    fun m h r slice st hh hd ho hr hb => ⟨_, rfl, .of_frame (exec_sliceCopy h slice 0 1 st) rfl hh (sliceCopyFrame_single h st hd ho hr hb)⟩,
    fun m => .of_eq exec_sliceCopyRestart rfl fun _ _ => rfl,
    fun m h g i data hh hd hg hn hi a ha => .of_frame (exec_gen h g i data) rfl hh
      ((genFrame_first h i data hd hg hn rfl).trans ((if_pos hi).trans (congrArg Mach.trainsBeside ha.symm))),
    fun m h i k held hh hd hl => .of_frame (exec_xferAck h (some i) k held) rfl hh ((xferAckFrame_slice h i k held hd).trans (if_pos hl)),
    fun m g h hk hl hd hp => .of_eq exec_generationComplete (generationComplete_keeps h hk hl hd hp) fun _ _ => rfl,
    -- The cell ring (chapter 12)
    fun m h hc hs => .of_eq exec_cellSweepStart (sweepStart_alone h hc hs) fun _ _ p hp hst hl => ((sweeps_port m hp).2 hst hl).1,
    fun m p a b s hs hr => .of_on (exec_ringSampleReturn p _ a b) (sampleReturn_intact a b hs hr),
    fun m p s u hs hv hf hn ho ht => .of_on (exec_ringRead p false) (ringRead_opens hs hv hf hn ho ht),
    fun m p u t ht ho => .of_on (exec_ringReadTimeout p false)
      ((readTimeout_open (fromB := false) ho).trans ((if_neg (Nat.not_lt.mpr ht)).trans (if_pos rfl))),
    fun m p s d r u hs hc hv hd hw hr hu ht => .of_eq (exec_ringData p d) rfl fun _ _ => ringData_taken hs hc hv hd hw hr hu ht,
    fun m p s hs hb hr => .of_on (exec_balSend p) (balSend_due hs hb hr),
    fun m h => .of_eq exec_stopbal rfl fun _ _ => ⟨sendStopbal_asked h, fun p hp hb hl => (sendStopbal_port h hp).2 hb hl⟩,
    fun m p s k hp hs ht ho hr hk => have ⟨r, he⟩ := cellPublish_bad (publishes_one hp hs ht ho) hr
      ⟨r, .of_on exec_cellRingPublish (hk ▸ he)⟩,
    -- Forecaster and training (chapter 09)
    fun m hc hl ht hp hr hen k w hk hb hd he hs hw => .of_on exec_forecastRunStart (startUpdate_starts hc hl ht hp hr hen hk hb hd he hs hw),
    fun m k r hr ht hf hk hg hd => .of_on exec_forecastPublish (publishForecast_publishes hr ht hf hk hg hd),
    fun m hr hc hp => .of_on exec_initialEncodingDone ((if_pos (by simp [hr, hc])).trans (if_neg (by simp [hp]))),
    fun m t o ht hmod hpos hc ho hs hn hen hon htr hact => .of_eq exec_trainingCycleStart rfl fun _ _ =>
      cycleStart_begins ht hmod hpos hc ho hs hn hen hon htr hact,
    fun m t c e ht hc hlive hen hact htwo hp hlt he hs => .of_on exec_trainingCycleDone
      (cycleEnds_generation ht hc hlive hen hact htwo hp hlt he hs),
    fun m g hg hk he htwo hp => .of_eq exec_reencodeDone (reencoded_one hg hk he htwo hp) fun _ _ => rfl,
    fun m d g h hd hg ha hn => .of_on exec_generationAdopt (adoptGeneration_inTime h hd hg ha hn),
    fun m j hw hc hj hl hp => .of_eq exec_trainCapPark (trainPark_caps hw hc hj hl (.inl hp)) fun _ _ => rfl,
    -- Anvil jobs and temperatures (chapters 07, 08, 19)
    fun m h1 h2 => .of_on exec_anvilBundleIssue (anvilIssue_step h1 h2),
    fun m j hr hl => .of_on exec_anvilPreempt ((preempt_running hr).trans (if_pos hl)),
    fun m j hr hn ho hs hp hc hrep => .of_on exec_anvilRestore (restoreNext_repro hr hn ho hs hp hc hrep),
    fun m j js e o hj hp hw he hk ho => .of_on exec_anvilJobComplete (((jobComplete_first hj hp hw he).1 hk).trans (completeJob_op e ho)),
    fun m j js ds msg h hp hds hmsg hd => .of_on exec_digestHashDone ((digestDone_first h hp hds hmsg).trans (if_neg (by simp [hd]))),
    fun m t p ht hb hj => .of_on (exec_tileFault t p) (tileFault_idle p ht hb hj),
    fun m d s hd hs h => .of_eq exec_thermalStepChange rfl fun _ _ => thermalStep_phys hd hs h,
    fun m hs hd => .of_eq exec_thermalStop (thermalStop_begins hs hd) fun _ _ => ⟨rfl, rfl⟩,
    fun m hl hf => .of_eq exec_coolantInletLow (inletCold_records hl hf) fun _ _ => by simp,
    -- Lock-step (chapter 10)
    fun m d o hs hd ho => by
      subst ho
      exact .of_eq (exec_lockstepDigest true _ _ _) (lockDigestFrame_equal hs hd) fun _ _ => ⟨rfl, rfl, rfl⟩,
    fun m sc d t hd ht hs hord hdiff hj => .of_eq (exec_lockstepDivergence sc) (lockDiverge_jobless sc hd ht ⟨hs, hord, .inl hdiff⟩ hj)
      fun _ _ => ⟨rfl, rfl⟩,
    fun m hs h => .of_eq (exec_lockstepSearchDone hs) rfl fun _ _ => lockSearched_lock hs h,
    fun m h => .of_eq exec_lockstepPortDown (lockPortDown_session (.inl h)) fun _ _ => ⟨rfl, rfl, rfl⟩,
    fun m b h => .of_eq (exec_lockstepPortUp b) (if_pos h) fun _ _ => ⟨rfl, rfl⟩,
    fun m hw h => have ⟨_, _, hreset, _⟩ := lockOutcome_session hw
      .of_eq (exec_lockstepPartnerOutcome _) (hreset.trans (if_pos (.inl h))) fun _ _ => ⟨rfl, rfl⟩,
    -- ECC and stacks (chapter 07)
    fun m a l es k d hl hf => by
      subst hl
      exact ⟨fun hh => .of_on (exec_eccReadError a es) ((eccRead_found es hh).2.1 k d hf),
        fun h hh => .of_on (exec_scrubLine a es) ((scrub_found es hh).2.1 k d hf)⟩,
    fun m h => .of_eq exec_ceWindowEnd rfl fun _ _ => ceWindow_ends h,
    fun m s h hs => .of_eq (exec_stackOutOfService s h) (if_pos hs) fun _ _ => raise_stks _ _ _ _,
    fun m s cool hfit hout hb hw => .of_eq (exec_stackRetrain s true cool) (stackRetrain_first_good hfit hout cool hb hw) fun _ _ => rfl,
    fun m s top hin hlt hle hmod => .of_eq (exec_watermarkAdvance s top) (watermarkTo_rises hin hlt hle hmod) fun _ _ => rfl,
    fun m s h hfit => .of_eq (exec_stackHot s h) (if_pos hfit) fun _ _ => rfl,
    -- DMA (chapter 15)
    fun m c i hl ho => ⟨dmaChannelStart_runs hl ho, dmaChannelEnable_idles hl ho,
      fun hs hi => (Gives.of_channelWrite (exec_dmaChannelDisable c i) hl ho ((writeChCtrl_disable m i).trans (if_neg hs))).shows
        fun _ _ => dropChannel_ch (m := m.wr (.dmChCtrl i) 0) hi⟩,
    fun m i d k b w hi hs hd hl hk hj hst hw hb h0 => .of_on (exec_dmaDescriptorFetch i d) (dmaFetch_takes ⟨hi, hs, hd⟩ hl hk hj hst hw hb h0),
    fun m d i b hp h0 hin => .of_on (exec_dmaBurst d _) ((dmaBurst_picked d ⟨false, b⟩ hp (if_neg (by simp [hin])).symm).trans
      (by rw [startBurst_unpaced h0]; rfl)),
    fun m i hi hs hd hl hf hb hover => have hend := dmaDone_clean ⟨hi, hs, hd, hl, by simp [hf]⟩ hb hover
      ⟨fun hbit => .of_eq (exec_dmaDescriptorDone i) (hend.trans (if_pos hbit)) fun _ _ => startFence_ch hs,
        fun hbit => .of_on (exec_dmaDescriptorDone i) (hend.trans (if_neg (by simp [hbit])))⟩,
    fun m i hi hs hf hfail => .of_on (exec_dmaFenceDone i) ((dmaFenceDone_waits hi hs hf rfl rfl).trans (if_neg (by simp [hfail]))),
    fun m l => ⟨fun hl h => .of_eq (exec_dmaRequestLine l) (if_pos hl) fun _ _ => reqLine_first l h,
      fun x hx hl ha ht => .of_on (exec_dmaRequestWithdraw l)
        ((withdrawLine_late ⟨x, by simp [hx], hl, ha, ht⟩).trans (lineLost_single hx hl))⟩,
    fun m => (Gives.of_on exec_dmaCreditTick (n := m.creditTick) rfl).shows_ch (p := fun c x => c < 32 → x = m.credited c)
      fun _ hc => creditTick_ch m hc,
    fun m i => ⟨fun h => .of_on (exec_dmaTargetTimeout i) (if_pos h), fun h => .of_on (exec_dmaLateWriteError i) (if_pos h)⟩,
    -- The CXL port (chapter 16)
    fun m a d l bs hup hd hl hc ho => by
      subst hl
      exact ⟨fun hj => .of_eq (exec_cxlMemRead a) (memRead_answers hup hd hc ho hj) fun _ _ => ⟨rfl, rfl, rfl⟩,
        fun hj hlen hall => .of_on (exec_cxlMemWrite a bs) (memWrite_writes hup hd hc ho hj hlen hall)⟩,
    fun m s w f c e b x hp hd hm => .of_eq (exec_cxlLinkUp s w f c e b x) rfl fun _ _ => linkUp_shows c e b x hp hd hm,
    fun m h => ⟨m.unlinked, rfl, rfl, rfl, rfl, .of_on (exec_cxlLinkDown false) (linkDown_lost h)⟩,
    fun m hpa size skip hd => .of_eq (exec_hdmDecoderCommit 0 hpa size skip 1) ((hdmCommit_zero m hpa size skip 1).1 rfl hd) fun _ _ => rfl,
    fun m c a h d hj hs ho => .of_eq (exec_hostWindowAccess c a true d 0)
      ((hostAccess_permitted 0 hj hs).trans ((if_neg (by simp [ho])).trans (if_pos rfl))) fun _ _ => ⟨rfl, rfl⟩,
    -- Attestation and updates (chapter 17)
    fun m r hp hl h => (Gives.of_doe (exec_getVersion r) ⟨hp, hl⟩ (spdmVersion_starts m h rfl)).shows fun _ _ => ⟨rfl, rfl⟩,
    fun m r hp hl h hv => (Gives.of_doe (exec_getCapabilities r) ⟨hp, hl⟩ (spdmCapabilities_takes h hv rfl)).shows fun _ _ => ⟨rfl, rfl, rfl⟩,
    fun m r hp hl h hv hc => (Gives.of_doe (exec_negotiateAlgorithms r) ⟨hp, hl⟩ (spdmNegotiate_opens h hv hc)).shows fun _ _ => rfl,
    fun m r hp hl hph hv hc => ⟨(Gives.of_doe (exec_getDigests r) ⟨hp, hl⟩ (spdmDigests_answers hph hv rfl)).shows fun _ _ => rfl,
      fun h0 hlt => (Gives.of_doe (exec_getCertificate r) ⟨hp, hl⟩ (spdmCertificate_answers hph hv hc h0 hlt rfl rfl)).shows
        fun _ _ => ⟨_, rfl, rfl⟩,
      fun h0 => (Gives.of_doe (exec_challenge r) ⟨hp, hl⟩ (spdmChallenge_answers hph hv hc h0 rfl rfl rfl)).shows fun _ _ => rfl,
      fun h1 h2 => (Gives.of_doe (exec_getMeasurements r) ⟨hp, hl⟩ rfl).shows fun _ _ => spdmMeasurements_none hph hv h1 h2⟩,
    fun m r code hp hl hcode => (Gives.of_doe (exec_spdmUnsupportedRequest code r) ⟨hp, hl⟩ (if_neg hcode)).shows fun _ _ => rfl,
    fun m c hl hc hs hp =>
      ⟨fun hk hj => (Gives.of_updAction 1 (exec_stage c) (by decide) (by decide) hl hc hs (updStage_noKind hp hk hj)).shows
          fun _ _ => ⟨rfl, rfl⟩,
        fun ht => (Gives.of_updAction 2 (exec_updCommit c) (by decide) (by decide) hl hc hs rfl).shows fun _ _ => updCommit_app hp ht,
        fun h => (Gives.of_updAction 3 (exec_discard c) (by decide) (by decide) hl hc hs rfl).shows fun _ _ => updDiscard_staged hp h,
        fun ht ho => (Gives.of_updAction 4 (exec_token c) (by decide) (by decide) hl hc hs rfl).shows fun _ _ => updToken_starts hp ht ho,
        fun ht => (Gives.of_updAction 5 (exec_endTest c) (by decide) (by decide) hl hc hs rfl).shows fun _ _ => updEndTest_ends hp ht⟩,
    fun m j st hj hv => .of_eq exec_stageDone rfl fun _ _ => stageDone_refused hj hv,
    -- The recorder (chapter 18)
    fun m r rs hm hf hq => .of_eq exec_eventRecordStore (storeRecord_stores hm hf hq) fun _ _ => by simp [reqLine_ev],
    fun m => ⟨fun hp hn => .of_eq exec_freezeEffect (freezeEffect_freezes hp hn) fun _ _ => ⟨rfl, rfl⟩,
      fun hf hi => .of_on exec_autoThaw (autoThaw_thaws hf hi)⟩,
    -- Configuration transactions and launched commits (chapter 03)
    fun m p h hs hl => (Gives.of_served (exec_cfgCommit p) (by decide) h (opCfgCommit_opened _ _ hs hl)).shows fun _ _ => ⟨rfl, rfl, rfl, rfl⟩,
    fun m k rt hs hc ha hw hn hk hv => by
      subst hk
      exact .of_eq exec_commitValidation (commitWindow_passes hs hc ha hw hn rfl hv) fun _ _ => ⟨rfl, hs, rfl⟩,
    fun m rt l a hs hc ha hd => .of_on exec_commitApply (congrArg Mach.readiness (applyCommit_due hs hc ha hd)),
    fun m hs ha => .of_eq exec_transactionTimeout rfl fun _ _ => have h := txnTimeout_txn hs ha
      ⟨h, congrArg TxnSt.state h⟩,
    fun m i l c h hs ha hn hc => .of_eq exec_launchRevalidate rfl fun _ _ => ⟨revalidate_slot h hs ha hn hc, List.length_map _⟩,
    -- The flash of the recorder (chapter 18)
    fun m => .of_eq exec_flashWriteFail rfl fun _ _ => flashFail_retired m⟩

end Sys2Proof.Machine
end
